-- ==== Sys2Proof/Word.lean ====
section
/-! DEFINITION. Word types and the plainest bit and byte arithmetic. -/

namespace Sys2Proof

/-- A doubleword: general registers and 64-bit control registers. -/
abbrev Word := BitVec 64
/-- One byte of memory (spec/00 R11). -/
abbrev Byte := BitVec 8
/-- A tile of the device: 0–95 ledger tiles, 96–99 keystone tiles 0–3. -/
abbrev TileId := Fin 100
/-- A course of the device (spec/01 R17). -/
abbrev CourseId := Fin 12
/-- A Mortar link of the device. -/
abbrev LinkId := Fin 16
/-- A 64-byte ticket; byte 00h is bits [511:504] (spec/00 R11, spec/10 Layout 10-2). -/
abbrev Ticket := BitVec 512

/-- Bits [hi:lo] of a bit vector as a number. -/
def bitsNat {w : Nat} (x : BitVec w) (hi lo : Nat) : Nat :=
  (x.toNat / 2 ^ lo) % 2 ^ (hi + 1 - lo)

/-- Replace `n` bits of `x` from bit `lo` by the low `n` bits of `v`. -/
def setBits (x : Word) (lo n v : Nat) : Word :=
  let mask : Word := BitVec.ofNat 64 ((2 ^ n - 1) * 2 ^ lo)
  (x &&& ~~~mask) ||| (BitVec.ofNat 64 ((v % 2 ^ n) * 2 ^ lo))

/-- One bit of a bit vector set or cleared. -/
def setBit (x : Word) (i : Nat) (b : Bool) : Word :=
  setBits x i 1 (if b then 1 else 0)

/-- `⌈a / b⌉`. -/
def ceilDiv (a b : Nat) : Nat := (a + b - 1) / b

/-- The bytes of a number, most significant first (spec/00 R11). -/
def beBytes : Nat → Nat → List Byte
  | 0, _ => []
  | n + 1, v => BitVec.ofNat 8 (v / 256 ^ n) :: beBytes n v

/-- The number that a list of bytes spells, most significant first (spec/00 R11). -/
def ofBytes (bs : List Byte) : Nat :=
  bs.foldl (fun a b => a * 256 + b.toNat) 0

/-- A number as a signed `w`-bit value. -/
def signedOf (w v : Nat) : Int := (BitVec.ofNat w v).toInt

/-- 1 or 0. -/
def b2n (b : Bool) : Nat := if b then 1 else 0

/-- A number saturated at the greatest `w`-bit value. -/
def satNat (w v : Nat) : Nat := min v (2 ^ w - 1)

end Sys2Proof
end

