-- ==== Sys2Proof/Config.lean ====
section
/-! DEFINITION. What the spec leaves free: the opaque values, and fixed counts of the part. -/

namespace Sys2Proof.Config

/-- A value that the spec calls undefined (spec/00 R9) or does not give. Nothing constrains it: the
`n`-th value drawn, of any width. The model draws with `State.freeCtr`. Log entry 5. -/
opaque freeValue : Nat → (w : Nat) → BitVec w

/-- Where the failed buddy's pool `n` started: no message of the spec carries it, so nothing constrains it (spec/11
R367: its replica pool holds the pool frame for frame). Log entry 20. -/
opaque peerPoolBase (n : Nat) : Nat

/-- The buddy of another device, to which an acknowledgement is sent as well: no message tells it (spec/11 R369). Log
entry 23. -/
opaque peerBuddy (d : BitVec 9) : Option (BitVec 9)

/-- An entry of another device's slice makes a device a static home (spec/10 R297, R340): no message tells it. Log entry
100. -/
opaque staticElsewhere (n : Nat) (d : BitVec 9) : Bool

/-- A device that this one knows neither from the partition map nor from a link nor from its slice is a forerunner (spec/10 R341):
no message tells it. Log entry 100. -/
opaque forerunnerAt (d : BitVec 9) : Bool

/-- The replica place of a brick whose slice is neither here nor on the buddy (spec/11 R367): no message tells it. Log entry
26. -/
opaque replicaOf (key : Word) (n : Nat) : Nat

/-- Bytes of a cache line (spec/01 R22). -/
def lineBytes : Nat := 128
/-- Before-image slots of a course (spec/11 R349). -/
def slotsPerCourse : Nat := 1040
/-- Entries of a course run queue (spec/10 R313), and the limit for newly admitted tickets. -/
def runQueueLimit : Nat := 1016
/-- Bytes of the Heartwood ring (spec/11 R362). -/
def ringBytes : Nat := 2 ^ 29
/-- Tickets that the staging area holds (spec/10 Table 10-16). -/
def stagingTickets : Nat := 2 ^ 23
/-- Slots of the pending store (spec/10 Layout 10-10). -/
def pendingSlots : Nat := 2 ^ 20
/-- Entries of the directory cache (spec/10 R321). -/
def dirCache : Nat := 262144
/-- Entries of the tombstone table (spec/10 R333). -/
def tombstones : Nat := 16384
/-- Bytes of records that a Rings recorder buffers (spec/14 R441). -/
def ringsBufBytes : Nat := 65536

end Sys2Proof.Config
end

