-- ==== Sys2Proof/Syntax.lean ====
section
/-! DEFINITION. The commands: one constructor per row of spec/opcode_table.json, with operand types. -/

namespace Sys2Proof

/-- Who makes a control-space access; gives the SRC code of the error log (spec/13 Layout 13-6). -/
inductive Agent where
  | tile (t : TileId) | smbus | jtag | block
  deriving DecidableEq, Repr

/-- Width of a scalar access. -/
inductive Size where
  | b1 | b2 | b4 | b8
  deriving DecidableEq, Repr

/-- A guard: bits [31:28] of an instruction word (spec/02 R65). -/
structure Guard where
  inv : Bool
  pred : BitVec 3
  deriving DecidableEq, Repr

/-- Major 00h functions that raise nothing (spec/02 Table 2-15). -/
inductive IntFn where
  | add | sub | and | or | xor | andn | shl | shr | sar | rot | mul | mulhu | mulhs
  | clz | popc | sextb | sexth | sextw | sel (n : BitVec 3)
  deriving DecidableEq, Repr

/-- Overflow-checking functions (spec/02 R74). -/
inductive OvFn where
  | addv | subv | mulv
  deriving DecidableEq, Repr

/-- Immediate forms (spec/02, below Table 2-15). -/
inductive ImmFn where
  | addi | andi | ori | xori | shli | shri | sari | roti
  deriving DecidableEq, Repr

/-- Register compare conditions (spec/02 Table 2-16). -/
inductive CmpFn where
  | eq | ne | lt | le | ltu | leu
  deriving DecidableEq, Repr

/-- Immediate compare conditions (spec/02 Table 2-16). -/
inductive CmpiFn where
  | eq | ne | lt | le | ltu | leu | gt | gtu
  deriving DecidableEq, Repr

/-- Scalar load forms. -/
inductive LoadFn where
  | ldb | ldbu | ldh | ldhu | ldw | ldwu | ldd
  deriving DecidableEq, Repr

/-- M-format base and displacement, or an indexed form (spec/02 Table 2-17). -/
inductive MemRef where
  | mform (base : BitVec 4) (disp : BitVec 12)
  | indexed (ra rb : BitVec 5)
  deriving DecidableEq, Repr

/-- Decimal compare conditions (spec/04 Table 4-11). -/
inductive DecCond where
  | eq | ne | lt | le | gt | ge
  deriving DecidableEq, Repr

/-- Rounding field of DSHR (spec/04 Layout 4-12). -/
inductive RndSel where
  | halfUp | halfEven | truncate | dctl
  deriving DecidableEq, Repr

/-- A rounding mode (spec/04 Table 4-8). -/
inductive Rnd where
  | halfUp | halfEven | truncate
  deriving DecidableEq, Repr

/-- Binary element types of a Kiln register (spec/06 Layout 6-1). -/
inductive ElemB where
  | b8 | b16 | b32 | b64
  deriving DecidableEq, Repr

/-- Binary lane operations (spec/06 Table 6-5). -/
inductive KBin where
  | add | sub | mul | mulw | dot | and | or | xor | shl | shr | sar | min | max | cmpeq | cmplt | cmpltu
  deriving DecidableEq, Repr

/-- Decimal lane operations (spec/06 Table 6-5). -/
inductive KDec where
  | add | sub | mul | shr (r : Rnd) (n : BitVec 5) | shl (n : BitVec 5) | neg | abs
  deriving DecidableEq, Repr

/-- Decimal lane compares. -/
inductive KDCmp where
  | eq | lt | le
  deriving DecidableEq, Repr

/-- FP32 lane operations. -/
inductive KFp where
  | add | sub | mul | fma | min | max | cvtws | cvtsw | cmpeq | cmplt | cmple | cmpun
  deriving DecidableEq, Repr

/-- Mask logic. -/
inductive KMask where
  | and | or | xor | andn
  deriving DecidableEq, Repr

/-- A Kiln instruction as the tile decodes it (spec/06 Layout 6-4, Tables 6-5 and 6-6), the waits apart. -/
inductive KOp where
  | bin (f : KBin) (e : ElemB) (vd va vb : BitVec 5) (m : BitVec 2)
  | dec (f : KDec) (d32 : Bool) (vd va vb : BitVec 5) (m : BitVec 2)
  | ddot (vd va vb : BitVec 5) (m : BitVec 2)
  | dmulw (vd va vb : BitVec 5) (m : BitVec 2)
  | dsum (vd va : BitVec 5) (m : BitVec 2)
  | dwid (vd va : BitVec 5) (m : BitVec 2)
  | dnar (vd va : BitVec 5) (m : BitVec 2)
  | dcmp (c : KDCmp) (d32 : Bool) (md : BitVec 3) (va vb : BitVec 5) (m : BitVec 2)
  | dval (d32 : Bool) (md : BitVec 3) (va : BitVec 5) (m : BitVec 2)
  | fp (f : KFp) (vd va vb : BitVec 5) (m : BitVec 2)
  | ld (vd ga : BitVec 5) (m : BitVec 2)
  | st (vs ga : BitVec 5) (m : BitVec 2)
  | ldk (k : BitVec 3) (vd ga : BitVec 5) (w : BitVec 2) (m : BitVec 2)
  | stk (k : BitVec 3) (vs ga : BitVec 5) (w : BitVec 2) (m : BitVec 2)
  | ldx (w : BitVec 2) (vd ga vb : BitVec 5) (m : BitVec 2)
  | stx (w : BitVec 2) (vs ga vb : BitVec 5) (m : BitVec 2)
  | ldm (md : BitVec 3) (ga : BitVec 5)
  | stm (ms : BitVec 3) (ga : BitVec 5)
  | msetn (md : BitVec 3) (ga : BitVec 5)
  | brdB (e : ElemB) (vd ga : BitVec 5) (m : BitVec 2)
  | brdD (d32 : Bool) (vd : BitVec 5) (da : BitVec 4) (m : BitVec 2)
  | mov (vd va : BitVec 5) (m : BitVec 2)
  | mts (ga : BitVec 5)
  | mtc (ga : BitVec 5)
  | mlogic (f : KMask) (md ma mb : BitVec 3)
  deriving DecidableEq, Repr

/-- FADD, FSUB, FMUL. -/
inductive FArith where
  | fadd | fsub | fmul
  deriving DecidableEq, Repr

/-- Conversions (spec/07 Table 7-3). -/
inductive FCvtFn where
  | ws | sw | ls | sl
  deriving DecidableEq, Repr

/-- FP compares. -/
inductive FCmpFn where
  | eq | lt | le | un
  deriving DecidableEq, Repr

/-- Requests that the root complex does not support (spec/16 Table 16-8). -/
inductive PcieOther where
  | io | atomicOp | ats | pasid | pri
  deriving DecidableEq, Repr

/-- What a PCI Express requester sends: a memory request, a request of Table 16-8 that is not supported, an INTx message, a
correctable error on its way, or a request whose ECRC is wrong (spec/16 Table 16-8). -/
inductive PcieReq where
  | read (n : Nat)
  | write (data : List Byte)
  | other (k : PcieOther)
  | intx
  | correctable
  | badEcrc (req : PcieReq)
  deriving DecidableEq, Repr

/-- What a read of a memory controller finds (spec/09 R295). -/
inductive Ecc where
  | clean | corrected | uncorrectable
  deriving DecidableEq, Repr

/-- Conditions of a checkstop with REASON 03h (spec/13 Table 13-15). -/
inductive CsCond where
  | bank | tagArray | controlStore | emergency
  deriving DecidableEq, Repr

/-- The PLLs of the device (spec/01 Table 1-6). -/
inductive Pll where
  | core | mem | hbm | pcie | mortar
  deriving DecidableEq, Repr

/-- What the SPD of a DIMM shows (spec/16 R477, R478): a registered DIMM with ECC, x4 devices, its ranks, its capacity in GiB and
the highest DDR5 speed it supports at the number of DIMMs per channel present. -/
structure Spd where
  registered : Bool
  ecc : Bool
  x4 : Bool
  ranks : Nat
  capGiB : Nat
  speed : Nat
  deriving DecidableEq, Repr

/-- The two DIMM positions of a channel. -/
structure DimmPair where
  d0 : Option Spd
  d1 : Option Spd
  deriving DecidableEq, Repr

/-- What a training finds: the training itself succeeds, and the DIMMs of every channel of the device by their SPD. -/
structure Dimms where
  ok : Bool
  chans : Vector DimmPair 8
  deriving DecidableEq, Repr

/-- Whether the image of each boot-flash slot can be read into the boot window (spec/15 Sequence 15-5, step 4). -/
structure FlashReads where
  a : Bool
  b : Bool
  deriving DecidableEq, Repr

/-- What a strap land is tied to (spec/16 R501). -/
inductive Strap where
  | low | high | opened
  deriving DecidableEq, Repr

/-- Two strap lands, the more significant first. -/
structure StrapPair where
  hi : Strap
  lo : Strap
  deriving DecidableEq, Repr

/-- A transfer of an SMBus host that is none of the commands of Table 16-12: its address, its command code and whether its
packet error code is wrong (spec/16 R488, R489). -/
structure SmbTransfer where
  addr : BitVec 7
  code : Byte
  pecBad : Bool
  deriving DecidableEq, Repr

/-- The signals of Table 16-6 that the boundary-scan register covers (spec/16 R491). -/
inductive Signal where
  | ddr (c : Fin 8) (pos : Fin 155)
  | ppsIn | powerGood | resetN | thermtripN | pwrEn | smbClk | smbDat | smbAlertN | spiClk | spiCsN
  | smbAddr (i : Fin 2) | i2cScl (bus : Fin 2) | i2cSda (bus : Fin 2) | spiIo (i : Fin 4)
  | perst (p : Fin 2) (k : Fin 4) | bifLand (p : Fin 2) (i : Fin 2)
  deriving DecidableEq, Repr

/-- A unit received on a link: an M2 flit as its 256 bytes, or the content of an M1 frame or control symbol
(spec/12 Layout 12-7, R399). -/
inductive RxUnit where
  | flit (raw : BitVec 2048)
  | frame (crcOk : Bool) (vc : BitVec 2) (words : List Word) (crVc : BitVec 2) (crCnt : Nat)
  deriving DecidableEq, Repr

/-- A step of link training (spec/12 Sequence 12-4). -/
inductive TrainStep where
  | detect | nrz | nego | eq | verify
  deriving DecidableEq, Repr

/-- The format of a TICKET message (spec/12 R412): T1, or T2 with the entry that the slice device attached (spec/10 Table 10-9);
0: none. -/
inductive TicketForm where
  | t1 | t2 (entry : Word)
  deriving DecidableEq, Repr

/-- An event by which a migration advances (spec/10 Sequence 10-12), or CAND and AFF of a copy that left its home's cache (R320):
the content of a MIGC message. -/
inductive MigMsg where
  | request (key : Word) (dest : BitVec 9) (create : Option (BitVec 4)) (entry : Word)
  | start (key : Word) (pool : BitVec 4) (pin : Bool) (mirrored : Bool)
  | alloc (key : Word) (frame : BitVec 29) (course : BitVec 4)
  | noFrame (key : Word)
  | copied (key : Word)
  | commit (key : Word) (entry : Word)
  | committed (key : Word)
  | abort (key : Word)
  | refuse (key : Word) (status : BitVec 8)
  | aff (key : Word) (entry : Word)
  deriving DecidableEq, Repr

/-- A brick command carried on VC1 (spec/10 R344). One that the slice device sends to the home carries the slice entry, as a
ticket does (Table 10-9); 0: none. -/
inductive BrickCmd where
  | pin (entry : Word) | unpin (entry : Word) | hint (dev : BitVec 9) (course : BitVec 4) (entry : Word) | lookup
  | del (entry : Word) | staticDef (dev : BitVec 9)
  | reply (status : BitVec 8) (res : Word)
  deriving DecidableEq, Repr

/-- The commands of spec/opcode_table.json, one constructor per row, in the table's order. -/
inductive Instr where
  | registerWrite (a : Agent) (ca : BitVec 20) (sz : Size) (v : Word)
  | devPlaceWrite (a : Agent) (v : Word)
  | unassignedPageAccess (a : Agent) (ca : BitVec 20) (write : Bool) (sz : Size)
  | unclockedPageAccess (a : Agent) (ca : BitVec 20) (write : Bool) (sz : Size)
  | remoteWriteTakesEffect (page : BitVec 8)
  | evsnapSnap (a : Agent) (v : Word)
  | evsnapHold (a : Agent) (v : Word)
  | evsnapRelease (a : Agent) (v : Word)
  | remoteSnapshotCapture (page : BitVec 8)
  | statSet (a : Agent) (page : BitVec 8) (v : Word)
  | ienaWrite (a : Agent) (page : BitVec 8) (v : Word)
  | undefinedCommand (a : Agent) (page : BitVec 8) (code : BitVec 8)
  | mcQueuePop (a : Agent) (v : Word)
  | timerExpiry (t : TileId)
  | interruptAccept (t : TileId)
  | tileCheckstop (t : TileId) (cond : CsCond)
  | efdataWrite (t : TileId) (g : Guard) (ra : BitVec 5)
  | dbellSet (a : Agent) (target : TileId) (v : Word)
  | ipiSet (a : Agent) (target : TileId) (v : Word)
  | integerOp (t : TileId) (g : Guard) (f : IntFn) (rd ra rb : BitVec 5)
  | addvSubvMulv (t : TileId) (g : Guard) (f : OvFn) (rd ra rb : BitVec 5)
  | immediateOp (t : TileId) (g : Guard) (f : ImmFn) (rd ra : BitVec 5) (imm : BitVec 11)
  | movz (t : TileId) (g : Guard) (k : BitVec 2) (rd : BitVec 5) (imm : BitVec 16)
  | movk (t : TileId) (g : Guard) (k : BitVec 2) (rd : BitVec 5) (imm : BitVec 16)
  | cmp (t : TileId) (g : Guard) (f : CmpFn) (pd : BitVec 3) (ra rb : BitVec 5)
  | cmpi (t : TileId) (g : Guard) (f : CmpiFn) (pd : BitVec 3) (ra : BitVec 5) (imm : BitVec 11)
  | plog (t : TileId) (g : Guard) (pd pa pb : BitVec 3) (tt : BitVec 4)
  | load (t : TileId) (g : Guard) (f : LoadFn) (rt : BitVec 5) (m : MemRef) (hit : Bool)
  | store (t : TileId) (g : Guard) (sz : Size) (rt : BitVec 5) (m : MemRef)
  | loadMissComplete (t : TileId) (i : Fin 4)
  | storeBufferDrain (t : TileId)
  | br (t : TileId) (g : Guard) (off : BitVec 18)
  | bl (t : TileId) (g : Guard) (off : BitVec 18)
  | jmp (t : TileId) (g : Guard) (ra : BitVec 5)
  | jl (t : TileId) (g : Guard) (rd ra : BitVec 5)
  | mfbb (t : TileId) (g : Guard) (rd : BitVec 5) (k : Fin 4)
  | mfsys (t : TileId) (g : Guard) (rd : BitVec 5) (num : BitVec 11)
  | mtsys (t : TileId) (g : Guard) (num : BitVec 11) (ra : BitVec 5)
  | bwdataAccess (t : TileId) (g : Guard) (write : Bool) (r : BitVec 5)
  | sws (t : TileId) (g : Guard) (pd : BitVec 3) (ra : BitVec 5)
  | yield (t : TileId) (g : Guard)
  | sessionFillDone (c : CourseId)
  | trap (t : TileId) (g : Guard) (n : BitVec 12)
  | kcall (t : TileId) (g : Guard) (n : BitVec 12)
  | rete (t : TileId) (g : Guard)
  | ifence (t : TileId) (g : Guard)
  | divsuDivss (t : TileId) (g : Guard) (sgn : Bool) (rd ra : BitVec 5)
  | dstep (t : TileId) (g : Guard) (sgn : Bool) (rd rb : BitVec 5)
  | divfin (t : TileId) (g : Guard) (sgn : Bool) (rd ra rb : BitVec 5)
  | dadd (t : TileId) (g : Guard) (ft : Bool) (dd da db : BitVec 4)
  | dsub (t : TileId) (g : Guard) (ft : Bool) (dd da db : BitVec 4)
  | dmul (t : TileId) (g : Guard) (ft : Bool) (dd da db : BitVec 4)
  | dmulw (t : TileId) (g : Guard) (ft : Bool) (dp da db : BitVec 4)
  | ddivs (t : TileId) (g : Guard) (ft : Bool) (dq dp dv : BitVec 4)
  | daddw (t : TileId) (g : Guard) (dp dpa dpb : BitVec 4)
  | dsubw (t : TileId) (g : Guard) (dp dpa dpb : BitVec 4)
  | dnarw (t : TileId) (g : Guard) (dd dpa : BitVec 4)
  | dmov (t : TileId) (g : Guard) (dd da : BitVec 4)
  | dneg (t : TileId) (g : Guard) (dd da : BitVec 4)
  | dabs (t : TileId) (g : Guard) (dd da : BitVec 4)
  | dcmp (t : TileId) (g : Guard) (ft : Bool) (c : DecCond) (pd : BitVec 3) (da db : BitVec 4)
  | dshr (t : TileId) (g : Guard) (ft : Bool) (rm : RndSel) (dd da : BitVec 4) (n : BitVec 5)
  | dshl (t : TileId) (g : Guard) (ft : Bool) (rm : RndSel) (dd da : BitVec 4) (n : BitVec 5)
  | cvbd (t : TileId) (g : Guard) (dd : BitVec 4) (ga : BitVec 5) (n : BitVec 5)
  | cvdb (t : TileId) (g : Guard) (gd : BitVec 5) (da : BitVec 4) (n : BitVec 5)
  | dmfr (t : TileId) (g : Guard) (gd : BitVec 5) (da : BitVec 4) (low : Bool)
  | dmtr (t : TileId) (g : Guard) (dd : BitVec 4) (ga gb : BitVec 5)
  | dld (t : TileId) (g : Guard) (len : BitVec 3) (dd : BitVec 4) (base : BitVec 4) (disp : BitVec 12)
  | dst (t : TileId) (g : Guard) (len : BitVec 3) (ds : BitVec 4) (base : BitVec 4) (disp : BitVec 12)
  | daddm (t : TileId) (g : Guard) (len : BitVec 2) (dd : BitVec 4) (base : BitVec 4) (disp : BitVec 12)
  | dldx (t : TileId) (g : Guard) (dd : BitVec 4) (ga gb : BitVec 5)
  | dstx (t : TileId) (g : Guard) (ds : BitVec 4) (ga gb : BitVec 5)
  | mvs (t : TileId) (g : Guard) (ft : Bool) (ra rb rl : BitVec 5)
  | mvsr (t : TileId) (g : Guard) (ft : Bool) (ra rb rl : BitVec 5)
  | cps (t : TileId) (g : Guard) (ft : Bool) (pd : BitVec 3) (rx ra rb rl : BitVec 5)
  | srch (t : TileId) (g : Guard) (ne : Bool) (pd : BitVec 3) (ra rl : BitVec 5) (c : Byte)
  | trs (t : TileId) (g : Guard) (ft : Bool) (ra rb rl : BitVec 5)
  | tts (t : TileId) (g : Guard) (ft : Bool) (pd : BitVec 3) (rx ra rb rl : BitVec 5)
  | edt (t : TileId) (g : Guard) (ft : Bool) (ra rb rl : BitVec 5)
  | edtm (t : TileId) (g : Guard) (ft : Bool) (rx ra rb rl : BitVec 5)
  | chkdV (t : TileId) (g : Guard) (ft : Bool) (pd : BitVec 3) (ra rl : BitVec 5)
  | chkdG (t : TileId) (g : Guard) (ft : Bool) (rx ra rl : BitVec 5)
  | bmap (t : TileId) (g : Guard) (pd : BitVec 3) (rx ra rl : BitVec 5)
  | kilnEnqueue (t : TileId) (g : Guard) (op : KOp)
  | kilnBinaryOp (t : TileId) (ue : Bool)
  | kilnDecimalOp (t : TileId)
  | vddot (t : TileId)
  | vdmulw (t : TileId)
  | vdsum (t : TileId)
  | vdwid (t : TileId)
  | vdnar (t : TileId)
  | vdcmp (t : TileId)
  | vdval (t : TileId)
  | kilnFpOp (t : TileId)
  | vldVst (t : TileId)
  | vldkVstk (t : TileId)
  | vldxVstx (t : TileId)
  | vldmVstm (t : TileId)
  | kilnMemoryComplete (t : TileId)
  | vmsetn (t : TileId)
  | vbrd (t : TileId)
  | vmov (t : TileId)
  | vmts (t : TileId)
  | vmtc (t : TileId)
  | maskLogic (t : TileId)
  | vsync (t : TileId) (g : Guard)
  | vmpop (t : TileId) (g : Guard) (gd : BitVec 5) (ma : BitVec 3)
  | vmfs (t : TileId) (g : Guard) (gd : BitVec 5)
  | vmfc (t : TileId) (g : Guard) (gd : BitVec 5)
  | faddFsubFmul (t : TileId) (g : Guard) (f : FArith) (rd ra rb : BitVec 5)
  | fminFmax (t : TileId) (g : Guard) (max : Bool) (rd ra rb : BitVec 5)
  | fnegFabs (t : TileId) (g : Guard) (abs : Bool) (rd ra : BitVec 5)
  | fcvt (t : TileId) (g : Guard) (f : FCvtFn) (rd ra : BitVec 5)
  | fcmp (t : TileId) (g : Guard) (f : FCmpFn) (pd : BitVec 3) (ra rb : BitVec 5)
  | fma (t : TileId) (g : Guard) (rd ra rb : BitVec 5)
  | fdivs (t : TileId) (g : Guard) (rd ra rb : BitVec 5)
  | fdstep (t : TileId) (g : Guard) (rd rb : BitVec 5)
  | fdfin (t : TileId) (g : Guard) (rd : BitVec 5)
  | flds (t : TileId) (g : Guard) (rt : BitVec 5) (base : BitVec 4) (disp : BitVec 12) (hit : Bool)
  | fsts (t : TileId) (g : Guard) (rt : BitVec 5) (base : BitVec 4) (disp : BitVec 12)
  | fsync (t : TileId) (g : Guard)
  | caswCasd (t : TileId) (g : Guard) (dbl : Bool) (rd ra rb : BitVec 5)
  | fetaddwFetaddd (t : TileId) (g : Guard) (dbl : Bool) (rd ra rb : BitVec 5)
  | fence (t : TileId) (g : Guard)
  | icinv (t : TileId) (g : Guard) (ra : BitVec 5)
  | dccln (t : TileId) (g : Guard) (ra : BitVec 5)
  | dcfls (t : TileId) (g : Guard) (ra : BitVec 5)
  | dcz (t : TileId) (g : Guard) (ra : BitVec 5)
  | tlbia (t : TileId) (g : Guard) (ra rb : BitVec 5)
  | tlbit (t : TileId) (g : Guard) (ra : BitVec 5)
  | tlbix (t : TileId) (g : Guard)
  | mtkrr (t : TileId) (g : Guard) (ra rb : BitVec 5)
  | mfkrr (t : TileId) (g : Guard) (rd : BitVec 5) (low : Bool)
  | pcieInboundRequest (port : Fin 2) (rid : BitVec 16) (addr : Word) (req : PcieReq)
  | msiWrite (port : Fin 2) (rid : BitVec 16) (addr : Word) (data : List Byte)
  | patrolScrubRead (ctl : Fin 9) (addr : BitVec 48) (found : Ecc)
  | ingressEntryRead (r : Fin 64)
  | ticketAdmission (arrival : Nat)
  | take (t : TileId) (g : Guard)
  | cont (t : TileId) (g : Guard) (pd : BitVec 3) (ra : BitVec 5)
  | ccntWrite (a : Agent) (r : Fin 64) (v : Word)
  | ienWrite (a : Agent) (r : Fin 64) (v : Word)
  | cenWrite (a : Agent) (r : Fin 64) (v : Word)
  | continuationResend (course : CourseId) (dest : BitVec 9) (seq : BitVec 48)
  | tombstoneExpiry (key : Word)
  | proposalLapse
  | start (a : Agent)
  | quiesce (a : Agent)
  | resume (a : Agent)
  | pmap (a : Agent)
  | pooldef (a : Agent)
  | pooldel (a : Agent)
  | sessinit (a : Agent)
  | sessfree (a : Agent)
  | spill (a : Agent)
  | pin (a : Agent)
  | unpin (a : Agent)
  | hint (a : Agent)
  | lookup (a : Agent)
  | brickdel (a : Agent)
  | staticdef (a : Agent)
  | drainc (a : Agent)
  | admitc (a : Agent)
  | migack (a : Agent)
  | post (t : TileId) (g : Guard)
  | jsync (t : TileId) (g : Guard)
  | recordDurable
  | ringFullTimeout (t : TileId)
  | mirrorTimeout
  | drainposWrite (a : Agent) (v : Word)
  | sequenceSnapshot
  | heartbeatInstant
  | resyncComplete
  | ringinit (a : Agent)
  | ringopen (a : Agent)
  | pair (a : Agent)
  | unpair (a : Agent)
  | takeover (a : Agent)
  | fenceCommand (a : Agent)
  | release (a : Agent)
  | linkTraining (k : LinkId)
  | trainingLimit (k : LinkId) (step : TrainStep)
  | nosigRetry (k : LinkId)
  | nego (k : LinkId) (n : BitVec 128)
  | flitReceive (k : LinkId) (u : RxUnit)
  | laneLockLoss (k : LinkId)
  | hb (k : LinkId) (src : BitVec 9) (state : BitVec 3) (tb : Word) (seen : Vector Word 8)
  | break_ (k : LinkId) (src : BitVec 9)
  | tkov (k : LinkId) (src failed by_ : BitVec 9)
  | treq (k : LinkId) (src : BitVec 9) (t1 corr : Word)
  | trsp (k : LinkId) (src : BitVec 9) (t1 t2 t3 corrReq corrRsp t4 : Word)
  | tann (k : LinkId) (num : BitVec 48) (root : BitVec 9)
  | tannSend
  | treqSend
  | trspTimeout
  | rootLost
  | quench (k : LinkId) (src : BitVec 9) (arg : Word)
  | unquench (k : LinkId) (src : BitVec 9) (arg : Word)
  | quenchExpiry (k : LinkId) (src : Option (BitVec 9))
  | ticketMessage (k : LinkId) (src : BitVec 9) (fwd : BitVec 4) (form : TicketForm) (tk : Ticket)
  | contMessage (k : LinkId) (src : BitVec 9) (course : BitVec 4) (seq : BitVec 48) (tk : Ticket)
  | cack (k : LinkId) (dest : BitVec 9) (src : BitVec 9) (course : BitVec 4) (seq : BitVec 48)
  | voidn (k : LinkId) (src : BitVec 9) (course : BitVec 4) (seq : BitVec 48)
  | bcmd (k : LinkId) (src : BitVec 9) (key : Word) (c : BrickCmd)
  | migc (k : LinkId) (src : BitVec 9) (m : MigMsg)
  | endmk (k : LinkId) (src : BitVec 9) (key : Word)
  | mrec (k : LinkId) (src : BitVec 9) (rec : List Byte)
  | mack (k : LinkId) (src : BitVec 9) (pos : Word)
  | drep (k : LinkId) (src : BitVec 9) (bucket : BitVec 26) (idx : Fin 8) (entry : BitVec 128)
  | dack (k : LinkId) (src : BitVec 9) (bucket : BitVec 26) (idx : Fin 8)
  | bcopy (k : LinkId) (src : BitVec 9) (key : Word) (data : List Byte)
  | rsync (k : LinkId) (src : BitVec 9) (key : Word) (data : List Byte)
  | train (a : Agent) (k : LinkId)
  | down (a : Agent) (k : LinkId)
  | retrain (a : Agent) (k : LinkId)
  | loop (a : Agent) (k : LinkId)
  | quenchCommand (a : Agent) (k : LinkId)
  | unquenchCommand (a : Agent) (k : LinkId)
  | recordBufferRoom (c : CourseId)
  | brickMapSweepDone (c : CourseId)
  | strciWrite (a : Agent) (c : CourseId) (v : Word)
  | ringsStart (a : Agent) (c : CourseId)
  | ckpt (a : Agent) (c : CourseId)
  | mark (a : Agent) (c : CourseId)
  | stop (a : Agent) (c : CourseId)
  | replay (a : Agent) (c : CourseId)
  | coldReset
  | warmReset
  | powerLoss
  | standbyReset (addr : StrapPair)
  | calendarReset
  | bootRom (density : Option Nat) (flash : List Byte) (readable : FlashReads)
  | devStart (a : Agent) (v : Word)
  | timebaseSeed
  | ddrcHbmcTrain (a : Agent) (ctl : Fin 9)
  | trainComplete (ctl : Fin 9) (d : Dimms)
  | reload (a : Agent) (c : CourseId)
  | reloadVerifyDone (c : CourseId)
  | set (a : Agent)
  | seed (a : Agent)
  | devreset (a : Agent)
  | calendarTick
  | oscStop
  | vbatSample (low : Bool)
  | ppsEdge (falling : Bool)
  | ppsLost
  | pllUnlock (p : Pll) (stops : Bool)
  | perstWrite (a : Agent) (p : Fin 2) (v : Word)
  | pcieLinkDown (p : Fin 2) (s : Fin 4)
  | spiGo (a : Agent) (v : Word)
  | spiDone (data : List Byte)
  | i2cGo (a : Agent) (v : Word)
  | i2cDone (nack : Bool) (data : Word)
  | temperatureSample (tj : BitVec 16)
  | ident
  | status
  | temp
  | poweron
  | poweroff
  | smbDevreset
  | logread
  | logpop
  | smbUndefinedCommand (x : SmbTransfer)
  | extest (bsr : List (Signal × Bool))
  | idcode
  | samplePreload (bsr : List (Signal × Bool))
  | clamp
  | highz
  | bypass
  | cpacc (addr : BitVec 48) (write : Bool) (data : Word)
  | illegalInstruction (t : TileId)
  | fenceReceived (k : LinkId) (src : BitVec 9)
  | linkUp (k : LinkId)
  | pcieLinkUp (p : Fin 2) (s : Fin 4) (gen : BitVec 3) (width : BitVec 5)
  | railWarning
  | standbyLoss
  | courseBalanceMove (key : Word) (course : CourseId)
  deriving DecidableEq, Repr

end Sys2Proof
end

