-- ==== Sys2Proof/WellFormed.lean ====
section
/-! DEFINITION. Well-formed commands: operands that the spec's encodings and protocols allow. A tile instruction that is
not well-formed still has a meaning where the spec gives one: it raises ILLEGAL (spec/00 R16). -/

namespace Sys2Proof

/-- Bytes of a size. -/
def sizeBytes : Size → Nat
  | .b1 => 1
  | .b2 => 2
  | .b4 => 4
  | .b8 => 8

/-- A control-space access is aligned to its size (spec/13 R417). -/
def alignedOk (ca : BitVec 20) (sz : Size) : Bool := decide (ca.toNat % sizeBytes sz = 0)

/-- A register pair of the division step: even, g2 to g30 (spec/03 R111, spec/07 R235). -/
def pairOk (r : BitVec 5) : Bool := r.toNat % 2 == 0 && r != 0

/-- A decimal pair: an even register and the next (spec/04 Layout 4-1). -/
def dpairOk (r : BitVec 4) : Bool := r.toNat % 2 == 0

/-- Functions of one operand have RSVD in rb (spec/02 Table 2-15). -/
def intOk (f : IntFn) (rb : BitVec 5) : Bool :=
  match f with
  | .clz | .popc | .sextb | .sexth | .sextw => rb == 0
  | _ => true

/-- Shift immediates have RSVD above imm11[5:0] (spec/02, below Table 2-15). -/
def immOk (f : ImmFn) (imm : BitVec 11) : Bool :=
  match f with
  | .shli | .shri | .sari | .roti => decide (imm.toNat < 64)
  | _ => true

/-- Field limits of a Kiln instruction (spec/06 Tables 6-5 and 6-6). -/
def kopOk : KOp → Bool
  | .bin .mulw e vd _ _ _ => decide (e ≠ .b64) && decide (vd.toNat % 2 = 0)
  | .bin .dot e _ _ _ _ => decide (e = .b8) || decide (e = .b16)
  | .bin .cmpeq _ vd _ _ _ => decide (vd.toNat < 8)
  | .bin .cmplt _ vd _ _ _ => decide (vd.toNat < 8)
  | .bin .cmpltu _ vd _ _ _ => decide (vd.toNat < 8)
  | .dec .mul d32 _ _ _ _ => d32
  | .dec (.shr _ n) d32 _ _ vb _ => decide (vb = 0) && (d32 || decide (n.toNat < 16))
  | .dec (.shl n) d32 _ _ vb _ => decide (vb = 0) && (d32 || decide (n.toNat < 16))
  | .dec .neg _ _ _ vb _ => decide (vb = 0)
  | .dec .abs _ _ _ vb _ => decide (vb = 0)
  | .dmulw vd _ _ _ => decide (vd.toNat % 2 = 0)
  | .dwid vd _ _ => decide (vd.toNat % 2 = 0)
  | .dnar _ va _ => decide (va.toNat % 2 = 0)
  | .fp .cvtws _ _ vb _ => decide (vb = 0)
  | .fp .cvtsw _ _ vb _ => decide (vb = 0)
  | .fp .cmpeq vd _ _ _ => decide (vd.toNat < 8)
  | .fp .cmplt vd _ _ _ => decide (vd.toNat < 8)
  | .fp .cmple vd _ _ _ => decide (vd.toNat < 8)
  | .fp .cmpun vd _ _ _ => decide (vd.toNat < 8)
  | .ldk k vd _ _ _ => decide (2 ≤ k.toNat ∧ k.toNat ≤ 4) && decide (vd.toNat + k.toNat ≤ 32)
  | .stk k vs _ _ _ => decide (2 ≤ k.toNat ∧ k.toNat ≤ 4) && decide (vs.toNat + k.toNat ≤ 32)
  | .ldx w _ _ _ _ => decide (w.toNat < 3)
  | .stx w _ _ _ _ => decide (w.toNat < 3)
  | _ => true

/-- Writes of up to 512 bytes, reads of up to 4,096 (spec/16 Table 16-8). -/
def pcieOk : PcieReq → Bool
  | .read n => decide (0 < n ∧ n ≤ 4096)
  | .write d => decide (0 < d.length ∧ d.length ≤ 512)
  | .other _ => true
  | .intx => true
  | .correctable => true
  | .badEcrc r => pcieOk r

/-- A transfer that is none of Table 16-12's commands to the target: an address it cannot have, an undefined code, or a wrong
packet error code (spec/16 R488, R489). -/
def smbOther (x : SmbTransfer) : Bool :=
  decide (x.addr.toNat < 0x6C ∨ 0x6F < x.addr.toNat ∨ x.code = 0 ∨ 8 < x.code.toNat) || x.pecBad

/-- The operands of a command are ones that the spec's encodings allow. -/
def Instr.wf : Instr → Bool
  | .registerWrite _ ca sz _ => alignedOk ca sz
  | .devPlaceWrite _ _ => true
  | .unassignedPageAccess _ ca _ sz => alignedOk ca sz
  | .unclockedPageAccess _ ca _ sz => alignedOk ca sz
  | .remoteWriteTakesEffect _ => true
  | .evsnapSnap _ v => v.getLsbD 0
  | .evsnapHold _ v => v.getLsbD 1
  | .evsnapRelease _ v => v.getLsbD 2
  | .remoteSnapshotCapture _ => true
  | .statSet _ _ _ => true
  | .ienaWrite _ _ _ => true
  | .undefinedCommand _ _ _ => true
  | .mcQueuePop _ v => v.getLsbD 0
  | .timerExpiry _ => true
  | .interruptAccept _ => true
  | .tileCheckstop _ _ => true
  | .efdataWrite _ _ _ => true
  | .dbellSet _ _ _ => true
  | .ipiSet _ _ _ => true
  | .integerOp _ _ f _ _ rb => intOk f rb
  | .addvSubvMulv _ _ _ _ _ _ => true
  | .immediateOp _ _ f _ _ imm => immOk f imm
  | .movz _ _ _ _ _ => true
  | .movk _ _ _ _ _ => true
  | .cmp _ _ _ _ _ _ => true
  | .cmpi _ _ _ _ _ _ => true
  | .plog _ _ _ _ _ _ => true
  | .load _ _ _ _ _ _ => true
  | .store _ _ _ _ _ => true
  | .loadMissComplete _ _ => true
  | .storeBufferDrain _ => true
  | .br _ _ _ => true
  | .bl _ _ _ => true
  | .jmp _ _ _ => true
  | .jl _ _ _ _ => true
  | .mfbb _ _ _ _ => true
  | .mfsys _ _ _ _ => true
  | .mtsys _ _ _ _ => true
  | .bwdataAccess _ _ _ _ => true
  | .sws _ _ _ _ => true
  | .yield _ _ => true
  | .sessionFillDone _ => true
  | .trap _ _ _ => true
  | .kcall _ _ _ => true
  | .rete _ _ => true
  | .ifence _ _ => true
  | .divsuDivss _ _ _ rd _ => pairOk rd
  | .dstep _ _ _ rd _ => pairOk rd
  | .divfin _ _ _ rd _ _ => pairOk rd
  | .dadd _ _ _ _ _ _ => true
  | .dsub _ _ _ _ _ _ => true
  | .dmul _ _ _ _ _ _ => true
  | .dmulw _ _ _ dp _ _ => dpairOk dp
  | .ddivs _ _ _ _ dp _ => dpairOk dp
  | .daddw _ _ dp dpa dpb => dpairOk dp && dpairOk dpa && dpairOk dpb
  | .dsubw _ _ dp dpa dpb => dpairOk dp && dpairOk dpa && dpairOk dpb
  | .dnarw _ _ _ dpa => dpairOk dpa
  | .dmov _ _ _ _ => true
  | .dneg _ _ _ _ => true
  | .dabs _ _ _ _ => true
  | .dcmp _ _ _ _ _ _ _ => true
  | .dshr _ _ _ _ _ _ _ => true
  | .dshl _ _ _ _ _ _ _ => true
  | .cvbd _ _ _ _ _ => true
  | .cvdb _ _ _ _ _ => true
  | .dmfr _ _ _ _ _ => true
  | .dmtr _ _ _ _ _ => true
  | .dld _ _ _ _ _ _ => true
  | .dst _ _ _ _ _ _ => true
  | .daddm _ _ _ _ _ _ => true
  | .dldx _ _ _ _ _ => true
  | .dstx _ _ _ _ _ => true
  | .mvs _ _ _ _ _ _ => true
  | .mvsr _ _ _ _ _ _ => true
  | .cps _ _ _ _ _ _ _ _ => true
  | .srch _ _ _ _ _ _ _ => true
  | .trs _ _ _ _ _ _ => true
  | .tts _ _ _ _ _ _ _ _ => true
  | .edt _ _ _ _ _ _ => true
  | .edtm _ _ _ _ _ _ _ => true
  | .chkdV _ _ _ _ _ _ => true
  | .chkdG _ _ _ _ _ _ => true
  | .bmap _ _ _ _ _ _ => true
  | .kilnEnqueue _ _ op => kopOk op
  | .kilnBinaryOp _ _ => true
  | .kilnDecimalOp _ => true
  | .vddot _ => true
  | .vdmulw _ => true
  | .vdsum _ => true
  | .vdwid _ => true
  | .vdnar _ => true
  | .vdcmp _ => true
  | .vdval _ => true
  | .kilnFpOp _ => true
  | .vldVst _ => true
  | .vldkVstk _ => true
  | .vldxVstx _ => true
  | .vldmVstm _ => true
  | .kilnMemoryComplete _ => true
  | .vmsetn _ => true
  | .vbrd _ => true
  | .vmov _ => true
  | .vmts _ => true
  | .vmtc _ => true
  | .maskLogic _ => true
  | .vsync _ _ => true
  | .vmpop _ _ _ _ => true
  | .vmfs _ _ _ => true
  | .vmfc _ _ _ => true
  | .faddFsubFmul _ _ _ _ _ _ => true
  | .fminFmax _ _ _ _ _ _ => true
  | .fnegFabs _ _ _ _ _ => true
  | .fcvt _ _ _ _ _ => true
  | .fcmp _ _ _ _ _ _ => true
  | .fma _ _ _ _ _ => true
  | .fdivs _ _ rd _ _ => pairOk rd
  | .fdstep _ _ rd _ => pairOk rd
  | .fdfin _ _ rd => pairOk rd
  | .flds _ _ _ _ _ _ => true
  | .fsts _ _ _ _ _ => true
  | .fsync _ _ => true
  | .caswCasd _ _ _ _ _ _ => true
  | .fetaddwFetaddd _ _ _ _ _ _ => true
  | .fence _ _ => true
  | .icinv _ _ _ => true
  | .dccln _ _ _ => true
  | .dcfls _ _ _ => true
  | .dcz _ _ _ => true
  | .tlbia _ _ _ _ => true
  | .tlbit _ _ _ => true
  | .tlbix _ _ => true
  | .mtkrr _ _ _ _ => true
  | .mfkrr _ _ _ _ => true
  | .pcieInboundRequest _ _ _ req => pcieOk req
  | .msiWrite _ _ _ data => decide (0 < data.length)
  | .patrolScrubRead _ _ _ => true
  | .ingressEntryRead _ => true
  | .ticketAdmission _ => true
  | .take _ _ => true
  | .cont _ _ _ _ => true
  | .ccntWrite _ _ _ => true
  | .ienWrite _ _ _ => true
  | .cenWrite _ _ _ => true
  | .continuationResend _ _ _ => true
  | .tombstoneExpiry key => decide (key ≠ 0)
  | .proposalLapse => true
  | .start _ => true
  | .quiesce _ => true
  | .resume _ => true
  | .pmap _ => true
  | .pooldef _ => true
  | .pooldel _ => true
  | .sessinit _ => true
  | .sessfree _ => true
  | .spill _ => true
  | .pin _ => true
  | .unpin _ => true
  | .hint _ => true
  | .lookup _ => true
  | .brickdel _ => true
  | .staticdef _ => true
  | .drainc _ => true
  | .admitc _ => true
  | .migack _ => true
  | .post _ _ => true
  | .jsync _ _ => true
  | .recordDurable => true
  | .ringFullTimeout _ => true
  | .mirrorTimeout => true
  | .drainposWrite _ _ => true
  | .sequenceSnapshot => true
  | .heartbeatInstant => true
  | .resyncComplete => true
  | .ringinit _ => true
  | .ringopen _ => true
  | .pair _ => true
  | .unpair _ => true
  | .takeover _ => true
  | .fenceCommand _ => true
  | .release _ => true
  | .linkTraining _ => true
  | .trainingLimit _ _ => true
  | .nosigRetry _ => true
  | .nego _ _ => true
  | .flitReceive _ _ => true
  | .laneLockLoss _ => true
  | .hb _ _ _ _ _ => true
  | .break_ _ _ => true
  | .tkov _ _ _ _ => true
  | .treq _ _ _ _ => true
  | .trsp _ _ _ _ _ _ _ _ => true
  | .tann _ _ _ => true
  | .tannSend => true
  | .treqSend => true
  | .trspTimeout => true
  | .rootLost => true
  | .quench _ _ _ => true
  | .unquench _ _ _ => true
  | .quenchExpiry _ _ => true
  | .ticketMessage _ _ _ _ _ => true
  | .contMessage _ _ _ _ _ => true
  | .cack _ _ _ _ _ => true
  | .voidn _ _ _ _ => true
  | .bcmd _ _ _ _ => true
  | .migc _ _ _ => true
  | .endmk _ _ key => decide (key ≠ 0)
  | .mrec _ _ rec => decide (0 < rec.length ∧ rec.length % 64 = 0 ∧ rec.length ≤ 511 * 64)
  | .mack _ _ _ => true
  | .drep _ _ _ _ _ => true
  | .dack _ _ _ _ => true
  | .bcopy _ _ key data => decide (key ≠ 0 ∧ data.length = 4096)
  | .rsync _ _ key data => decide (key ≠ 0 ∧ data.length = 4096)
  | .train _ _ => true
  | .down _ _ => true
  | .retrain _ _ => true
  | .loop _ _ => true
  | .quenchCommand _ _ => true
  | .unquenchCommand _ _ => true
  | .recordBufferRoom _ => true
  | .brickMapSweepDone _ => true
  | .strciWrite _ _ _ => true
  | .ringsStart _ _ => true
  | .ckpt _ _ => true
  | .mark _ _ => true
  | .stop _ _ => true
  | .replay _ _ => true
  | .coldReset => true
  | .warmReset => true
  | .powerLoss => true
  | .standbyReset _ => true
  | .calendarReset => true
  | .bootRom _ _ _ => true
  | .devStart _ _ => true
  | .timebaseSeed => true
  | .ddrcHbmcTrain _ _ => true
  | .trainComplete _ _ => true
  | .reload _ _ => true
  | .reloadVerifyDone _ => true
  | .set _ => true
  | .seed _ => true
  | .devreset _ => true
  | .calendarTick => true
  | .oscStop => true
  | .vbatSample _ => true
  | .ppsEdge _ => true
  | .ppsLost => true
  | .pllUnlock _ _ => true
  | .perstWrite _ _ _ => true
  | .pcieLinkDown _ _ => true
  | .spiGo _ v => v.getLsbD 63
  | .spiDone data => decide (data.length ≤ 256)
  | .i2cGo _ v => v.getLsbD 63
  | .i2cDone _ _ => true
  | .temperatureSample _ => true
  | .ident => true
  | .status => true
  | .temp => true
  | .poweron => true
  | .poweroff => true
  | .smbDevreset => true
  | .logread => true
  | .logpop => true
  | .smbUndefinedCommand x => smbOther x
  | .extest _ => true
  | .idcode => true
  | .samplePreload _ => true
  | .clamp => true
  | .highz => true
  | .bypass => true
  | .cpacc addr _ _ => decide (addr.toNat % 8 = 0)
  | .illegalInstruction _ => true
  | .fenceReceived _ _ => true
  | .linkUp _ => true
  | .pcieLinkUp _ _ _ _ => true
  | .railWarning => true
  | .standbyLoss => true
  | .courseBalanceMove key _ => decide (key ≠ 0)

end Sys2Proof
end

