-- ==== Sys2Proof/Machine/Sha.lean ====
section
/-! DEFINITION. SHA-256 (spec/11 R360) and SHA-384 (spec/15 R457) over bytes, as FIPS 180-4 gives them; CRC-32 with the
IEEE 802.3 polynomial (spec/12 Layouts 12-5 and 12-7). -/

namespace Sys2Proof

/-- Shift amounts of a member of the SHA-2 family. -/
structure ShaRot where
  s0 : Nat × Nat × Nat
  s1 : Nat × Nat × Nat
  S0 : Nat × Nat × Nat
  S1 : Nat × Nat × Nat

/-- Two rotations and a shift, xored. -/
def shaSmall {w : Nat} (x : BitVec w) (r : Nat × Nat × Nat) : BitVec w :=
  x.rotateRight r.1 ^^^ x.rotateRight r.2.1 ^^^ (x >>> r.2.2)

/-- Three rotations, xored. -/
def shaBig {w : Nat} (x : BitVec w) (r : Nat × Nat × Nat) : BitVec w :=
  x.rotateRight r.1 ^^^ x.rotateRight r.2.1 ^^^ x.rotateRight r.2.2

/-- The message schedule from its last 16 words, oldest first. -/
def shaSchedule {w : Nat} (r : ShaRot) : Nat → List (BitVec w) → List (BitVec w)
  | 0, _ => []
  | n + 1, win =>
    let nx := shaSmall (win.getD 14 0) r.s1 + win.getD 9 0 + shaSmall (win.getD 1 0) r.s0 + win.getD 0 0
    win.getD 0 0 :: shaSchedule r n (win.drop 1 ++ [nx])

/-- One round over the eight working variables. -/
def shaRound {w : Nat} (r : ShaRot) (v : List (BitVec w)) (kw : BitVec w × BitVec w) : List (BitVec w) :=
  let a := v.getD 0 0
  let b := v.getD 1 0
  let c := v.getD 2 0
  let e := v.getD 4 0
  let f := v.getD 5 0
  let g := v.getD 6 0
  let t1 := v.getD 7 0 + shaBig e r.S1 + ((e &&& f) ^^^ (~~~e &&& g)) + kw.1 + kw.2
  let t2 := shaBig a r.S0 + ((a &&& b) ^^^ (a &&& c) ^^^ (b &&& c))
  [t1 + t2, a, b, c, v.getD 3 0 + t1, e, f, g]

/-- One block. -/
def shaBlock {w : Nat} (r : ShaRot) (ks : List (BitVec w)) (h : List (BitVec w)) (blk : List (BitVec w)) :
    List (BitVec w) :=
  List.zipWith (· + ·) h ((List.zip ks (shaSchedule r ks.length blk)).foldl (shaRound r) h)

/-- Blocks of a padded message, `n` of them. -/
def shaBlocks {w : Nat} (r : ShaRot) (ks : List (BitVec w)) (nb : Nat) :
    Nat → List (BitVec w) → List Byte → List (BitVec w)
  | 0, h, _ => h
  | n + 1, h, m =>
    let blk := (List.range 16).map (fun i => BitVec.ofNat w (ofBytes ((m.drop (nb * i)).take nb)))
    shaBlocks r ks nb n (shaBlock r ks h blk) (m.drop (16 * nb))

/-- The padded message: a 1 bit, zeros, and the length in `2 · nb` bytes. -/
def shaPad (nb : Nat) (m : List Byte) : List Byte :=
  let z := (16 * nb - (m.length + 1 + 2 * nb) % (16 * nb)) % (16 * nb)
  m ++ [0x80#8] ++ List.replicate z 0 ++ beBytes (2 * nb) (8 * m.length)

/-- Parts of the round constants of SHA-256. -/
def k2560 : List (BitVec 32) :=
  [0x428A2F98#32, 0x71374491#32, 0xB5C0FBCF#32, 0xE9B5DBA5#32, 0x3956C25B#32, 0x59F111F1#32, 0x923F82A4#32, 0xAB1C5ED5#32,
   0xD807AA98#32, 0x12835B01#32, 0x243185BE#32, 0x550C7DC3#32, 0x72BE5D74#32, 0x80DEB1FE#32, 0x9BDC06A7#32, 0xC19BF174#32]
def k2561 : List (BitVec 32) :=
  [0xE49B69C1#32, 0xEFBE4786#32, 0x0FC19DC6#32, 0x240CA1CC#32, 0x2DE92C6F#32, 0x4A7484AA#32, 0x5CB0A9DC#32, 0x76F988DA#32,
   0x983E5152#32, 0xA831C66D#32, 0xB00327C8#32, 0xBF597FC7#32, 0xC6E00BF3#32, 0xD5A79147#32, 0x06CA6351#32, 0x14292967#32]
def k2562 : List (BitVec 32) :=
  [0x27B70A85#32, 0x2E1B2138#32, 0x4D2C6DFC#32, 0x53380D13#32, 0x650A7354#32, 0x766A0ABB#32, 0x81C2C92E#32, 0x92722C85#32,
   0xA2BFE8A1#32, 0xA81A664B#32, 0xC24B8B70#32, 0xC76C51A3#32, 0xD192E819#32, 0xD6990624#32, 0xF40E3585#32, 0x106AA070#32]
def k2563 : List (BitVec 32) :=
  [0x19A4C116#32, 0x1E376C08#32, 0x2748774C#32, 0x34B0BCB5#32, 0x391C0CB3#32, 0x4ED8AA4A#32, 0x5B9CCA4F#32, 0x682E6FF3#32,
   0x748F82EE#32, 0x78A5636F#32, 0x84C87814#32, 0x8CC70208#32, 0x90BEFFFA#32, 0xA4506CEB#32, 0xBEF9A3F7#32, 0xC67178F2#32]
/-- Round constants. -/
def k256 : List (BitVec 32) := k2560 ++ k2561 ++ k2562 ++ k2563

/-- The initial hash value of SHA-256. -/
def h256 : List (BitVec 32) :=
  [0x6A09E667#32, 0xBB67AE85#32, 0x3C6EF372#32, 0xA54FF53A#32, 0x510E527F#32, 0x9B05688C#32, 0x1F83D9AB#32, 0x5BE0CD19#32]

/-- Parts of the round constants of SHA-512. -/
def k5120 : List (BitVec 64) :=
  [0x428A2F98D728AE22#64, 0x7137449123EF65CD#64, 0xB5C0FBCFEC4D3B2F#64, 0xE9B5DBA58189DBBC#64,
   0x3956C25BF348B538#64, 0x59F111F1B605D019#64, 0x923F82A4AF194F9B#64, 0xAB1C5ED5DA6D8118#64,
   0xD807AA98A3030242#64, 0x12835B0145706FBE#64, 0x243185BE4EE4B28C#64, 0x550C7DC3D5FFB4E2#64,
   0x72BE5D74F27B896F#64, 0x80DEB1FE3B1696B1#64, 0x9BDC06A725C71235#64, 0xC19BF174CF692694#64]
def k5121 : List (BitVec 64) :=
  [0xE49B69C19EF14AD2#64, 0xEFBE4786384F25E3#64, 0x0FC19DC68B8CD5B5#64, 0x240CA1CC77AC9C65#64,
   0x2DE92C6F592B0275#64, 0x4A7484AA6EA6E483#64, 0x5CB0A9DCBD41FBD4#64, 0x76F988DA831153B5#64,
   0x983E5152EE66DFAB#64, 0xA831C66D2DB43210#64, 0xB00327C898FB213F#64, 0xBF597FC7BEEF0EE4#64,
   0xC6E00BF33DA88FC2#64, 0xD5A79147930AA725#64, 0x06CA6351E003826F#64, 0x142929670A0E6E70#64]
def k5122 : List (BitVec 64) :=
  [0x27B70A8546D22FFC#64, 0x2E1B21385C26C926#64, 0x4D2C6DFC5AC42AED#64, 0x53380D139D95B3DF#64,
   0x650A73548BAF63DE#64, 0x766A0ABB3C77B2A8#64, 0x81C2C92E47EDAEE6#64, 0x92722C851482353B#64,
   0xA2BFE8A14CF10364#64, 0xA81A664BBC423001#64, 0xC24B8B70D0F89791#64, 0xC76C51A30654BE30#64,
   0xD192E819D6EF5218#64, 0xD69906245565A910#64, 0xF40E35855771202A#64, 0x106AA07032BBD1B8#64]
def k5123 : List (BitVec 64) :=
  [0x19A4C116B8D2D0C8#64, 0x1E376C085141AB53#64, 0x2748774CDF8EEB99#64, 0x34B0BCB5E19B48A8#64,
   0x391C0CB3C5C95A63#64, 0x4ED8AA4AE3418ACB#64, 0x5B9CCA4F7763E373#64, 0x682E6FF3D6B2B8A3#64,
   0x748F82EE5DEFB2FC#64, 0x78A5636F43172F60#64, 0x84C87814A1F0AB72#64, 0x8CC702081A6439EC#64,
   0x90BEFFFA23631E28#64, 0xA4506CEBDE82BDE9#64, 0xBEF9A3F7B2C67915#64, 0xC67178F2E372532B#64]
def k5124 : List (BitVec 64) :=
  [0xCA273ECEEA26619C#64, 0xD186B8C721C0C207#64, 0xEADA7DD6CDE0EB1E#64, 0xF57D4F7FEE6ED178#64,
   0x06F067AA72176FBA#64, 0x0A637DC5A2C898A6#64, 0x113F9804BEF90DAE#64, 0x1B710B35131C471B#64,
   0x28DB77F523047D84#64, 0x32CAAB7B40C72493#64, 0x3C9EBE0A15C9BEBC#64, 0x431D67C49C100D4C#64,
   0x4CC5D4BECB3E42B6#64, 0x597F299CFC657E2A#64, 0x5FCB6FAB3AD6FAEC#64, 0x6C44198C4A475817#64]
/-- Round constants. -/
def k512 : List (BitVec 64) := k5120 ++ k5121 ++ k5122 ++ k5123 ++ k5124

/-- The initial hash value of SHA-384. -/
def h384 : List (BitVec 64) :=
  [0xCBBB9D5DC1059ED8#64, 0x629A292A367CD507#64, 0x9159015A3070DD17#64, 0x152FECD8F70E5939#64,
   0x67332667FFC00B31#64, 0x8EB44A8768581511#64, 0xDB0C2E0D64F98FA7#64, 0x47B5481DBEFA4FA4#64]

/-- SHA-256. -/
def sha256 (m : List Byte) : List Byte :=
  let p := shaPad 4 m
  let r : ShaRot := { s0 := (7, 18, 3), s1 := (17, 19, 10), S0 := (2, 13, 22), S1 := (6, 11, 25) }
  ((shaBlocks r k256 4 (p.length / 64) h256 p).map (fun x => beBytes 4 x.toNat)).flatten

/-- SHA-384. -/
def sha384 (m : List Byte) : List Byte :=
  let p := shaPad 8 m
  let r : ShaRot := { s0 := (1, 8, 7), s1 := (19, 61, 6), S0 := (28, 34, 39), S1 := (14, 18, 41) }
  (((shaBlocks r k512 8 (p.length / 128) h384 p).map (fun x => beBytes 8 x.toNat)).flatten).take 48

/-- CRC-32 over bytes, with the IEEE 802.3 polynomial in its reflected form. -/
def crc32 (m : List Byte) : BitVec 32 :=
  let bit (c : BitVec 32) : BitVec 32 := if c.getLsbD 0 then (c >>> 1) ^^^ 0xEDB88320#32 else c >>> 1
  let byte (c : BitVec 32) (b : Byte) : BitVec 32 := (List.range 8).foldl (fun c _ => bit c) (c ^^^ b.setWidth 32)
  ~~~(m.foldl byte 0xFFFFFFFF#32)

end Sys2Proof
end

