-- ==== Sys2Proof/Machine/P384.lean ====
section
/-! DEFINITION. ECDSA P-384 verification with SHA-384, as the verify engine of the FUSE block does it (spec/15 R457). The
curve and the algorithm are those that the names denote (FIPS 186-4). -/

namespace Sys2Proof.Machine

/-- The field prime of P-384. -/
def p384 : Nat := 2 ^ 384 - 2 ^ 128 - 2 ^ 96 + 2 ^ 32 - 1
/-- The order of the base point. -/
def p384n : Nat := 0xffffffffffffffffffffffffffffffffffffffffffffffffc7634d81f4372ddf581a0db248b0a77aecec196accc52973
/-- The coefficient b; a is −3. -/
def p384b : Nat := 0xb3312fa7e23ee7e4988e056be3f82d19181d9c6efe8141120314088f5013875ac656398d8a2ed19d2a85c8edd3ec2aef
/-- The base point. -/
def p384G : Nat × Nat :=
  (0xaa87ca22be8b05378eb1c71ef320ad746e1d3b628ba79b9859f741e082542a385502f25dbf55296c3a545e3872760ab7,
   0x3617de4a96262c6f5d9e98bf9292dc29f8f41dbd289a147ce9da3113b5f0b8c00a60b1ce1d7e819d7a431d7c90ea0e5f)

/-- `b ^ e mod m` over the low `f` bits of `e`. -/
def powMod (m : Nat) : Nat → Nat → Nat → Nat → Nat
  | 0, _, _, acc => acc
  | f + 1, b, e, acc => powMod m f (b * b % m) (e / 2) (if e % 2 = 1 then acc * b % m else acc)

/-- Inverse modulo a prime. -/
def invMod (m a : Nat) : Nat := powMod m 384 (a % m) (m - 2) 1

/-- Addition of points; `none` is the point at infinity. -/
def ecAdd (a b : Option (Nat × Nat)) : Option (Nat × Nat) :=
  match a, b with
  | none, q => q
  | q, none => q
  | some (x1, y1), some (x2, y2) =>
    let third (l : Nat) : Option (Nat × Nat) :=
      let x := (l * l + 2 * p384 - x1 - x2) % p384
      some (x, (l * (x1 + p384 - x) + p384 - y1) % p384)
    if x1 = x2 then
      if (y1 + y2) % p384 = 0 then none
      else third ((3 * x1 * x1 + p384 - 3) * invMod p384 (2 * y1) % p384)
    else third ((y2 + p384 - y1) * invMod p384 (x2 + p384 - x1) % p384)

/-- Scalar multiplication over the low `f` bits of `k`. -/
def ecMul : Nat → Nat → Option (Nat × Nat) → Option (Nat × Nat) → Option (Nat × Nat)
  | 0, _, _, acc => acc
  | f + 1, k, q, acc => ecMul f (k / 2) (ecAdd q q) (if k % 2 = 1 then ecAdd acc q else acc)

/-- The key is a point of the curve. -/
def onCurve (x y : Nat) : Bool :=
  decide (x < p384 ∧ y < p384 ∧ y * y % p384 = (x * x * x + (p384 - 3) * x + p384b) % p384)

/-- The signature (r, s) over a message is valid for a key. -/
def ecdsaVerify (kx ky r sg : Nat) (msg : List Byte) : Bool :=
  if onCurve kx ky && decide (0 < r ∧ r < p384n ∧ 0 < sg ∧ sg < p384n) then
    let z := ofBytes (sha384 msg)
    let w := invMod p384n sg
    match ecAdd (ecMul 384 (z * w % p384n) (some p384G) none) (ecMul 384 (r * w % p384n) (some (kx, ky)) none) with
    | some (x, _) => decide (x % p384n = r)
    | none => false
  else false

end Sys2Proof.Machine
end

