-- ==== Sys2Proof/Machine/State.lean ====
section
/-! DEFINITION. The state of one NL5200 as plain data, and the state right after reset. -/

namespace Sys2Proof.Machine

/-- Privilege levels; 11b is never held (spec/02 Table 2-1, R44). -/
inductive Level where
  | ledger | steward | keystone
  deriving DecidableEq, Repr

/-- What a tile does with its next instruction: `held` until released (spec/15 R460), `takeWait` in TAKE (spec/10
R317), `swsWait` in the fill stall of SWS (spec/02 R58), `postWait` between step 2 of POST and its outcome (spec/11
R351), `jsyncWait` in JSYNC (spec/11 R358), `checkstop` (spec/08 R260). -/
inductive TileRun where
  | held | running | takeWait | checkstop
  | swsWait (pd : BitVec 3) (session : BitVec 18)
  | postWait (ticket : Nat)
  | jsyncWait (pos : Nat)
  deriving DecidableEq, Repr

/-- One register bank (spec/02 Table 2-3). `sess` is the session it holds; `fresh` is Rings' mark (spec/14 R438);
`used` orders banks by last use (spec/02, SWS). -/
structure Bank where
  g : Vector Word 32
  d : Vector (BitVec 128) 16
  p : BitVec 8
  istat : Word
  dstat : BitVec 8
  dctl : BitVec 8
  fstat : BitVec 8
  fctl : BitVec 8
  krr : BitVec 128
  sess : Option (BitVec 18)
  ast : BitVec 16
  fresh : Bool
  used : Nat
  deriving DecidableEq, Repr

/-- The exception registers of one level (spec/08 Table 8-2). -/
structure ExRegs where
  entry : Word
  cause : Word
  faddr : Word
  finfo : Word
  sp : Word
  slim : Word
  deriving DecidableEq, Repr

/-- A TLB entry: the entry's words as the walk read them, and the frame index (spec/09 R275, R283). -/
structure TlbEntry where
  vpn : Nat
  ast : Nat
  w0 : Word
  w1 : Word
  w2 : Word
  w3 : Word
  idx : Nat
  deriving DecidableEq, Repr

/-- A store buffer entry (spec/03 R97); `via` is the translation it used (spec/09 R285); `brick` marks a write through
a brick base register (spec/11 R348), `frame` an exception frame (spec/08 R252). -/
structure StoreEntry where
  pa : Nat
  bytes : List Byte
  device : Bool
  brick : Bool
  via : Option (Nat × Nat)
  frame : Bool := false
  deriving DecidableEq, Repr

/-- A load in the commit window that has not retired: its destination and value, whether it waits in the LRS for its miss, and
its address (spec/03 R88–R91). -/
structure WinEntry where
  rt : BitVec 5
  value : Word
  miss : Bool
  pc : Word
  deriving DecidableEq, Repr

/-- A run of bytes that an issued Kiln memory instruction moves: physical address, count, register above the first one,
first byte in it, and whether the bytes lie in a brick or in recorded memory (spec/06 R202–R206). -/
structure KAcc where
  pa : Nat
  n : Nat
  reg : Nat
  pos : Nat
  brick : Bool
  recorded : Bool
  deriving DecidableEq, Repr

/-- The registers of a Kiln file (spec/06 R188). -/
structure KRegs where
  v : Vector (BitVec 4096) 32
  m : Vector (BitVec 512) 8
  vctl : Word
  vstat : Word
  deriving DecidableEq, Repr

/-- A Kiln queue entry: the instruction, its scalar operands, the context of spec/09 R266, its address, its number
within the dispatch, the accesses of a memory instruction once it has issued (spec/06 R189, R206), and with them the registers
as they were at its issue and how many younger instructions have run since, which a machine check of the access undoes (R191,
R210; spec/13 R431). -/
structure KEntry where
  op : KOp
  gval : Word
  dval : BitVec 128
  bb : Vector Word 4
  lvl : Level
  ast : BitVec 16
  krr : BitVec 128
  iaddr : Word
  kcnt : Nat
  plan : Option (List KAcc)
  undo : Option KRegs := none
  ran : Nat := 0
  deriving DecidableEq, Repr

/-- What a Kiln fault delivers to its tile (spec/06 R211). -/
structure KFault where
  sub : BitVec 8
  faddr : Word
  finfo : Word
  deriving DecidableEq, Repr

/-- One Kiln register file with its queue (spec/06 R188, R189); `ue`: the next read of a register meets an uncorrectable error
(spec/13 Table 13-14, R431; log entry 114). -/
structure KFile where
  v : Vector (BitVec 4096) 32
  m : Vector (BitVec 512) 8
  vctl : Word
  vstat : Word
  queue : List KEntry
  fault : Option KFault
  ue : Bool
  deriving DecidableEq, Repr

/-- One tile. Keystone tiles use bank 0 alone (spec/02 R45). `long` names the control word register of an incomplete long
instruction at the PC (spec/08 Layout 8-5); `tk` the arrival number of the ticket it holds. `window` holds loads that have
issued and not retired, oldest first; `pc` is the next instruction to issue; `recWait` marks a tile that issues nothing
because a record finds no room (spec/14 R441). -/
structure Tile where
  run : TileRun
  pc : Word
  lvl : Level
  ie : Bool
  ticket : Bool
  bank : Fin 16
  banks : Vector Bank 16
  bb : Vector Word 4
  bwin : Word
  exS : ExRegs
  exK : ExRegs
  tcmp : Word
  iens : BitVec 4
  mcPend : Option (BitVec 8 × Word × Word)
  efwin : Word
  ef : Vector Word 512
  sbuf : List StoreEntry
  window : List WinEntry
  units : Nat
  long : Option (BitVec 5)
  itlb : List TlbEntry
  dtlb : List TlbEntry
  rstack : List Word
  tk : Option Nat
  icnt : Nat
  tcc : Nat
  kcnt : Nat
  recWait : Bool
  kiln : KFile
  deriving DecidableEq, Repr

/-- Why the session mover moves a session into a bank. -/
inductive MoverFor where
  | ticket (arrival : Nat)
  | sws
  | command (a : Agent)
  | drain
  deriving DecidableEq, Repr

/-- One operation of a session mover (spec/10 R311): fill or move a session into a bank, or spill a bank. -/
structure MoverOp where
  session : BitVec 18
  tile : TileId
  bank : Fin 16
  spill : Bool
  why : MoverFor
  deriving DecidableEq, Repr

/-- A Rings recorder's own state beside its page (spec/14 R437–R447): records in its buffer, records whose events wait for room
(`late`, R441), the next record number,
records and bytes dropped since the last that entered, the sweep in progress, the first TID that is not PRE; and of a
replay: the ticket, the tile of its dispatch, the position of its next record, the key and address of each replay frame,
and the next frame to take. `stopping` is a STOP whose buffered records wait for the host (spec/14 R440, Table 14-5). -/
structure Rings where
  buf : List (List Byte)
  late : List (List Byte)
  seq : Nat
  gapRecs : Nat
  gapBytes : Nat
  sweeping : Bool
  preLimit : Nat
  rTile : Option TileId
  rPos : Nat
  rFrames : List (Nat × Nat)
  rNext : Nat
  stopping : Bool
  deriving DecidableEq, Repr

/-- One course: run queues, mover queue, the Kiln file at which the round robin goes on (spec/06 R219), course TLB,
before-image slots in use, a live reload in progress, sessions whose fill failed with the bank, the subcode and the session of
the MOVER fault (spec/02 R57), and its recorder. -/
structure Course where
  runHi : List Nat
  runLo : List Nat
  mover : List MoverOp
  kilnNext : Fin 8
  ctlb : List TlbEntry
  slots : List Nat
  reloading : Option Nat
  fillErr : List (BitVec 18 × Fin 16 × Nat × BitVec 18)
  rings : Rings
  deriving DecidableEq, Repr

/-- Where a ticket stands (spec/10 Table 10-1). `admitted` waits in the staging area for run-queue room (R313). -/
inductive TkState where
  | staged | admitted | queued | bound (t : TileId) | running (t : TileId) | yielded | posting (t : Option TileId)
  deriving DecidableEq, Repr

/-- A line of a ticket's write set: the line's number, its doubleword mask and its place in the before-image slot
(spec/11 R348, R349). -/
structure WsLine where
  line : Nat
  mask : BitVec 16
  key : Fin 4
  place : Nat
  deriving DecidableEq, Repr

/-- A ticket that has arrived and has no outcome: its arrival number, its 64 bytes, its origin (spec/10 R329), the ring
it was read from and its index there, its source pair and sequence where it is a continuation, its forward count and the device that
forwarded it, its place in the device, course and session, resume address, frames, write set with the before-image
slot, staged continuations with their sequence numbers, its TID in a recording, whether its slot is written (R312), and
its place in the order of binding (R315). -/
structure TicketRec where
  arrival : Nat
  raw : Ticket
  origin : BitVec 9
  ring : Option (Fin 64)
  receipt : Option (BitVec 9 × BitVec 4 × BitVec 48)
  fwd : Nat
  fwdFrom : Option (BitVec 9)
  st : TkState
  course : CourseId
  session : BitVec 18
  entry : Word
  prio : Bool
  resume : Option Word
  frames : Vector Word 4
  slot : Option Nat
  ws : List WsLine
  conts : List Ticket
  contSeqs : List (BitVec 9 × Nat)
  started : Bool
  tid : Option Nat
  slotted : Bool := false
  boundNo : Nat := 0
  index : Nat := 0
  deriving DecidableEq, Repr

/-- A migration in progress, at the old home (`atHome`) or the new one (spec/10 Sequence 10-12): the other device, the
course asked for, the last step begun, the frame on the new home, whether it is a pull, CAND and AFF as step 5 wrote them
(R320), the first arrival number of step 6 (R332), a PIN that the slice changed after step 5 (R338), and at the new
home whether it asked for the brick. -/
structure Mig where
  key : Word
  peer : BitVec 9
  course : BitVec 4
  atHome : Bool
  step : Nat
  frame : Nat
  pull : Bool
  cand : Nat := 0
  mark : Nat := 0
  pinned : Option Bool := none
  pulled : Bool := false
  deriving DecidableEq, Repr

/-- A tombstone (spec/10 R333): the key, the new home (`none` for a deleted brick, R338), and the frame and pool to free. -/
structure Tomb where
  key : Nat
  dev : Option (BitVec 9)
  frame : Nat
  pool : Nat
  deriving DecidableEq, Repr

/-- A send-table entry (spec/10 Layout 10-10). -/
structure SendEnt where
  next : Nat
  oldest : Nat
  count : Nat
  deriving DecidableEq, Repr

/-- An entry of a pair that has sent nothing: the first sequence number is 1, above the first low-water mark (log entry
22). -/
def SendEnt.fresh : SendEnt := { next := 1, oldest := 1, count := 0 }

/-- A receive-table entry (spec/10 Layout 10-10). -/
structure RecvEnt where
  lw : Nat
  bm : BitVec 256
  deriving DecidableEq, Repr

/-- A slot of the pending store (spec/10 Layout 10-10), with its source device (spec/11 R382), the void mark of
spec/11 R356 and the hold of R375. -/
structure Pend where
  tk : Ticket
  src : BitVec 9
  dest : BitVec 9
  course : BitVec 4
  seq : BitVec 48
  time : Word
  void : Bool
  held : Bool
  pos : Nat
  deriving DecidableEq, Repr

/-- The Mason's count and phase of one ring pair (spec/10 R300, R303). -/
structure RingSt where
  iphase : Bool
  cphase : Bool
  written : Nat
  deriving DecidableEq, Repr

/-- A completion record that waits for room (spec/10 R303); `past`: of a POST past step 2 (spec/11 R379). -/
structure CompRec where
  ring : Fin 64
  cookie : Word
  status : BitVec 8
  tb : Word
  tile : Option TileId
  past : Bool := false
  deriving DecidableEq, Repr

/-- The Mason's own state beside its page. `repl` lists the partitions that a promoted device serves from the replica of the
failed buddy's slice (spec/11 Sequence 11-8, step 5); `statics` the static homes of the local slice by key; `dels` the brick
commands whose effect is still to be answered, by key and asking device, and `homeWait` the keys whose home has still to
answer (spec/10 R344); `cmdKey` the key of the brick command that is busy on this device; `quenched` the sources that
STAGEFULL quenched, when, and whether no UNQUENCH has ended it (spec/12 R401); `stageFull` that the full staging area holds back
reading (R302); `drainCmd` the course whose DRAINC is not complete (Table 10-14). -/
structure Mason where
  tickets : List TicketRec
  nextArrival : Nat
  pmap : Vector (BitVec 9) 4096
  pmapLoaded : Bool
  repl : List Nat
  hints : List (Nat × BitVec 9)
  cached : List (Nat × Word)
  tombs : List Tomb
  migs : List Mig
  commits : List (Word × BitVec 9)
  send : List (Nat × SendEnt)
  recv : List (Nat × RecvEnt)
  pend : List Pend
  rings : Vector RingSt 64
  comps : List CompRec
  statics : List (Nat × BitVec 9)
  aliases : List (BitVec 9 × BitVec 9)
  resident : List (Nat × Word)
  cmdKey : Option Word
  dels : List (Nat × BitVec 9)
  homeWait : List Nat
  quenched : List (BitVec 9 × Word × Bool)
  stageFull : Bool
  drainCmd : Option CourseId
  deriving DecidableEq, Repr

/-- A journal record that has a ring position and is not yet done with (spec/11 R354, R363): the ticket of a posting,
the chain, whether it waits for an acknowledgement (R353), whether it has an extent in a mirrored pool, the sender and
position of a mirror copy, and the source pair, sequence and status of a receipt of chain 12. -/
structure JRec where
  pos : Nat
  len : Nat
  ticket : Option Nat
  needAck : Bool
  acked : Bool
  durable : Bool
  mirrored : Bool
  cont : Bool
  mcopy : Option (BitVec 9 × Nat)
  rcpt : Option (BitVec 9 × BitVec 4 × BitVec 48 × Nat)
  deriving DecidableEq, Repr

/-- A record that waits for ring space, in the order in which it came (spec/11 R364). -/
inductive JWait where
  | post (ticket : Nat) (t : Option TileId)
  | copy (src : BitVec 9) (bytes : List Byte)
  | own (kind : Nat) (body : List Byte) (rcpt : Option (BitVec 9 × BitVec 4 × BitVec 48 × Nat))
  deriving DecidableEq, Repr

/-- The journal unit's own state beside its page: records in the ring and not done with, records that wait for space in
order; evidence of each grove slot and what each peer reported (spec/11 R376); BIBASE has been written (R385); the
replicas kept for the buddy hold (R370); the buddy is declared failed (R377) and promoted for (R379); senders whose VC2 is
closed; the replica pending store and receive table (R369), and the receive tables of devices promoted for, at 6,144 × device + place
(R382); positions of mirror copies not yet applied, with their
positions at the sender (R367); the start of the newest complete snapshot and of the one in progress with its parts left, and
whether the first one after RINGINIT or RINGOPEN is still due (R366); keys still to copy in RESYNC (R372); directory changes
that wait for the buddy (R368); replica bricks copied since RESYNC began (R372); continuations in progress that were sent to a
device promoted for, with that device (R382). -/
structure Hwj where
  inflight : List JRec
  waiting : List JWait
  seen : Vector Word 8
  reported : Vector (Vector Word 8) 8
  bibaseSet : Bool
  replicaValid : Bool
  declared : Bool
  promoted : Bool
  closedFrom : List (BitVec 9)
  rPend : List Pend
  rRecv : List (Nat × RecvEnt)
  aRecv : List (Nat × RecvEnt)
  rApply : List (Nat × Nat)
  snapDone : Option Nat
  snapNow : Option (Nat × Nat)
  snapFirst : Bool
  resyncLeft : List Nat
  drepWait : List (Nat × BitVec 128)
  rCopied : List Nat
  forBuddy : List (BitVec 9 × BitVec 9 × BitVec 4 × BitVec 48)
  deriving DecidableEq, Repr

/-- A Mortar message (spec/12 Layout 12-8); `routed`: it waits here and has had its waypoint at this device (R402). -/
structure Msg where
  ty : BitVec 8
  dst : BitVec 9
  src : BitVec 9
  via : Option (BitVec 9)
  arg : BitVec 16
  payload : List Word
  routed : Bool := false
  deriving DecidableEq, Repr

/-- A flit or frame that the peer has not acknowledged: its sequence number, VC, and the messages that end in it (spec/12
R395, R398). -/
structure TxFlit where
  seq : BitVec 8
  vc : Fin 4
  ends : Nat
  deriving DecidableEq, Repr

/-- One Mortar link beside its page: messages waiting; per VC, the words still to send of the message in progress and its
destination; the replay buffer, sequence numbers, credits, partly received messages, training progress, refusals and the
times of CRC errors, LCTL as it stood when training began, and when the quench of the link ends (spec/12 R390–R400, R410,
R413). -/
structure Link where
  tx : List Msg
  part : Vector Nat 4
  partDst : Vector (BitVec 9) 4
  replay : List TxFlit
  nextSeq : BitVec 8
  rxSeq : BitVec 8
  nakOwed : Bool
  nakWait : Bool
  credit : Vector Nat 4
  owed : Vector Nat 4
  rx : Vector (List Word) 4
  step : TrainStep
  negoCount : Nat
  lastNego : BitVec 128
  allowM1 : Bool
  retryFull : Bool
  verifyTries : Nat
  refused : Nat
  crcTimes : List Nat
  foffer : BitVec 6
  errThr : Nat
  arb : Nat
  qEnd : Nat
  deriving DecidableEq, Repr

/-- Canopy time (spec/12 R404–R409) and the timebase in ns (spec/01 R34). `freq` is the
frequency term in units of 1/8192 ppb. -/
structure Clock where
  tb : Word
  seeded : Bool
  pllLocked : Bool
  freq : Int
  lockCount : Nat
  lastTann : Nat
  calAcc : Int
  deriving DecidableEq, Repr

/-- A posted write on its way to a remote-domain page (spec/01 R27), and the calendar ticks since it arrived (R32). -/
structure Posted where
  a : Agent
  ca : Nat
  sz : Size
  v : Word
  ticks : Nat := 0
  deriving DecidableEq, Repr

/-- The standby domain and the pins (spec/16 Table 16-6, R488–R490): `addr` the address straps as sampled, `bifPins` what the
BIF strap lands of each root port are tied to (R501). -/
structure Standby where
  store : List (Word × Word)
  lost : Nat
  lastErr : BitVec 8
  reply : List Byte
  nacked : Bool
  addr : BitVec 2
  bifPins : Vector StrapPair 2
  powerGood : Bool
  resetN : Bool
  inReset : Bool
  vstby : Bool
  onVbat : Bool
  pwrEn : Bool
  trip : Bool
  deriving DecidableEq, Repr

/-- Values of the fuse array (spec/00 R5, R15; spec/15 R457; spec/16 R492). -/
structure Fuses where
  partid : Word
  caps0 : BitVec 32
  keyHash : BitVec 384
  minVer : BitVec 32
  dbgLock : Bool
  deriving DecidableEq, Repr

/-- TAP instructions (spec/16 Table 16-14). -/
inductive TapInstr where
  | extest | idcode | sample | clamp | highz | bypass | cpacc
  deriving DecidableEq, Repr

/-- The level of a signal. -/
inductive PinLevel where
  | low | high | z
  deriving DecidableEq, Repr

/-- The test access port (spec/16 R491, R492): the instruction loaded, the boundary-scan cells as last loaded, and what they
captured. -/
structure Tap where
  ir : TapInstr
  bsr : List (Signal × Bool)
  captured : List (Signal × Option PinLevel)
  cpStatus : BitVec 8
  cpData : Word
  deriving DecidableEq, Repr

/-- Memory controllers' training and the boot image (spec/15 R458, spec/16 R477): the DIMMs of each channel that trained, the
speed that TRAIN set (R478), the BIF straps as sampled (R501), the bytes that the SPI read in progress has received (R487);
the part throttles (R498). -/
structure Boot where
  dimms : Vector (Option DimmPair) 8
  speed : Option Nat
  bifVal : Vector (BitVec 2) 2
  spiGot : Nat
  i2cWaiting : Bool
  imgVer : BitVec 32
  uabi : BitVec 16
  romRan : Bool
  stopped : Bool
  throttling : Bool
  deriving DecidableEq, Repr

/-- The whole device. `regs` holds the registers of the control pages by control-space offset; an unlisted register
holds its reset value (`regReset`). `e2e` holds the end-to-end quenches in force (spec/12 R400); `loopq` messages of this
device to itself; `reply` what the last read from outside the tiles was answered (`none`: Unsupported Request) and
`replyEp` whether the completion had its poisoned bit set (spec/09 Table 9-14); `holdWait` are the pages on which a hold is
not yet in force (spec/13 R428); `calShadow` the registers of the CAL page as its shadow copy has them (spec/01
R32); `dmaKeys` the frame keys each root port caches (spec/09 R294);
`aer` the last request each root port reported through AER (its header; spec/16 Table 16-8); `pcieDown` the sub-ports (4p + s) whose
link went down since PERST# was last released (spec/16 Table 16-8). -/
structure State where
  pending : List Instr
  freeCtr : Nat
  tiles : Vector Tile 100
  courses : Vector Course 12
  mem : List Host.Cell
  poison : List Nat
  regs : List (Nat × Word)
  posted : List Posted
  stopped : List Nat
  capturing : List Nat
  holdWait : List Nat
  calShadow : List (Nat × Word)
  mcq : List (Word × Word)
  reply : Option (List Byte)
  replyEp : Bool
  mason : Mason
  hwj : Hwj
  links : Vector Link 16
  e2e : List (BitVec 9 × BitVec 3 × Nat)
  loopq : List Msg
  clk : Clock
  sby : Standby
  fuses : Fuses
  tap : Tap
  boot : Boot
  dmaKeys : Vector (List (Nat × Nat)) 2
  aer : Vector (Option (BitVec 16 × Word × PcieReq)) 2
  pcieDown : List Nat
  deriving DecidableEq, Repr

/-- The model raises no fault of its own: every error the spec describes is the device's exception, log entry or
status. This one constructor keeps the type inhabited; nothing raises it. Safe. -/
inductive Fault where
  | none
  deriving DecidableEq, Repr

/-- Refusals. -/
inductive Refusal where
  /-- Raised by the dispatch arm of a command that has no meaning yet. Safe. -/
  | notModelled (mnemonic : String)
  deriving DecidableEq, Repr

/-- +0 as a decimal register (spec/04 Layout 4-3). -/
def decZero : BitVec 128 := 0xC#128

/-- A bank after a reset that clears the tile (spec/02 R55). -/
def Bank.reset : Bank :=
  { g := Vector.replicate 32 0, d := Vector.replicate 16 decZero, p := 0, istat := 0, dstat := 0, dctl := 0,
    fstat := 0, fctl := 0, krr := 0, sess := none, ast := 0, fresh := false, used := 0 }

/-- Exception registers after a reset (spec/08 Table 8-2, R248). -/
def ExRegs.reset : ExRegs := { entry := 0, cause := 0, faddr := 0, finfo := 0, sp := 0, slim := 0 }

/-- A Kiln file after a reset (spec/06 R218); the undefined v and m registers hold 0 (log entry 2). -/
def KFile.reset : KFile :=
  { v := Vector.replicate 32 0, m := Vector.replicate 8 0, vctl := 0, vstat := 0, queue := [], fault := none, ue := false }

/-- A tile after a reset that clears it (spec/02 Map 2-4, R55; spec/08 Table 8-2, R259). -/
def Tile.reset : Tile :=
  { run := .held, pc := 0, lvl := .keystone, ie := false, ticket := false, bank := 0,
    banks := Vector.replicate 16 Bank.reset, bb := Vector.replicate 4 0, bwin := 0,
    exS := ExRegs.reset, exK := ExRegs.reset, tcmp := BitVec.allOnes 64, iens := 0,
    mcPend := none, efwin := 0, ef := Vector.replicate 512 0, sbuf := [], window := [], units := 0, long := none, itlb := [],
    dtlb := [], rstack := [], tk := none, icnt := 0, tcc := 0, kcnt := 0, recWait := false,
    kiln := KFile.reset }

/-- A recorder after reset. -/
def Rings.reset : Rings :=
  { buf := [], late := [], seq := 0, gapRecs := 0, gapBytes := 0, sweeping := false, preLimit := 0, rTile := none, rPos := 0,
    rFrames := [], rNext := 0, stopping := false }

/-- A course after reset. -/
def Course.reset : Course :=
  { runHi := [], runLo := [], mover := [], kilnNext := 0, ctlb := [], slots := [], reloading := none, fillErr := [], rings := Rings.reset }

/-- A ring pair after reset: the phase expected first is 1 (spec/10 R300). -/
def RingSt.reset : RingSt := { iphase := true, cphase := true, written := 0 }

/-- The Mason after reset (spec/10 Table 10-15). -/
def Mason.reset : Mason :=
  { tickets := [], nextArrival := 0, pmap := Vector.replicate 4096 0, pmapLoaded := false, repl := [], hints := [], cached := [],
    tombs := [], migs := [], commits := [], send := [], recv := [], pend := [], rings := Vector.replicate 64 RingSt.reset, comps := [],
    statics := [], aliases := [], resident := [], cmdKey := none, dels := [], homeWait := [], quenched := [],
    stageFull := false, drainCmd := none }

/-- The journal unit after reset. -/
def Hwj.reset : Hwj :=
  { inflight := [], waiting := [], seen := Vector.replicate 8 0, reported := Vector.replicate 8 (Vector.replicate 8 0), bibaseSet := false,
    replicaValid := false, declared := false, promoted := false, closedFrom := [], rPend := [], rRecv := [], aRecv := [],
    rApply := [], snapDone := none, snapNow := none, snapFirst := false, resyncLeft := [], drepWait := [], rCopied := [], forBuddy := [] }

/-- A link after reset: OFF, nothing held (spec/12 R390). -/
def Link.reset : Link :=
  { tx := [], part := Vector.replicate 4 0, partDst := Vector.replicate 4 0, replay := [], nextSeq := 0, rxSeq := 0, nakOwed := false, nakWait := false,
    credit := Vector.replicate 4 0, owed := Vector.replicate 4 0, rx := Vector.replicate 4 [], step := .detect,
    negoCount := 0, lastNego := 0, allowM1 := false, retryFull := false, verifyTries := 0, refused := 0, crcTimes := [],
    foffer := 0x3F, errThr := 16, arb := 0, qEnd := 0 }

/-- Time after reset: the timebase reads 0 and does not advance before the seed (spec/15 R468). -/
def Clock.reset : Clock :=
  { tb := 0, seeded := false, pllLocked := true, freq := 0, lockCount := 0, lastTann := 0,
    calAcc := 0 }

/-- The standby domain of a powered part out of reset (log entry 3). -/
def Standby.reset : Standby :=
  { store := [], lost := 0, lastErr := 0, reply := [], nacked := false, addr := 0, bifPins := Vector.replicate 2 ⟨.low, .low⟩,
    powerGood := true, resetN := true,
    inReset := false, vstby := true, onVbat := false, pwrEn := true, trip := false }

/-- The fuses of an NL5200-24 at B0 (spec/00 R5; spec/02 Map 2-13); log entry 3. -/
def Fuses.reset : Fuses :=
  { partid := 0x52000010#64, caps0 := 0x705#32, keyHash := 0, minVer := 0, dbgLock := false }

/-- The device right after a cold reset: memory lists nothing, every register holds its reset value, the queue is
empty. -/
def State.reset : State :=
  { pending := [], freeCtr := 0, tiles := Vector.replicate 100 Tile.reset, courses := Vector.replicate 12 Course.reset,
    mem := [], poison := [], regs := [], posted := [], stopped := [], capturing := [], holdWait := [], calShadow := [], mcq := [], reply := some [], replyEp := false,
    mason := Mason.reset, hwj := Hwj.reset, links := Vector.replicate 16 Link.reset, e2e := [], loopq := [], clk := Clock.reset,
    sby := Standby.reset, fuses := Fuses.reset,
    tap := { ir := .idcode, bsr := [], captured := [], cpStatus := 0, cpData := 0 },
    boot := { dimms := Vector.replicate 8 none, speed := none, bifVal := Vector.replicate 2 0, spiGot := 0,
              i2cWaiting := false, imgVer := 0, uabi := 0,
              romRan := false, stopped := false, throttling := false },
    dmaKeys := Vector.replicate 2 [], aer := Vector.replicate 2 none, pcieDown := [] }

end Sys2Proof.Machine
end

