-- ==== Sys2Proof/Machine/Ops.lean ====
section
/-! DEFINITION. Named operations over the state: memory bytes, control registers, tiles and their registers, status
bits with their counters and doorbells, error log, machine-check queue, free values. -/

namespace Sys2Proof.Machine

/-! ## Maps in canonical form: keys strictly rising, no entry equal to the default -/

/-- The value at key `k`, or the default. -/
def assocFind {α : Type} (l : List (Nat × α)) (k : Nat) (d : α) : α :=
  match l with
  | [] => d
  | (k', v) :: r => if k' = k then v else assocFind r k d

/-- Insert or replace, keeping the keys rising. -/
def assocInsert {α : Type} (l : List (Nat × α)) (k : Nat) (v : α) : List (Nat × α) :=
  match l with
  | [] => [(k, v)]
  | (k', v') :: r =>
    if k < k' then (k, v) :: (k', v') :: r
    else if k = k' then (k, v) :: r
    else (k', v') :: assocInsert r k v

/-- Drop every entry of key `k`. -/
def assocErase {α : Type} (l : List (Nat × α)) (k : Nat) : List (Nat × α) :=
  l.filter (fun p => p.1 ≠ k)

/-- Store `v` at `k`; the default leaves no entry. -/
def assocPut {α : Type} [DecidableEq α] (l : List (Nat × α)) (k : Nat) (v d : α) : List (Nat × α) :=
  if v = d then assocErase l k else assocInsert (assocErase l k) k v

/-- Keys strictly rising from a bound. -/
def risingFrom {α : Type} : Nat → List (Nat × α) → Bool
  | _, [] => true
  | b, (k, _) :: r => decide (b ≤ k) && risingFrom (k + 1) r

/-! ## Memory -/

/-- What an address that nothing has written reads as. Log entry 1. -/
def memDefault : Byte := 0

/-- The canonical form of memory. -/
def Memory.wf (m : List Host.Cell) : Bool :=
  risingFrom 0 m && m.all (fun c => c.2 ≠ memDefault)

/-- One byte of physical memory. -/
def State.byte (s : State) (a : Nat) : Byte := assocFind s.mem a memDefault

/-- Write one byte of physical memory. -/
def State.setByte (s : State) (a : Nat) (b : Byte) : State :=
  { s with mem := assocPut s.mem a b memDefault }

/-- `n` bytes of memory from `a`. -/
def State.bytes (s : State) (a : Nat) : Nat → List Byte
  | 0 => []
  | n + 1 => s.byte a :: s.bytes (a + 1) n

/-- Write bytes from `a`. -/
def State.setBytes (s : State) (a : Nat) : List Byte → State
  | [] => s
  | b :: r => (s.setByte a b).setBytes (a + 1) r

/-- `n` bytes of memory as a number (spec/00 R11). -/
def State.memNat (s : State) (a n : Nat) : Nat := ofBytes (s.bytes a n)

/-- Write a number as `n` bytes (spec/00 R11). -/
def State.setMemNat (s : State) (a n v : Nat) : State := s.setBytes a (beBytes n v)

/-- A doubleword of memory. -/
def State.dword (s : State) (a : Nat) : Word := BitVec.ofNat 64 (s.memNat a 8)

/-- Write a doubleword of memory. -/
def State.setDword (s : State) (a : Nat) (v : Word) : State := s.setMemNat a 8 v.toNat

/-- Fill `n` bytes from `a`. -/
def State.fill (s : State) (a n : Nat) (b : Byte) : State := s.setBytes a (List.replicate n b)

/-- Whole lines that a write covers are no longer poisoned (spec/09 R295). -/
def State.unpoison (s : State) (a n : Nat) : State :=
  { s with poison := s.poison.filter (fun l => !decide (a ≤ l * 128 ∧ l * 128 + 128 ≤ a + n)) }

/-! ## Free values -/

/-- The next free value of width `w` (spec/00 R9), log entry 5. -/
def State.freeVal (s : State) (w : Nat) : BitVec w := Config.freeValue s.freeCtr w

/-- Count a drawn free value. -/
def State.drew (s : State) : State := { s with freeCtr := s.freeCtr + 1 }

/-! ## Tiles and courses -/

/-- A tile. -/
def State.tile (s : State) (t : TileId) : Tile := s.tiles.get t

/-- Replace a tile. -/
def State.setTile (s : State) (t : TileId) (x : Tile) : State := { s with tiles := s.tiles.set t x }

/-- Change a tile. -/
def State.modTile (s : State) (t : TileId) (f : Tile → Tile) : State := s.setTile t (f (s.tile t))

/-- A course. -/
def State.course (s : State) (c : CourseId) : Course := s.courses.get c

/-- Change a course. -/
def State.modCourse (s : State) (c : CourseId) (f : Course → Course) : State :=
  { s with courses := s.courses.set c (f (s.course c)) }

/-- A link. -/
def State.link (s : State) (k : LinkId) : Link := s.links.get k

/-- Change a link. -/
def State.modLink (s : State) (k : LinkId) (f : Link → Link) : State :=
  { s with links := s.links.set k (f (s.link k)) }

/-- Change the Mason. -/
def State.modMason (s : State) (f : Mason → Mason) : State := { s with mason := f s.mason }

/-- Change the journal unit. -/
def State.modHwj (s : State) (f : Hwj → Hwj) : State := { s with hwj := f s.hwj }

/-- A tile's number as a tile, if it is one. -/
def tileOf? (n : Nat) : Option TileId := if h : n < 100 then some ⟨n, h⟩ else none

/-- A course number as a course, if it is one. -/
def courseOf? (n : Nat) : Option CourseId := if h : n < 12 then some ⟨n, h⟩ else none

/-- A keystone tile (spec/02 Map 2-4, KEYST). -/
def isKeyst (t : TileId) : Bool := decide (96 ≤ t.val)

/-- The course of a ledger tile; keystone tiles are given course 0 and never use it. -/
def courseOf (t : TileId) : CourseId := if h : t.val < 96 then ⟨t.val / 8, by omega⟩ else 0

/-- Tile `n` of a course. -/
def courseTile (c : CourseId) (n : Fin 8) : TileId := ⟨c.val * 8 + n.val, by omega⟩

/-- The tiles of a course. -/
def courseTiles (c : CourseId) : List TileId := (List.finRange 8).map (courseTile c)

/-- The current bank of a tile. -/
def Tile.cur (x : Tile) : Bank := x.banks.get x.bank

/-- Change a bank of a tile. -/
def Tile.modBankAt (x : Tile) (b : Fin 16) (f : Bank → Bank) : Tile :=
  { x with banks := x.banks.set b (f (x.banks.get b)) }

/-- Change the current bank. -/
def Tile.modBank (x : Tile) (f : Bank → Bank) : Tile := x.modBankAt x.bank f

/-- General register `r` of the current bank; g0 reads 0 (spec/02 R47). -/
def Tile.g (x : Tile) (r : BitVec 5) : Word := if r = 0 then 0 else x.cur.g.get r.toFin

/-- Write a general register of a bank; a write to g0 is discarded (spec/02 R47). -/
def Bank.setG (b : Bank) (r : BitVec 5) (v : Word) : Bank :=
  if r = 0 then b else { b with g := b.g.set r.toFin v }

/-- Write a general register. -/
def Tile.setG (x : Tile) (r : BitVec 5) (v : Word) : Tile := x.modBank (fun b => b.setG r v)

/-- Decimal register. -/
def Tile.d (x : Tile) (r : BitVec 4) : BitVec 128 := x.cur.d.get r.toFin

/-- Write a decimal register. -/
def Tile.setD (x : Tile) (r : BitVec 4) (v : BitVec 128) : Tile :=
  x.modBank (fun b => { b with d := b.d.set r.toFin v })

/-- Predicate register; p0 reads 1 (spec/02 R47). -/
def Tile.p (x : Tile) (r : BitVec 3) : Bool := if r = 0 then true else x.cur.p.getLsbD r.toNat

/-- The predicates with bit `r` written. -/
def setPBit (p : BitVec 8) (r : Nat) (v : Bool) : BitVec 8 :=
  if v then p ||| BitVec.ofNat 8 (2 ^ r) else p &&& ~~~ BitVec.ofNat 8 (2 ^ r)

/-- Write a predicate register; a write to p0 is discarded (spec/02 R47). -/
def Tile.setP (x : Tile) (r : BitVec 3) (v : Bool) : Tile :=
  if r = 0 then x else x.modBank (fun b => { b with p := setPBit b.p r.toNat v })

/-- ICNT after `n` instructions have retired (spec/14 Layout 14-1). -/
def Tile.icntAfter (x : Tile) (n : Nat) : Nat := if x.lvl = .ledger then x.icnt + n else x.icnt

/-- Every load in the commit window completes and retires, oldest first (spec/03 R88, R90, R91). -/
def Tile.completeLrs (x : Tile) : Tile :=
  { x.window.foldl (fun x e => x.setG e.rt e.value) x with window := [], icnt := x.icntAfter x.window.length }

/-- The load misses of a tile: what its LRS holds (spec/03 Table 3-4). -/
def Tile.lrs (x : Tile) : List WinEntry := x.window.filter (fun e => e.miss)

/-- The complete loads at the head of the commit window retire (spec/03 R90, R91). -/
def Tile.retireDone (x : Tile) : Tile :=
  let done := x.window.takeWhile (fun e => !e.miss)
  { done.foldl (fun x e => x.setG e.rt e.value) x with
    window := x.window.dropWhile (fun e => !e.miss), icnt := x.icntAfter done.length }

/-! ## Control registers -/

/-- Control-space offset of a register: page index × 1000h + offset. -/
def ctl (page off : Nat) : Nat := page * 4096 + off

def pMason : Nat := 0x90
def pHwj : Nat := 0x91
def pDdrc : Nat := 0xA0
def pHbmc : Nat := 0xA8
def pMort : Nat := 0xB0
def pPcie : Nat := 0xC0
def pCal : Nat := 0xD0
def pRings : Nat := 0xD8
def pClk : Nat := 0xE8
def pSmb : Nat := 0xE9
def pFuse : Nat := 0xEA
def pPwr : Nat := 0xEB
def pDev : Nat := 0xFF
def pCourse : Nat := 0x70
def pKiln : Nat := 0x80

/-- Kinds of control page (spec/13 Table 13-2). -/
inductive Kind where
  | tile | keyt | course | kiln | mason | hwj | ddrc | hbmc | mort | pcie | cal | rings | clk | smb | fuse | pwr | dev
  deriving DecidableEq, Repr

/-- The block of a page index and its number there (spec/01 Table 1-3). -/
def pageKind (p : Nat) : Option (Kind × Nat) :=
  if p < 0x60 then some (.tile, p)
  else if p < 0x64 then some (.keyt, p - 0x60)
  else if 0x70 ≤ p ∧ p < 0x7C then some (.course, p - 0x70)
  else if 0x80 ≤ p ∧ p < 0x8C then some (.kiln, p - 0x80)
  else if p = 0x90 then some (.mason, 0)
  else if p = 0x91 then some (.hwj, 0)
  else if 0xA0 ≤ p ∧ p < 0xA8 then some (.ddrc, p - 0xA0)
  else if p = 0xA8 then some (.hbmc, 0)
  else if 0xB0 ≤ p ∧ p < 0xC0 then some (.mort, p - 0xB0)
  else if 0xC0 ≤ p ∧ p < 0xC2 then some (.pcie, p - 0xC0)
  else if p = 0xD0 then some (.cal, 0)
  else if 0xD8 ≤ p ∧ p < 0xE4 then some (.rings, p - 0xD8)
  else if p = 0xE8 then some (.clk, 0)
  else if p = 0xE9 then some (.smb, 0)
  else if p = 0xEA then some (.fuse, 0)
  else if p = 0xEB then some (.pwr, 0)
  else if p = 0xFF then some (.dev, 0)
  else none

/-- Block type codes (spec/13 Table 13-2). -/
def Kind.code : Kind → Nat
  | .tile => 1 | .keyt => 2 | .course => 3 | .kiln => 4 | .mason => 5 | .hwj => 6 | .ddrc => 7 | .hbmc => 8
  | .mort => 9 | .pcie => 10 | .cal => 11 | .rings => 12 | .clk => 13 | .smb => 14 | .fuse => 15 | .pwr => 16
  | .dev => 17

/-- Pages of a remote domain (spec/01 Table 1-7). -/
def Kind.remote : Kind → Bool
  | .ddrc | .hbmc | .mort | .pcie | .cal | .smb => true
  | _ => false

/-- A page of a remote domain. -/
def remotePage (p : Nat) : Bool :=
  match pageKind p with
  | some (k, _) => k.remote
  | none => false

/-- The reset value of a register where it is not 0 (the Reset columns of the spec's maps). -/
def regReset (ca : Nat) : Word :=
  let off := ca % 4096
  match pageKind (ca / 4096) with
  | none => 0
  | some (k, _) =>
    if off = 0x010 then 0xC000000000000000#64
    else match k with
      | .mason =>
        if off = 0x128 then 0xC8#64
        else if off = 0x130 then 0x1000640C#64
        else if off = 0x138 then 0x64#64
        else if 0x200 ≤ off ∧ off < 0x2C0 ∧ off % 16 = 8 then 0xFF#64
        else 0
      | .hwj =>
        if off = 0x130 then 0x640032#64
        else if off = 0x138 then 0x8000000000000A00#64
        else if off = 0x140 then 0x4000000#64
        else 0
      | .ddrc | .hbmc => if off = 0x100 then 0x8000000000000018#64 else 0
      | .mort =>
        if off = 0x108 then 0x8000000000003F10#64
        else if off = 0x110 then 0x142#64
        else 0
      | .rings => if off = 0x108 then 0x6000000000000000#64 else 0
      | .pcie =>
        if off = 0x108 then 0xF#64
        else if off = 0x130 then 0x00003EFFFFFFF000#64
        else if 0x400 ≤ off ∧ off < 0xC00 ∧ (off % 32 = 16 ∨ off % 32 = 24) then BitVec.allOnes 64
        else 0
      | .pwr => if off = 0x108 then 0x364#64 else 0
      | .dev => if off = 0x128 then 0x10#64 else 0
      | _ => 0

/-- A control register as it stands. -/
def State.reg (s : State) (ca : Nat) : Word := assocFind s.regs ca (regReset ca)

/-- Write a control register. -/
def State.setReg (s : State) (ca : Nat) (v : Word) : State :=
  { s with regs := assocPut s.regs ca v (regReset ca) }

/-- A field of a control register. -/
def State.fld (s : State) (ca hi lo : Nat) : Nat := bitsNat (s.reg ca) hi lo

/-- Write a field of a control register. -/
def State.setFld (s : State) (ca hi lo v : Nat) : State :=
  s.setReg ca (setBits (s.reg ca) lo (hi + 1 - lo) v)

/-- A register incremented and saturated at `w` bits. -/
def State.incSat (s : State) (ca w n : Nat) : State := s.setReg ca (BitVec.ofNat 64 (satNat w ((s.reg ca).toNat + n)))

/-- Drop every register of a page that `p` selects by offset: it holds its reset value again. -/
def State.resetRegs (s : State) (p : Nat → Bool) : State :=
  { s with regs := s.regs.filter (fun x => !p x.1) }

/-- The timebase in µs. -/
def State.nowUs (s : State) : Nat := s.clk.tb.toNat / 1000

/-! ## Status bits, counters, doorbells (spec/13) -/

/-- Set bits of a tile's DBELL (spec/08 Map 8-10). -/
def State.bell (s : State) (tgt bit : Nat) : State :=
  s.setReg (ctl tgt 0x100) (setBit (s.reg (ctl tgt 0x100)) bit true)

/-- A hold of R429 is in force for counters of page `p`: DEV.EVSNAP HELD, once the page has captured (R428). -/
def State.evHeld (s : State) (p : Nat) : Bool :=
  (s.reg (ctl pDev 0x148)).getLsbD 62 && !(s.holdWait.contains p)

/-- Counter `n` of page `p` counts `k` events of source `src` when its qualifier accepts them (spec/13 R425, R426). -/
def State.evCount1 (s : State) (p src : Nat) (q : Nat → Bool) (k : Nat) (n : Nat) : State :=
  let sel := s.reg (ctl p (0x80 + 8 * n))
  if (s.reg (ctl p 0xC0)).getLsbD n && decide (bitsNat sel 7 0 = src) && q (bitsNat sel 11 8) then
    let sum := s.fld (ctl p (0xA0 + 8 * n)) 47 0 + k
    let s := s.setReg (ctl p (0xA0 + 8 * n)) (BitVec.ofNat 64 (sum % 2 ^ 48))
    if 2 ^ 48 ≤ sum then s.setReg (ctl p 0xC0) (setBit (s.reg (ctl p 0xC0)) (4 + n) true) else s
  else s

/-- Every counter of page `p` counts (spec/13 R425). -/
def State.evCountQ (s : State) (p src : Nat) (q : Nat → Bool) (k : Nat) : State :=
  if s.evHeld p then s
  else (((s.evCount1 p src q k 0).evCount1 p src q k 1).evCount1 p src q k 2).evCount1 p src q k 3

/-- `k` events without a qualifier. -/
def State.evCount (s : State) (p src k : Nat) : State := s.evCountQ p src (fun _ => true) k

/-- The register and the place of an occurrence counter (spec/13 Map 13-1). -/
def occurAt (p k : Nat) : Nat × Nat := if k < 8 then (ctl p 0x30, 8 * k) else (ctl p 0x38, 8 * (k - 8))

/-- An event of STAT bit `k` of page `p`: STAT, OCCUR, event counters and the page interrupt (spec/13 R418, R421). -/
def State.raise (s : State) (p k : Nat) : State :=
  let s := s.setReg (ctl p 0x18) (setBit (s.reg (ctl p 0x18)) k true)
  let o := (occurAt p k).1
  let lo := (occurAt p k).2
  let s := s.setFld o (lo + 7) lo ((s.fld o (lo + 7) lo + 1) % 256)
  let s := s.evCount p (0x10 + k) 1
  if (s.reg (ctl p 0x28)).getLsbD k then s.bell (s.fld (ctl p 0x10) 63 57) (s.fld (ctl p 0x10) 55 50) else s

/-- SRC code of an agent (spec/13 Layout 13-6). -/
def agentCode : Agent → Nat
  | .tile t => t.val
  | .smbus => 0x80
  | .jtag => 0x81
  | .block => 0xFF

/-- First error log entry with V = 0 (spec/13 R424). -/
def State.freeErr (s : State) (p : Nat) : Option Nat :=
  (List.range 4).find? (fun n => !(s.reg (ctl p (0x40 + 16 * n))).getLsbD 63)

/-- Record a condition in the error log of page `p` (spec/13 R424, Layout 13-6). -/
def State.logErr (s : State) (p kind detail src : Nat) (data : Word) : State :=
  let s := s.setFld (ctl p 0xE8) 47 0 (satNat 48 (s.fld (ctl p 0xE8) 47 0 + 1))
  match s.freeErr p with
  | some n =>
    let w := 2 ^ 63 + (kind % 64) * 2 ^ 57 + (detail % 512) * 2 ^ 48 + (src % 256) * 2 ^ 40 + s.clk.tb.toNat % 2 ^ 40
    (s.setReg (ctl p (0x40 + 16 * n)) (BitVec.ofNat 64 w)).setReg (ctl p (0x48 + 16 * n)) data
  | none => s.setFld (ctl p 0xE8) 63 48 (satNat 16 (s.fld (ctl p 0xE8) 63 48 + 1))

/-! ## Machine-check queue (spec/13 R433) -/

/-- Copy a message into the standby store (spec/16 R490). -/
def State.standbyPush (s : State) (m : Word × Word) : State :=
  if s.sby.store.length < 16 then { s with sby := { s.sby with store := s.sby.store ++ [m] } }
  else { s with sby := { s.sby with lost := s.sby.lost + 1 } }

/-- Queue a machine-check message. -/
def State.mcPush (s : State) (kind page info : Nat) : State :=
  if s.mcq.length < 32 then
    let m : Word × Word := (BitVec.ofNat 64 (kind * 2 ^ 56 + page * 2 ^ 48 + info % 2 ^ 32), s.clk.tb)
    State.standbyPush { s with mcq := s.mcq ++ [m] } m
  else s.setFld (ctl pDev 0x168) 63 48 (satNat 16 (s.fld (ctl pDev 0x168) 63 48 + 1))

/-! ## Commands (spec/13 R422) -/

/-- CMDSTAT after a CMD write that is accepted or refused. -/
def State.cmdStat (s : State) (p code status : Nat) : State :=
  let old := s.fld (ctl p 0xF8) 31 16
  s.setReg (ctl p 0xF8) (BitVec.ofNat 64 (((old + 1) % 65536) * 65536 + code % 256 * 256 + status))

/-- The outcome of a command. -/
def State.cmdDone (s : State) (p status : Nat) : State := s.setFld (ctl p 0xF8) 7 0 status

/-- CMD write of a block with commands: busy, undefined code, illegal state, accepted (spec/13 R422). `defined` and
`allowed` come from the block's tables; `st` is the block state for DATA. -/
def State.command (s : State) (p src code : Nat) (defined allowed : Bool) (st : Nat) (run : State → State) : State :=
  let data : Word := BitVec.ofNat 64 (st % 256 * 256 + code % 256)
  if s.fld (ctl p 0xF8) 7 0 = 1 then s.logErr p 3 0x1E src data
  else if !defined then (s.cmdStat p code 0x0B).logErr p 4 0x1E src data
  else if !allowed then (s.cmdStat p code 0x0A).logErr p 2 0x1E src data
  else run (s.cmdStat p code 1)

/-! ## Parts of the device -/

/-- The tile's page index (spec/01 Table 1-3): TILE 000h–05Fh, KEYT 060h–063h. -/
def tilePage (t : TileId) : Nat := t.val

/-- Stepping A0 (spec/00 R7). -/
def State.isA0 (s : State) : Bool := decide (bitsNat s.fuses.partid 7 4 = 0)

/-- NL5200-20L (spec/00 Map 0-2). -/
def State.is20L (s : State) : Bool := decide (bitsNat s.fuses.partid 15 12 = 1)

/-- DEV.PLACE.SET (spec/01 R20). -/
def State.placeSet (s : State) : Bool := (s.reg (ctl pDev 0x108)).getLsbD 15

/-- The device number (spec/01 R19). -/
def State.devNo (s : State) : BitVec 9 := BitVec.ofNat 9 (s.fld (ctl pDev 0x108) 8 0)

/-- Installed DDR5 in bytes: 16 KiB frames × NFRAME (spec/09 Map 9-2). -/
def State.ddrBytes (s : State) : Nat := s.fld (ctl pDev 0x130) 27 0 * 16384

end Sys2Proof.Machine
end

