-- ==== Sys2Proof/Machine/Xlate.lean ====
section
/-! DEFINITION. Physical address regions, the frame table and its walk, TLBs, spans, storage keys (spec/01 Maps 1-8 and
1-9; spec/09), and the result type of a tile operation. -/

namespace Sys2Proof.Machine

/-- An exception as it is raised: code, subcode, FADDR, FINFO (spec/08 Table 8-1). -/
structure Exc where
  code : Nat
  sub : Nat
  faddr : Word := 0
  finfo : Word := 0
  deriving DecidableEq, Repr

/-- What part of an instruction answers: a value, an exception to take, or a halt of the instruction in a state that is
already the outcome (a wait, a checkstop). -/
inductive R (α : Type) where
  | ok (a : α) (s : State)
  | exc (e : Exc) (s : State)
  | halt (s : State)

/-- Go on with the value. -/
def R.bind {α β : Type} (x : R α) (f : α → State → R β) : R β :=
  match x with
  | .ok a s => f a s
  | .exc e s => .exc e s
  | .halt s => .halt s

/-- Memory types (spec/09 Table 9-8). -/
inductive MType where
  | normal | device | recorded | brick
  deriving DecidableEq, Repr

/-- Regions of the physical address map (spec/01 Maps 1-8, 1-9). -/
inductive Region where
  | ddr | directory | sessions | mason | general | window (w : Fin 4) | heartwood | pcie (p : Fin 2) | control | none
  deriving DecidableEq, Repr

/-- Where DDR5 ends: at the installed size, and before training at the boot window's end (spec/01 R38, spec/15 R461). -/
def ddrTop (s : State) : Nat := if s.fld (ctl pDev 0x130) 27 0 = 0 then 0x4000000 else s.ddrBytes

/-- The region of a physical address. Until HBMC.STATE is READY every HBM access is one to a region of None (spec/01
R38, spec/15 R461). -/
def regionOf (s : State) (pa : Nat) : Region :=
  if pa < ddrTop s then .ddr
  else if pa < 0x040000000000 then .none
  else if pa < 0x040400000000 ∧ s.fld (ctl pHbmc 0x120) 1 0 ≠ 2 then .none
  else if pa < 0x040200000000 then .directory
  else if pa < 0x040208000000 then .sessions
  else if pa < 0x040240000000 then .mason
  else if pa < 0x040300000000 then .general
  else if pa < 0x040340000000 then .window 0
  else if pa < 0x040380000000 then .window 1
  else if pa < 0x0403C0000000 then .window 2
  else if pa < 0x040400000000 then .window 3
  else if pa < 0x080000000000 then .none
  else if pa < 0x080020000000 then .heartwood
  else if pa < 0x100000000000 then .none
  else if pa < 0x140000000000 then .pcie 0
  else if pa < 0x180000000000 then .pcie 1
  else if pa < 0x3F0000000000 then .none
  else if pa < 0x3F0000100000 then .control
  else .none

/-- A recorder records or replays in window `w` (spec/01 Map 1-9; spec/14 Table 14-6): in RECORD its records go there
unless it streams (spec/14 R440), in REPLAY they are read there. In HALTED it writes no records (spec/14 R439): that it then
leaves the window to others is log entry 93. -/
def usesWindow (s : State) (c : Nat) (w : Nat) : Bool :=
  let st := s.fld (ctl (pRings + c) 0x100) 2 0
  decide (((st = 1 ∧ s.fld (ctl (pRings + c) 0x108) 63 63 = 0) ∨ st = 3) ∧ s.fld (ctl (pRings + c) 0x108) 1 0 = w)

/-- A course records or replays in window `w`. -/
def windowBusy (s : State) (w : Fin 4) : Bool := (List.range 12).any (fun c => usesWindow s c w.val)

/-- Lines of `n` bytes at `a`. -/
def linesOf (a n : Nat) : List Nat := (List.range (ceilDiv (a % 128 + max n 1) 128)).map (fun i => a / 128 + i)

/-- Some byte lies in a poisoned line (spec/09 R295). -/
def State.poisoned (s : State) (a n : Nat) : Bool := (linesOf a n).any (fun l => s.poison.contains l)

/-- Addresses of frame index `i`: of the frame and of its entry (spec/09, frame). -/
def frameAddr (s : State) (i : Nat) : Option (Nat × Nat) :=
  let nf := s.fld (ctl pDev 0x130) 27 0
  let ft := s.fld (ctl pDev 0x120) 47 16 * 65536
  if i < nf then some (i * 0x4000, ft + 32 * i)
  else if 0x8000000 ≤ i ∧ i < 0x8030000 then
    some (0x040240000000 + (i - 0x8000000) * 0x4000, ft + 32 * (nf + i - 0x8000000))
  else none

/-- The frame index that holds a physical address of DDR5 or the HBM general area. -/
def frameOf (s : State) (pa : Nat) : Option Nat :=
  match regionOf s pa with
  | .ddr => some (pa / 0x4000)
  | .general => some (0x8000000 + (pa - 0x040240000000) / 0x4000)
  | _ => none

/-- Word 0 of the frame table entry of a frame index. -/
def frameW0 (s : State) (i : Nat) : Word :=
  match frameAddr s i with
  | some (_, ea) => s.dword ea
  | none => 0

/-- Every frame of `[a, a + n)` is installed DDR5 and its entry holds V = 0 and TYPE 11b. -/
def framesReserved (s : State) (a n : Nat) : Bool :=
  decide (a + n ≤ s.ddrBytes) &&
  (List.range (ceilDiv n 0x4000)).all (fun k =>
    let w := frameW0 s (a / 0x4000 + k)
    !w.getLsbD 63 && decide (bitsNat w 61 60 = 3))

/-- The anchor hash (spec/09, hash). -/
def ptHash (k ast vpn : Nat) : Nat :=
  let h := (vpn % 2 ^ 34) ^^^ ((ast % 65536) * 2 ^ 18) ^^^ (ast % 65536)
  (List.range (ceilDiv 34 k)).foldl (fun idx j => idx ^^^ (h / 2 ^ (k * j)) % 2 ^ (min 33 (k * j + k - 1) + 1 - k * j)) 0

/-- A context of translation (spec/09 Table 9-1, R266). -/
structure Ctx where
  lvl : Level
  ast : Nat
  krr : BitVec 128
  deriving DecidableEq, Repr

/-- Kinds of access: what FINFO.ACC says, whether it needs store rights, and what device memory answers. -/
inductive Acc where
  | load | store | unitLoad | unitStore | atomic | dcz | clean | push | rete | fetch
  deriving DecidableEq, Repr

/-- FINFO.ACC (spec/09 Layout 9-5). -/
def Acc.code : Acc → Nat
  | .load | .unitLoad | .clean => 0
  | .store | .unitStore | .atomic | .dcz => 1
  | .fetch => 2
  | .push | .rete => 3

/-- The access needs store rights and dirties the page (spec/09 R275, R277). -/
def Acc.writes : Acc → Bool
  | .store | .unitStore | .atomic | .dcz | .push => true
  | _ => false

/-- The MTYPE subcode on device memory, 0 where the access is allowed (spec/09 Table 9-4). -/
def Acc.devSub : Acc → Nat
  | .load | .store | .clean => 0
  | .unitLoad | .unitStore | .push | .rete => 2
  | .atomic | .dcz => 3
  | .fetch => 4

/-- Where an access goes: physical address, type, and the translation that a store buffer entry remembers. -/
structure Xl where
  pa : Nat
  ty : MType
  via : Option (Nat × Nat) := none
  deriving DecidableEq, Repr

/-- Level codes (spec/02 Table 2-1). -/
def Level.code : Level → Nat
  | .ledger => 0 | .steward => 1 | .keystone => 2

/-- FINFO of a memory exception (spec/09 Layout 9-5). -/
def memInfo (c : Ctx) (k : Acc) (span : Bool) (nread idx : Nat) : Word :=
  BitVec.ofNat 64 (c.ast % 65536 * 2 ^ 48 + k.code * 2 ^ 46 + c.lvl.code * 2 ^ 44 + b2n span * 2 ^ 43 +
    nread % 256 * 2 ^ 32 + idx % 2 ^ 32)

/-- The access-disable bit of a key (spec/09 R278). -/
def keyAD (krr : BitVec 128) (k : Nat) : Bool := krr.getLsbD (2 * k + 1)
/-- The write-disable bit of a key (spec/09 R278). -/
def keyWD (krr : BitVec 128) (k : Nat) : Bool := krr.getLsbD (2 * k)

/-- Step 6 of R278: R40 and Maps 1-8, 1-9; PRIV for control pages out of the level's reach (spec/02 R46, spec/09
R280). A subcode of PADDR, or PRIV. FADDR of a PADDR is the physical address of Table 8-1; that of a byte of spec/05 is put by
its unit (R168). -/
def reachFault (s : State) (lvl : Level) (writes : Bool) (ty : MType) (pa n : Nat) : Option Exc :=
  let padr (sub : Nat) : Option Exc := some { code := 6, sub, faddr := BitVec.ofNat 64 pa }
  let one (a : Nat) : Option Exc :=
    match regionOf s a with
    | .none => padr 1
    | .ddr | .pcie _ => none
    | .heartwood => if writes then padr 2 else if lvl = .ledger then padr 3 else none
    | .directory | .sessions | .mason => if lvl = .keystone ∧ writes = false then none else padr 3
    | .general => if lvl = .keystone ∨ ty = .normal ∨ ty = .recorded then none else padr 3
    | .window w =>
      if lvl = .ledger then padr 3
      else if writes then (if lvl = .keystone ∧ windowBusy s w = false then none else padr 3)
      else none
    | .control =>
      let page := (pa - 0x3F0000000000) / 4096
      if lvl = .ledger then some { code := 2, sub := 1 }
      else if lvl = .steward ∧ writes then
        let off := pa % 4096
        match pageKind page with
        | some (.keyt, _) | some (.clk, _) | some (.fuse, _) | some (.pwr, _) => some { code := 2, sub := 1 }
        | some (.dev, _) => if 0x140 ≤ off ∧ off < 0x148 then none else some { code := 2, sub := 1 }
        | _ => none
      else none
  match one pa with
  | some e => some e
  | none => one (pa + n - 1)

/-- Steps 1 to 5 of R278 for an entry or span. -/
def keyFault (c : Ctx) (k : Acc) (ty key : Nat) (x span : Bool) (nread idx : Nat) (va : Word) : Option Exc :=
  let f (code sub : Nat) : Option Exc := some { code, sub, faddr := va, finfo := memInfo c k span nread idx }
  if ty = 3 then f 0x0A 1
  else if keyAD c.krr key then f 0x08 1
  else if k = .fetch ∧ x = false then f 0x08 3
  else if k.writes ∧ keyWD c.krr key then f 0x08 2
  else if ty = 1 ∧ k.devSub ≠ 0 then f 0x0A k.devSub
  else if k = .fetch ∧ ty = 2 then f 0x0A 4
  else none

/-- The type that a TYPE field names. -/
def typeOf (ty : Nat) : MType :=
  if ty = 0 then .normal else if ty = 1 then .device else if ty = 2 then .recorded else .brick

/-- Device by place: PCIe windows and control pages (spec/09 R267, R280). -/
def deviceRegion (s : State) (pa : Nat) : Bool :=
  match regionOf s pa with
  | .pcie _ | .control => true
  | _ => false

/-- Span register `n` of a level (spec/09 Map 9-6). -/
def spanReg (s : State) (t : TileId) (lvl : Level) (n : Nat) : Word :=
  s.reg (ctl (tilePage t) ((if lvl = .ledger then 0x240 else 0x280) + 8 * n))

/-- The lowest-numbered matching span: its number, and the physical address (spec/09 R268, R280). -/
def spanHit (s : State) (t : TileId) (lvl : Level) (va : Nat) : Option (Nat × Word × Nat) :=
  (List.range 8).findSome? (fun n =>
    let r := spanReg s t lvl n
    let sz := 24 + bitsNat r 53 50
    if r.getLsbD 63 && decide (va / 2 ^ sz = bitsNat r 49 26 * 2 ^ 24 / 2 ^ sz) then
      some (n, r, bitsNat r 25 2 * 2 ^ 24 / 2 ^ sz * 2 ^ sz + va % 2 ^ sz)
    else none)

/-- The G bit of an entry word. -/
def entG (w0 : Word) : Bool := w0.getLsbD 62

/-- A TLB entry matches (spec/09 R283). -/
def TlbEntry.hits (e : TlbEntry) (vpn ast : Nat) : Bool := decide (e.vpn = vpn) && (entG e.w0 || decide (e.ast = ast))

/-- What a walk finds (spec/09, walk): an entry and the number of entries read, or an exception. -/
inductive WalkRes where
  | hit (e : TlbEntry) (nread : Nat)
  | fault (code sub nread idx : Nat)
  deriving DecidableEq, Repr

/-- The chain from frame index `i`, with `n` entries read. The entry whose read fails counts in NREAD (log entry 95). -/
def walkChain (s : State) (vpn ast anchor : Nat) : Nat → Nat → Nat → WalkRes
  | 0, i, n => .fault 9 4 n i
  | fuel + 1, i, n =>
    if i = 0xFFFFFFFF then .fault 7 1 n anchor
    else match frameAddr s i with
      | none => .fault 9 3 n i
      | some (_, ea) =>
        if 64 ≤ n then .fault 9 4 n i
        else if s.poisoned ea 32 then .fault 9 2 (n + 1) i
        else
          let w0 := s.dword ea
          let w1 := s.dword (ea + 8)
          if w0.getLsbD 63 && decide (bitsNat w1 33 0 = vpn) && (entG w0 || decide (bitsNat w0 47 32 = ast)) then
            .hit { vpn := vpn, ast := bitsNat w0 47 32, w0 := w0, w1 := w1, w2 := s.dword (ea + 16),
                   w3 := s.dword (ea + 24), idx := i } (n + 1)
          else walkChain s vpn ast anchor fuel (bitsNat w0 31 0) (n + 1)

/-- A walk of the frame table (spec/09 R271). -/
def walk (s : State) (vpn ast : Nat) : WalkRes :=
  let hat := s.reg (ctl pDev 0x128)
  let a := ptHash (bitsNat hat 4 0) ast vpn
  if !hat.getLsbD 63 then .fault 7 1 0 a
  else
    let pa := bitsNat hat 47 12 * 4096 + 4 * a
    if s.poisoned pa 4 then .fault 9 1 0 a
    else walkChain s vpn ast a 66 (s.memNat pa 4) 0

/-- Put an entry into the front of a TLB of `n` entries: the one used least recently leaves (log entry 9). -/
def tlbInsert (l : List TlbEntry) (e : TlbEntry) (n : Nat) : List TlbEntry :=
  (e :: l.filter (fun x => x ≠ e)).take n

/-- Where translations of an access are held: a ledger tile's DTLB or ITLB, or the course TLB alone (a Kiln). -/
inductive TlbOf where
  | data | inst | kiln
  deriving DecidableEq, Repr

/-- Install an entry in the TLBs of an access (spec/09 Table 9-9). -/
def installTlb (s : State) (t : TileId) (w : TlbOf) (e : TlbEntry) : State :=
  let s := s.modCourse (courseOf t) (fun c => { c with ctlb := tlbInsert c.ctlb e 2048 })
  match w with
  | .data => s.modTile t (fun x => { x with dtlb := tlbInsert x.dtlb e 32 })
  | .inst => s.modTile t (fun x => { x with itlb := tlbInsert x.itlb e 16 })
  | .kiln => s

/-- Drop an entry from the TLBs of an access (spec/09 R276). -/
def dropTlb (s : State) (t : TileId) (e : TlbEntry) : State :=
  let s := s.modCourse (courseOf t) (fun c => { c with ctlb := c.ctlb.filter (fun x => x ≠ e) })
  s.modTile t (fun x => { x with dtlb := x.dtlb.filter (fun y => y ≠ e), itlb := x.itlb.filter (fun y => y ≠ e) })

/-- A hit in the TLBs of an access, first level first, with the event counts of spec/13 Tables 13-11 and 13-12. -/
def findTlb (s : State) (t : TileId) (w : TlbOf) (vpn ast : Nat) : Option TlbEntry × State :=
  let x := s.tile t
  let l1 := match w with
    | .data => x.dtlb
    | .inst => x.itlb
    | .kiln => []
  match l1.find? (fun e => e.hits vpn ast) with
  | some e => (some e, s)
  | none =>
    let s := match w with
      | .data => s.evCount (tilePage t) 0x2B 1
      | .inst => s.evCount (tilePage t) 0x2C 1
      | .kiln => s
    let page := pCourse + (courseOf t).val
    match ((s.course (courseOf t)).ctlb).find? (fun e => e.hits vpn ast) with
    | some e => (some e, s.evCount page 0x22 1)
    | none => (none, s.evCount page 0x23 1)

/-- Word 0 with the A and D bits that an access needs (spec/09 R275). -/
def needAD (k : Acc) (w0 : Word) : Word :=
  if k = .clean then w0 else setBit (if k.writes then setBit w0 57 true else w0) 58 true

/-- The checks, then the A and D update, of an access through a TLB entry (spec/09 R275–R278). That the checks of a copy
come before the compare-and-swap that it needs is log entry 96. -/
def useTlb (s : State) (t : TileId) (w : TlbOf) (c : Ctx) (k : Acc) (va : Word) (n : Nat) (e : TlbEntry) (nread : Nat)
    (retry : Bool) : Sum (R Xl) State :=
  let ty := bitsNat e.w0 61 60
  match keyFault c k ty (bitsNat e.w0 53 48) (e.w0.getLsbD 59) false nread e.idx va with
  | some x => .inl (.exc x s)
  | none =>
    match frameAddr s e.idx with
    | none => .inl (.exc { code := 9, sub := 3, faddr := va, finfo := memInfo c k false nread e.idx } s)
    | some (base, ea) =>
      let pa := base + va.toNat % 0x4000
      match reachFault s c.lvl k.writes (typeOf ty) pa n with
      | some x => .inl (.exc x s)
      | none =>
        let w0 := needAD k e.w0
        let ok : Xl := { pa := pa, ty := typeOf ty, via := some (e.vpn, if entG e.w0 then 65536 else e.ast) }
        if w0 = e.w0 then .inl (.ok ok (installTlb s t w e))
        else if s.dword ea = e.w0 ∧ s.dword (ea + 8) = e.w1 ∧ s.dword (ea + 16) = e.w2 ∧ s.dword (ea + 24) = e.w3 then
          .inl (.ok ok (installTlb ((dropTlb s t e).setDword ea w0) t w { e with w0 := w0 }))
        else if retry then .inr (dropTlb s t e)
        else .inl (.ok ok s)

/-- Translate an access of `n` bytes (spec/09 R267, R268, R278). -/
def translate (s : State) (t : TileId) (w : TlbOf) (c : Ctx) (k : Acc) (va : Word) (n : Nat) : R Xl :=
  if va.toNat / 2 ^ 48 ≠ 0 then
    .exc { code := 7, sub := 2, faddr := va, finfo := memInfo c k false 0 0 } s
  else if c.lvl = .keystone then
    let pa := va.toNat
    let dev := deviceRegion s pa
    if dev ∧ k.devSub ≠ 0 then
      .exc { code := 0x0A, sub := k.devSub, faddr := va, finfo := memInfo c k false 0 0 } s
    else match reachFault s .keystone k.writes .normal pa n with
      | some x => .exc x s
      | none => .ok { pa := pa, ty := if dev then .device else .normal } s
  else match spanHit s t c.lvl va.toNat with
    | some (i, r, pa) =>
      let ty := if bitsNat r 61 60 = 3 then 3 else if deviceRegion s pa then 1 else bitsNat r 61 60
      match keyFault c k ty (bitsNat r 59 54) (r.getLsbD 62) true 0 i va with
      | some x => .exc x s
      | none =>
        match reachFault s c.lvl k.writes (typeOf ty) pa n with
        | some x => .exc x s
        | none => .ok { pa := pa, ty := typeOf ty } s
    | none =>
      let vpn := va.toNat / 0x4000
      let fresh (s : State) : R Xl :=
        let s := s.evCount (tilePage t) 0x2D 1
        match walk s vpn c.ast with
        | .fault code sub nr idx => .exc { code, sub, faddr := va, finfo := memInfo c k false nr idx } s
        | .hit e nr =>
          match useTlb (installTlb s t w e) t w c k va n e nr false with
          | .inl r => r
          | .inr s => .halt s
      match findTlb s t w vpn c.ast with
      | (some e, s) =>
        match useTlb s t w c k va n e 0 true with
        | .inl r => r
        | .inr s => fresh s
      | (none, s) => fresh s

/-- The Steward context of a tile (spec/09 Table 9-1). -/
def stewardCtx (s : State) (t : TileId) : Ctx :=
  { lvl := .steward, ast := s.fld (ctl (tilePage t) 0x200) 15 0,
    krr := s.reg (ctl (tilePage t) 0x208) ++ s.reg (ctl (tilePage t) 0x210) }

/-- The context of a tile at a level (spec/09 R266): the AST of bank 0 is 0000h (spec/02 R55); Table 9-1 gives Keystone level
no AST, and FINFO shows 0 for it (log entry 95). -/
def ctxOf (s : State) (t : TileId) (lvl : Level) : Ctx :=
  match lvl with
  | .ledger =>
    let b := (s.tile t).cur
    { lvl := .ledger, ast := if b.sess.isSome then b.ast.toNat else 0, krr := b.krr }
  | .steward => stewardCtx s t
  | .keystone => { lvl := .keystone, ast := 0, krr := 0 }

/-- The word at a virtual address as the frame records it (spec/08 Layout 8-4, IWORD), read without an effect;
`none` where the fetch would fault. -/
def peekWord (s : State) (t : TileId) (pc : Word) : Option Nat :=
  match translate s t .inst (ctxOf s t (s.tile t).lvl) .fetch pc 4 with
  | .ok x _ => some (s.memNat x.pa 4)
  | _ => none

/-- The machine check of a consumed poisoned line (spec/13 Table 13-14, subcode 01h); FINFO names the controller. -/
def poisonExc (s : State) (pa n : Nat) : Option Exc :=
  match (linesOf pa n).find? (fun l => s.poison.contains l) with
  | some l =>
    let page := if l * 128 < 0x040000000000 then pDdrc + (l / 2) % 8 else pHbmc
    some { code := 0x28, sub := 1, faddr := BitVec.ofNat 64 (l * 128), finfo := BitVec.ofNat 64 (page * 2 ^ 40) }
  | none => none

end Sys2Proof.Machine
end

