-- ==== Sys2Proof/Machine/Pages.lean ====
section
/-! DEFINITION. Control pages: the writable fields of every register with their access codes, what each field treats as
a reserved encoding, and the write of a register that has no behaviour of its own (spec/00 R12–R14, spec/13). -/

namespace Sys2Proof.Machine

/-- Access codes of writable fields (spec/00 Table 0-6). -/
inductive FAcc where
  | rw | w1c
  deriving DecidableEq, Repr

/-- A writable field of a register. Fields left out are RO or RSVD: a write has no effect on them (spec/00 R12, R13). -/
structure Fld where
  hi : Nat
  lo : Nat
  acc : FAcc := .rw
  deriving DecidableEq, Repr

/-- STAT bits that a block defines (spec/13 R415, R419 and the blocks' chapters). -/
def Kind.stats : Kind → Nat
  | .kiln => 8 | .mason => 10 | .hwj => 9 | .ddrc => 3 | .hbmc => 3 | .mort => 8 | .pcie => 6 | .cal => 3
  | .rings => 6 | .clk => 3 | .pwr => 3 | _ => 0

/-- Writable fields of the common header (spec/13 Map 13-1). -/
def headerFields (k : Kind) (off : Nat) : List Fld :=
  if off = 0x10 then
    [⟨63, 57, .rw⟩, ⟨55, 50, .rw⟩] ++
      (match k with
       | .cal => [⟨7, 0, .rw⟩]
       | .pcie => [⟨1, 1, .rw⟩, ⟨0, 0, .rw⟩]
       | _ => [])
  else if off = 0x18 then [⟨15, 0, .w1c⟩]
  else if off = 0x28 then (if k.stats = 0 then [] else [⟨k.stats - 1, 0, .rw⟩])
  else if 0x40 ≤ off ∧ off < 0x80 ∧ off % 16 = 0 then [⟨63, 63, .w1c⟩]
  else if 0x80 ≤ off ∧ off < 0xA0 then [⟨if k = .tile ∨ k = .keyt then 10 else 11, 8, .rw⟩, ⟨7, 0, .rw⟩]
  else if 0xA0 ≤ off ∧ off < 0xC0 then [⟨47, 0, .rw⟩]
  else if off = 0xC0 then [⟨7, 4, .w1c⟩, ⟨3, 0, .rw⟩]
  else []

/-- Writable fields of the block registers, by offset of the doubleword (the spec's Maps). -/
def blockFields (k : Kind) (off : Nat) : List Fld :=
  let full : List Fld := [⟨63, 0, .rw⟩]
  match k with
  | .tile | .keyt =>
    if off = 0x100 then [⟨63, 0, .w1c⟩]
    else if off = 0x110 then [⟨63, 63, .w1c⟩]
    else if off = 0x120 then [⟨9, 0, .rw⟩]
    else if k = .tile ∧ off = 0x200 then [⟨15, 0, .rw⟩]
    else if k = .tile ∧ (off = 0x208 ∨ off = 0x210) then full
    else if k = .tile ∧ 0x240 ≤ off ∧ off < 0x2C0 then [⟨63, 2, .rw⟩]
    else []
  | .course => if off = 0x110 then full else []
  | .mason =>
    if off = 0x108 then [⟨47, 12, .rw⟩]
    else if off = 0x110 then [⟨16, 0, .rw⟩]
    else if off = 0x118 then [⟨47, 24, .rw⟩]
    else if off = 0x120 then [⟨47, 2, .rw⟩]
    else if off = 0x128 ∨ off = 0x138 then [⟨13, 0, .rw⟩]
    else if off = 0x130 then [⟨63, 63, .rw⟩, ⟨62, 62, .rw⟩, ⟨31, 24, .rw⟩, ⟨23, 8, .rw⟩, ⟨3, 0, .rw⟩]
    else if off = 0x160 ∨ off = 0x168 ∨ off = 0x170 then full
    else if 0x200 ≤ off ∧ off < 0x2C0 ∧ off % 16 = 8 then [⟨7, 0, .rw⟩]
    else if 0x800 ≤ off then
      (if off % 32 < 16 then [⟨63, 63, .rw⟩, ⟨51, 48, .rw⟩, ⟨47, 12, .rw⟩]
       else if off % 32 = 16 then [⟨48, 32, .rw⟩]
       else [⟨63, 63, .rw⟩, ⟨47, 3, .rw⟩])
    else []
  | .hwj =>
    if off = 0x118 ∨ off = 0x168 then full
    else if off = 0x130 then [⟨29, 16, .rw⟩, ⟨13, 0, .rw⟩]
    else if off = 0x138 then [⟨63, 63, .rw⟩, ⟨15, 8, .rw⟩]
    else if off = 0x140 then [⟨29, 0, .rw⟩]
    else if off = 0x148 then [⟨47, 28, .rw⟩]
    else if off = 0x150 then [⟨47, 33, .rw⟩]
    else []
  | .ddrc | .hbmc => if off = 0x100 then [⟨63, 63, .rw⟩, ⟨7, 0, .rw⟩] else []
  | .mort =>
    if off = 0x108 then [⟨63, 63, .rw⟩, ⟨62, 62, .rw⟩, ⟨13, 8, .rw⟩, ⟨7, 0, .rw⟩]
    else if off = 0x110 then [⟨11, 8, .rw⟩, ⟨7, 4, .rw⟩, ⟨3, 0, .rw⟩]
    else if off = 0x140 then full
    else []
  | .pcie =>
    if off = 0x108 then [⟨3, 0, .rw⟩]
    else if off = 0x130 then [⟨47, 12, .rw⟩]
    else if 0x140 ≤ off ∧ off < 0x160 then [⟨15, 8, .rw⟩, ⟨7, 0, .rw⟩]
    else if 0x160 ≤ off ∧ off < 0x1A0 then [⟨47, 20, .rw⟩]
    else if 0x400 ≤ off ∧ off < 0xC00 then
      (if off % 32 = 0 then [⟨63, 63, .rw⟩, ⟨62, 62, .rw⟩, ⟨61, 61, .rw⟩, ⟨15, 0, .rw⟩]
       else if off % 32 = 8 then [] else full)
    else if 0xC00 ≤ off then
      [⟨47, 47, .rw⟩, ⟨46, 40, .rw⟩, ⟨37, 32, .rw⟩, ⟨15, 15, .rw⟩, ⟨14, 8, .rw⟩, ⟨5, 0, .rw⟩]
    else []
  | .cal => if off = 0x118 ∨ off = 0x120 then full else []
  | .rings =>
    if off = 0x108 then [⟨63, 63, .rw⟩, ⟨62, 62, .rw⟩, ⟨61, 61, .rw⟩, ⟨1, 0, .rw⟩]
    else if off = 0x110 then [⟨47, 26, .rw⟩]
    else if off = 0x118 then [⟨47, 12, .rw⟩, ⟨5, 0, .rw⟩]
    else if off = 0x120 ∨ off = 0x160 ∨ off = 0x168 then full
    else if off = 0x170 ∨ off = 0x178 then [⟨47, 12, .rw⟩]
    else []
  | .clk => if off = 0x100 then [⟨63, 63, .rw⟩, ⟨62, 62, .rw⟩, ⟨61, 61, .rw⟩] else []
  | .pwr =>
    if off = 0x108 then [⟨15, 8, .rw⟩, ⟨7, 0, .rw⟩]
    else if off = 0x180 then [⟨56, 56, .rw⟩, ⟨54, 48, .rw⟩, ⟨47, 40, .rw⟩, ⟨35, 35, .rw⟩, ⟨3, 0, .rw⟩]
    else if off = 0x188 then full
    else []
  | .dev =>
    if off = 0x120 then [⟨47, 16, .rw⟩]
    else if off = 0x128 then [⟨63, 63, .rw⟩, ⟨47, 12, .rw⟩, ⟨4, 0, .rw⟩]
    else if off = 0x160 then [⟨1, 0, .rw⟩]
    else if off = 0x180 then [⟨63, 63, .rw⟩]
    else if off = 0x1B8 then [⟨47, 2, .rw⟩]
    else if off = 0x1C0 then
      [⟨55, 48, .rw⟩, ⟨47, 45, .rw⟩, ⟨44, 44, .rw⟩, ⟨43, 43, .rw⟩, ⟨42, 42, .rw⟩, ⟨41, 36, .rw⟩, ⟨8, 0, .rw⟩]
    else if off = 0x1C8 then [⟨31, 0, .rw⟩]
    else if 0x400 ≤ off ∧ off < 0x500 then full
    else []
  | .kiln | .smb | .fuse => []

/-- Writable fields of the doubleword register at an offset. -/
def fieldsOf (k : Kind) (off : Nat) : List Fld := if off < 0x100 then headerFields k off else blockFields k off

/-- Event sources that a page defines (spec/13 Tables 13-9 and 13-11 to 13-13). -/
def srcOk (k : Kind) (src : Nat) : Bool :=
  let upTo (n : Nat) : Bool := decide (0x20 ≤ src ∧ src ≤ n)
  decide (src ≤ 1 ∨ (0x10 ≤ src ∧ src ≤ 0x1F)) ||
  match k with
  | .tile => upTo 0x37
  | .keyt =>
    (upTo 0x37 && !([0x2B, 0x2C, 0x2D, 0x31, 0x32, 0x33, 0x36].contains src)) || decide (0x40 ≤ src ∧ src ≤ 0x43)
  | .course => upTo 0x28 | .kiln => upTo 0x25 | .rings => upTo 0x22 | .mason => upTo 0x2C | .hwj => upTo 0x28
  | .ddrc | .hbmc => upTo 0x26 | .mort => upTo 0x27 | .pcie => upTo 0x26 | .clk => upTo 0x21 | .smb => upTo 0x21
  | .pwr => upTo 0x21 | .dev => upTo 0x21
  | .cal | .fuse => false

/-- Qualifiers that a page defines (spec/13 Map 13-8 and the source tables); the fourth bit is RSVD on the pages of tiles (Table
13-11), so every value of the others is defined there. -/
def qualOk (k : Kind) (q : Nat) : Bool :=
  match k with
  | .tile | .keyt => true
  | .kiln => decide (q = 0 ∨ 8 ≤ q)
  | .mort => decide (q = 0 ∨ (8 ≤ q ∧ q ≤ 11))
  | _ => decide (q = 0)

/-- A number in a range. -/
def inRange (x lo hi : Nat) : Bool := decide (lo ≤ x ∧ x ≤ hi)

/-- A write of candidate value `new` to field `[hi:_]` of the register is no reserved encoding (spec/00 R14): the
field's own values, and the rules that treat a write as one (R269, R300, R342, R385, R444). A DEV.HATBASE write whose K is out of
range leaves K, and its HATBASE field is judged with the K that stays (log entry 121). -/
def fieldOk (s : State) (k : Kind) (inst off hi : Nat) (old new : Word) : Bool :=
  if off < 0x100 then
    if off = 0x10 ∧ hi = 63 then decide (bitsNat new 63 57 ≤ 0x63)
    else if off = 0x10 ∧ hi = 7 then decide (bitsNat new 7 0 ≠ 0x80)
    else if 0x80 ≤ off ∧ off < 0xA0 ∧ hi = 7 then srcOk k (bitsNat new 7 0)
    else if 0x80 ≤ off ∧ off < 0xA0 then qualOk k (bitsNat new 11 8)
    else true
  else match k with
  | .mason =>
    let config := decide (s.fld (ctl pMason 0x100) 2 0 = 0)
    if off = 0x108 ∨ off = 0x118 ∨ off = 0x120 then config
    else if off = 0x110 then config && decide (bitsNat new 16 0 ≤ 65536)
    else if off = 0x128 then inRange (bitsNat new 13 0) 50 10000
    else if off = 0x138 then inRange (bitsNat new 13 0) 20 10000
    else if off = 0x130 ∧ hi = 31 then inRange (bitsNat new 31 24) 1 64
    else if off = 0x130 ∧ hi = 3 then inRange (bitsNat new 3 0) 2 15
    else if 0x800 ≤ off ∧ off % 32 < 16 then
      if hi = 51 then decide (bitsNat new 51 48 ≤ 12) && (!old.getLsbD 63 || decide (bitsNat new 51 48 = bitsNat old 51 48))
      else if hi = 47 then !old.getLsbD 63 || decide (bitsNat new 47 12 = bitsNat old 47 12)
      else true
    else true
  | .hwj =>
    let init := decide (s.fld (ctl pHwj 0x100) 2 0 = 0)
    if off = 0x130 ∧ hi = 29 then inRange (bitsNat new 29 16) 10 10000
    else if off = 0x130 then inRange (bitsNat new 13 0) 20 1000
    else if off = 0x138 ∧ hi = 15 then inRange (bitsNat new 15 8) 1 100
    else if off = 0x140 then decide (bitsNat new 29 0 % 64 = 0)
    else if off = 0x148 then init && framesReserved s (bitsNat new 47 28 * 2 ^ 28) (2 ^ 28)
    else if off = 0x150 then init && framesReserved s (bitsNat new 47 33 * 2 ^ 33) (2 ^ 33)
    else true
  | .ddrc | .hbmc => if off = 0x100 ∧ hi = 7 then decide (bitsNat new 7 0 ≠ 0) else true
  | .mort =>
    if off = 0x108 ∧ hi = 7 then decide (bitsNat new 7 0 ≠ 0)
    else if off = 0x110 then decide (bitsNat new hi (hi - 3) ≠ 0)
    else true
  | .pcie =>
    if 0xC00 ≤ off ∧ (hi = 46 ∨ hi = 14) then decide (bitsNat new hi (hi - 6) ≤ 0x63) else true
  | .rings =>
    let idle := decide (s.fld (ctl (pRings + inst) 0x100) 2 0 = 0)
    if off = 0x108 then idle
    else if off = 0x110 then idle && framesReserved s (bitsNat new 47 26 * 2 ^ 26) (2 ^ 26)
    else if off = 0x118 ∧ hi = 5 then idle && inRange (bitsNat new 5 0) 0x0C 0x28
    else if off = 0x118 then idle
    else if off = 0x170 ∨ off = 0x178 then idle && framesReserved s (bitsNat new 47 12 * 4096 / 0x4000 * 0x4000) 0x4000
    else if off = 0x120 then decide (bitsNat new 3 0 = 0)
    else true
  | .pwr =>
    if off = 0x108 ∧ hi = 15 then inRange (bitsNat new 15 8) 1 10
    else if off = 0x108 then inRange (bitsNat new 7 0) 0x50 0x69
    else if off = 0x180 ∧ hi = 3 then inRange (bitsNat new 3 0) 1 8
    else true
  | .dev =>
    if off = 0x120 then
      decide (bitsNat new 47 16 * 65536 + 32 * (s.fld (ctl pDev 0x130) 27 0 + 0x30000) ≤ s.ddrBytes)
    else if off = 0x128 ∧ hi ≠ 63 then
      let good := inRange (bitsNat new 4 0) 0x10 0x1C
      let k := if good then bitsNat new 4 0 else bitsNat old 4 0
      (good || hi = 47) && decide (bitsNat new 47 12 * 4096 + 4 * 2 ^ k ≤ s.ddrBytes)
    else if off = 0x1C0 ∧ hi = 47 then decide (bitsNat new 47 45 ≤ 2)
    else if off = 0x1C0 ∧ hi = 8 then decide (bitsNat new 8 0 ≤ 256)
    else true
  | _ => true

/-- A write as it reaches a doubleword register: the bits it covers and their values (spec/13 R417). -/
structure WReq where
  ca8 : Nat
  mask : Word
  val : Word
  raw : Word
  deriving DecidableEq, Repr

/-- The write of a 4-byte or 8-byte store; a 4-byte store covers its half only (spec/13 R417). -/
def wreq (ca : Nat) (sz : Size) (v : Word) : WReq :=
  match sz with
  | .b8 => { ca8 := ca / 8 * 8, mask := BitVec.allOnes 64, val := v, raw := v }
  | _ =>
    let v := v &&& 0xFFFFFFFF#64
    if ca % 8 < 4 then { ca8 := ca / 8 * 8, mask := 0xFFFFFFFF00000000#64, val := v <<< 32, raw := v }
    else { ca8 := ca / 8 * 8, mask := 0xFFFFFFFF#64, val := v, raw := v }

/-- The register with every RW field as written: what the reserved encodings are checked on. -/
def candidate (fs : List Fld) (old mask val : Word) : Word :=
  fs.foldl (fun acc f =>
    if f.acc = .rw then
      setBits acc f.lo (f.hi + 1 - f.lo) (bitsNat ((old &&& ~~~mask) ||| (val &&& mask)) f.hi f.lo)
    else acc) old

/-- The register after the write of one field. -/
def writeField (ok : Bool) (cand mask val acc : Word) (f : Fld) : Word :=
  match f.acc with
  | .rw => if ok then setBits acc f.lo (f.hi + 1 - f.lo) (bitsNat cand f.hi f.lo) else acc
  | .w1c => setBits acc f.lo (f.hi + 1 - f.lo) (bitsNat (acc &&& ~~~(val &&& mask)) f.hi f.lo)

/-- A store to a register that has no behaviour of its own: each field by its access code; a reserved encoding keeps
its field and is logged with kind 01h (spec/00 R12–R14, spec/13 R424). -/
def regWrite (s : State) (src : Nat) (w : WReq) : State :=
  let page := w.ca8 / 4096
  let off := w.ca8 % 4096
  match pageKind page with
  | none => s
  | some (k, inst) =>
    let fs := fieldsOf k off
    let old := s.reg w.ca8
    let cand := candidate fs old w.mask w.val
    let ok (f : Fld) : Bool := f.acc != .rw || fieldOk s k inst off f.hi old cand ||
      decide (bitsNat cand f.hi f.lo = bitsNat old f.hi f.lo ∧ bitsNat w.mask f.hi f.lo = 0)
    let new := fs.foldl (fun acc f => writeField (ok f) cand w.mask w.val acc f) old
    let s := s.setReg w.ca8 new
    if fs.all ok then s else s.logErr page 1 (off / 8) src w.raw

end Sys2Proof.Machine
end

