-- ==== Sys2Proof/Machine/Sess.lean ====
section
/-! DEFINITION. Session images (spec/02 Layout 2-8, R52, R53): densely packed decimal, spill and fill of a bank, and
the registers of PSTATE and SESSNO. -/

namespace Sys2Proof.Machine

/-- A declet of three digits, most significant first (IEEE 754-2008; spec/02 R52). -/
def dpdEncode (a b c : Nat) : Nat :=
  let bits (d : Nat) : Nat := d % 8
  let lo (d : Nat) : Nat := d % 2
  let mid (d : Nat) : Nat := d / 2 % 4
  match decide (8 ≤ a), decide (8 ≤ b), decide (8 ≤ c) with
  | false, false, false => bits a * 128 + bits b * 16 + bits c
  | false, false, true => bits a * 128 + bits b * 16 + 8 + lo c
  | false, true, false => bits a * 128 + mid c * 32 + lo b * 16 + 10 + lo c
  | true, false, false => mid c * 256 + lo a * 128 + bits b * 16 + 12 + lo c
  | true, true, false => mid c * 256 + lo a * 128 + lo b * 16 + 14 + lo c
  | true, false, true => mid b * 256 + lo a * 128 + 32 + lo b * 16 + 14 + lo c
  | false, true, true => bits a * 128 + 64 + lo b * 16 + 14 + lo c
  | true, true, true => lo a * 128 + 96 + lo b * 16 + 14 + lo c

/-- The value 0–999 of a declet; every declet decodes (spec/02 R52). -/
def dpdDecode (x : Nat) : Nat :=
  let pq := x / 256 % 4
  let r := x / 128 % 2
  let st := x / 32 % 4
  let u := x / 16 % 2
  let wx := x / 2 % 4
  let y := x % 2
  if x / 8 % 2 = 0 then (pq * 2 + r) * 100 + (st * 2 + u) * 10 + (wx * 2 + y)
  else if wx = 0 then (pq * 2 + r) * 100 + (st * 2 + u) * 10 + (8 + y)
  else if wx = 1 then (pq * 2 + r) * 100 + (8 + u) * 10 + (st * 2 + y)
  else if wx = 2 then (8 + r) * 100 + (st * 2 + u) * 10 + (pq * 2 + y)
  else if st = 0 then (8 + r) * 100 + (8 + u) * 10 + (pq * 2 + y)
  else if st = 1 then (8 + r) * 100 + (pq * 2 + u) * 10 + (8 + y)
  else if st = 2 then (pq * 2 + r) * 100 + (8 + u) * 10 + (8 + y)
  else (8 + r) * 100 + (8 + u) * 10 + (8 + y)

/-- Digit `k` of a packed register (spec/04 Layout 4-3): the nibble above the sign. -/
def decDigit (x : BitVec 128) (k : Nat) : Nat := x.toNat / 16 ^ (k + 1) % 16

/-- The compressed 112-bit form of a decimal register (spec/02 R52). -/
def decCompress (x : BitVec 128) : Nat :=
  let sign := if x.toNat % 16 = 0xD then 2 ^ 104 else 0
  let lets := (List.range 10).map (fun k =>
    dpdEncode (decDigit x (3 * k + 2)) (decDigit x (3 * k + 1)) (decDigit x (3 * k)) * 1024 ^ k)
  sign + decDigit x 30 * 2 ^ 100 + lets.sum

/-- The packed register of a compressed form; `none` where digit 30 is no digit (spec/02 R52). -/
def decExpand (v : Nat) : Option (BitVec 128) :=
  let top := v / 2 ^ 100 % 16
  if 9 < top then none
  else
    let digits := (List.range 10).map (fun k =>
      let n := dpdDecode (v / 1024 ^ k % 1024)
      (n / 100 * 256 + n / 10 % 10 * 16 + n % 10) * 4096 ^ k)
    some (BitVec.ofNat 128 ((top * 16 ^ 30 + digits.sum) * 16 + (if v / 2 ^ 104 % 2 = 1 then 0xD else 0xC)))

/-- SSW of a bank (spec/02 Layout 2-8). -/
def Bank.ssw (b : Bank) : Nat :=
  b.fctl.toNat * 2 ^ 40 + b.fstat.toNat * 2 ^ 32 + b.dctl.toNat * 2 ^ 24 + b.dstat.toNat * 2 ^ 16 +
    bitsNat b.istat 18 16 * 2 ^ 11 + bitsNat b.istat 2 0 * 2 ^ 8 + b.p.toNat / 2

/-- The session image of a bank for session `n` (spec/02 Layout 2-8, R53). -/
def Bank.image (b : Bank) (n : BitVec 18) (live : Bool) : List Byte :=
  beBytes 8 b.ssw ++ beBytes 16 b.krr.toNat ++
    ((List.finRange 31).map (fun i => beBytes 8 ((b.g.get (i.succ)).toNat))).flatten ++
    ((List.finRange 16).map (fun i => beBytes 14 (decCompress (b.d.get i)))).flatten ++
    beBytes 4 n.toNat ++ beBytes 2 b.ast.toNat ++ beBytes 2 (b2n live) ++ beBytes 8 0

/-- The bank that an image at `a` spells; `none` where a decimal register holds no digit 30 (spec/02 R52, R53). -/
def bankFromMem (s : State) (a : Nat) (n : BitVec 18) : Option Bank :=
  let ssw := s.memNat a 8
  let ds := (List.range 16).map (fun k => decExpand (s.memNat (a + 0x110 + 14 * k) 14))
  if ds.any Option.isNone then none
  else
    let f (lo w : Nat) : Nat := ssw / 2 ^ lo % 2 ^ w
    some
      { g := Vector.ofFn (fun i => if i.val = 0 then 0 else s.dword (a + 0x18 + 8 * (i.val - 1)))
        d := Vector.ofFn (fun i => (ds.getD i.val none).getD decZero)
        p := BitVec.ofNat 8 (f 0 7 * 2)
        istat := BitVec.ofNat 64 (f 11 3 * 2 ^ 16 + f 8 3)
        dstat := BitVec.ofNat 8 (f 16 8) &&& 0x87#8
        dctl := BitVec.ofNat 8 (f 24 8) &&& 0x0F#8
        fstat := BitVec.ofNat 8 (f 32 8) &&& 0x1F#8
        fctl := BitVec.ofNat 8 (f 40 8) &&& 0x7F#8
        krr := BitVec.ofNat 128 (s.memNat (a + 8) 16)
        sess := some n
        ast := BitVec.ofNat 16 (s.memNat (a + 0x1F4) 2)
        fresh := true
        used := 0 }

/-- The store slot of a session (spec/02 R53). -/
def sessAddr (n : BitVec 18) : Nat := 0x040200000000 + 512 * n.toNat

/-- SFLAGS.LIVE of a session's image. -/
def sessLive (s : State) (n : BitVec 18) : Bool := (s.memNat (sessAddr n + 0x1F6) 2) % 2 == 1

/-- The RINGS state of the course of a tile is REPLAY (spec/14 R445). -/
def State.replaying (s : State) (t : TileId) : Bool :=
  !isKeyst t && decide (s.fld (ctl (pRings + (courseOf t).val) 0x100) 2 0 = 3)

/-- PSTATE (spec/02 Map 2-4). -/
def State.pstate (s : State) (t : TileId) : Word :=
  let x := s.tile t
  BitVec.ofNat 64 (b2n (s.replaying t) * 2 ^ 10 + b2n (isKeyst t) * 2 ^ 9 + b2n x.ticket * 2 ^ 8 + x.bank.val * 16 +
    b2n x.ie * 4 + x.lvl.code)

/-- SESSNO of a bank (spec/02 Table 2-7). -/
def Bank.sessno (b : Bank) : Word :=
  match b.sess with
  | some n => BitVec.ofNat 64 n.toNat
  | none => 0x8000000000000000#64

/-- An empty bank. -/
def Bank.empty : Bank := Bank.reset

/-- The recency number of the bank that becomes current next. -/
def nextUse (x : Tile) : Nat := 1 + (x.banks.toList.map Bank.used).foldl max 0

/-- The banks when bank `b` becomes current: which was so least recently the session mover asks (spec/02, SWS). -/
def Tile.usedNow (x : Tile) (b : Fin 16) : Vector Bank 16 := x.banks.set b { x.banks.get b with used := nextUse x }

/-- The mover puts `new` into a bank: when the bank was last current stays its own (spec/02, SWS). -/
def Tile.putBank (x : Tile) (b : Fin 16) (new : Bank) : Tile := x.modBankAt b (fun k => { new with used := k.used })

end Sys2Proof.Machine
end

