-- ==== Sys2Proof/Machine/Rings.lean ====
section
/-! DEFINITION. The Rings recorder: records, buffer, window and stream (spec/14 R435–R443). -/

namespace Sys2Proof.Machine

/-- Control-space offset of a RINGS register of a course. -/
def ringsReg (c : CourseId) (off : Nat) : Nat := ctl (pRings + c.val) off

/-- The recorder of a course is in state RECORD. -/
def recording (s : State) (c : CourseId) : Bool := decide (s.fld (ringsReg c 0x100) 2 0 = 1)

/-- Change a recorder. -/
def State.modRings (s : State) (c : CourseId) (f : Rings → Rings) : State :=
  s.modCourse c (fun x => { x with rings := f x.rings })

/-- Bytes of records in the buffer. -/
def Rings.held (r : Rings) : Nat := (r.buf.map List.length).sum

/-- A record: header of Layout 14-1 with SEQ 0, and the payload padded to 16 bytes. -/
def mkRecord (rtype tile icnt tc : Nat) (payload : List Byte) : List Byte :=
  let n := 1 + ceilDiv payload.length 16
  beBytes 8 (rtype * 2 ^ 56 + tile * 2 ^ 53 + n * 2 ^ 41 + icnt % 2 ^ 40) ++ beBytes 8 (tc % 2 ^ 48) ++ payload ++
    List.replicate (16 * (n - 1) - payload.length) 0

/-- A record enters the buffer; with no room it is dropped with STALL = 0 (spec/14 R441, R442), and waits with STALL = 1, as its
event does. After STOP has been issued no further record enters (log entry 97). -/
def ringsPush (s : State) (c : CourseId) (rec : List Byte) : State :=
  if !recording s c || (s.course c).rings.stopping then s
  else
    let r := (s.course c).rings
    let gap := if r.gapRecs = 0 then [] else
      [mkRecord 0x0D 0 0 0 (beBytes 8 r.gapRecs ++ beBytes 8 r.gapBytes)]
    let add := (gap.map List.length).sum + rec.length
    if r.late = [] ∧ r.held + add ≤ Config.ringsBufBytes then
      s.modRings c (fun r => { r with buf := r.buf ++ gap ++ [rec], gapRecs := 0, gapBytes := 0 })
    else if (s.reg (ringsReg c 0x108)).getLsbD 61 then s.modRings c (fun r => { r with late := r.late ++ [rec] })
    else
      let s := s.modRings c (fun r => { r with gapRecs := r.gapRecs + 1, gapBytes := r.gapBytes + rec.length })
      (s.incSat (ringsReg c 0x150) 48 rec.length).raise (pRings + c.val) 2

/-- A tile whose event waits for room of its record issues nothing (spec/14 R441). -/
def recHold (s : State) (t : TileId) : State := s.modTile t (fun x => { x with recWait := true })

/-- An event of a tile (spec/14 Layout 14-1): keystone tiles belong to no course and record nothing. TC has gone up by as
many cycles as passed, which is free (log entry 5). Where the record waits for room, the tile waits with it (R441). -/
def ringsEvent (s : State) (t : TileId) (rtype : Nat) (payload : List Byte) : State :=
  if isKeyst t || !recording s (courseOf t) then s
  else
    let s := (s.modTile t (fun x => { x with tcc := (x.tcc + (s.freeVal 48).toNat) % 2 ^ 48 })).drew
    let x := s.tile t
    let s := ringsPush s (courseOf t) (mkRecord rtype (t.val % 8) x.icnt x.tcc payload)
    if (s.course (courseOf t)).rings.late = [] then s else recHold s t

/-- With STALL = 1 there is no room for `n` bytes of records (spec/14 R441). -/
def ringsFull (s : State) (t : TileId) (n : Nat) : Bool :=
  !isKeyst t && recording s (courseOf t) && (s.reg (ringsReg (courseOf t) 0x108)).getLsbD 61 &&
    !(s.course (courseOf t)).rings.stopping &&
    decide ((s.course (courseOf t)).rings.late ≠ [] ∨ Config.ringsBufBytes < (s.course (courseOf t)).rings.held + n)

/-- With STALL = 1 and no room for a record of `n` payload bytes, the instruction waits (spec/14 R441, log entry 14). -/
def ringsStalls (s : State) (t : TileId) (n : Nat) : Bool := ringsFull s t (16 * (1 + ceilDiv n 16))

/-- STW and PC of a record (spec/14 Table 14-2). -/
def stwPc (s : State) (t : TileId) : Nat :=
  let x := s.tile t
  b2n (x.lvl != .ledger) * 2 ^ 56 + x.pc.toNat % 2 ^ 48

/-- RLOAD of `bs` at an address, in pieces of at most 64 bytes (spec/14 Table 14-2). -/
def ringsRload (s : State) (t : TileId) (addr : Nat) (bs : List Byte) : State :=
  let pieces := (List.range (ceilDiv bs.length 64)).map (fun i => (i, (bs.drop (64 * i)).take 64))
  pieces.foldl (fun s q =>
    ringsEvent s t 0x07
      (beBytes 8 (q.2.length * 2 ^ 57 + stwPc s t) ++ beBytes 8 (addr + 64 * q.1) ++ q.2)) s

/-- Where position `p` of a recording lies (spec/14 R439). -/
def ringsAddr (s : State) (c : CourseId) (p : Nat) : Nat :=
  0x040300000000 + s.fld (ringsReg c 0x108) 1 0 * 2 ^ 30 + p % 2 ^ 30

/-- LEN in bytes of the record at a position. -/
def recLen (s : State) (c : CourseId) (p : Nat) : Nat := bitsNat (s.dword (ringsAddr s c p)) 52 41 * 16

/-- The first whole record at or after `tail` that lies at or above `lim` (spec/14 R439). -/
def ringsTail (s : State) (c : CourseId) (lim : Nat) : Nat → Nat → Nat
  | 0, tail => tail
  | f + 1, tail => if lim ≤ tail then tail else ringsTail s c lim f (tail + max 16 (recLen s c tail))

/-- Put SEQ into a record's header. -/
def withSeq (rec : List Byte) (seq : Nat) : List Byte := rec.take 8 ++ beBytes 2 (seq % 65536) ++ rec.drop 10

/-- A record goes to the host buffer as a memory write of the root port whose window holds STRBASE (spec/14 R440). What the
host's memory then holds is no state of the device. -/
def ringsStream (s : State) (c : CourseId) (head : Nat) : State :=
  match regionOf s (s.fld (ringsReg c 0x118) 47 12 * 4096 + head % 2 ^ s.fld (ringsReg c 0x118) 5 0) with
  | .pcie p => s.evCount (pPcie + p.val) 0x21 1
  | _ => s

/-- Write one record at HEAD, without the check of the window's end. -/
def ringsPut (s : State) (c : CourseId) (rec : List Byte) : State :=
  let page := pRings + c.val
  let head := (s.reg (ringsReg c 0x128)).toNat
  let stream := (s.reg (ringsReg c 0x108)).getLsbD 63
  let newHead := head + rec.length
  let lim := newHead - 2 ^ 30
  let tail := (s.reg (ringsReg c 0x130)).toNat
  let s := if stream then ringsStream s c head
    else
      let s := s.setReg (ringsReg c 0x130) (BitVec.ofNat 64 (ringsTail s c lim 0x4000000 tail))
      (s.setBytes (ringsAddr s c head) (withSeq rec (s.course c).rings.seq)).unpoison (ringsAddr s c head) rec.length
  let s := if (rec.headD 0).toNat = 1 then
      (s.setReg (ringsReg c 0x138) (BitVec.ofNat 64 head)) else s
  let s := s.setReg (ringsReg c 0x128) (BitVec.ofNat 64 newHead)
  let s := s.modRings c (fun r => { r with seq := r.seq + 1 })
  let s := (s.incSat (ringsReg c 0x148) 48 1).evCount page 0x20 1
  let s := s.evCount page 0x21 (newHead / 64 - head / 64)
  if !stream && (s.reg (ringsReg c 0x108)).getLsbD 62 && decide (newHead / 2 ^ 30 ≠ head / 2 ^ 30) then (s.raise page 1).evCount page 0x22 1 else s

/-- Write one buffered record to the window or the host buffer: `none` where it must wait or the recorder halts
(spec/14 R439, R440). -/
def ringsWrite1 (s : State) (c : CourseId) (rec : List Byte) : Option State :=
  let head := (s.reg (ringsReg c 0x128)).toNat
  let ctlr := s.reg (ringsReg c 0x108)
  let room := 2 ^ 30 - head % 2 ^ 30
  if ctlr.getLsbD 63 then
    let size := 2 ^ s.fld (ringsReg c 0x118) 5 0
    if size < head + rec.length - (s.reg (ringsReg c 0x120)).toNat then none else some (ringsPut s c rec)
  else
    let pad := if room < rec.length then [mkRecord 0x0F 0 0 0 (List.replicate (room - 16) 0)] else []
    let total := (pad.map List.length).sum + rec.length
    if ctlr.getLsbD 62 = false ∧ 2 ^ 30 < head + total then
      some ((s.setFld (ringsReg c 0x100) 2 0 2).raise (pRings + c.val) 0)
    else some (ringsPut (pad.foldl (fun s p => ringsPut s c p) s) c rec)

/-- Write buffered records, oldest first, until one must wait or the recorder halts. -/
def ringsFlush (c : CourseId) : List (List Byte) → State → State
  | [], s => s.modRings c (fun r => { r with buf := [] })
  | rec :: rest, s =>
    match ringsWrite1 s c rec with
    | none => s.modRings c (fun r => { r with buf := rec :: rest })
    | some s' =>
      if recording s' c then ringsFlush c rest s' else s'.modRings c (fun r => { r with buf := [] })

/-- The records that fit into `n` bytes, and the rest. -/
def fitRecs : Nat → List (List Byte) → List (List Byte) × List (List Byte)
  | _, [] => ([], [])
  | n, r :: rest => if r.length ≤ n then let q := fitRecs (n - r.length) rest; (r :: q.1, q.2) else ([], r :: rest)

/-- The recorder enters IDLE (spec/14 Table 14-5). -/
def ringsIdle (s : State) (c : CourseId) : State :=
  let s := s.modRings c (fun r => { r with buf := [], late := [], rTile := none, sweeping := false, stopping := false })
  (s.setFld (ringsReg c 0x100) 2 0 0).cmdDone (pRings + c.val) 2

/-- Write the buffered records of a recorder; those that waited for room enter behind them. When all have entered, the tiles that
waited go on (spec/14 R441) and a CKPT or MARK whose record waited is done (spec/13 R422); a STOP is done with the last record
(Table 14-5). -/
def ringsDrain (s : State) (c : CourseId) : State :=
  let r := (s.course c).rings
  let s := ringsFlush c (r.buf ++ r.late) (s.modRings c (fun r => { r with late := [] }))
  let q := fitRecs Config.ringsBufBytes (s.course c).rings.buf
  let s := s.modRings c (fun r => { r with buf := q.1, late := q.2 })
  let r := (s.course c).rings
  let s := if r.stopping && r.buf.isEmpty && r.late.isEmpty then ringsIdle s c
    else if r.late.isEmpty && !r.stopping && decide (s.fld (ctl (pRings + c.val) 0xF8) 7 0 = 1) then s.cmdDone (pRings + c.val) 2
    else s
  if (r.late = [] ∧ r.held < Config.ringsBufBytes) ∨ !recording s c then
    (courseTiles c).foldl (fun s t => if (s.tile t).recWait then s.modTile t (fun x => { x with recWait := false }) else s) s
  else s

/-- Every bank of the course is fresh (spec/14 R438). -/
def freshBanks (s : State) (c : CourseId) : State :=
  (courseTiles c).foldl (fun s t =>
    s.modTile t (fun x => { x with banks := x.banks.map (fun b => { b with fresh := true }) })) s

/-- A CKPT record, fresh banks and the sweep (spec/14 R443, Table 14-2). -/
def ringsCkpt (s : State) (c : CourseId) (no : Nat) : State :=
  let seqc := s.reg (ctl pHwj (0x200 + 0x40 * c.val))
  let hash := ((List.range 4).map (fun i =>
    beBytes 8 (s.reg (ctl pHwj (0x208 + 0x40 * c.val + 8 * i))).toNat)).flatten
  let ck := mkRecord 0x01 0 0 0
    (beBytes 8 (no * 2 ^ 32 + s.devNo.toNat * 2 ^ 23 + c.val * 2 ^ 19) ++ beBytes 8 s.clk.tb.toNat ++
      beBytes 8 seqc.toNat ++ beBytes 8 0 ++ hash)
  let s := ringsPush s c ck
  let s := s.setFld (ringsReg c 0x140) 31 0 no
  let s := s.modRings c (fun r => { r with sweeping := true, preLimit := s.fld (ringsReg c 0x158) 31 0 })
  freshBanks s c

/-- Another course records or replays in window `w` (spec/14 Table 14-5). -/
def windowTaken (s : State) (c : CourseId) (w : Nat) : Bool :=
  (List.finRange 12).any (fun d => decide (d ≠ c) && usesWindow s d.val w)

/-- Drop the memory cells of a range, so that it reads 0 (`memDefault`); its lines are written whole (spec/09 R295). -/
def State.zeroRange (s : State) (a n : Nat) : State :=
  State.unpoison { s with mem := s.mem.filter (fun c => decide (c.1 < a ∨ a + n ≤ c.1)) } a n

/-- The bit of a frame in the brick map of a course: byte address and bit (spec/14 R437). -/
def brickBit (s : State) (c : CourseId) (frame : Nat) : Nat × Nat :=
  let i := frame / 4096
  (s.fld (ringsReg c 0x110) 47 26 * 2 ^ 26 + i / 8, i % 8)

/-- The brick's bit is 0, or its line has not been swept (spec/14 R437). -/
def brickNeeded (s : State) (c : CourseId) (frame : Nat) : Bool :=
  (s.course c).rings.sweeping || !(s.byte (brickBit s c frame).1).getLsbD (brickBit s c frame).2

/-- Set or clear the bit of a frame in a brick map. -/
def setBrickBit (s : State) (c : CourseId) (frame : Nat) (v : Bool) : State :=
  let a := (brickBit s c frame).1
  s.setByte a (setPBit (s.byte a) (brickBit s c frame).2 v)

/-- The Mason clears the bit of a frame in the map of every recording course but one (spec/14 R437). -/
def clearBrickBits (s : State) (frame : Nat) (but : Option CourseId) : State :=
  (List.finRange 12).foldl (fun s c =>
    if recording s c && decide (some c ≠ but) then setBrickBit s c frame false else s) s

/-- START of a recorder (spec/14 Table 14-5). One that streams takes no window, so the window that another course has does not
refuse it (spec/01 R39; log entry 122). TIDs start again at 0, so a ticket first dispatched before has none in this recording. -/
def ringsStartOp (s : State) (c : CourseId) : State :=
  let p := pRings + c.val
  let w := s.reg (ringsReg c 0x108)
  if !w.getLsbD 63 && windowTaken s c (bitsNat w 1 0) then s.cmdDone p 0x0E
  else
    let s := [0x128, 0x130, 0x158, 0x148, 0x150].foldl (fun s o => s.setReg (ringsReg c o) 0) s
    let s := s.modRings c (fun _ => Rings.reset)
    let s := s.modMason (fun m => { m with tickets := m.tickets.map (fun k => if k.course = c then { k with tid := none } else k) })
    let s := s.setFld (ringsReg c 0x100) 2 0 1
    (ringsCkpt s c 0).cmdDone p 2

/-- A command that makes a record is done when the record has entered the buffer (spec/14 R441; spec/13 R422). -/
def ringsRecDone (s : State) (c : CourseId) : State :=
  if (s.course c).rings.late = [] then s.cmdDone (pRings + c.val) 2 else s

/-- CKPT command. -/
def ringsCkptOp (s : State) (c : CourseId) : State :=
  ringsRecDone (ringsCkpt s c ((s.fld (ringsReg c 0x140) 31 0 + 1) % 2 ^ 32)) c

/-- MARK command (spec/14 Table 14-2). -/
def ringsMarkOp (s : State) (c : CourseId) : State :=
  ringsRecDone (ringsPush s c (mkRecord 0x0E 0 0 0
    (beBytes 8 (s.reg (ringsReg c 0x160)).toNat ++ beBytes 8 s.clk.tb.toNat))) c

/-- STOP command: the buffered records are written, and then the recorder enters IDLE; where the host has no room for them
it stays busy until they are. A replay ends with RESULT as it stands. -/
def ringsStopOp (s : State) (c : CourseId) : State :=
  if recording s c then ringsDrain (s.modRings c (fun r => { r with stopping := true })) c else ringsIdle s c

/-- The sweep of the brick map completes (spec/14 R439). -/
def ringsSweepDone (s : State) (c : CourseId) : State :=
  if (s.course c).rings.sweeping then
    let s := s.zeroRange (s.fld (ringsReg c 0x110) 47 26 * 2 ^ 26) (2 ^ 26)
    (s.modRings c (fun r => { r with sweeping := false })).raise (pRings + c.val) 3
  else s

end Sys2Proof.Machine
end

