-- ==== Sys2Proof/Machine/Mort.lean ====
section
/-! DEFINITION. Sending on Mortar: link assignment, message types, routing with detours, virtual channels, credits and
quenches (spec/12 R387, R393, R396, R397, R400, R402). -/

namespace Sys2Proof.Machine

/-- Control-space offset of a MORT register of a link. -/
def mortReg (k : LinkId) (off : Nat) : Nat := ctl (pMort + k.val) off

/-- MORT.LSTAT.STATE (spec/12 Table 12-3). -/
def linkState (s : State) (k : LinkId) : Nat := s.fld (mortReg k 0x100) 2 0

/-- Stand, grove and slot of a device number (spec/01 R19). -/
def placeOf (d : BitVec 9) : Nat × Nat × Nat := (d.toNat / 64, d.toNat / 8 % 8, d.toNat % 8)

/-- The device at a place. -/
def devAt (t g sl : Nat) : BitVec 9 := BitVec.ofNat 9 (t * 64 + g * 8 + sl)

/-- d1 and d2 of spec/12 R387. -/
def canopyD (g sl : Nat) : Nat × Nat := (1 + (g + sl) % 7, 1 + (g + sl + 3) % 7)

/-- The peer of a link and the peer's link (spec/12 Table 12-1). -/
def linkPeer (d : BitVec 9) (k : LinkId) : BitVec 9 × Nat :=
  let t := (placeOf d).1
  let g := (placeOf d).2.1
  let sl := (placeOf d).2.2
  if k.val < 7 then (devAt t g ((sl + k.val + 1) % 8), 6 - k.val)
  else if k.val < 14 then (devAt t ((g + k.val - 6) % 8) sl, 20 - k.val)
  else if k.val = 14 then (devAt (t ^^^ (canopyD g sl).1) g sl, 14)
  else (devAt (t ^^^ (canopyD g sl).2) g sl, 15)

/-- The grove link to a slot. -/
def groveLink (sl sl' : Nat) : LinkId := Fin.ofNat 16 ((sl' + 7 - sl) % 8)

/-- The stand link to a grove. -/
def standLink (g g' : Nat) : LinkId := Fin.ofNat 16 (7 + (g' + 7 - g) % 8)

/-- Virtual channel of a message type (spec/12 Table 12-9). -/
def vcOf (ty : Nat) : Fin 4 :=
  if ty < 0x10 then 0 else if ty < 0x20 then 1 else if ty < 0x30 then 2 else 3

/-- The feature bit that a message needs (spec/12 Tables 12-6 and 12-9), if any; `e2e` for an end-to-end quench. -/
def featOf (ty : Nat) (e2e : Bool) : Option Nat :=
  if ty ≤ 4 then some 0
  else if ty ≤ 7 then some 1
  else if ty ≤ 9 then (if e2e then some 5 else none)
  else if ty = 0x10 then none
  else if ty ≤ 0x13 then some 3
  else if ty ≤ 0x16 then some 4
  else if ty < 0x30 then some 2
  else some 4

/-- A type of spec/12 Table 12-9. -/
def msgType (ty : Nat) : Bool :=
  inRange ty 1 9 || inRange ty 0x10 0x16 || inRange ty 0x20 0x23 || inRange ty 0x30 0x31

/-- The peer is a forerunner. -/
def linkFr (s : State) (k : LinkId) : Bool := (s.reg (mortReg k 0x100)).getLsbD 62

/-- A link has the feature of a message type. -/
def linkFeat (s : State) (k : LinkId) (ty : Nat) : Bool :=
  match featOf ty false with
  | none => true
  | some f => (s.reg (mortReg k 0x100)).getLsbD (40 + f)

/-- A link has the feature that a message needs (spec/12 R391); on a link to a forerunner an end-to-end quench is a link
quench (R401). -/
def linkCarries (s : State) (k : LinkId) (m : Msg) : Bool :=
  match featOf m.ty.toNat ((m.payload.headD 0).getLsbD 63 && !linkFr s k) with
  | none => true
  | some f => (s.reg (mortReg k 0x100)).getLsbD (40 + f)

/-- The device that stands for another after a takeover (spec/11 R380). -/
def aliasOf (s : State) (d : BitVec 9) : BitVec 9 :=
  match s.mason.aliases.find? (fun q => decide (q.1 = d)) with
  | some q => q.2
  | none => d

/-- A link is available for a message (spec/12 R402): UP, or in RETRAIN, where the message waits (R410); with its feature; a
link to a forerunner only where that is the destination. -/
def linkAvail (s : State) (k : LinkId) (m : Msg) : Bool :=
  decide (linkState s k = 2 ∨ linkState s k = 3) && linkCarries s k m &&
    (!linkFr s k || decide ((linkPeer s.devNo k).1 = aliasOf s m.dst))

/-- The canopy gateways of a stand toward `d`, in order of grove and slot (spec/12 R402). -/
def gateways (d : Nat) : List (Nat × Nat) :=
  ((List.range 64).map (fun i => (i / 8, i % 8))).filter
    (fun q => decide ((canopyD q.1 q.2).1 = d ∨ (canopyD q.1 q.2).2 = d))

/-- The link of the pseudocode nexthop, for a destination other than this device (spec/12). -/
def nexthop (here dst : BitVec 9) : LinkId :=
  let t := (placeOf here).1
  let g := (placeOf here).2.1
  let sl := (placeOf here).2.2
  let t' := (placeOf dst).1
  let g' := (placeOf dst).2.1
  let sl' := (placeOf dst).2.2
  if t ≠ t' then
    let d := t ^^^ t'
    if (canopyD g sl).1 = d then 14
    else if (canopyD g sl).2 = d then 15
    else
      match (List.range 8).find? (fun x => decide (x ≠ sl ∧ ((canopyD g x).1 = d ∨ (canopyD g x).2 = d))) with
      | some x => groveLink sl x
      | none => 14
  else if g ≠ g' then standLink g g'
  else groveLink sl sl'

/-- The waypoint of the first detour of spec/12 Table 12-11 that finds an available link. After the last gateway of the stand the
search goes on at the first (log entry 124). -/
def detour (s : State) (m : Msg) (dst : BitVec 9) : Option (BitVec 9) :=
  let here := s.devNo
  let t := (placeOf here).1
  let g := (placeOf here).2.1
  let sl := (placeOf here).2.2
  let t' := (placeOf dst).1
  let g' := (placeOf dst).2.1
  let sl' := (placeOf dst).2.2
  let up (w : BitVec 9) : Bool := linkAvail s (nexthop here w) m
  if t ≠ t' then
    let gs := (gateways (t ^^^ t')).map (fun q => devAt t q.1 q.2)
    let later := gs.filter (fun w => decide (here < w)) ++ gs.filter (fun w => decide (w < here))
    (later.filter (fun w => decide ((nexthop here w) ≠ nexthop here dst))).find? up
  else if g ≠ g' then
    (((List.range 8).filter (fun x => decide (x ≠ g ∧ x ≠ g'))).map (fun x => devAt t x sl)).find? up
  else
    (((List.range 8).filter (fun x => decide (x ≠ g))).map (fun x => (x, devAt t x sl'))).findSome? (fun q =>
      if linkAvail s (standLink g q.1) m then some q.2 else none)

/-- Words of a message, header included. -/
def Msg.words (m : Msg) : Nat := 1 + m.payload.length

/-- The words of a ticket in format T1, when it can be represented (spec/12 R412, Layout 12-14). -/
def t1Words (ws : List Word) : Option (List Word) :=
  let w := ws.headD 0
  if w.getLsbD 45 ∨ bitsNat w 30 27 ≠ 0 ∨ 2 < bitsNat w 44 42 ∨ 16 < bitsNat w 37 32 then none
  else some (BitVec.ofNat 64 (bitsNat w 63 48 * 2 ^ 48 + bitsNat w 46 46 * 2 ^ 46 + bitsNat w 44 42 * 2 ^ 44 +
    bitsNat w 39 38 * 2 ^ 42 + bitsNat w 37 32 * 2 ^ 37 + bitsNat w 26 0) :: (ws.drop 1).take 5)

/-- A message as it enters a link: a ticket in the link's format (spec/12 R412), an end-to-end quench to a forerunner as a
link quench (R401). `none`: it cannot enter. Until it is sent it waits in its own form. -/
def onLink (s : State) (k : LinkId) (m : Msg) : Option Msg :=
  if m.ty = 0x10 ∧ !(s.reg (mortReg k 0x100)).getLsbD 33 then (t1Words m.payload).map (fun ws => { m with payload := ws })
  else if (m.ty = 8 ∨ m.ty = 9) ∧ linkFr s k then some { m with payload := m.payload.map (fun w => setBit w 63 false) }
  else some m

/-- Words that a message takes on a link. -/
def linkWords (s : State) (k : LinkId) (m : Msg) : Nat := (((onLink s k m).map Msg.words).getD m.words)

/-- The link runs M2. -/
def linkM2 (s : State) (k : LinkId) : Bool := (s.reg (mortReg k 0x100)).getLsbD 32

/-- VCs that a quench holds for a message to `dst` on link `k` (spec/12 R400). -/
def quenched (s : State) (k : LinkId) (vc : Fin 4) (dst : BitVec 9) : Bool :=
  vc != 0 &&
    (((s.reg (mortReg k 0x120)).getLsbD 63 && (s.reg (mortReg k 0x120)).getLsbD (55 + vc.val)) ||
      s.e2e.any (fun q => decide (q.1 = dst) && (q.2.1).getLsbD (vc.val - 1)))

/-- A message of the VC that may be sent: it is not quenched. -/
def mayGo (s : State) (k : LinkId) (vc : Fin 4) (m : Msg) : Bool :=
  decide (vcOf m.ty.toNat = vc) && !quenched s k vc m.dst

/-- A VC has words to send and a credit, and on M2 the replay buffer has room (spec/12 R395–R397). A message that has been sent in
part and whose destination is then quenched holds its VC on this link, since no other may come between its words (R393; log entry
125). -/
def vcReady (s : State) (k : LinkId) (vc : Fin 4) : Bool :=
  let l := s.link k
  l.credit.get vc != 0 && (!linkM2 s k || decide (l.replay.length < 256)) &&
    (if l.part.get vc ≠ 0 then !quenched s k vc (l.partDst.get vc) else l.tx.any (mayGo s k vc))

/-- Words, messages that end, words left of the last message with its destination, and messages left. -/
structure Fill where
  words : Nat
  ends : Nat
  part : Nat
  dst : BitVec 9
  rest : List Msg
  deriving DecidableEq, Repr

/-- The messages of a VC fill a flit or frame with `room` words, in order (spec/12 R393, R399). -/
def fillUnit (s : State) (k : LinkId) (vc : Fin 4) : Nat → List Msg → Fill
  | _, [] => { words := 0, ends := 0, part := 0, dst := 0, rest := [] }
  | room, m :: r =>
    let w := linkWords s k m
    if room = 0 then { words := 0, ends := 0, part := 0, dst := 0, rest := m :: r }
    else if !mayGo s k vc m then
      let f := fillUnit s k vc room r
      { f with rest := m :: f.rest }
    else if w ≤ room then
      let f := fillUnit s k vc (room - w) r
      { f with words := w + f.words, ends := 1 + f.ends }
    else { words := room, ends := 0, part := w - room, dst := m.dst, rest := r }

/-- Words that the next flit or frame of a VC may hold: 31 in a flit, 512 in a frame, within the credits, which M1 counts in
blocks of 256 bytes (spec/12 R393, R396, R399). -/
def unitRoom (s : State) (k : LinkId) (vc : Fin 4) : Nat :=
  let c := (s.link k).credit.get vc
  if linkM2 s k then min 31 c else min 512 (32 * c)

/-- The weighted round robin of VC1 to VC3: the slots of one round (spec/12 R397, ARB). -/
def arbRound (s : State) (k : LinkId) : List (Fin 4) :=
  let a := s.reg (mortReg k 0x110)
  List.replicate (bitsNat a 3 0) 1 ++ List.replicate (bitsNat a 7 4) 2 ++ List.replicate (bitsNat a 11 8) 3

/-- The VC of the next flit or frame: VC0 first, then the round robin from its pointer (spec/12 R397). -/
def pickVc (s : State) (k : LinkId) : Option (Fin 4 × Nat) :=
  if vcReady s k 0 then some (0, (s.link k).arb)
  else
    let r := arbRound s k
    let n := r.length
    (List.range n).findSome? (fun i =>
      let j := ((s.link k).arb + i) % n
      if vcReady s k (r.getD j 1) then some (r.getD j 1, j + 1) else none)

/-- Every flit returns credits of one VC, VC0 first (spec/12 R396). -/
def returnCredit (o : Vector Nat 4) : Vector Nat 4 :=
  match (List.finRange 4).find? (fun i => decide (o.get i ≠ 0)) with
  | some i => o.set i (o.get i - 2047)
  | none => o

/-- Send one flit or frame of a VC: the message in progress first. The replay buffer keeps it; on M1, where no
acknowledgement is described, the last 256 frames. -/
def sendUnit (s : State) (k : LinkId) (vc : Fin 4) (arb : Nat) : State :=
  let l := s.link k
  let room := unitRoom s k vc
  let p := l.part.get vc
  let f : Fill := if room < p then { words := room, ends := 0, part := p - room, dst := l.partDst.get vc, rest := l.tx }
    else
      let g := fillUnit s k vc (room - p) l.tx
      { g with words := p + g.words, ends := (if p = 0 then 0 else 1) + g.ends }
  let cost := if linkM2 s k then f.words else ceilDiv f.words 32
  let kept := if !linkM2 s k && decide (256 ≤ l.replay.length) then l.replay.drop 1 else l.replay
  let s := s.modLink k (fun l =>
    { l with tx := f.rest, part := l.part.set vc f.part, partDst := l.partDst.set vc f.dst, nakOwed := false,
             owed := returnCredit l.owed, credit := l.credit.set vc (l.credit.get vc - cost),
             replay := kept ++ [{ seq := l.nextSeq, vc := vc, ends := f.ends }], nextSeq := l.nextSeq + 1, arb := arb })
  let q (x : Nat) : Bool := decide (x = 0 ∨ x = 8 + vc.val)
  (s.evCountQ (pMort + k.val) 0x20 q 1).evCountQ (pMort + k.val) 0x22 q f.words

/-- Send what may be sent on an UP link. -/
def pumpUnits (k : LinkId) : Nat → State → State
  | 0, s => s
  | f + 1, s =>
    match pickVc s k with
    | some (vc, arb) => pumpUnits k f (sendUnit s k vc arb)
    | none => s

/-- QUENCH and UNQUENCH leave an M1 link as control symbols, outside every frame (spec/12 R399). -/
def sendSymbols (s : State) (k : LinkId) : State :=
  if linkM2 s k then s
  else s.modLink k (fun l => { l with tx := l.tx.filter (fun m => decide (m.ty ≠ 8 ∧ m.ty ≠ 9)) })

/-- Let an UP link send. Each flit or frame is full, or the last of its VC for now. -/
def pumpLink (s : State) (k : LinkId) : State :=
  if linkState s k = 2 then
    let s := sendSymbols s k
    let l := s.link k
    pumpUnits k (8 + ((l.tx.map (fun m => linkWords s k m)).sum + l.part.toList.sum) / 31) s
  else s

/-- A message is discarded on a link (spec/12 R398, R394). -/
def dropMsg (s : State) (k : LinkId) (vc : Nat) : State :=
  ((s.incSat (mortReg k 0x138) 48 1).raise (pMort + k.val) 5).evCountQ (pMort + k.val) 0x26
    (fun x => decide (x = 0 ∨ x = 8 + vc)) 1

/-- Put a message on a link. -/
def enqueueMsg (s : State) (k : LinkId) (m : Msg) : State :=
  pumpLink (s.modLink k (fun l => { l with tx := l.tx ++ [m] })) k

/-- A message that cannot enter its link is discarded; a ticket that T1 cannot represent goes to the Mason here, which refuses it
(spec/10 R341). -/
def cannotEnter (s : State) (k : LinkId) (m : Msg) : State :=
  if m.ty = 0x10 then { s with loopq := s.loopq ++ [{ m with via := none, routed := false }] } else dropMsg s k (vcOf m.ty.toNat).val

/-- Route a message (spec/12 R402): to its waypoint or destination, by the first available detour, or discard it; a
message for a failed device goes to the device that promoted for it (spec/11 R380), and one for this device stays. A
FENCED device sends nothing of its own on VC1 to VC3 (spec/11 R379). `seen`: the message has had its waypoint. -/
def routeVia (s : State) (m : Msg) (seen : Bool) : State :=
  let vc := vcOf m.ty.toNat
  let dst := m.via.getD (aliasOf s m.dst)
  if dst = s.devNo then { s with loopq := s.loopq ++ [{ m with via := none }] }
  else if vc ≠ 0 ∧ m.src = s.devNo ∧ s.fld (ctl pHwj 0x100) 2 0 = 5 then s
  else
    let k := nexthop s.devNo dst
    if linkAvail s k m then
      match onLink s k m with
      | some _ => enqueueMsg s k { m with routed := seen }
      | none => cannotEnter s k m
    else if m.via.isSome || seen then dropMsg s k vc.val
    else match detour s m dst with
      | some w =>
        let k' := nexthop s.devNo w
        match onLink s k' m with
        | some _ => (enqueueMsg s k' { m with via := some w }).evCountQ (pMort + k.val) 0x27
            (fun x => decide (x = 0 ∨ x = 8 + vc.val)) 1
        | none => cannotEnter s k' m
      | none => dropMsg s k vc.val

/-- Route a message that has had no waypoint. -/
def routeMsg (s : State) (m : Msg) : State := routeVia s m false

/-- Send a message of this device. -/
def State.send (s : State) (ty : Nat) (dst : BitVec 9) (arg : Nat) (payload : List Word) : State :=
  routeMsg s { ty := BitVec.ofNat 8 ty, dst := dst, src := s.devNo, via := none,
               arg := BitVec.ofNat 16 arg, payload := payload }

/-- Words of a list of bytes. -/
def wordsOf (bs : List Byte) : List Word :=
  (List.range (ceilDiv bs.length 8)).map (fun i =>
    BitVec.ofNat 64 (ofBytes (((bs.drop (8 * i)).take 8) ++ List.replicate (8 - ((bs.drop (8 * i)).take 8).length) 0)))

/-- The 8 words of a ticket. -/
def ticketWords (t : Ticket) : List Word := wordsOf (beBytes 64 t.toNat)

/-- A ticket with the slice entry of its key attached, if any (spec/10 Table 10-9; log entry 27). -/
def ticketMsg (t : Ticket) (entry : Word) : List Word := ticketWords t ++ (if entry = 0 then [] else [entry])

/-- The two words of a continuation's source pair and sequence (spec/12 Table 12-9; spec/11 Layout 11-4). -/
def seqWords (dev : BitVec 9) (course : Nat) (seq : Nat) : List Word :=
  [BitVec.ofNat 64 (dev.toNat * 2 ^ 55 + course * 2 ^ 51 + seq / 2 ^ 0 % 2 ^ 48), 0]

/-- Grove peers of this device by slot. -/
def grovePeers (s : State) : List (BitVec 9) :=
  let p := placeOf s.devNo
  ((List.range 8).filter (fun x => decide (x ≠ p.2.2))).map (fun x => devAt p.1 p.2.1 x)

/-- Send on the direct link and through every grove peer (spec/11 R370, R377). -/
def sendAllRoutes (s : State) (ty : Nat) (dst : BitVec 9) : State :=
  let base : Msg := { ty := BitVec.ofNat 8 ty, dst := dst, src := s.devNo, via := none, arg := 0, payload := [] }
  let one (s : State) (w : BitVec 9) (m : Msg) : State :=
    let k := nexthop s.devNo w
    if linkAvail s k m then enqueueMsg s k m else s
  let s := one s dst base
  ((grovePeers s).filter (fun w => decide (w ≠ dst))).foldl (fun s w => one s w { base with via := some w }) s

end Sys2Proof.Machine
end

