-- ==== Sys2Proof/Machine/Journal.lean ====
section
/-! DEFINITION. The Heartwood ring: record layouts, chains, positions, space, and the records of chain 12 (spec/11
R359–R366). -/

namespace Sys2Proof.Machine

/-- Control-space offset of an HWJ register. -/
def hwjReg (off : Nat) : Nat := ctl pHwj off

/-- HWJ.STATE (spec/11 Table 11-13). -/
def hwjState (s : State) : Nat := s.fld (hwjReg 0x100) 2 0

/-- Enter an HWJ state. -/
def setHwjState (s : State) (n : Nat) : State := s.setFld (hwjReg 0x100) 2 0 n

/-- HWJ.HEADPOS. -/
def headPos (s : State) : Nat := (s.reg (hwjReg 0x108)).toNat
/-- HWJ.DRAINPOS. -/
def drainPos (s : State) : Nat := (s.reg (hwjReg 0x118)).toNat
/-- HWJ.BUDDY, when BV is 1. -/
def buddy? (s : State) : Option (BitVec 9) :=
  if (s.reg (hwjReg 0x128)).getLsbD 63 then some (BitVec.ofNat 9 (s.fld (hwjReg 0x128) 8 0)) else none

/-- Free space of the ring (spec/11 R364). -/
def ringFree (s : State) : Nat := Config.ringBytes - (headPos s - drainPos s)

/-- Where a ring position lies (spec/11 R362). -/
def ringAddr (p : Nat) : Nat := 0x080000000000 + p % Config.ringBytes

/-- Records are mirrored: RESYNC or PAIRED (spec/11 R353). -/
def mirroring (s : State) : Bool := hwjState s == 2 || hwjState s == 3

/-- Next CSEQ of a chain. -/
def chainSeq (s : State) (c : Nat) : Nat := (s.reg (hwjReg (0x200 + 0x40 * c))).toNat

/-- HASH of a chain's last record. -/
def chainHash (s : State) (c : Nat) : List Byte :=
  ((List.range 4).map (fun i => beBytes 8 (s.reg (hwjReg (0x208 + 0x40 * c + 8 * i))).toNat)).flatten

/-- Set a chain's registers. -/
def setChain (s : State) (c seq : Nat) (h : List Byte) : State :=
  (List.range 4).foldl (fun s i =>
    s.setReg (hwjReg (0x208 + 0x40 * c + 8 * i)) (BitVec.ofNat 64 (ofBytes ((h.drop (8 * i)).take 8))))
    (s.setReg (hwjReg (0x200 + 0x40 * c)) (BitVec.ofNat 64 seq))

/-- Fields of a record that its layout takes beside its body. -/
structure RecHdr where
  kind : Nat
  chain : Nat
  unmir : Bool := false
  ncont : Nat := 0
  rcpt : Bool := false
  next : Nat := 0
  nkey : Nat := 0
  deriving DecidableEq, Repr

/-- First doubleword of a record header (spec/11 Layout 11-3). -/
def hdrWord (h : RecHdr) (mcopy : Bool) (dev units : Nat) : Nat :=
  0x4A52 * 2 ^ 48 + h.kind * 2 ^ 44 + b2n mcopy * 2 ^ 43 + b2n h.unmir * 2 ^ 42 + dev * 2 ^ 29 + h.chain * 2 ^ 25 +
    h.ncont * 2 ^ 22 + b2n h.rcpt * 2 ^ 21 + h.next * 2 ^ 12 + h.nkey * 2 ^ 9 + units

/-- Units of 64 bytes of a record with a body. -/
def recUnits (body : List Byte) : Nat := ceilDiv (64 + body.length) 64

/-- A record's bytes: header, body, fill (spec/11 R359). -/
def recBytes (h : RecHdr) (mcopy : Bool) (dev pos cseq tb : Nat) (hash body : List Byte) : List Byte :=
  let n := recUnits body
  beBytes 8 (hdrWord h mcopy dev n) ++ beBytes 8 pos ++ beBytes 8 cseq ++ beBytes 8 tb ++ hash ++ body ++
    List.replicate (64 * n - 64 - body.length) 0

/-- The HASH of a record: the previous HASH and the record with POS, MCOPY and HASH taken as 0 (spec/11 R360). -/
def recHash (prev : List Byte) (h : RecHdr) (dev cseq tb : Nat) (body : List Byte) : List Byte :=
  sha256 (prev ++ recBytes h false dev 0 cseq tb (List.replicate 32 0) body)

/-- The bytes of a pad record of a length (spec/11 R359). -/
def padBytes (pos len : Nat) : List Byte :=
  beBytes 8 (0x4A52 * 2 ^ 48 + 3 * 2 ^ 44 + len / 64) ++ beBytes 8 pos ++ List.replicate (len - 16) 0

/-- Space a record of `len` bytes needs, its pad included. -/
def spaceFor (s : State) (len : Nat) : Nat :=
  let room := Config.ringBytes - headPos s % Config.ringBytes
  if room < len then room + len else len

/-- RINGLOW sets once as the free space falls below LOWMARK (spec/11 R364). -/
def checkLow (before : Nat) (s : State) : State :=
  let lm := s.fld (hwjReg 0x140) 29 0
  if lm ≤ before ∧ ringFree s < lm then s.raise pHwj 5 else s

/-- Write bytes at HEADPOS, after a pad where they would cross the end of the ring, and advance HEADPOS. The caller has
checked the space. `mk` gives the bytes from the position. -/
def ringPut (s : State) (len : Nat) (mk : Nat → List Byte) : State :=
  let before := ringFree s
  let room := Config.ringBytes - headPos s % Config.ringBytes
  let s := if room < len then
      (s.setBytes (ringAddr (headPos s)) (padBytes (headPos s) room)).setReg (hwjReg 0x108)
        (BitVec.ofNat 64 (headPos s + room))
    else s
  let pos := headPos s
  let s := (s.setBytes (ringAddr pos) (mk pos)).setReg (hwjReg 0x108) (BitVec.ofNat 64 (pos + len))
  checkLow before ((s.evCount pHwj 0x20 1).evCount pHwj 0x21 (len / 64))

/-- The record that is written next is tracked until it is done with. -/
def trackRec (s : State) (r : JRec) : State := s.modHwj (fun h => { h with inflight := h.inflight ++ [r] })

/-- Position at which a record of `len` bytes will lie. -/
def nextPos (s : State) (len : Nat) : Nat :=
  let room := Config.ringBytes - headPos s % Config.ringBytes
  if room < len then headPos s + room else headPos s

/-- Write a record of this device (spec/11 R360, R363), send it to the buddy where R353 says so, and track it. -/
def putOwn (s : State) (h : RecHdr) (body : List Byte) (track : JRec) : State :=
  let dev := s.devNo.toNat
  let cseq := chainSeq s h.chain
  let tb := s.clk.tb.toNat
  let hash := recHash (chainHash s h.chain) h dev cseq tb body
  let len := 64 * recUnits body
  let pos := nextPos s len
  let s := ringPut s len (fun p => recBytes h false dev p cseq tb hash body)
  let s := setChain s h.chain (cseq + 1) hash
  let s := trackRec s { track with pos := pos, len := len }
  match buddy? s with
  | some b => if mirroring s then s.send 0x20 b 0 (wordsOf (recBytes h false dev pos cseq tb hash body)) else s
  | none => s

/-- An untracked shape to fill in. -/
def blankRec : JRec :=
  { pos := 0, len := 0, ticket := none, needAck := false, acked := false, durable := false, mirrored := false,
    cont := false, mcopy := none, rcpt := none }

/-- Body of a drain mark (spec/11 Layout 11-4): the new DRAINPOS and every chain as it stands at its position. -/
def drainBody (s : State) (newPos : Nat) : List Byte :=
  beBytes 8 newPos ++ beBytes 8 0 ++
    ((List.range 13).map (fun c => beBytes 8 (chainSeq s c) ++ chainHash s c)).flatten

/-- Receipt item (spec/11 Layout 11-4). -/
def receiptItem (dev : BitVec 9) (course : BitVec 4) (seq : BitVec 48) (status : Nat) : List Byte :=
  beBytes 8 (dev.toNat * 2 ^ 55 + course.toNat * 2 ^ 51 + seq.toNat) ++ beBytes 8 status

/-- HWJ.DURPOS: the lowest position not yet durable (spec/11 R363). -/
def setDurPos (s : State) : State :=
  let d := match s.hwj.inflight.find? (fun r => !r.durable) with
    | some r => r.pos
    | none => headPos s
  s.setReg (hwjReg 0x110) (BitVec.ofNat 64 d)

/-- HWJ.DRAINLIM (spec/11 R366). While no complete snapshot exists it does not pass DRAINPOS (log entry 127). -/
def drainLim (s : State) : Nat :=
  let dur := (s.reg (hwjReg 0x110)).toNat
  let own := s.mason.pend.filter (fun p => p.src = s.devNo && !p.void)
  let a := own.foldl (fun m p => min m p.pos) dur
  match s.hwj.snapDone with
  | some p => min a p
  | none => min a (drainPos s)

/-- A walk of the records from `p` meets position `q` (spec/11 R365). -/
def isRecPos (s : State) (q : Nat) : Nat → Nat → Bool
  | 0, _ => false
  | f + 1, p =>
    if p = q then true
    else if q < p then false
    else isRecPos s q f (p + 64 * max 1 ((s.memNat (ringAddr p) 8) % 512))

/-- Mason send-table entries as the working area holds them (spec/10 Layout 10-10), followed by the receive table. -/
def seqTables (s : State) : List Byte :=
  let sendOne (i : Nat) : List Byte :=
    let e := assocFind s.mason.send i SendEnt.fresh
    beBytes 6 e.next ++ beBytes 6 e.oldest ++ beBytes 4 e.count
  let recvOne (i : Nat) : List Byte :=
    let e := assocFind s.mason.recv i { lw := 0, bm := 0 }
    beBytes 6 e.lw ++ List.replicate 26 0 ++ beBytes 32 e.bm.toNat
  ((List.range 6144).map sendOne).flatten ++ ((List.range 6144).map recvOne).flatten

end Sys2Proof.Machine
end

