-- ==== Sys2Proof/Machine/Except.lean ====
section
/-! DEFINITION. Taking an exception, a trap or an interrupt: the frame, the stack check, STACKFAULT, checkstop, and the
pending sources (spec/08). -/

namespace Sys2Proof.Machine

/-- Enter HWJ state FENCED (spec/11 R379; spec/13 Layout 13-16). -/
def enterFenced (s : State) (fromBuddy : Bool) : State :=
  if hwjState s = 5 then s
  else ((setHwjState s 5).raise pHwj 4).mcPush 4 pHwj (b2n fromBuddy)

/-- The exception registers of a level. -/
def Tile.ex (x : Tile) (l : Level) : ExRegs := if l = .keystone then x.exK else x.exS

/-- Change the exception registers of a level. -/
def Tile.setEx (x : Tile) (l : Level) (f : ExRegs → ExRegs) : Tile :=
  if l = .keystone then { x with exK := f x.exK } else { x with exS := f x.exS }

/-- Entry level of a cause code (spec/08 Table 8-1). -/
def entryLevel (code : Nat) : Level := if code = 0x19 ∨ code = 0x20 ∨ code = 0x28 then .keystone else .steward

/-- The level an entry is taken at (spec/08 R243). -/
def takenLevel (t : TileId) (cur : Level) (code : Nat) : Level :=
  if isKeyst t ∨ cur = .keystone ∨ entryLevel code = .keystone then .keystone else .steward

/-- An instruction word is the first of an S-format instruction (spec/02 Table 2-12; spec/04; spec/05). -/
def sFormat (w : Nat) : Bool :=
  let major := w / 2 ^ 21 % 128
  inRange major 0x50 0x5F

/-- IWORD of a frame (spec/08 Layout 8-4). -/
def iword (s : State) (t : TileId) (pc : Word) : Word :=
  match peekWord s t pc with
  | none => 0
  | some w =>
    let second := if sFormat w then (peekWord s t (pc + 4)).getD 0 else 0
    BitVec.ofNat 64 (w * 2 ^ 32 + second)

/-- CAUSE of an entry (spec/08 Map 8-3). -/
def causeWord (async : Bool) (code sub : Nat) : Word := BitVec.ofNat 64 (b2n async * 2 ^ 16 + code % 256 * 256 + sub % 256)

/-- Fields of an S-format instruction that spec/05 Table 5-2 uses. -/
structure SForm where
  rb : Bool := false
  rx : Bool := false
  pd : Bool := false
  imm : Bool := false
  ft : Bool := false
  deriving DecidableEq, Repr

/-- The rows of spec/05 Table 5-2 from MVS to EDTM, by major and function; `ext` is the fixed-time form of EDTM (spec/00 Table
0-3). -/
def sForm (ext : Bool) (major fn : Nat) : Option SForm :=
  match major, fn with
  | 0x50, 0 | 0x50, 1 => some { rb := true, ft := true }
  | 0x51, 0 => some { rb := true, rx := true, pd := true, ft := true }
  | 0x51, 1 | 0x51, 2 => some { pd := true, imm := true }
  | 0x52, 0 => some { rb := true, ft := true }
  | 0x52, 1 => some { rb := true, rx := true, pd := true, ft := true }
  | 0x53, 0 => some { rb := true, ft := true }
  | 0x53, 1 => some { rb := true, rx := true, ft := ext }
  | _, _ => none

/-- The words of an S-format instruction leave no field that the form does not use, and no RSVD field, nonzero (spec/05 R160). -/
def SForm.fits (f : SForm) (w w2 : Nat) : Bool :=
  (f.rb || w / 2 ^ 11 % 32 == 0) && (f.rx || w2 / 2 ^ 24 % 32 == 0) && (f.pd || w2 / 2 ^ 21 % 8 == 0) &&
    (f.imm || w2 / 2 ^ 8 % 256 == 0) && (f.ft || w2 / 2 ^ 31 % 2 == 0) &&
    w2 / 2 ^ 29 % 4 == 0 && w2 / 2 ^ 16 % 32 == 0 && w2 % 256 == 0

/-- The control word register of an instruction of Layout 8-5, MVS to EDTM, DLDX and DSTX, that the words `w` and `w2` spell; no
undefined encoding is one (spec/05 R160; spec/04 R135: a d register is named by four bits). -/
def longWord (ext : Bool) (w w2 : Nat) : Option (BitVec 5) :=
  let major := w / 2 ^ 21 % 128
  let r := some (BitVec.ofNat 5 (w / 64))
  if major = 0x43 then (if (w % 64 = 8 ∨ w % 64 = 9) ∧ w / 2 ^ 20 % 2 = 0 then r else none)
  else match sForm ext major (w % 64) with
    | some f => if f.fits w w2 then r else none
    | none => none

/-- The control word register of an incomplete long instruction at `pc`: one whose PROG bit is set (spec/08 Layout 8-5). -/
def longAt (s : State) (t : TileId) (pc : Word) : Option (BitVec 5) :=
  let x := s.tile t
  match x.long with
  | some r => some r
  | none =>
    ((peekWord s t pc).bind (fun w =>
      longWord (s.fuses.caps0.getLsbD 8) w (if sFormat w then (peekWord s t (pc + 4)).getD 0 else 0))).filter
        (fun r => (x.g r).getLsbD 63)

/-- The frame of an entry as 16 doublewords (spec/08 Layout 8-4, Layout 8-5); g1–g4 are undefined when the
fill of the bank that PSTATE.BANK names failed, which left it empty (spec/08 R249, spec/02 R52). -/
def frameWords (s : State) (t : TileId) (cause : Word) (e : Exc) (pc : Word) : List Word :=
  let x := s.tile t
  let long := longAt s t pc
  let prog := match long with
    | some r => x.g r
    | none => 0
  let reg := match long with
    | some r => r.toNat
    | none => 0
  let prog1 : Word := BitVec.ofNat 64 (b2n long.isSome * 2 ^ 63 + reg * 256 + satNat 8 x.units)
  let lost := e.code = 0x12 ∧ e.sub = 1 ∧ x.bank ≠ 0 ∧ x.cur.sess = none
  let gr (i : Nat) : Word := if lost then Config.freeValue (s.freeCtr + i) 64 else x.g (BitVec.ofNat 5 i)
  [pc, s.pstate t, cause, e.faddr, e.finfo, iword s t pc, prog, prog1, gr 1, gr 2, gr 3, gr 4, 0, 0, 0, 0]

/-- The stack check of a level: the place of the frame, or the subcode of STACKFAULT (spec/08 R250, Table 8-6). -/
def stackCheck (s : State) (t : TileId) (l : Level) : Sum Nat (Xl × State) :=
  let r := (s.tile t).ex l
  if r.sp.toNat % 128 ≠ 0 then .inl 2
  else if r.sp.toNat < 128 + r.slim.toNat then .inl 1
  else match translate s t .data (ctxOf s t l) .push (r.sp - 128) 128 with
    | .ok x s' => if x.ty = .normal then .inr (x, s') else .inl 4
    | .exc e _ => if e.code = 7 ∨ e.code = 9 then .inl 3 else .inl 4
    | .halt _ => .inl 3

/-- Bytes of a list of doublewords. -/
def bytesOfWords (ws : List Word) : List Byte := (ws.map (fun w => beBytes 8 w.toNat)).flatten

/-- The frame stores follow the tile's earlier stores (spec/08 R252). `stopCheck` writes them all before the command that
entered the exception answers. -/
def pushFrame (s : State) (t : TileId) (x : Xl) (f : List Word) : State :=
  s.modTile t (fun y =>
    { y with sbuf := y.sbuf ++
        [{ pa := x.pa, bytes := bytesOfWords f, device := false, brick := false, via := x.via, frame := true }] })

/-- The instructions of the commit window are discarded: the PC is that of the oldest (spec/03 R91, R92). -/
def Tile.discardWindow (x : Tile) : Tile :=
  match x.window with
  | [] => x
  | e :: _ => { x with window := [], pc := e.pc }

/-- The checkstop record (spec/08 Map 8-8). -/
def checkstopRecord (s : State) (t : TileId) (reason mcsub : Nat) : Vector Word 512 :=
  let x := s.tile t
  let b := x.cur
  Vector.ofFn (fun i =>
    let n := i.val
    if n = 32 then BitVec.ofNat 64 (mcsub % 256 * 256 + reason % 256)
    else if n = 33 then x.pc
    else if n = 34 then s.pstate t
    else if h : 36 ≤ n ∧ n < 68 then (if n = 36 then 0 else b.g.get ⟨n - 36, by omega⟩)
    else if h : 68 ≤ n ∧ n < 100 then
      let d := b.d.get ⟨(n - 68) / 2, by omega⟩
      if n % 2 = 0 then d.extractLsb' 64 64 else d.extractLsb' 0 64
    else if n = 100 then BitVec.ofNat 64 (b.p.toNat / 2 * 2 + 1)
    else if n = 101 then b.istat
    else if n = 102 then
      BitVec.ofNat 64 (b.dstat.toNat * 2 ^ 24 + b.dctl.toNat * 2 ^ 16 + b.fstat.toNat * 2 ^ 8 + b.fctl.toNat)
    else if n = 103 then x.exS.sp
    else if n = 104 then x.exK.sp
    else x.ef.get i)

/-- The DEV page names another keystone tile when the one named is in checkstop, or fences the device when none is left
(spec/13 R434). -/
def mcRetarget (s : State) : State :=
  let stopped (k : Nat) : Bool := match tileOf? (96 + k) with
    | some t => decide ((s.tile t).run = .checkstop)
    | none => true
  let cur := s.fld (ctl pDev 0x160) 1 0
  if !stopped cur then s
  else match (List.range 4).find? (fun k => !stopped k) with
    | some k => (s.setFld (ctl pDev 0x160) 1 0 k).logErr pDev 0x26 k 0xFF (BitVec.ofNat 64 cur)
    | none =>
      let s := enterFenced s false
      (s.logErr pSmb 0x27 0 0xFF 0).standbyPush (BitVec.ofNat 64 (0x27 * 2 ^ 56), s.clk.tb)

/-- Every keystone tile is in checkstop. -/
def allKeystStopped (s : State) : Bool :=
  (List.range 4).all (fun k => match tileOf? (96 + k) with
    | some t => decide ((s.tile t).run = .checkstop)
    | none => true)

/-- A tile enters checkstop (spec/08 R260): its record, its message, and nothing in execution. Its retired stores are
written, and a ledger tile is retired, by `settle` before the command that led here answers. -/
def checkstop (s : State) (t : TileId) (reason mcsub : Nat) : State :=
  let ef := checkstopRecord (s.modTile t Tile.discardWindow) t reason mcsub
  let s := s.modTile t (fun x =>
    { x.discardWindow with run := .checkstop, ef := ef, kiln := { x.kiln with queue := [] } })
  let s := s.mcPush 1 (tilePage t) (mcsub * 256 + reason)
  if isKeyst t then mcRetarget s else s

/-- The entry that a STACKFAULT of level `l` makes: FADDR and KFINFO (spec/08 Layout 8-7). -/
def stackExc (x : Tile) (f : List Word) (l : Level) (sub : Nat) : Exc :=
  { code := 0x20, sub := sub, faddr := (x.ex l).sp,
    finfo := BitVec.ofNat 64 (l.code * 2 ^ 18 + bitsNat (f.getD 2 0) 16 0) }

/-- A STACKFAULT that finds the emergency area occupied, or whose own push fails, ends in checkstop (spec/08 R257). -/
def stackDies (s : State) (t : TileId) : Bool :=
  ((s.tile t).ef.get 16).getLsbD 63 ||
    (match stackCheck s t .keystone with
     | .inl _ => true
     | .inr _ => false)

/-- STACKFAULT (spec/08 R257, R258, Layout 8-7). -/
def stackfault (s : State) (t : TileId) (f : List Word) (l : Level) (sub : Nat) : State :=
  let x := s.tile t
  let e := stackExc x f l sub
  if (x.ef.get 16).getLsbD 63 then checkstop s t 2 0
  else
    let efstat : Word := BitVec.ofNat 64 (2 ^ 63 + l.code * 256 + sub)
    let ef : Vector Word 512 := Vector.ofFn (fun i =>
      if i.val < 16 then f.getD i.val 0 else if i.val = 16 then efstat else x.ef.get i)
    let s := s.modTile t (fun y => { y with ef := ef })
    let c := causeWord false 0x20 sub
    match stackCheck s t .keystone with
    | .inl _ => checkstop s t 1 0
    | .inr (w, s) =>
      let s := pushFrame s t w (f.take 2 ++ [c] ++ f.drop 3)
      s.modTile t (fun y =>
        { y with
            exK := { y.exK with sp := y.exK.sp - 128, cause := c, faddr := e.faddr, finfo := e.finfo },
            lvl := .keystone, ie := false, pc := y.exK.entry, rstack := [] })

/-- The record of an entry from Ledger level (spec/14 Table 14-2, INTR and XENT), with CAUSE, FADDR and FINFO as the entry
writes them. -/
def ringsEntry (s : State) (t : TileId) (async : Bool) (cause : Word) (e : Exc) (pc : Word) (units : Nat) : State :=
  let x := s.tile t
  if x.lvl = .ledger then
    ringsEvent s t (if async then 9 else 0x0A)
      (beBytes 8 (satNat 8 units * 2 ^ 56 + pc.toNat % 2 ^ 48) ++ beBytes 8 cause.toNat ++ beBytes 8 e.faddr.toNat ++
        beBytes 8 e.finfo.toNat)
  else s

/-- A qualifier of TILE and KEYT sources accepts a level (spec/13 Table 13-11). -/
def lvlQ (l : Level) (q : Nat) : Bool := decide (q % 8 = 0) || decide (q / 2 ^ l.code % 2 = 1)

/-- Count an event of a tile's page at a level. -/
def tCount (s : State) (t : TileId) (l : Level) (src k : Nat) : State := s.evCountQ (tilePage t) src (lvlQ l) k

/-- Every load in the commit window of a tile completes and retires, and is counted (spec/03 R88, R90; spec/13 Table 13-11). -/
def completeLoads (s : State) (t : TileId) : State :=
  let x := s.tile t
  (if x.window.isEmpty then s else tCount s t x.lvl 0x20 x.window.length).modTile t Tile.completeLrs

/-- Taking an exception, a trap or an interrupt (spec/08 R251, enter). A tile that waits (TAKE) goes on executing. -/
def enter (s : State) (t : TileId) (e : Exc) (async : Bool) (pc : Word) : State :=
  let s := completeLoads s t
  let x := s.tile t
  let l := takenLevel t x.lvl e.code
  let c := causeWord async e.code e.sub
  let f := frameWords s t c e pc
  let s := tCount s t x.lvl 0x2F 1
  let s := if e.code = 0x12 then { s with freeCtr := s.freeCtr + 5 } else s
  let s := s.modTile t (fun y => { y with long := none, units := 0 })
  match stackCheck s t l with
  | .inl sub =>
    let s := if stackDies s t then s else ringsEntry s t async (causeWord false 0x20 sub) (stackExc x f l sub) pc x.units
    stackfault s t f l sub
  | .inr (w, s) =>
    let s := pushFrame (ringsEntry s t async c e pc x.units) t w f
    s.modTile t (fun y =>
      let y := y.setEx l (fun r => { r with sp := r.sp - 128, cause := c, faddr := e.faddr, finfo := e.finfo })
      { y with
          lvl := l, ie := false, pc := (y.ex l).entry, rstack := [],
          bank := if e.code = 0x12 then 0 else y.bank,
          run := if y.run = .takeWait then .running else y.run })

/-! ## Interrupt sources (spec/08 Table 8-12) -/

/-- The sources of Table 8-12 by IENS bit. -/
inductive Src where
  | timer | doorbell | ipi | kiln | mcheck
  deriving DecidableEq, Repr

/-- Subcode 04h is pending: the machine-check queue is not empty and this keystone tile is the target (spec/13 R433). -/
def mcQueuePending (s : State) (t : TileId) : Bool :=
  !s.mcq.isEmpty && decide (t.val = 96 + s.fld (ctl pDev 0x160) 1 0)

/-- A source is pending (spec/08 Table 8-12). -/
def srcPending (s : State) (t : TileId) : Src → Bool
  | .timer => decide ((s.tile t).tcmp ≤ s.clk.tb)
  | .doorbell => s.reg (ctl (tilePage t) 0x100) != 0
  | .ipi => (s.reg (ctl (tilePage t) 0x110)).getLsbD 63
  | .kiln => !isKeyst t && (s.tile t).kiln.fault.isSome
  | .mcheck => (s.tile t).mcPend.isSome || mcQueuePending s t

/-- A source's enable bit (spec/08 Map 8-9). -/
def srcEnabled (x : Tile) : Src → Bool
  | .timer => x.iens.getLsbD 0
  | .doorbell => x.iens.getLsbD 1
  | .ipi => x.iens.getLsbD 2
  | .kiln => x.iens.getLsbD 3
  | .mcheck => true

/-- Entry level of a source on a ledger tile. -/
def srcLevel : Src → Level
  | .mcheck => .keystone
  | _ => .steward

/-- A source is acceptable (spec/08 R261). In state REPLAY the course accepts machine checks only (spec/14 R448). -/
def srcAcceptable (s : State) (t : TileId) (q : Src) : Bool :=
  let x := s.tile t
  srcPending s t q && srcEnabled x q && (q == .mcheck || !s.replaying t) &&
    (if isKeyst t then x.ie
     else decide (x.lvl.code < (srcLevel q).code) || (decide (x.lvl = srcLevel q) && x.ie))

/-- Sources in order of priority (spec/08 Table 8-12). -/
def srcOrder : List Src := [.mcheck, .kiln, .ipi, .timer, .doorbell]

/-- The lowest set bit of a word. -/
def lowestBit (w : Word) : Nat := ((List.range 64).find? (fun i => w.getLsbD i)).getD 0

/-- IENS.PEND as a number. -/
def iensPend (s : State) (t : TileId) : Nat :=
  b2n (srcPending s t .timer) + 2 * b2n (srcPending s t .doorbell) + 4 * b2n (srcPending s t .ipi) +
    8 * b2n (srcPending s t .kiln) + 16 * b2n (srcPending s t .mcheck)

/-- What the entry of a source records, and the state after its delivery (spec/08 Table 8-1, spec/06 R211, spec/13
Table 13-14, R431). -/
def srcEntry (s : State) (t : TileId) (q : Src) : Exc × State :=
  let x := s.tile t
  match q with
  | .timer => ({ code := 0x30, sub := 0 }, s)
  | .doorbell =>
    let d := s.reg (ctl (tilePage t) 0x100)
    ({ code := 0x31, sub := lowestBit d, finfo := d }, s)
  | .ipi => ({ code := 0x32, sub := 0, finfo := BitVec.ofNat 64 (s.fld (ctl (tilePage t) 0x110) 6 0) }, s)
  | .kiln =>
    match x.kiln.fault with
    | some f =>
      let s := s.modTile t (fun y => { y with kiln := { y.kiln with fault := none } })
      ({ code := 0x10, sub := f.sub.toNat, faddr := f.faddr, finfo := f.finfo },
        s.setFld (ctl (pKiln + (courseOf t).val) (0x100 + 0x20 * (t.val % 8))) 63 63 0)
    | none => ({ code := 0x10, sub := 0 }, s)
  | .mcheck =>
    match x.mcPend with
    | some (sub, fa, fi) =>
      ({ code := 0x28, sub := sub.toNat, faddr := fa, finfo := fi }, s.modTile t (fun y => { y with mcPend := none }))
    | none => ({ code := 0x28, sub := 4, finfo := BitVec.ofNat 64 s.mcq.length }, s)

/-- The first acceptable source, if any. -/
def acceptable? (s : State) (t : TileId) : Option Src := srcOrder.find? (srcAcceptable s t)

/-- A tile at an acceptance point: not held, not in checkstop, not in the fill stall of SWS and not past step 2 of POST
(spec/08 R262); a wait for record room is one (spec/14 R441). -/
def atAcceptPoint (x : Tile) : Bool :=
  match x.run with
  | .running | .takeWait | .jsyncWait _ => true
  | _ => false

/-- Accept the highest-priority acceptable source (spec/08 R263). Where its record finds no room, the tile waits and issues
nothing (spec/14 R441). -/
def acceptInterrupt (s : State) (t : TileId) : State :=
  if atAcceptPoint (s.tile t) then
    match acceptable? s t with
    | some q =>
      let x := s.tile t
      if x.lvl = .ledger ∧ ringsStalls s t 32 then recHold s t
      else
      let (e, s) := srcEntry s t q
      let s := s.evCountQ (tilePage t) 0x30 (fun k => decide (k % 8 = 0) || decide (k / 2 ^ x.lvl.code % 2 = 1)) 1
      let s := s.modTile t (fun y => { y with run := .running })
      enter s t e true x.pc
    | none => s
  else s

end Sys2Proof.Machine
end

