-- ==== Sys2Proof/Machine/Mason.lean ====
section
/-! DEFINITION. The Mason: tickets, handlers, the directory, pools, queues, completion records, binding and dispatch
(spec/10 R297–R322, R336, R337). -/

namespace Sys2Proof.Machine

/-- Control-space offset of a MASON register. -/
def masonReg (off : Nat) : Nat := ctl pMason off

/-- MASON.STATE (spec/10 Table 10-15). -/
def masonState (s : State) : Nat := s.fld (masonReg 0x100) 2 0

/-! ## Tickets -/

/-- Doubleword `k` of a ticket. -/
def tw (t : Ticket) (k : Nat) : Nat := t.toNat / 2 ^ (64 * (7 - k)) % 2 ^ 64

/-- Bits of a ticket's first doubleword. -/
def tf (t : Ticket) (hi lo : Nat) : Nat := tw t 0 / 2 ^ lo % 2 ^ (hi + 1 - lo)

def tHandler (t : Ticket) : Nat := tf t 63 48
def tReply (t : Ticket) : Bool := tf t 46 46 == 1
def tCreate (t : Ticket) : Bool := tf t 45 45 == 1
def tNkeys (t : Ticket) : Nat := tf t 44 42
def tWmask (t : Ticket) (k : Nat) : Bool := tf t 41 38 / 2 ^ k % 2 == 1
def tAlen (t : Ticket) : Nat := tf t 37 32
def tCpool (t : Ticket) : Nat := tf t 30 27
def tSdev (t : Ticket) : BitVec 9 := BitVec.ofNat 9 (tf t 26 18)
def tSession (t : Ticket) : BitVec 18 := BitVec.ofNat 18 (tf t 17 0)
def tCookie (t : Ticket) : Word := BitVec.ofNat 64 (tw t 1)

/-- The brick keys of a ticket. -/
def tKeys (t : Ticket) : List Word := (List.range (min 4 (tNkeys t))).map (fun k => BitVec.ofNat 64 (tw t (2 + k)))

/-- The ticket with PH written as 0. -/
def clearPh (t : Ticket) : Ticket := t &&& ~~~(BitVec.ofNat 512 (2 ^ (47 + 448)))

/-- The device is a static home: an entry of the local slice names it, or one of another slice, which no message tells
(log entry 100: a free value). -/
def staticHome (s : State) (d : BitVec 9) : Bool :=
  s.mason.statics.any (fun q => decide (q.2 = d)) || Config.staticElsewhere s.freeCtr d

/-- A valid ticket (spec/10 R297). A device that has been taken over is still one (spec/11 R381). -/
def ticketValid (s : State) (t : Ticket) : Bool :=
  let ks := tKeys t
  let body := tNkeys t * 8 + tAlen t
  decide (tf t 31 31 = 0 ∧ tNkeys t ≤ 4 ∧ tAlen t ≤ 32 ∧ body ≤ 48) &&
  decide (tf t 41 38 / 2 ^ tNkeys t = 0) && !ks.contains 0 && decide ks.Nodup &&
  (s.mason.pmap.toList.contains (tSdev t) || s.mason.aliases.any (fun q => decide (q.1 = tSdev t)) || staticHome s (tSdev t)) &&
  decide (t.toNat % 2 ^ (8 * (48 - body)) = 0)

/-- Handler table entry of a ticket, when its index is below HTCNT (spec/10 Layout 10-6). -/
def handlerWord (s : State) (t : Ticket) : Option (Word × Word) :=
  let i := tHandler t
  if s.fld (masonReg 0x110) 16 0 ≤ i then none
  else
    let a := s.fld (masonReg 0x108) 47 12 * 4096 + 16 * i
    some (s.dword a, s.dword (a + 8))

/-- The entry of a ticket's handler, when V is 1. -/
def handlerOf (s : State) (t : Ticket) : Option (Word × Word) :=
  (handlerWord s t).bind (fun w => if w.1.getLsbD 63 then some w else none)

/-! ## The directory -/

/-- P, B1 and B2 of a key (spec/10, keyhash). -/
def keyhash (k : Word) : Nat × Nat × Nat :=
  let x := k ^^^ (k >>> 29)
  let p := bitsNat x 11 0 ^^^ bitsNat x 23 12 ^^^ bitsNat x 35 24 ^^^ bitsNat x 47 36 ^^^ bitsNat x 59 48 ^^^ bitsNat x 63 60
  let b1 := bitsNat x 25 0 ^^^ bitsNat x 51 26 ^^^ bitsNat x 63 52
  (p, b1, b1 ^^^ (p * 2 ^ 13) ^^^ 1)

/-- The device of an entry of the partition map. -/
def pmapAt (s : State) (p : Nat) : BitVec 9 := s.mason.pmap.get (Fin.ofNat 4096 p)

/-- The slice device of a key (spec/10 R318), after the takeovers announced (spec/11 R380). -/
def sliceDev (s : State) (k : Word) : BitVec 9 := aliasOf s (pmapAt s (keyhash k).1)

/-- Where bucket `b` of a key lies: the local slice, or the replica of a device that this one promoted for. -/
def bucketAddr (s : State) (k : Word) (b : Nat) : Nat :=
  (if pmapAt s (keyhash k).1 = s.devNo ∧ !s.mason.repl.contains (keyhash k).1 then 0x040000000000 else s.fld (hwjReg 0x150) 47 33 * 2 ^ 33) + 0x80 * b

/-- The 16 entry addresses that may hold a key, B1 first. -/
def entrySlots (s : State) (k : Word) : List Nat :=
  let h := keyhash k
  (List.range 8).map (fun i => bucketAddr s k h.2.1 + 16 * i) ++
    (List.range 8).map (fun i => bucketAddr s k h.2.2 + 16 * i)

/-- Address of the slice entry of a key; an entry whose KEY is 0 is empty (spec/10 R319). -/
def sliceFind (s : State) (k : Word) : Option Nat :=
  if k = 0 then none else (entrySlots s k).find? (fun a => s.dword a = k)

def eState (w : Word) : Nat := bitsNat w 63 61
def ePin (w : Word) : Bool := w.getLsbD 60
def eDev (w : Word) : BitVec 9 := BitVec.ofNat 9 (bitsNat w 59 51)
def eCourse (w : Word) : Nat := bitsNat w 50 47
def ePool (w : Word) : Nat := bitsNat w 46 43
/-- Physical address of an entry's FRAME. -/
def eFrame (w : Word) : Nat := bitsNat w 42 14 * 4096

/-- A directory entry word (spec/10 Layout 10-8), with CAND and AFF 0. -/
def mkEntry (st : Nat) (pin : Bool) (dev : BitVec 9) (course pool frame : Nat) : Word :=
  BitVec.ofNat 64 (st * 2 ^ 61 + b2n pin * 2 ^ 60 + dev.toNat * 2 ^ 51 + course % 16 * 2 ^ 47 + pool % 16 * 2 ^ 43 +
    frame / 4096 % 2 ^ 29 * 2 ^ 14)

/-- A poisoned line of the local slice that the Mason meets is read from the buddy's replica and rewritten (spec/10 R345);
without a buddy that mirrors there is nothing to read it from (log entry 101). -/
def repairSlice (s : State) (k : Word) : State :=
  let ls := ((entrySlots s k).map (· / 128)).dedup
  if decide (sliceDev s k = s.devNo) && mirroring s && ls.any (fun l => s.poison.contains l) then
    (State.raise { s with poison := s.poison.filter (fun l => !ls.contains l) } pMason 7)
  else s

/-- The slice entry of a key: address and word. -/
def sliceEntry (s : State) (k : Word) : Option (Nat × Word) := (sliceFind s k).map (fun a => (a, s.dword (a + 8)))

/-- Change a slice entry: with a buddy that mirrors, the change waits for its replica (spec/10 R320, spec/11 R368). -/
def putSlice (s : State) (a : Nat) (k w : Word) : State :=
  let off := (a - (if a < 0x040200000000 ∧ 0x040000000000 ≤ a then 0x040000000000 else s.fld (hwjReg 0x150) 47 33 * 2 ^ 33)) / 16
  match buddy? s with
  | some b =>
    if mirroring s then
      (s.modHwj (fun h => { h with drepWait := h.drepWait ++ [(a, k ++ w)] })).send 0x22 b 0
        [BitVec.ofNat 64 off, k, w]
    else (s.setDword a k).setDword (a + 8) w
  | none => (s.setDword a k).setDword (a + 8) w

/-- The slice entry word at `a` once the changes that wait for the buddy have taken effect. -/
def sliceNext (s : State) (a : Nat) : Word :=
  match (s.hwj.drepWait.filter (fun q => decide (q.1 = a))).getLast? with
  | some q => q.2.extractLsb' 0 64
  | none => s.dword (a + 8)

/-- A change of the key's entry, its removal included, waits for the buddy. -/
def entryPending (s : State) (k : Word) : Bool :=
  s.hwj.drepWait.any (fun q => decide (q.2.toNat / 2 ^ 64 = k.toNat ∨ sliceFind s k = some q.1))

/-- The entry of a brick homed here: the cached copy, or the local slice (spec/10 R321). -/
def homeEntry (s : State) (k : Word) : Option Word :=
  match s.mason.cached.find? (fun q => decide (q.1 = k.toNat)) with
  | some q => some q.2
  | none =>
    if sliceDev s k = s.devNo then
      match sliceEntry s k with
      | some (_, w) => if eState w = 1 ∧ eDev w = s.devNo then some w else none
      | none => none
    else none

/-- A migration of the key is in progress here. -/
def migOf (s : State) (k : Word) : Option Mig := s.mason.migs.find? (fun m => decide (m.key = k))

/-- The brick is homed here and no migration holds admission (spec/10 R328, R332). -/
def usable (s : State) (k : Word) : Bool := (homeEntry s k).isSome && (migOf s k).isNone && !entryPending s k

/-- CAND and AFF of `w` put into the slice entry at `a` (spec/10 R320). -/
def putAff (s : State) (a : Nat) (k w : Word) : State := putSlice s a k ((sliceNext s a &&& ~~~0x3FFE#64) ||| (w &&& 0x3FFE#64))

/-- Nothing here uses the copy of a key's entry: no ticket names it, nothing of it moves or changes. A device that promoted keeps
the entries of other slices (log entry 102). -/
def copyFree (s : State) (k : Word) : Bool :=
  (migOf s k).isNone && !entryPending s k && !s.mason.tickets.any (fun j => (tKeys j.raw).contains k) &&
    (decide (sliceDev s k = s.devNo) || !s.hwj.promoted)

/-- Room for one more entry in the directory cache (spec/10 R321): the oldest hint leaves, else the oldest copy that nothing uses,
whose CAND and AFF are written to the slice (R320). Which one leaves is the model's choice (log entry 102). -/
def cacheRoom (s : State) : State :=
  if s.mason.cached.length + s.mason.hints.length < Config.dirCache then s
  else match s.mason.hints with
    | _ :: r => s.modMason (fun m => { m with hints := r })
    | [] =>
      match s.mason.cached.find? (fun q => copyFree s (BitVec.ofNat 64 q.1)) with
      | some q =>
        let k := BitVec.ofNat 64 q.1
        let s := repairSlice (s.modMason (fun m => { m with cached := m.cached.filter (fun x => decide (x.1 ≠ q.1)) })) k
        if sliceDev s k = s.devNo then
          match sliceFind s k with
          | some a => putAff s a k q.2
          | none => s
        else s.send 0x15 (sliceDev s k) 0 [k, BitVec.ofNat 64 (9 * 2 ^ 56), q.2]
      | none => s

/-- Set the cached copy of a homed brick's entry. -/
def cacheEntry (s : State) (k : Word) (w : Word) : State :=
  let s := if s.mason.cached.any (fun q => decide (q.1 = k.toNat)) then s else cacheRoom s
  s.modMason (fun m => { m with cached := m.cached.filter (fun q => decide (q.1 ≠ k.toNat)) ++ [(k.toNat, w)] })

/-- Keep a hint, the youngest of them. -/
def putHint (s : State) (k : Nat) (d : BitVec 9) : State :=
  let s := if s.mason.hints.any (fun q => decide (q.1 = k)) then s else cacheRoom s
  s.modMason (fun m => { m with hints := m.hints.filter (fun q => decide (q.1 ≠ k)) ++ [(k, d)] })

/-- Drop the cached copy of an entry. -/
def uncache (s : State) (k : Word) : State :=
  s.modMason (fun m => { m with cached := m.cached.filter (fun q => decide (q.1 ≠ k.toNat)),
                                resident := m.resident.filter (fun q => decide (q.1 ≠ k.toNat)) })

/-! ## Pools (spec/10 R336) -/

/-- Registers of pool `n`: defined, mode, DEGR, base and end of the range. -/
structure Pool where
  v : Bool
  mode : Nat
  degr : Bool
  base : Nat
  last : Nat
  deriving DecidableEq, Repr

/-- Pool `n` as its registers hold it. -/
def poolOf (s : State) (n : Nat) : Pool :=
  let r := s.reg (masonReg (0x400 + 0x20 * n))
  { v := r.getLsbD 63, mode := bitsNat r 62 61, degr := r.getLsbD 60, base := bitsNat r 47 14 * 0x4000,
    last := s.fld (masonReg (0x408 + 0x20 * n)) 47 14 * 0x4000 }

/-- Bricks of a pool. -/
def Pool.bricks (p : Pool) : Nat := (p.last + 0x4000 - p.base) / 4096

/-- Bricks that the free-brick bitmap takes: the first 1/32,768 of the pool. -/
def Pool.reserved (p : Pool) : Nat := max 1 (ceilDiv p.bricks 32768)

/-- Byte and bit of a brick in the pool's bitmap; a set bit marks a brick in use (log entry 21). -/
def poolBit (p : Pool) (frame : Nat) : Nat × Nat := (p.base + (frame - p.base) / 4096 / 8, (frame - p.base) / 4096 % 8)

/-- The first free brick of a pool. -/
def findFree (s : State) (p : Pool) : Nat → Nat → Option Nat
  | 0, _ => none
  | f + 1, i =>
    let fr := p.base + 4096 * i
    if p.bricks ≤ i then none
    else if (s.byte (poolBit p fr).1).getLsbD (poolBit p fr).2 then findFree s p f (i + 1)
    else some fr

/-- Mark a brick of pool `n` used or free. -/
def markBrick (s : State) (n frame : Nat) (used : Bool) : State :=
  let p := poolOf s n
  let a := (poolBit p frame).1
  let s := s.setByte a (setPBit (s.byte a) (poolBit p frame).2 used)
  let f := s.fld (masonReg (0x410 + 0x20 * n)) 28 0
  s.setFld (masonReg (0x410 + 0x20 * n)) 28 0 (if used then f - 1 else f + 1)

/-- Take a brick from a pool. -/
def allocBrick (s : State) (n : Nat) : Option (Nat × State) :=
  let p := poolOf s n
  if p.v && decide (s.fld (masonReg (0x410 + 0x20 * n)) 28 0 ≠ 0) then
    (findFree s p p.bricks p.reserved).map (fun fr => (fr, markBrick s n fr true))
  else none

/-- The pool of this device that holds a frame. -/
def poolAt (s : State) (pa : Nat) : Option Nat :=
  (List.range 32).find? (fun n => let p := poolOf s n; p.v && decide (p.base ≤ pa ∧ pa < p.last + 0x4000))

/-- The pool that a frame counts for: after a takeover the bricks of pool 16 + n count as bricks of pool n (spec/11 R381). -/
def poolFor (s : State) (pa : Nat) : Option Nat :=
  (poolAt s pa).map (fun n => if 16 ≤ n ∧ s.hwj.promoted then n - 16 else n)

/-- A frame lies in a mirrored pool. -/
def inMirrored (s : State) (pa : Nat) : Bool :=
  match poolFor s pa with
  | some n => decide ((poolOf s n).mode = 1)
  | none => false

/-- DEGR of the pool that holds a frame. -/
def degrAt (s : State) (pa : Nat) : Bool :=
  match poolFor s pa with
  | some n => (poolOf s n).degr
  | none => false

/-! ## Completion records (spec/10 R303) -/

/-- Records a completion ring holds. -/
def compSize (s : State) (r : Nat) : Nat := 2 ^ (s.fld (masonReg (0x808 + 0x20 * r)) 51 48 + 4)

/-- The Mason writes the value of offset +10h to WBADDR when WBV is 1. -/
def writeBack (s : State) (r : Nat) : State :=
  let w := s.reg (masonReg (0x818 + 0x20 * r))
  if w.getLsbD 63 then s.setDword (bitsNat w 47 3 * 8) (s.reg (masonReg (0x810 + 0x20 * r))) else s

/-- CEN of a completion ring. -/
def compOn (s : State) (r : Fin 64) : Bool := (s.reg (masonReg (0x808 + 0x20 * r.val))).getLsbD 63

/-- A completion ring has room. -/
def compRoom (s : State) (r : Fin 64) : Bool :=
  let n := (s.mason.rings.get r).written
  let c := s.fld (masonReg (0x810 + 0x20 * r.val)) 48 32
  decide ((n + 2 ^ 17 - c) % 2 ^ 17 < compSize s r.val)

/-- Write one completion record (spec/10 Layout 10-5). -/
def putComp (s : State) (c : CompRec) : State :=
  let r := c.ring.val
  let cpi := s.fld (masonReg (0x810 + 0x20 * r)) 31 16
  let st := s.mason.rings.get c.ring
  let a := s.fld (masonReg (0x808 + 0x20 * r)) 47 12 * 4096 + 16 * cpi
  let s := s.setDword a c.cookie
  let s := s.setDword (a + 8) (BitVec.ofNat 64 (b2n st.cphase * 2 ^ 63 + c.status.toNat % 128 * 2 ^ 56 + c.tb.toNat % 2 ^ 56))
  let nxt := (cpi + 1) % compSize s r
  let s := s.setFld (masonReg (0x810 + 0x20 * r)) 31 16 nxt
  let st : RingSt := { st with written := (st.written + 1) % 2 ^ 17, cphase := if nxt = 0 then !st.cphase else st.cphase }
  let s := s.modMason (fun m => { m with rings := m.rings.set c.ring st })
  (writeBack s r).raise pMason 0

/-- The completion record of an outcome: written, held back by a full ring, or none. `past`: of a POST past step 2. -/
def complete (s : State) (k : TicketRec) (status : Nat) (tile : Option TileId) (past : Bool := false) : State :=
  match k.ring with
  | some r =>
    if tReply k.raw && compOn s r then
      let c : CompRec := { ring := r, cookie := tCookie k.raw, status := BitVec.ofNat 8 status, tb := s.clk.tb, tile := tile, past := past }
      if compRoom s r && !s.mason.comps.any (fun x => decide (x.ring = r)) then putComp s c
      else s.modMason (fun m => { m with comps := m.comps ++ [c] })
    else s
  | none => s

/-! ## Records of chain 12 (spec/11 R364) -/

/-- The journal unit forms one of its own records when it takes its position. -/
def putUnit (s : State) (kind : Nat) (body : List Byte) (rcpt : Option (BitVec 9 × BitVec 4 × BitVec 48 × Nat)) : State :=
  let body := if kind = 5 then drainBody s (ofBytes body) else body
  let part := (body.headD 0).toNat / 8
  let pos := nextPos s (64 * recUnits body)
  let s := putOwn s { kind := kind, chain := 12 } body
    { blankRec with rcpt := rcpt, needAck := mirroring s && decide (kind = 1) }
  if kind = 4 then s.evCount pHwj 0x25 1
  else if kind = 2 then
    let s := s.evCount pHwj 0x28 1
    s.modHwj (fun h =>
      let start := if part = 0 then some (pos, 29) else h.snapNow.map (fun q => (q.1, q.2 - 1))
      if part = 29 then { h with snapDone := start.map Prod.fst, snapNow := none } else { h with snapNow := start })
  else s

/-- A record of chain 12 takes its position, or waits for space behind earlier records. -/
def journalOwn (s : State) (kind : Nat) (body : List Byte) (rcpt : Option (BitVec 9 × BitVec 4 × BitVec 48 × Nat)) : State :=
  let len := 64 * recUnits (if kind = 5 then List.replicate 536 0 else body)
  if s.hwj.waiting.isEmpty && decide (spaceFor s len ≤ ringFree s) then putUnit s kind body rcpt
  else s.modHwj (fun h => { h with waiting := h.waiting ++ [.own kind body rcpt] })

/-! ## Tickets in the device -/

/-- Change a ticket. -/
def modTicket (s : State) (n : Nat) (f : TicketRec → TicketRec) : State :=
  s.modMason (fun m => { m with tickets := m.tickets.map (fun k => if k.arrival = n then f k else k) })

/-- A ticket by arrival number. -/
def ticketOf (s : State) (n : Nat) : Option TicketRec := s.mason.tickets.find? (fun k => decide (k.arrival = n))

/-- Remove a ticket whose outcome is decided. -/
def dropTicket (s : State) (n : Nat) : State :=
  let s := s.modMason (fun m => { m with tickets := m.tickets.filter (fun k => decide (k.arrival ≠ n)) })
  { s with courses := s.courses.map (fun c => { c with runHi := c.runHi.filter (· ≠ n), runLo := c.runLo.filter (· ≠ n) }) }

/-- Staging area in use: tickets with no outcome, run queues excepted (spec/10 R346). -/
def staged (s : State) : Nat :=
  (s.mason.tickets.filter (fun k => match k.st with
    | .queued | .bound _ | .yielded => false
    | _ => true)).length

/-- STAGEFULL shows the full staging area. -/
def stageShown (s : State) : Bool := s.mason.stageFull && (s.reg (masonReg 0x18)).getLsbD 6

/-- The staging area is full; reading goes on when 1/16 of it is free (spec/10 R302). -/
def stageCheck (s : State) : State :=
  if Config.stagingTickets ≤ staged s then
    (if s.mason.stageFull then s else (s.modMason (fun m => { m with stageFull := true })).raise pMason 6)
  else if staged s ≤ Config.stagingTickets - Config.stagingTickets / 16 then s.modMason (fun m => { m with stageFull := false })
  else s

/-- The Mason takes a ticket into its queues with the next arrival number (spec/10 R306). -/
def addTicket (s : State) (k : TicketRec) : State :=
  let k := { k with arrival := s.mason.nextArrival }
  let s := s.modMason (fun m => { m with tickets := m.tickets ++ [k], nextArrival := m.nextArrival + 1 })
  if Config.stagingTickets ≤ staged s then stageCheck s else s

/-- A new ticket record. -/
def newTicket (raw : Ticket) (origin : BitVec 9) (ring : Option (Fin 64))
    (receipt : Option (BitVec 9 × BitVec 4 × BitVec 48)) (fwd : Nat) (fwdr : Option (BitVec 9)) : TicketRec :=
  { arrival := 0, raw := raw, origin := origin, ring := ring, receipt := receipt, fwd := fwd, fwdFrom := fwdr,
    st := .staged, course := 0, session := tSession raw, entry := 0, prio := false, resume := none,
    frames := Vector.replicate 4 0, slot := none, ws := [], conts := [], contSeqs := [], started := false, tid := none }

/-- Refuse a ticket (spec/10 R298, Table 10-3, R326). -/
def refuse (s : State) (k : TicketRec) (status : Nat) : State :=
  let s := dropTicket s k.arrival
  let s := (complete s k status none).evCount pMason 0x23 1
  let s := s.raise pMason 1
  match k.receipt with
  | some (d, c, q) =>
    let s := (s.incSat (masonReg 0x150) 48 1).raise pMason 2
    let s := s.logErr pMason 0x21 status 0xFF (BitVec.ofNat 64 (c.toNat * 2 ^ 60 + d.toNat * 2 ^ 48 + q.toNat))
    journalOwn s 1 (receiptItem d c q status) (some (d, c, q, status))
  | none => s

/-- The ticket runs here as a guest: its session is on another device (spec/10 R305). -/
def guestHere (s : State) (k : TicketRec) : Bool := decide (tSdev k.raw ≠ s.devNo)

/-- `j` stands before `k` in a queue with it, or holds what it needs (spec/10 R305–R307): brick queues, own-session
queues, and the guest queue of a handler. -/
def blocks (s : State) (k j : TicketRec) : Bool :=
  let before := decide (j.arrival < k.arrival) || decide (j.st ≠ .staged)
  decide (j.arrival ≠ k.arrival) &&
    ((before && (tKeys j.raw).any (fun x => (tKeys k.raw).contains x)) ||
     (!guestHere s k &&
       ((!guestHere s j && before && decide (j.session = k.session)) ||
        (guestHere s j && decide (j.st ≠ .staged ∧ j.session = k.session)))) ||
     (guestHere s k && guestHere s j && decide (j.st = .staged ∧ j.arrival < k.arrival ∧ tHandler j.raw = tHandler k.raw)))

/-- `k` is first in the queue of its own session (spec/10 R309). -/
def firstInSession (s : State) (k : TicketRec) : Bool :=
  !s.mason.tickets.any (fun j => blocks s { k with raw := k.raw &&& ~~~(BitVec.ofNat 512 (7 * 2 ^ (42 + 448))) } j)

/-- No ticket stands before `k` (spec/10 R307). -/
def firstInQueues (s : State) (k : TicketRec) : Bool := !s.mason.tickets.any (blocks s k)

/-- A ticket holds the brick: admitted and without an outcome. -/
def holder? (s : State) (key : Word) : Option TicketRec :=
  s.mason.tickets.find? (fun k => decide (k.st ≠ .staged) && (tKeys k.raw).contains key)

/-- A ticket that the Mason has queued or dispatched holds the session. -/
def sessionHeld (s : State) (n : BitVec 18) : Bool :=
  s.mason.tickets.any (fun k => decide (k.st ≠ .staged ∧ k.session = n))

/-- The bank of the device that holds a session (spec/02 R54). -/
def residentAt (s : State) (n : BitVec 18) : Option (TileId × Fin 16) :=
  (List.finRange 96).findSome? (fun i =>
    let t : TileId := ⟨i.val, by omega⟩
    (List.finRange 16).findSome? (fun b => if ((s.tile t).banks.get b).sess = some n then some (t, b) else none))

/-! ## Run queues, binding and dispatch -/

/-- Tickets in a course's run queue. -/
def depth (s : State) (c : CourseId) : Nat := (s.course c).runHi.length + (s.course c).runLo.length

/-- Put an admitted ticket at the tail of its priority. -/
def enqueueRun (s : State) (c : CourseId) (k : TicketRec) : State :=
  s.modCourse c (fun x => if k.prio then { x with runHi := x.runHi ++ [k.arrival] } else { x with runLo := x.runLo ++ [k.arrival] })

/-- Insert by a key, keeping the order. -/
def insertBy {α : Type} (f : α → Nat) (x : α) : List α → List α
  | [] => [x]
  | y :: r => if f x ≤ f y then x :: y :: r else y :: insertBy f x r

/-- Sort by a key. -/
def sortBy {α : Type} (f : α → Nat) (l : List α) : List α := l.foldr (insertBy f) []

/-- Tickets bound to a tile, in the order of binding. -/
def boundTo (s : State) (t : TileId) : List TicketRec :=
  sortBy TicketRec.boundNo (s.mason.tickets.filter (fun k => decide (k.st = .bound t)))

/-- A tile takes tickets: CTILE, and it is not in checkstop (spec/10 R314). -/
def takesTickets (s : State) (t : TileId) : Bool :=
  (s.reg (masonReg (0x208 + 0x10 * (courseOf t).val))).getLsbD (t.val % 8) && decide ((s.tile t).run ≠ .checkstop)

/-- The bank to fill (spec/02, SWS; spec/10 R311): the least recently current of banks 1–15 that holds no queued session,
and that no operation of the mover names but one for session `n`. -/
def victim (s : State) (t : TileId) (n : BitVec 18) : Option (Fin 16) :=
  let x := s.tile t
  let busy (b : Fin 16) : Bool :=
    decide (b = 0) ||
    (match (x.banks.get b).sess with
     | some n => sessionHeld s n
     | none => false) ||
    (s.course (courseOf t)).mover.any (fun o => decide (o.tile = t ∧ o.bank = b ∧ o.session ≠ n))
  let cand := (List.finRange 16).filter (fun b => !busy b)
  cand.foldl (fun m b => match m with
    | none => some b
    | some a => if (x.banks.get b).used < (x.banks.get a).used then some b else some a) none

/-- Ask the session mover to bring a session into a bank. -/
def askMover (s : State) (o : MoverOp) : State :=
  s.modCourse (courseOf o.tile) (fun x => { x with mover := x.mover ++ [o] })

/-- A session is in a bank of the tile. -/
def bankOn (s : State) (t : TileId) (n : BitVec 18) : Option (Fin 16) :=
  (List.finRange 16).find? (fun b => decide (((s.tile t).banks.get b).sess = some n))

/-- The ticket slot of a session (spec/10 R312). -/
def slotAddr (s : State) (n : BitVec 18) : Nat := s.fld (masonReg 0x118) 47 24 * 2 ^ 24 + 64 * n.toNat

/-- Bind a ticket to a tile; its slot is written at the first binding (spec/10 R312, R314). -/
def bindTo (s : State) (k : TicketRec) (t : TileId) : State :=
  let no := 1 + (s.mason.tickets.map TicketRec.boundNo).foldl max 0
  let s := modTicket s k.arrival (fun k => { k with st := .bound t, slotted := true, boundNo := no })
  if k.slotted then s else s.setBytes (slotAddr s k.session) (beBytes 64 (clearPh k.raw).toNat)

/-- Ask for the fill of a session that is in no bank of the tile, unless that is asked for, or no bank is free for it yet. -/
def askFill (s : State) (t : TileId) (n : BitVec 18) (why : MoverFor) : State :=
  if (bankOn s t n).isSome || (s.course (courseOf t)).mover.any (fun o => decide (o.tile = t ∧ o.session = n)) ||
      (s.course (courseOf t)).fillErr.any (fun q => decide (q.1 = n)) then s
  else match victim s t n with
    | some b => askMover s { session := n, tile := t, bank := b, spill := false, why := why }
    | none => s

/-- Ask for the session of an SWS that stalls, unless that is asked for: in the bank that has it or is being filled with it, or in
a victim (spec/02 R58, R59). With no victim it is asked for later. -/
def askSws (s : State) (t : TileId) (n : BitVec 18) : State :=
  let mover := (s.course (courseOf t)).mover.filter (fun o => decide (o.tile = t ∧ o.session = n) && !o.spill)
  if mover.any (fun o => decide (o.why = .sws)) then s
  else match ((mover.head?.map MoverOp.bank).or (bankOn s t n)).or (victim s t n) with
    | some b => askMover s { session := n, tile := t, bank := b, spill := false, why := .sws }
    | none => s

/-- Ask for every fill that a tile's bound tickets, or an SWS on it, still need (spec/10 R314, spec/02 R58). -/
def askFills (s : State) (t : TileId) : State :=
  let s := match (s.tile t).run with
    | .swsWait _ n => askSws s t n
    | _ => s
  (boundTo s t).foldl (fun s k => askFill s t k.session (.ticket k.arrival)) s

/-- The tile to bind a ticket to: one whose bank holds its session, or the one with the fewest bound tickets, of those
with fewer than 4 (spec/10 R314). -/
def chooseTile (s : State) (c : CourseId) (n : BitVec 18) : Option TileId :=
  let ok := (courseTiles c).filter (fun t => takesTickets s t && decide ((boundTo s t).length < 4))
  match ok.find? (fun t => (bankOn s t n).isSome) with
  | some t => some t
  | none => ok.foldl (fun m t => match m with
    | none => some t
    | some a => if (boundTo s t).length < (boundTo s a).length then some t else some a) none

/-- Bind queued tickets of a course, high priority first. -/
def bindList (c : CourseId) : List Nat → State → State
  | [], s => s
  | n :: r, s =>
    match ticketOf s n with
    | some k =>
      if k.st = .queued ∨ k.st = .yielded then
        match chooseTile s c k.session with
        | some t => bindList c r (bindTo s k t)
        | none => s
      else bindList c r s
    | none => bindList c r s

/-- Bind what may be bound on a course (spec/10 R314). In state REPLAY the course takes no ticket (spec/14 R445). -/
def bindCourse (s : State) (c : CourseId) : State :=
  if s.fld (ringsReg c 0x100) 2 0 = 3 ∨ s.fld (ringsReg c 0x100) 2 0 = 4 then s
  else (courseTiles c).foldl askFills (bindList c ((s.course c).runHi ++ (s.course c).runLo) s)

/-- Tickets admitted and waiting for run-queue room enter it (spec/10 R313). -/
def placeAdmitted (s : State) : State :=
  s.mason.tickets.foldl (fun s k =>
    if k.st = .admitted ∧ s.fld (masonReg (0x200 + 0x10 * k.course.val)) 63 62 = 0 ∧ depth s k.course < Config.runQueueLimit then
      enqueueRun (modTicket s k.arrival (fun k => { k with st := .queued })) k.course k
    else s) s

/-- Place and bind everywhere. -/
def rebind (s : State) : State := (List.finRange 12).foldl bindCourse (placeAdmitted s)

/-- A free before-image slot of a course (spec/11 R349). -/
def freeSlot (s : State) (c : CourseId) : Option Nat :=
  (List.range Config.slotsPerCourse).find? (fun i => !(s.course c).slots.contains i)

/-- The brick base register of slot `k` at a dispatch (spec/10 R315, spec/02 Map 2-6). -/
def bbOf (s : State) (k : TicketRec) (i : Nat) : Word :=
  match (tKeys k.raw)[i]? with
  | some key =>
    match homeEntry s key with
    | some w => BitVec.ofNat 64 (2 ^ 63 + b2n (tWmask k.raw i) * 2 ^ 62 + eFrame w)
    | none => 0
  | none => 0

/-- The records of a dispatch (spec/14 Table 14-2, R437, R438). A resumed ticket whose first dispatch came before START has no TID
in this recording: a free value (log entry 5). -/
def recordDispatch (s : State) (t : TileId) (k : TicketRec) (bank : Fin 16) (pc : Word) (resumed : Bool) : State :=
  let c := courseOf t
  if !recording s c then s
  else
    let (tid, s) : Nat × State := match k.tid with
      | some n => (n, s)
      | none =>
        if resumed then ((s.freeVal 32).toNat, s.drew)
        else (s.fld (ringsReg c 0x158) 31 0,
          (modTicket s k.arrival (fun k => { k with tid := some (s.fld (ringsReg c 0x158) 31 0) })).setFld
            (ringsReg c 0x158) 31 0 ((s.fld (ringsReg c 0x158) 31 0 + 1) % 2 ^ 32))
    let pre := resumed && decide (tid < (s.course c).rings.preLimit ∨ k.tid = none)
    let w0 := tid * 2 ^ 32 + b2n resumed * 2 ^ 31 + b2n pre * 2 ^ 30 + b2n k.receipt.isSome * 2 ^ 29 + bank.val * 2 ^ 25 +
      k.session.toNat
    let rc := match k.receipt with
      | some (d, cc, q) => receiptItem d cc q 0
      | none => List.replicate 16 0
    let s := ringsEvent s t 2 (beBytes 8 w0 ++ beBytes 8 (pc.toNat % 2 ^ 48) ++ beBytes 64 (clearPh k.raw).toNat ++ rc)
    if resumed then s
    else
      let b := (s.tile t).banks.get bank
      let s := if b.fresh then
          (ringsEvent s t 3 (beBytes 8 k.session.toNat ++ beBytes 8 0 ++ b.image k.session true)).modTile t
            (fun x => x.modBankAt bank (fun b => { b with fresh := false }))
        else s
      (List.range (tNkeys k.raw)).foldl (fun s i =>
        let key := (tKeys k.raw).getD i 0
        let frame := (bbOf s k i).toNat / 4096 % 2 ^ 36 * 4096
        if brickNeeded s c frame then
          setBrickBit (ringsEvent s t 4 (beBytes 8 key.toNat ++
            beBytes 8 (b2n (tWmask k.raw i) * 2 ^ 63 + i * 2 ^ 61) ++ s.bytes frame 4096)) c frame true
        else s) s

/-- Dispatch of a ticket on a tile, with its session in `bank` (spec/10 R315). A first dispatch takes a before-image
slot; the vector and mask registers are undefined (spec/06 R216), so they are drawn (log entry 5); a fill, or the spill that
had to make room for it, that failed is taken as a mover fault at the ticket's first instruction (spec/02 R57). -/
def dispatch (s : State) (t : TileId) (k : TicketRec) (bank : Fin 16) : State :=
  let c := courseOf t
  let s := (tKeys k.raw).foldl repairSlice s
  let resumed := k.started
  let pc := k.resume.getD k.entry
  let sl := if resumed then k.slot else freeSlot s c
  let s := s.modCourse c (fun x =>
    { x with runHi := x.runHi.filter (· ≠ k.arrival), runLo := x.runLo.filter (· ≠ k.arrival),
             slots := if resumed then x.slots else x.slots ++ sl.toList })
  let bb : Vector Word 4 := Vector.ofFn (fun i => bbOf s k i.val)
  let s := modTicket s k.arrival (fun k =>
    { k with st := .running t, started := true, slot := sl, frames := bb, course := c })
  let n := s.freeCtr
  let s := { s with freeCtr := n + 40 }
  let s := s.modTile t (fun x =>
    { x with
        run := .running, bb := bb, bank := bank, ticket := true, lvl := .ledger, ie := true, pc := pc, tk := some k.arrival,
        icnt := 0, tcc := 0, kcnt := 0, units := 0, long := none,
        banks := x.usedNow bank,
        kiln := { x.kiln with
          vctl := 0, vstat := 0,
          v := Vector.ofFn (fun i => Config.freeValue (n + i.val) 4096),
          m := Vector.ofFn (fun i => Config.freeValue (n + 32 + i.val) 512) } })
  let s := (recordDispatch s t k bank pc resumed).evCount (tilePage t) 0x33 1
  match (s.course c).fillErr.find? (fun q => decide (q.1 = k.session)) with
  | some q =>
    let s := s.modCourse c (fun x => { x with fillErr := x.fillErr.filter (fun q => decide (q.1 ≠ k.session)) })
    enter s t { code := 0x12, sub := q.2.2.1, finfo := BitVec.ofNat 64 q.2.2.2.toNat } false pc
  | none => s

/-- The oldest bound ticket of a tile whose session is in a bank of the tile and is not being moved (spec/10 R315), with that
bank. One whose fill failed is dispatched too, and faults. -/
def readyTicket (s : State) (t : TileId) : Option (TicketRec × Fin 16) :=
  match (boundTo s t).head? with
  | some k =>
    match (s.course (courseOf t)).fillErr.find? (fun q => decide (q.1 = k.session)) with
    | some q => some (k, q.2.1)
    | none =>
    match bankOn s t k.session with
    | some b =>
      if (s.course (courseOf t)).mover.any (fun o => decide (o.tile = t ∧ o.bank = b)) then none
      else some (k, b)
    | none => none
  | none => none

/-- The tile gives up its ticket and enters the idle code (spec/10 R316). -/
def idle (s : State) (t : TileId) : State :=
  s.modTile t (fun x =>
    { x with run := .running, bank := 0, ticket := false, lvl := .steward, ie := true, bb := Vector.replicate 4 0, tk := none,
             pc := BitVec.ofNat 64 (s.fld (masonReg 0x120) 47 2 * 4) })

/-- POST or YIELD is over: the next ticket, or the idle code (spec/10 R315, R316). -/
def nextTicket (s : State) (t : TileId) : State :=
  let s := s.modTile t (fun x => { x with bb := Vector.replicate 4 0, tk := none, ticket := false })
  match readyTicket s t with
  | some (k, b) => dispatch s t k b
  | none => idle s t

/-- Tiles of a course that wait in TAKE dispatch what is ready (spec/10 R317). -/
def serveTakes (s : State) (c : CourseId) : State :=
  (courseTiles c).foldl (fun s t =>
    if (s.tile t).run = .takeWait then
      match readyTicket s t with
      | some (k, b) =>
        dispatch (tCount s t .steward 0x20 1) t k b
      | none => s
    else s) s

/-- Place, bind and serve waiting tiles everywhere. -/
def masonPump (s : State) : State := (List.finRange 12).foldl serveTakes (rebind s)

end Sys2Proof.Machine
end

