-- ==== Sys2Proof/Machine/Commit.lean ====
section
/-! DEFINITION. Commit: write sets and before-images, the posting record, outcomes of POST, the pending store, receipts,
mirroring, takeover, and opening of the ring (spec/11 R348–R382; spec/10 R324–R327). -/

namespace Sys2Proof.Machine

/-! ## Sequence tables and the pending store (spec/10 R324–R326) -/

/-- Send-table entry of (source course, destination device). -/
def sendEnt (s : State) (c d : Nat) : SendEnt := assocFind s.mason.send (c * 512 + d) SendEnt.fresh

/-- Change a send-table entry. -/
def setSendEnt (s : State) (c d : Nat) (e : SendEnt) : State :=
  s.modMason (fun m => { m with send := assocPut m.send (c * 512 + d) e SendEnt.fresh })

/-- An empty receive-table entry. -/
def RecvEnt.fresh : RecvEnt := { lw := 0, bm := 0 }

/-- The receive table that a sequence of this pair sent to `dest` is checked against: this device's, or that of a device promoted
for (R382). -/
def recvEnt (s : State) (dest : BitVec 9) (d : BitVec 9) (c : BitVec 4) : RecvEnt :=
  let i := d.toNat * 12 + c.toNat
  if dest = s.devNo then assocFind s.mason.recv i RecvEnt.fresh else assocFind s.hwj.aRecv (dest.toNat * 6144 + i) RecvEnt.fresh

/-- Advance LW over every leading set bit. -/
def RecvEnt.advance : Nat → RecvEnt → RecvEnt
  | 0, e => e
  | f + 1, e => if e.bm.getLsbD 0 then RecvEnt.advance f { lw := e.lw + 1, bm := e.bm >>> 1 } else e

/-- Set the bit of a sequence. -/
def RecvEnt.mark (e : RecvEnt) (seq : Nat) : RecvEnt :=
  if seq ≤ e.lw ∨ e.lw + 256 < seq then e
  else RecvEnt.advance 257 { e with bm := e.bm ||| (1#256 <<< (seq - e.lw - 1)) }

/-- A sequence at or below LW, or with its bit set (spec/10 R325). -/
def RecvEnt.has (e : RecvEnt) (seq : Nat) : Bool := decide (seq ≤ e.lw) || e.bm.getLsbD (seq - e.lw - 1)

/-- Set the bit of a pair's sequence in one of the tables. -/
def markRecv (s : State) (dest : BitVec 9) (d : BitVec 9) (c : BitVec 4) (seq : Nat) : State :=
  let e := (recvEnt s dest d c).mark seq
  let i := d.toNat * 12 + c.toNat
  if dest = s.devNo then s.modMason (fun m => { m with recv := assocPut m.recv i e RecvEnt.fresh })
  else s.modHwj (fun h => { h with aRecv := assocPut h.aRecv (dest.toNat * 6144 + i) e RecvEnt.fresh })

/-- Send a continuation or a void notice of the pending store. -/
def sendPend (s : State) (p : Pend) : State :=
  let s := s.modMason (fun m => { m with pend := m.pend.map (fun q =>
    if q.src = p.src ∧ q.dest = p.dest ∧ q.course = p.course ∧ q.seq = p.seq then { q with held := false, time := s.clk.tb } else q) })
  if p.void then s.send 0x13 p.dest 0 (seqWords p.dest p.course.toNat p.seq.toNat)
  else s.send 0x11 p.dest 0 (ticketWords p.tk ++ seqWords p.src p.course.toNat p.seq.toNat)

/-- The send-table entry of a pair counts what the pending store holds for it (spec/10 Layout 10-10). -/
def countPend (s : State) (c d : Nat) : State :=
  let e := sendEnt s c d
  let left := (s.mason.pend.filter (fun p =>
    decide (p.src = s.devNo ∧ p.dest.toNat = d ∧ p.course.toNat = c))).map (fun p => p.seq.toNat)
  setSendEnt s c d { e with count := left.length, oldest := left.foldl min e.next }

/-- An acknowledgement takes a continuation of device `src` out of the pending store (spec/10 R324): this device's own, or
one of the buddy that it promoted for (spec/11 R382). -/
def ackCont (s : State) (src dest : BitVec 9) (course : BitVec 4) (seq : BitVec 48) : State :=
  let is (p : Pend) : Bool := decide (p.src = src ∧ p.dest = dest ∧ p.course = course ∧ p.seq = seq)
  if s.mason.pend.any is then
    let s := s.modMason (fun m => { m with pend := m.pend.filter (fun p => !is p) })
    if src = s.devNo then countPend s course.toNat dest.toNat else s
  else s

/-- Acknowledge a continuation to its source and to the source's buddy (spec/11 R369), naming its destination: this device, or
a failed device that it was sent to (R382). Of this device's own sources the buddy is HWJ.BUDDY; that of others no message
tells (log entry 23). -/
def sendCack (s : State) (dest : BitVec 9) (src : BitVec 9) (course : BitVec 4) (seq : BitVec 48) : State :=
  let w := seqWords dest course.toNat seq.toNat
  let s := s.send 0x12 src 0 w
  if src = s.devNo then
    match buddy? s with
    | some b => s.send 0x12 b 0 w
    | none => s
  else if buddy? s = some src then
    s.modHwj (fun h => { h with rPend := h.rPend.filter (fun p => !decide (p.dest = dest ∧ p.course = course ∧ p.seq = seq)) })
  else match Config.peerBuddy src with
    | some b => s.send 0x12 b 0 w
    | none => s

/-- The outcome of a continuation is durable: the bit, and the acknowledgement (spec/10 R326). -/
def receiptDone (s : State) (src : BitVec 9) (course : BitVec 4) (seq : BitVec 48) : State :=
  let dest := ((s.hwj.forBuddy.find? (fun q => decide (q.2 = (src, course, seq)))).map Prod.fst).getD s.devNo
  let s := s.modHwj (fun h => { h with forBuddy := h.forBuddy.filter (fun q => decide (q.2 ≠ (src, course, seq))) })
  sendCack (markRecv s dest src course seq.toNat) dest src course seq

/-- A continuation, or void notice, of a pair with a sequence is in progress here: its ticket has no outcome, or its receipt is
not durable yet (spec/10 R325, R326). -/
def contBusy (s : State) (src : BitVec 9) (course : BitVec 4) (seq : BitVec 48) : Bool :=
  let is (r : Option (BitVec 9 × BitVec 4 × BitVec 48 × Nat)) : Bool :=
    match r with
    | some (d, c, q, _) => decide (d = src ∧ c = course ∧ q = seq)
    | none => false
  s.mason.tickets.any (fun k => decide (k.receipt = some (src, course, seq))) || s.hwj.inflight.any (fun r => is r.rcpt) ||
    s.hwj.waiting.any (fun w => match w with
      | .own _ _ r => is r
      | _ => false)

/-! ## Write set and before-images (spec/11 R348, R349) -/

/-- Copy a line; poison travels with it (spec/09 R295). -/
def State.copyLine (s : State) (src dst : Nat) : State :=
  let p := s.poison.contains src
  let s := s.setBytes (dst * 128) (s.bytes (src * 128) 128)
  let rest := s.poison.filter (fun l => decide (l ≠ dst))
  { s with poison := if p then rest ++ [dst] else rest }

/-- Line number of a before-image: slot of the course, and place (spec/11 R349; the place of a line in its slot is
log entry 24). -/
def biLine (s : State) (c : CourseId) (slot place : Nat) : Nat :=
  (s.fld (hwjReg 0x148) 47 28 * 2 ^ 28 + (1040 * c.val + slot) * 0x4000) / 128 + place

/-- The doublewords of a line that `n` bytes at `a` touch, as the write-set mask: bit i for doubleword i. -/
def dwMask (line a n : Nat) : BitVec 16 :=
  (List.range 16).foldl (fun m i =>
    let lo := line * 128 + 8 * i
    if lo < a + n ∧ a < lo + 8 then m ||| BitVec.ofNat 16 (2 ^ i) else m) 0

/-- The key of a ticket whose frame holds a line. -/
def keyOfLine (k : TicketRec) (line : Nat) : Fin 4 :=
  ((List.finRange 4).find? (fun i =>
    decide ((k.frames.get i).getLsbD 63 ∧ bitsNat (k.frames.get i) 47 12 = line / 32))).getD 0

/-- The ticket writes doublewords of a line: the before-image at the first write, then the mask. -/
def touchLine (s : State) (n : Nat) (line : Nat) (m : BitVec 16) : State :=
  match ticketOf s n with
  | none => s
  | some k =>
    if k.ws.any (fun w => decide (w.line = line)) then
      modTicket s n (fun k => { k with ws := k.ws.map (fun w => if w.line = line then { w with mask := w.mask ||| m } else w) })
    else
      let key := keyOfLine k line
      let place := key.val * 32 + line % 32
      let s := match k.slot with
        | some sl => s.copyLine line (biLine s k.course sl place)
        | none => s
      (modTicket s n (fun k => { k with ws := k.ws ++ [{ line := line, mask := m, key := key, place := place }] })).evCount
        (pCourse + k.course.val) 0x27 1

/-- A write of `n` bytes at `a` through a brick joins the write set of the tile's ticket (spec/11 R348). -/
def brickWrite (s : State) (tk : Option Nat) (a n : Nat) : State :=
  match tk with
  | some k => (linesOf a n).foldl (fun s l => touchLine s k l (dwMask l a n)) s
  | none => s

/-- Restore the write set of a ticket (spec/11 R355, step 1): a line that holds poison keeps it. -/
def restoreWs (s : State) (k : TicketRec) : State :=
  match k.slot with
  | none => s
  | some sl =>
    k.ws.foldl (fun s w =>
      let bad := s.poison.contains w.line
      let s := s.copyLine (biLine s k.course sl w.place) w.line
      if bad && !s.poison.contains w.line then { s with poison := s.poison ++ [w.line] } else s) s

/-! ## The posting record (spec/11 R351, R359) -/

/-- First and last doubleword of a mask. -/
def maskEnds (m : BitVec 16) : Nat × Nat :=
  let on := (List.range 16).filter (fun i => m.getLsbD i)
  (on.headD 0, on.getLastD 0)

/-- The extent of a line (spec/11 Layout 11-4). -/
def extentBytes (s : State) (w : WsLine) : List Byte :=
  let lo := (maskEnds w.mask).1
  let n := (maskEnds w.mask).2 + 1 - lo
  beBytes 8 (w.key.val * 2 ^ 62 + (w.line * 128 % 4096 + 8 * lo) * 2 ^ 47 + n * 2 ^ 42) ++
    s.bytes (w.line * 128 + 8 * lo) (8 * n)

/-- The body of a posting, with its continuations' destinations and sequence numbers. -/
def postBody (s : State) (k : TicketRec) (seqs : List (Ticket × BitVec 9 × Nat)) : List Byte :=
  (beBytes 64 (clearPh k.raw).toNat).take 16 ++
    (match k.receipt with
     | some (d, c, q) => receiptItem d c q 0
     | none => []) ++
    ((tKeys k.raw).map (fun x => beBytes 8 x.toNat)).flatten ++
    ((sortBy (fun w => w.key.val * 4096 + w.line * 128 % 4096) k.ws).map (extentBytes s)).flatten ++
    (seqs.map (fun q => beBytes 64 q.1.toNat ++
      beBytes 8 (q.2.1.toNat * 2 ^ 55 + k.course.val * 2 ^ 51 + q.2.2 % 2 ^ 48) ++ beBytes 8 0)).flatten

/-- An upper bound on a posting's length, its exact length: the sequence numbers do not change it. -/
def postLen (s : State) (k : TicketRec) : Nat :=
  64 * recUnits (postBody s k (k.conts.map (fun t => (t, 0, 0))))

/-- A device is a forerunner: a static home of this slice, or the peer of a link that says so. Of a device that the partition map
does not name and that no link reaches no message tells: a free value (log entry 100). -/
def isForerunner (s : State) (d : BitVec 9) : Bool :=
  let linked (k : LinkId) : Bool := decide ((linkPeer s.devNo k).1 = d) && (s.reg (mortReg k 0x100)).getLsbD 63
  s.mason.statics.any (fun q => decide (q.2 = d)) || (List.finRange 16).any (fun k => linkFr s k && linked k) ||
    (!s.mason.pmap.toList.contains d && decide (d ≠ s.devNo) && !s.mason.aliases.any (fun q => decide (q.1 = d)) &&
      !(List.finRange 16).any linked && Config.forerunnerAt d)

/-- The home of a key where this device can tell: homed here, or in the slice here (spec/10 Table 10-9, R320). -/
def knownHome (s : State) (k : Word) : Option (BitVec 9) :=
  if (homeEntry s k).isSome then some s.devNo
  else if sliceDev s k = s.devNo then
    match sliceEntry s k with
    | some (_, w) => some (eDev w)
    | none => some s.devNo
  else none

/-- GUEST of a ticket's handler. -/
def tGuest (s : State) (t : Ticket) : Bool :=
  match handlerWord s t with
  | some (w0, _) => w0.getLsbD 62
  | none => false

/-- The running device of a ticket (spec/10 R305). Where the home of key 0 stands in another device's slice, it is a free value:
no rule says how this device learns it (log entry 25). -/
def runDevice (s : State) (t : Ticket) : BitVec 9 × State :=
  if tNkeys t ≠ 0 ∧ tGuest s t then
    let s := repairSlice s ((tKeys t).headD 0)
    match knownHome s ((tKeys t).headD 0) with
    | some d => (d, s)
    | none => (s.freeVal 9, s.drew)
  else (tSdev t, s)

/-- The running devices of a ticket's staged continuations, in order. -/
def runDevices : List Ticket → State → List (BitVec 9) × State
  | [], s => ([], s)
  | t :: r, s =>
    let d := runDevice s t
    let x := runDevices r d.2
    (d.1 :: x.1, x.2)

/-- Fix the sequence numbers of the staged continuations (spec/10 R324); each takes a slot of the pending store, held
until the POST commits. One to a forerunner takes a number too: the record carries it, and it is refused with VERSION
(spec/10 R341). -/
def fixSeqs (s : State) (k : TicketRec) (pos : Nat) : List (Ticket × BitVec 9 × Nat) × State :=
  let ds := runDevices k.conts s
  (k.conts.zip ds.1).foldl (fun (acc : List (Ticket × BitVec 9 × Nat) × State) q =>
    let s := acc.2
    let t := q.1
    let d := q.2
    let e := sendEnt s k.course.val d.toNat
    let p : Pend := { tk := clearPh t, src := s.devNo, dest := d, course := BitVec.ofNat 4 k.course.val,
                      seq := BitVec.ofNat 48 e.next, time := 0, void := false, held := true, pos := pos }
    let s := setSendEnt s k.course.val d.toNat { e with next := e.next + 1, count := e.count + 1 }
    (acc.1 ++ [(t, d, e.next)], s.modMason (fun m => { m with pend := m.pend ++ [p] }))) ([], ds.2)

/-- Lines of the write set in mirrored pools. -/
def mirroredLines (s : State) (k : TicketRec) : List WsLine := k.ws.filter (fun w => inMirrored s (w.line * 128))

/-- Mirroring is required and impossible (spec/11 R371). -/
def mirFails (s : State) (k : TicketRec) : Bool := (mirroredLines s k).any (fun w => !degrAt s (w.line * 128))

/-- A line of the write set, or its before-image, is poisoned (spec/11 R351, step 2). -/
def wsPoisoned (s : State) (k : TicketRec) : Bool :=
  k.ws.any (fun w => s.poison.contains w.line ||
    (match k.slot with
     | some sl => s.poison.contains (biLine s k.course sl w.place)
     | none => false))

/-- The failure that step 2 of POST finds (spec/11 Table 11-2), 0 for none. -/
def postVerdict (s : State) (k : TicketRec) : Nat :=
  if hwjState s = 5 then 0x15
  else if wsPoisoned s k then 0x13
  else if !mirroring s && mirFails s k then 0x10
  else 0

/-! ## Outcomes -/

/-- The tile leaves POST when its ticket's completion record is not held back (spec/10 R303). -/
def leavePost (s : State) (n : Nat) (t : Option TileId) : State :=
  match t with
  | some t =>
    if (s.tile t).run = .postWait n ∧ !s.mason.comps.any (fun c => decide (c.tile = some t)) then
      nextTicket (s.evCountQ (tilePage t) 0x20 (fun q => decide (q % 8 = 0) || decide (q % 2 = 1)) 1) t
    else s
  | none => s

/-- Free a ticket's before-image slot. -/
def freeTicketSlot (s : State) (k : TicketRec) : State :=
  match k.slot with
  | some sl => s.modCourse k.course (fun c => { c with slots := c.slots.filter (· ≠ sl) })
  | none => s

/-- The tile of a posting ticket. -/
def postTile (k : TicketRec) : Option TileId :=
  match k.st with
  | .posting t => t
  | .running t => some t
  | _ => none

/-- The END record of a dispatch on tile `t` (spec/14 Table 14-2): HOW, STATUS, and what the journal record at `pos` and
the ticket's sequence numbers give; NOREC where a POST formed none. -/
def endRecord (s : State) (t : TileId) (k : TicketRec) (how status : Nat) (pos : Option Nat) : State :=
  let at_ (o : Nat) : Nat := match pos with
    | some p => (s.dword (ringAddr (p + o))).toNat
    | none => 0
  let hash := match pos with
    | some p => s.bytes (ringAddr (p + 32)) 32
    | none => List.replicate 32 0
  let w0 := how * 2 ^ 62 + at_ 0 / 2 ^ 42 % 2 * 2 ^ 61 + b2n (pos.isNone && how == 0) * 2 ^ 60 + status * 2 ^ 48 +
    (s.tile t).pc.toNat % 2 ^ 48
  let seqs := (List.range 4).flatMap (fun i => beBytes 8 (match k.contSeqs[i]? with
    | some q => q.2 % 2 ^ 48
    | none => 0))
  ringsEvent s t 0x0C (beBytes 8 w0 ++ beBytes 8 (at_ 16) ++ beBytes 8 (at_ 24) ++ beBytes 8 0 ++ hash ++ seqs)

/-- The END record at the outcome of a ticket's POST, or at the checkstop of its tile. -/
def endOf (s : State) (k : TicketRec) (status : Nat) (pos : Option Nat) : State :=
  match postTile k with
  | some t => endRecord s t k (match k.st with
    | .running _ => 2
    | _ => 0) status pos
  | none => s

/-- The commit of a POST (spec/11 R354); `rec` is its record, if it formed one. -/
def commitTicket (s : State) (n : Nat) (rec : Option JRec) : State :=
  match ticketOf s n with
  | none => s
  | some k =>
    let s := endOf s k 0 (rec.map (fun r => r.pos))
    let s := freeTicketSlot s k
    let s := dropTicket s n
    let s := match rec with
      | some r =>
        let s := s.incSat (hwjReg 0x170) 48 1
        let s := if r.mirrored && !r.acked then s.incSat (hwjReg 0x178) 48 1 else s
        let mine := s.mason.pend.filter (fun p => decide (p.pos = r.pos ∧ p.src = s.devNo) && p.held)
        mine.foldl (fun s p =>
          if isForerunner s p.dest then
            let s := (s.incSat (masonReg 0x150) 48 1).raise pMason 2
            let s := s.logErr pMason 0x21 7 0xFF
              (BitVec.ofNat 64 (p.course.toNat * 2 ^ 60 + p.src.toNat * 2 ^ 48 + p.seq.toNat))
            ackCont (journalOwn s 1 (receiptItem p.src p.course p.seq 7) none) p.src p.dest p.course p.seq
          else (sendPend s p).evCount pMason 0x27 1) s
      | none => s
    let s := match k.receipt with
      | some (d, c, q) => receiptDone s d c q
      | none => s
    let t := postTile k
    let s := if hwjState s = 5 ∧ rec.isSome then s else complete s k 0 t rec.isSome
    leavePost s n t

/-- The failure of a POST, or of a ticket whose tile is retired (spec/11 R355, R356); `pos` is the record already
written. -/
def failTicket (s : State) (n status : Nat) (pos : Option Nat) : State :=
  match ticketOf s n with
  | none => s
  | some k =>
    let s := endOf s k status pos
    let s := restoreWs s k
    let s := match pos with
      | some p =>
        let s := journalOwn s 4 (beBytes 8 p ++ beBytes 8 0) none
        let mine := s.mason.pend.filter (fun q => decide (q.pos = p ∧ q.src = s.devNo) && q.held)
        mine.foldl (fun s q =>
          let v := { q with void := true }
          let s := s.modMason (fun m => { m with pend := m.pend.map (fun x => if x = q then v else x) })
          sendPend s v) s
      | none => s
    let s := freeTicketSlot s k
    let s := dropTicket s n
    let t := postTile k
    let s := if hwjState s = 5 ∧ pos.isSome then s else complete s k status t pos.isSome
    let s := (s.raise pHwj 0).logErr pHwj 0x22 status 0xFF (tCookie k.raw)
    leavePost (s.incSat (hwjReg 0x180) 48 1) n t

/-- A record whose durability and acknowledgement are complete has its effect. -/
def recReady (s : State) (r : JRec) : State :=
  if r.durable && (!r.needAck || r.acked) then
    let s := match r.ticket with
      | some n => commitTicket s n (some r)
      | none => match r.rcpt with
        | some (d, c, q, _) => receiptDone s d c q
        | none => s
    s.modHwj (fun h => { h with inflight := h.inflight.filter (fun x => decide (x.pos ≠ r.pos)) })
  else s

/-- The record of a ticket takes its position (spec/11 R351, steps 2 and 3). -/
def postTake (s : State) (k : TicketRec) : State :=
  let pos := nextPos s (postLen s k)
  let (seqs, s) := fixSeqs s k pos
  let s := modTicket s k.arrival (fun k => { k with contSeqs := seqs.map (fun q => q.2) })
  let body := postBody s k seqs
  let mir := !(mirroredLines s k).isEmpty
  let h : RecHdr := { kind := 0, chain := k.course.val, unmir := mir && !mirroring s, ncont := seqs.length,
                      rcpt := k.receipt.isSome, next := k.ws.length, nkey := min 4 (tNkeys k.raw) }
  let need := mirroring s && (mir || !seqs.isEmpty || k.receipt.isSome)
  let blocks := ceilDiv (32 + 64 * recUnits body + 9) 64
  (putOwn s h body { blankRec with ticket := some k.arrival, needAck := need, mirrored := mir, cont := !seqs.isEmpty }).evCount
    (pCourse + k.course.val) 0x28 blocks

/-- A send counter at FFFF_FFFF_FFFFh holds the POST back, as a full pending store does (spec/10 R327): every staged
continuation finds a number below it. -/
def seqRoom (s : State) (k : TicketRec) : Bool :=
  let ds := (runDevices k.conts s).1
  decide (s.mason.pend.length + k.conts.length ≤ Config.pendingSlots) &&
    (List.range ds.length).all (fun i =>
      let d := ds.getD i 0
      decide ((sendEnt s k.course.val d.toNat).next + ((ds.take i).filter (· = d)).length < 2 ^ 48 - 1))

/-- Write the mirror copy of a record at HEADPOS: MCOPY set, POS replaced (spec/11 R367). -/
def putCopy (s : State) (src : BitVec 9) (bytes : List Byte) : State :=
  let len := bytes.length
  let spos := ofBytes ((bytes.drop 8).take 8)
  let pos := nextPos s len
  let w0 := BitVec.ofNat 64 (ofBytes (bytes.take 8)) ||| BitVec.ofNat 64 (2 ^ 43)
  let s := ringPut s len (fun p => beBytes 8 w0.toNat ++ beBytes 8 p ++ bytes.drop 16)
  trackRec (s.evCount pHwj 0x22 1) { blankRec with pos := pos, len := len, mcopy := some (src, spos) }

/-- Records that wait take positions, in order, while there is room (spec/11 R364). -/
def pumpJournal : Nat → State → State
  | 0, s => s
  | f + 1, s =>
    match s.hwj.waiting with
    | [] => s
    | w :: rest =>
      let pop (s : State) : State := s.modHwj (fun h => { h with waiting := rest })
      match w with
      | .post n _ =>
        match ticketOf s n with
        | none => pumpJournal f (pop s)
        | some k =>
          let v := postVerdict s k
          if v ≠ 0 then pumpJournal f (failTicket (pop s) n v none)
          else if spaceFor s (postLen s k) ≤ ringFree s ∧ seqRoom s k then pumpJournal f (postTake (pop s) k)
          else s
      | .copy src b =>
        if spaceFor s b.length ≤ ringFree s then pumpJournal f (putCopy (pop s) src b) else s
      | .own kind body rcpt =>
        let len := 64 * recUnits (if kind = 5 then List.replicate 536 0 else body)
        if spaceFor s len ≤ ringFree s then pumpJournal f (putUnit (pop s) kind body rcpt) else s

/-- Let waiting records take positions. A POST held only by a full pending store or send counter holds back every record behind it
(log entry 126). -/
def journalPump (s : State) : State := pumpJournal (s.hwj.waiting.length + 8) s

/-- Step 2 of the POST of ticket `n` on tile `t` (spec/11 R351–R353). -/
def postStep2 (s : State) (t : TileId) (n : Nat) : State :=
  match ticketOf s n with
  | none => s
  | some k =>
    let s := modTicket s n (fun k => { k with st := .posting (some t) })
    let s := s.modTile t (fun x => { x with run := .postWait n })
    if k.ws.isEmpty && k.conts.isEmpty && k.receipt.isNone then commitTicket s n none
    else
      let v := postVerdict s k
      if v ≠ 0 then failTicket s n v none
      else journalPump (s.modHwj (fun h => { h with waiting := h.waiting ++ [.post n (some t)] }))

/-! ## Mirroring (spec/11 R367–R372) -/

/-- Where the replica of the brick of an entry of the buddy lies: its pool's place in pool 16 + n (spec/11 R367). `none`: there is
no such pool, and the brick is not mirrored. -/
def replicaPlace (s : State) (w : Word) : Option Nat :=
  let p := poolOf s (16 + ePool w)
  if p.v then some (p.base + (eFrame w - Config.peerPoolBase (ePool w))) else none

/-- Where the replica of a brick of the buddy lies, as its slice entry gives it: in the replica of the buddy's slice, or in the
slice here. Where a third device holds the slice nothing tells the pool and the place, and they are free within the replica pools
(log entry 26). -/
def replicaFrame (s : State) (src : BitVec 9) (key : Word) : Option Nat :=
  let h := keyhash key
  let base := s.fld (hwjReg 0x150) 47 33 * 2 ^ 33
  let slots := (List.range 8).map (fun i => base + 0x80 * h.2.1 + 16 * i) ++
    (List.range 8).map (fun i => base + 0x80 * h.2.2 + 16 * i)
  let at_ := if pmapAt s h.1 = src then slots.find? (fun a => decide (s.dword a = key)) else sliceFind s key
  match at_ with
  | some a => if eDev (s.dword (a + 8)) = src then replicaPlace s (s.dword (a + 8)) else none
  | none =>
    if pmapAt s h.1 = src ∨ pmapAt s h.1 = s.devNo then none
    else
      let ps := (List.range 16).filter (fun n => (poolOf s (16 + n)).v)
      match ps[Config.replicaOf key 0 % ps.length]? with
      | some n =>
        let p := poolOf s (16 + n)
        some (p.base + 4096 * (Config.replicaOf key 1 % p.bricks))
      | none => none

/-- Apply the extents of a posting to the replica. -/
def applyExtents (src : BitVec 9) (keys : List Word) (a : Nat) : Nat → Nat → State → State
  | 0, _, s => s
  | f + 1, off, s =>
    let w := s.dword (ringAddr (a + off))
    let n := bitsNat w 46 42
    let s := match replicaFrame s src (keys.getD (bitsNat w 63 62) 0) with
      | some fr => s.setBytes (fr + bitsNat w 58 47) (s.bytes (ringAddr (a + off + 8)) (8 * n))
      | none => s
    applyExtents src keys a f (off + 8 + 8 * n) s

/-- Offset, from a record's start, after `n` extents. -/
def afterExtents (s : State) (a : Nat) : Nat → Nat → Nat
  | 0, off => off
  | f + 1, off => afterExtents s a f (off + 8 + 8 * bitsNat (s.dword (ringAddr (a + off))) 46 42)

/-- The keys whose bricks a posting at ring position `a` changes. -/
def recKeys (s : State) (a : Nat) : List Word :=
  let w := s.dword (ringAddr a)
  let off := 80 + (if w.getLsbD 21 then 16 else 0)
  (List.range (bitsNat w 11 9)).map (fun i => s.dword (ringAddr (a + off + 8 * i)))

/-- Two views of the receive entry of one pair together. -/
def RecvEnt.join (x y : RecvEnt) : RecvEnt :=
  let lo := if x.lw ≤ y.lw then x else y
  let hi := if x.lw ≤ y.lw then y else x
  RecvEnt.advance 257 { lw := hi.lw, bm := hi.bm ||| (lo.bm >>> (hi.lw - lo.lw)) }

/-- A part of the sender's sequence snapshot brings its entries of the receive table to the replica (spec/11 R366, R372). -/
def applySnapshot (s : State) (a : Nat) : State :=
  let part := bitsNat (s.dword (ringAddr (a + 64))) 63 59
  if part < 6 then s
  else (List.range 256).foldl (fun s j =>
    let i := (part - 6) * 256 + j
    let o := a + 80 + 64 * j
    let e : RecvEnt := { lw := s.memNat (ringAddr o) 6, bm := BitVec.ofNat 256 (s.memNat (ringAddr (o + 32)) 32) }
    s.modHwj (fun h => { h with rRecv := assocPut h.rRecv i ((assocFind h.rRecv i RecvEnt.fresh).join e) RecvEnt.fresh })) s

/-- Apply the mirror copy at ring position `a`, `spos` at its sender, to the replicas (spec/11 R367, R369). -/
def applyCopy (s : State) (a spos : Nat) : State :=
  let w := s.dword (ringAddr a)
  let src := BitVec.ofNat 9 (bitsNat w 37 29)
  let rc (s : State) (o : Nat) : State :=
    let q := s.dword (ringAddr (a + o))
    let e := (assocFind s.hwj.rRecv (bitsNat q 63 55 * 12 + bitsNat q 54 51) RecvEnt.fresh).mark (bitsNat q 47 0)
    s.modHwj (fun h => { h with rRecv := assocPut h.rRecv (bitsNat q 63 55 * 12 + bitsNat q 54 51) e RecvEnt.fresh })
  let kind := bitsNat w 47 44
  if kind = 1 then rc s 64
  else if kind = 2 then applySnapshot s a
  else if kind = 4 then
    s.modHwj (fun h => { h with rPend := h.rPend.map (fun p =>
      if p.pos = (s.dword (ringAddr (a + 64))).toNat then { p with void := true } else p) })
  else if kind = 0 then
    let s := if w.getLsbD 21 then rc s 80 else s
    let keys := recKeys s a
    let off := 80 + (if w.getLsbD 21 then 16 else 0) + 8 * keys.length
    let s := applyExtents src keys a (bitsNat w 20 12) off s
    let off := afterExtents s a (bitsNat w 20 12) off
    (List.range (bitsNat w 24 22)).foldl (fun s i =>
      let o := a + off + 80 * i
      let q := s.dword (ringAddr (o + 64))
      let p : Pend := { tk := BitVec.ofNat 512 (s.memNat (ringAddr o) 64), src := src, dest := BitVec.ofNat 9 (bitsNat q 63 55),
                        course := BitVec.ofNat 4 (bitsNat q 54 51), seq := BitVec.ofNat 48 (bitsNat q 47 0), time := s.clk.tb,
                        void := false, held := false, pos := spos }
      s.modHwj (fun h => { h with rPend := h.rPend ++ [p] })) s
  else s

/-- In RESYNC a record waits until every brick it changes has been copied (spec/11 R372). -/
def copyMayApply (s : State) (a : Nat) : Bool :=
  hwjState s != 2 || bitsNat (s.dword (ringAddr a)) 47 44 != 0 ||
    (recKeys s a).all (fun k =>
      match replicaFrame s (BitVec.ofNat 9 (bitsNat (s.dword (ringAddr a)) 37 29)) k with
      | some fr => s.hwj.rCopied.contains fr
      | none => true)

/-- Apply the acknowledged copies, in the order received. -/
def applyPump : Nat → State → State
  | 0, s => s
  | f + 1, s =>
    match s.hwj.rApply with
    | [] => s
    | q :: rest =>
      if copyMayApply s q.1 then applyPump f ((applyCopy s q.1 q.2).modHwj (fun h => { h with rApply := rest })) else s

/-- The Heartwood write of a posting fails (spec/11 Table 11-2, HWERR): when it does no rule says, so a free value tells (log
entry 92). -/
def writeFails (s : State) : Bool := (s.freeVal 1) == 1

/-- The oldest record that is not durable becomes durable (spec/11 R363), or, of a posting, its write fails. -/
def durableStep (s : State) : State :=
  match s.hwj.inflight.find? (fun r => !r.durable) with
  | none => s
  | some r =>
    let r' := { r with durable := true }
    let bad := writeFails s
    let s := if r.ticket.isSome then s.drew else s
    let s := s.modHwj (fun h => { h with inflight := h.inflight.map (fun x => if x = r then r' else x) })
    let s := setDurPos s
    match r.mcopy with
    | some (src, spos) =>
      let s := s.send 0x21 src 0 [BitVec.ofNat 64 spos]
      let s := s.modHwj (fun h => { h with rApply := h.rApply ++ [(r.pos, spos)] })
      let s := applyPump (s.hwj.rApply.length) s
      s.modHwj (fun h => { h with inflight := h.inflight.filter (fun x => decide (x.pos ≠ r.pos)) })
    | none =>
      match r.ticket with
      | some n =>
        if bad then
          failTicket ((s.modHwj (fun h => { h with inflight := h.inflight.filter (fun x => decide (x.pos ≠ r.pos)) })).raise pHwj 6)
            n 0x12 (some r.pos)
        else recReady s r'
      | none => recReady s r'

/-- An acknowledgement of the buddy (spec/11 R354). -/
def mirrorAck (s : State) (pos : Nat) : State :=
  let s := s.evCount pHwj 0x23 1
  match s.hwj.inflight.find? (fun r => decide (r.pos = pos ∧ r.mcopy = none)) with
  | none => s
  | some r =>
    let r' := { r with acked := true }
    recReady (s.modHwj (fun h => { h with inflight := h.inflight.map (fun x => if x = r then r' else x) })) r'

/-- Every record that waits for the buddy is decided as the state changes (spec/11 R371). -/
def decideWaiting (s : State) : State :=
  let s := s.hwj.inflight.foldl (fun s r =>
    if r.needAck && !r.acked then
      let r' := { r with needAck := false }
      let put (s : State) (x : JRec) : State :=
        s.modHwj (fun h => { h with inflight := h.inflight.map (fun y => if y = r then x else y) })
      match r.ticket with
      | some n =>
        match ticketOf s n with
        | some k =>
          if mirFails s k then failTicket (put s { r' with ticket := none }) n 0x10 (some r.pos) else recReady (put s r') r'
        | none => put s r'
      | none => recReady (put s r') r'
    else s) s
  let posts := s.hwj.waiting.filterMap (fun w => match w with
    | .post n _ => some n
    | _ => none)
  posts.foldl (fun s n =>
    match ticketOf s n with
    | some k =>
      if mirFails s k then
        failTicket (s.modHwj (fun h => { h with waiting := h.waiting.filter (fun w => match w with
          | .post m _ => decide (m ≠ n)
          | _ => true) })) n 0x10 none
      else s
    | none => s) s

/-- A directory change takes effect: the cached copy of a brick homed here follows it in COURSE (spec/10 R320). -/
def entryLands (s : State) (a : Nat) (k w : Word) : State :=
  let s := (s.setDword a k).setDword (a + 8) w
  match s.mason.cached.find? (fun q => decide (q.1 = k.toNat)) with
  | some q => if eDev w = s.devNo ∧ eState w = 1 ∧ eState q.2 = 1 then cacheEntry s k (setBits q.2 47 4 (eCourse w)) else s
  | none => s

/-- Directory changes that wait for the buddy take effect: it no longer mirrors. -/
def flushDrep (s : State) : State :=
  let l := s.hwj.drepWait
  l.foldl (fun s q => entryLands s q.1 (q.2.extractLsb' 64 64) (q.2.extractLsb' 0 64)) (s.modHwj (fun h => { h with drepWait := [] }))

/-- Enter DEGRADED (spec/11 R370, R377). -/
def enterDegraded (s : State) : State := journalPump (decideWaiting (flushDrep (setHwjState s 4)))

/-- Messages for `a` go to `b`, and the partition-map entries that name `a` name `b` (spec/11 R380). On `b` itself those
partitions lie in the replica of the slice. -/
def renameDev (s : State) (a b : BitVec 9) : State :=
  let mine := (List.range 4096).filter (fun i => decide (b = s.devNo ∧ pmapAt s i = a))
  s.modMason (fun m =>
    { m with aliases := (m.aliases.filter (fun q => decide (q.1 ≠ a))).map (fun q => if q.2 = a then (q.1, b) else q) ++ [(a, b)],
             pmap := m.pmap.map (fun d => if d = a then b else d), repl := m.repl ++ mine })

/-- An entry of a failed device whose brick lies in the replica pool here (spec/11 R381), where its postings were applied; `none`
for a brick of an unmirrored pool, which is lost. -/
def promotedEntry (s : State) (k w : Word) : Option Word :=
  let third := decide (pmapAt s (keyhash k).1 ≠ s.devNo)
  match replicaPlace s w with
  | some fr =>
    let fr := if third then (replicaFrame s (eDev w) k).getD fr else fr
    some (mkEntry 1 (ePin w) s.devNo (eCourse w) (ePool w) fr)
  | none => none

/-- Mirror copies of the failed device that are not acknowledged stay so, and are never applied (spec/11 R377, R381). -/
def dropCopies (s : State) : State :=
  s.modHwj (fun h =>
    { h with inflight := h.inflight.map (fun r => if r.durable then r else { r with mcopy := none }),
             waiting := h.waiting.filter (fun w => match w with
               | .copy _ _ => false
               | _ => true) })

/-- Apply what is acknowledged, and take the place of the failed buddy (spec/11 Sequence 11-8, steps 4 to 7; R381, R382). -/
def promote (s : State) (a : BitVec 9) : State :=
  let s := dropCopies (applyPump s.hwj.rApply.length (setHwjState s 4))
  let s := renameDev s a s.devNo
  let taken := s.hwj.rRecv.map (fun q => (a.toNat * 6144 + q.1, q.2))
  let s := s.modHwj (fun h => { h with promoted := true, declared := false, rRecv := [],
                                       aRecv := h.aRecv.filter (fun q => decide (q.1 / 6144 ≠ a.toNat)) ++ taken })
  let base := s.fld (hwjReg 0x150) 47 33 * 2 ^ 33
  let at_ (b : Nat) : List Nat :=
    ((s.mem.filter (fun c => decide (b ≤ c.1 ∧ c.1 < b + 2 ^ 33))).map (fun c => c.1 / 16 * 16)).dedup
  let s := (at_ base ++ at_ 0x040000000000).foldl (fun s e =>
    let w := s.dword (e + 8)
    if s.dword e ≠ 0 ∧ eState w ≠ 3 ∧ eDev w = a then
      match promotedEntry s (s.dword e) w with
      | some w' => cacheEntry (clearBrickBits (s.setDword (e + 8) w') (eFrame w') none) (s.dword e) w'
      | none => ((s.logErr pHwj 0x24 0 0xFF (s.dword e)).setDword e 0).setDword (e + 8) 0
    else s) s
  let rp := s.hwj.rPend.filter (fun p => !p.void)
  let s := s.modMason (fun m => { m with pend := m.pend ++ rp })
  let s := s.modHwj (fun h => { h with rPend := [] })
  let s := rp.foldl sendPend s
  let s := (List.range 512).foldl (fun s d =>
    if d ≠ s.devNo.toNat ∧ d ≠ a.toNat ∧ s.mason.pmap.toList.contains (BitVec.ofNat 9 d) then
      s.send 0x04 (BitVec.ofNat 9 d) 0 [BitVec.ofNat 64 (a.toNat * 512 + s.devNo.toNat)]
    else s) s
  let dest := s.mason.pend.filter (fun p => decide (p.dest = a) && !p.held)
  let s := dest.foldl (fun s p => if p.void then sendPend s p else (sendPend s p).incSat (masonReg 0x140) 48 1) s
  s.raise pHwj 3

/-! ## Opening of the ring (spec/11 R360, R364–R366, R375) -/

/-- Write a snapshot of the sequence tables (spec/11 R366). -/
def snapshot (s : State) : State :=
  let t := seqTables s
  (List.range 30).foldl (fun s i =>
    journalOwn s 2 (beBytes 8 (i * 2 ^ 59) ++ beBytes 8 0 ++ (t.drop (16384 * i)).take 16384) none) s

/-- RINGINIT (spec/11 Table 11-12). -/
def ringInitOp (s : State) : State :=
  let s := s.zeroRange 0x080000000000 Config.ringBytes
  let s := [0x108, 0x110, 0x118].foldl (fun s o => s.setReg (hwjReg o) 0) s
  let s := (List.range 13).foldl (fun s c => setChain s c 0 (List.replicate 32 0)) s
  let s := (setHwjState s 1).modHwj (fun h => { h with snapFirst := true })
  (journalOwn s 5 (beBytes 8 0) none).cmdDone pHwj 2

/-- What a walk of the ring has found: records accepted (own or copy) with their positions, and the state of each chain. -/
structure Walk where
  pos : Nat
  recs : List Nat
  chains : List (Nat × Nat × List Byte)
  bad : Option (Nat × Nat)
  deriving DecidableEq, Repr

/-- One record of the walk (spec/11 R375, step 2): `none` where it fails. -/
def walkRec (s : State) (w : Walk) : Option Walk ⊕ Walk :=
  let a := ringAddr w.pos
  let h := s.dword a
  let len := 64 * bitsNat h 8 0
  if bitsNat h 63 48 ≠ 0x4A52 ∨ (s.dword (a + 8)).toNat ≠ w.pos ∨ len = 0 then .inl none
  else if bitsNat h 47 44 = 3 then .inr { w with pos := w.pos + len, recs := w.recs ++ [w.pos] }
  else
    let id := bitsNat h 37 25
    let bytes := s.bytes a len
    let bare := beBytes 8 (h &&& ~~~(BitVec.ofNat 64 (2 ^ 43))).toNat ++ List.replicate 8 0 ++ (bytes.drop 16).take 16 ++
      List.replicate 32 0 ++ bytes.drop 64
    let hash := (bytes.drop 32).take 32
    let ok := match w.chains.find? (fun q => decide (q.1 = id)) with
      | some q => decide (sha256 (q.2.2 ++ bare) = hash)
      | none => true
    if ok then
      .inr { w with
        pos := w.pos + len, recs := w.recs ++ [w.pos],
        chains := w.chains.filter (fun q => decide (q.1 ≠ id)) ++ [(id, (s.dword (a + 16)).toNat, hash)] }
    else .inl (some { w with bad := some (id % 16, w.pos) })

/-- The walk, until the first position that fails. -/
def walkRing (s : State) : Nat → Walk → Walk
  | 0, w => w
  | f + 1, w =>
    match walkRec s w with
    | .inr w' => walkRing s f w'
    | .inl (some w') => w'
    | .inl none => w

/-- Rebuild the sequence tables and the pending store from the accepted records (spec/11 R375). A receipt names no
destination: with VERSION it is one for a forerunner (spec/10 R341), with another status this device refused its own; of
several the newest (log entry 103). A record named by a void record is absent, but the numbers that its POST had fixed are not used
again (spec/10 R324). -/
def rebuild (s : State) (recs : List Nat) : State :=
  let kind (p : Nat) : Nat := bitsNat (s.dword (ringAddr p)) 47 44
  let own (p : Nat) : Bool := !(s.dword (ringAddr p)).getLsbD 43
  let voids := (recs.filter (fun p => own p && decide (kind p = 4))).map (fun p => (s.dword (ringAddr (p + 64))).toNat)
  let voided (p : Nat) : Bool := voids.contains p
  let mine := recs.filter own
  let live := mine.filter (fun p => !voided p)
  let parts := live.filter (fun p => decide (kind p = 2))
  let partNo (p : Nat) : Nat := bitsNat (s.dword (ringAddr (p + 64))) 63 59
  let starts := parts.filter (fun p =>
    decide (((parts.filter (fun q => decide (p ≤ q))).take 30).map partNo = List.range 30))
  let snap := starts.getLast?
  let s := match snap with
    | none => s
    | some p0 =>
      let ps := (parts.filter (fun q => decide (p0 ≤ q))).take 30
      let at_ (i : Nat) : Nat := ringAddr (ps.getD (i / 16384) 0 + 80) + i % 16384
      let num (i n : Nat) : Nat := ofBytes ((List.range n).map (fun j => s.byte (at_ (i + j))))
      let s1 := (List.range 6144).foldl (fun (t : State) i =>
        let e : SendEnt := { next := num (16 * i) 6, oldest := num (16 * i + 6) 6, count := num (16 * i + 12) 4 }
        setSendEnt t (i / 512) (i % 512) e) s
      (List.range 6144).foldl (fun (t : State) i =>
        let b := 98304 + 64 * i
        let e : RecvEnt := { lw := num b 6, bm := BitVec.ofNat 256 (num (b + 32) 32) }
        t.modMason (fun m => { m with recv := assocPut m.recv i e RecvEnt.fresh })) s1
  let s := s.modHwj (fun h => { h with snapDone := snap })
  let rcpt (s : State) (o : Nat) : State :=
    let q := s.dword (ringAddr o)
    let st := bitsNat (s.dword (ringAddr (o + 8))) 7 0
    let d := BitVec.ofNat 9 (bitsNat q 63 55)
    let c := BitVec.ofNat 4 (bitsNat q 54 51)
    let s := markRecv s s.devNo d c (bitsNat q 47 0)
    let is (p : Pend) : Bool := decide (p.course = c ∧ p.seq = BitVec.ofNat 48 (bitsNat q 47 0))
    if d = s.devNo ∧ st ≠ 0 then
      match (s.mason.pend.reverse.filter (fun p => is p && (decide (p.dest ≠ s.devNo) == decide (st = 7)))).head? with
      | some p => s.modMason (fun m => { m with pend := m.pend.erase p })
      | none => s
    else s
  let s := mine.foldl (fun s p =>
    let w := s.dword (ringAddr p)
    if kind p = 1 then rcpt s (p + 64)
    else if kind p = 0 then
      let s := if w.getLsbD 21 && !voided p then rcpt s (p + 80) else s
      let off := 80 + (if w.getLsbD 21 then 16 else 0) + 8 * bitsNat w 11 9
      let off := afterExtents s p (bitsNat w 20 12) off
      (List.range (bitsNat w 24 22)).foldl (fun s i =>
        let o := p + off + 80 * i
        let q := s.dword (ringAddr (o + 64))
        let c := bitsNat q 54 51
        let d := bitsNat q 63 55
        let seq := bitsNat q 47 0
        let e := sendEnt s c d
        let s := setSendEnt s c d { e with next := max e.next (seq + 1) }
        let pd : Pend := { tk := BitVec.ofNat 512 (s.memNat (ringAddr o) 64), src := s.devNo, dest := BitVec.ofNat 9 d,
                           course := BitVec.ofNat 4 c, seq := BitVec.ofNat 48 seq, time := 0, void := false, held := true,
                           pos := p }
        if voided p then s else s.modMason (fun m => { m with pend := m.pend ++ [pd] })) s
    else s) s
  (s.mason.send.map Prod.fst).foldl (fun s i => countPend s (i / 512) (i % 512)) s

/-- RINGOPEN steps a timebase that is not above the largest TB of the records accepted, to 1,000 ns past it (spec/15 R469). -/
def stepPastRecords (s : State) (recs : List Nat) : State :=
  let tbs := (recs.filter (fun p => decide (bitsNat (s.dword (ringAddr p)) 47 44 ≠ 3))).map (fun p => (s.dword (ringAddr p + 24)).toNat)
  let top := tbs.foldl max 0
  if tbs ≠ [] ∧ s.clk.tb.toNat ≤ top then { s with clk := { s.clk with tb := BitVec.ofNat 64 (top + 1000) } } else s

/-- RINGOPEN (spec/11 R375; spec/15 R469). -/
def ringOpenOp (s : State) : State :=
  let heads := ((s.mem.filter (fun c => decide (0x080000000000 ≤ c.1 ∧ c.1 < 0x080020000000 ∧ c.1 % 64 = 0))).map Prod.fst)
  let marks := heads.filter (fun a =>
    decide (bitsNat (s.dword a) 63 48 = 0x4A52 ∧ bitsNat (s.dword a) 47 44 = 5 ∧ !(s.dword a).getLsbD 43 ∧
      ringAddr (s.dword (a + 8)).toNat = a))
  let best := marks.foldl (fun (m : Option Nat) a => match m with
    | none => some a
    | some b => if (s.dword (b + 8)).toNat < (s.dword (a + 8)).toNat then some a else some b) none
  match best with
  | none => s.cmdDone pHwj 0x0C
  | some m =>
    let drain := (s.dword (m + 64)).toNat
    let w := walkRing s (2 ^ 23) { pos := drain, recs := [], chains := [], bad := none }
    let s := (s.setReg (hwjReg 0x108) (BitVec.ofNat 64 w.pos)).setReg (hwjReg 0x110) (BitVec.ofNat 64 w.pos)
    let s := s.setReg (hwjReg 0x118) (BitVec.ofNat 64 drain)
    let s := match w.bad with
      | some (c, p) => (s.raise pHwj 6).logErr pHwj 0x23 c 0xFF (BitVec.ofNat 64 p)
      | none => s
    let s := (List.range 13).foldl (fun s c =>
      match w.chains.find? (fun q => decide (q.1 = s.devNo.toNat * 16 + c)) with
      | some q => setChain s c (q.2.1 + 1) q.2.2
      | none => setChain s c (s.dword (m + 80 + 40 * c)).toNat (s.bytes (m + 88 + 40 * c) 32)) s
    let s := stepPastRecords (rebuild s w.recs) w.recs
    ((setHwjState s 1).modHwj (fun h => { h with snapFirst := true })).cmdDone pHwj 2

/-- A write that DRAINPOS accepts (spec/11 R365, R386). -/
def drainOk (s : State) (v : Nat) : Bool :=
  hwjState s != 0 && decide (drainPos s ≤ v ∧ v ≤ drainLim s) && isRecPos s v (2 ^ 23 + 1) (drainPos s)

/-- A write of DRAINPOS that takes effect appends a drain mark (spec/11 R365). -/
def drainWrite (s : State) (src : Nat) (v : Word) : State :=
  if drainOk s v.toNat then
    journalPump (journalOwn (s.setReg (hwjReg 0x118) v) 5 (beBytes 8 v.toNat) none)
  else s.logErr pHwj 1 (0x118 / 8) src v

end Sys2Proof.Machine
end

