-- ==== Sys2Proof/Machine/Route.lean ====
section
/-! DEFINITION. Where tickets go: routing, forwarding, creation of bricks, migration, brick commands (spec/10 R305,
R318–R322, R328–R341, R344). -/

namespace Sys2Proof.Machine

/-! ## The ticket format T1 (spec/12 R412, Layout 12-14) -/

/-- A T2 ticket as T1: 6 words, when it can be represented (spec/12 R412). -/
def toT1 (t : Ticket) : Option (List Word) := t1Words (ticketWords t)

/-- A T1 ticket as T2 (spec/12 R412). -/
def fromT1 (ws : List Word) : Ticket :=
  let w := ws.headD 0
  let w0 := bitsNat w 63 48 * 2 ^ 48 + bitsNat w 46 46 * 2 ^ 46 + bitsNat w 45 44 * 2 ^ 42 + bitsNat w 43 42 * 2 ^ 38 +
    bitsNat w 41 37 * 2 ^ 32 + bitsNat w 26 0
  BitVec.ofNat 512 (ofBytes (beBytes 8 w0 ++ ((ws.drop 1).take 5).flatMap (fun x => beBytes 8 x.toNat) ++ List.replicate 16 0))

/-- A ticket from 8 words. -/
def fromT2 (ws : List Word) : Ticket := BitVec.ofNat 512 (ofBytes ((ws.take 8).flatMap (fun x => beBytes 8 x.toNat)))

/-! ## Courses and creation -/

/-- CSTATE of a course: 0 active (spec/10 Map 10-13). -/
def cstate (s : State) (c : CourseId) : Nat := s.fld (masonReg (0x200 + 0x10 * c.val)) 63 62

/-- Active courses; every course when none is. -/
def activeCourses (s : State) : List CourseId :=
  let l := (List.finRange 12).filter (fun c => decide (cstate s c = 0))
  if l.isEmpty then List.finRange 12 else l

/-- Tickets of a course: its run queue and those admitted for it. -/
def load (s : State) (c : CourseId) : Nat :=
  depth s c + (s.mason.tickets.filter (fun k => decide (k.st = .admitted ∧ k.course = c))).length

/-- The least-occupied active course. -/
def leastCourse (s : State) : CourseId :=
  (activeCourses s).foldl (fun m c => if load s c < load s m then c else m) ((activeCourses s).headD 0)

/-- An empty slot of the two buckets of a key, B1 first (spec/10 R319). -/
def freeEntry (s : State) (k : Word) : Option Nat :=
  (entrySlots s k).find? (fun a => decide (s.dword a = 0) && !s.hwj.drepWait.any (fun q => decide (q.1 = a)))

/-- Create a brick homed here, in pool `n` (spec/10 R337): the status of a refusal, 0 when created. -/
def createBrick (s : State) (k : Word) (n : Nat) : Nat × State :=
  match freeEntry s k with
  | none => (6, s.raise pMason 9)
  | some a =>
    match allocBrick s n with
    | none => (6, s)
    | some (fr, s) =>
      let s := (s.fill fr 4096 0).unpoison fr 4096
      let w := mkEntry 1 false s.devNo (leastCourse s).val n fr
      let s := cacheEntry (putSlice s a k w) k w
      let s := s.modMason (fun m => { m with resident := m.resident.filter (fun q => decide (q.1 ≠ k.toNat)) ++ [(k.toNat, s.clk.tb)] })
      (0, clearBrickBits s fr none)

/-! ## Hops (spec/10 Table 10-9, R322) -/

/-- What this device does with a ticket for a key. -/
inductive Hop where
  | here | create | noBrick | stuck
  | fwd (d : BitVec 9) (tomb hint : Bool) (entry : Word := 0)
  deriving DecidableEq, Repr

/-- The tombstone of a key. -/
def tombOf (s : State) (k : Word) : Option Tomb := s.mason.tombs.find? (fun q => decide (q.key = k.toNat))

/-- The decision from the slice held here; the entry goes with the ticket. -/
def sliceHop (s : State) (k : Word) : Hop :=
  match sliceEntry s k with
  | some (_, w) => if eDev w = s.devNo then .here else .fwd (eDev w) false false w
  | none => if entryPending s k then .here else .create

/-- The row of Table 10-9 for a key. `fresh`: the ticket did not come on a hint; one that did goes to the slice device (spec/10
R322). -/
def hopOf (s : State) (k : Word) (count : Nat) (fresh : Bool) : Hop :=
  if (homeEntry s k).isSome || (migOf s k).isSome then .here
  else
    let mine := decide (sliceDev s k = s.devNo)
    let slice := if mine then sliceHop s k else .fwd (sliceDev s k) false false
    match (tombOf s k).bind Tomb.dev with
    | some d => if count < 2 then .fwd d true false else slice
    | none =>
      if mine then slice
      else match s.mason.hints.find? (fun q => decide (q.1 = k.toNat)) with
        | some q => if fresh ∧ count < 2 then .fwd q.2 false true else slice
        | none => slice

/-- Send a ticket on, with the slice entry attached where the slice does, or refuse it with VERSION (spec/10 Table 10-9, R322,
R341). A forward on a hint makes it the youngest (R321). -/
def forwardTicket (s : State) (k : TicketRec) (d : BitVec 9) (tomb hint : Bool) (entry : Word := 0) : State :=
  let count := min 15 (k.fwd + 1)
  if isForerunner s d ∧ (toT1 k.raw).isNone then refuse s k 7
  else
    let s := (dropTicket s k.arrival).evCount pMason 0x24 1
    let s := if tomb then s.evCount pMason 0x2B 1 else s
    let s := if hint then putHint s ((tKeys k.raw).headD 0).toNat d else s
    s.send 0x10 d count (ticketMsg (clearPh k.raw) (if isForerunner s d then 0 else entry))

/-- A brick command to its device (spec/10 R344): the key, a code with its fields, and one more word (log entry 27). -/
def bcmdWords (k : Word) : BrickCmd → List Word
  | .pin w => [k, 0, w]
  | .unpin w => [k, BitVec.ofNat 64 (1 * 2 ^ 56), w]
  | .hint d c w => [k, BitVec.ofNat 64 (2 * 2 ^ 56 + c.toNat * 2 ^ 16 + d.toNat), w]
  | .lookup => [k, BitVec.ofNat 64 (3 * 2 ^ 56), 0]
  | .del w => [k, BitVec.ofNat 64 (4 * 2 ^ 56), w]
  | .staticDef d => [k, BitVec.ofNat 64 (5 * 2 ^ 56 + d.toNat), 0]
  | .reply st res => [k, BitVec.ofNat 64 (6 * 2 ^ 56 + st.toNat), res]

/-- Read a brick command. -/
def bcmdOfWords (ws : List Word) : BrickCmd :=
  let c := ws.getD 1 0
  match bitsNat c 63 56 with
  | 0 => .pin (ws.getD 2 0)
  | 1 => .unpin (ws.getD 2 0)
  | 2 => .hint (BitVec.ofNat 9 (bitsNat c 8 0)) (BitVec.ofNat 4 (bitsNat c 19 16)) (ws.getD 2 0)
  | 3 => .lookup
  | 4 => .del (ws.getD 2 0)
  | 5 => .staticDef (BitVec.ofNat 9 (bitsNat c 8 0))
  | _ => .reply (BitVec.ofNat 8 (bitsNat c 7 0)) (ws.getD 2 0)

/-- Send a brick command. -/
def sendBcmd (s : State) (d : BitVec 9) (k : Word) (c : BrickCmd) : State := s.send 0x14 d 0 (bcmdWords k c)

/-- A device that promoted learns the entry of a brick of the failed device from a slice elsewhere by LOOKUP (spec/11 R381;
log entry 37). -/
def askSlice (s : State) (k : Word) : State :=
  if s.mason.homeWait.contains k.toNat then s
  else sendBcmd (s.modMason (fun m => { m with homeWait := m.homeWait ++ [k.toNat] })) (sliceDev s k) k .lookup

/-- The slice device sent this device, which promoted, a ticket for a brick that it does not know: one of the failed device. -/
def lostHome (s : State) (k : TicketRec) (key : Word) : Bool :=
  s.hwj.promoted && decide (sliceDev s key ≠ s.devNo ∧ k.fwdFrom = some (sliceDev s key)) && (homeEntry s key).isNone &&
    (migOf s key).isNone && (tombOf s key).isNone

/-- The entry that the slice device attached, at the home of the brick that holds no copy of it any more (spec/10 R320, Table
10-9). A device that promoted keeps its copies (log entry 102). -/
def recache (s : State) (k w : Word) : State :=
  if eState w = 1 ∧ eDev w = s.devNo ∧ k ≠ 0 ∧ sliceDev s k ≠ s.devNo ∧ (homeEntry s k).isNone ∧ (migOf s k).isNone ∧
      (tombOf s k).isNone ∧ s.hwj.promoted = false then cacheEntry s k w else s

/-- A message that has to wait for a change of the entry comes again after it (spec/10 R328, R337, R344). -/
def again (s : State) (src : BitVec 9) (ty : Nat) (payload : List Word) : State :=
  { s with loopq := s.loopq ++ [{ ty := BitVec.ofNat 8 ty, dst := s.devNo, src := src, via := none, arg := 0, payload := payload }] }

/-- A device with a hint uses it but for a ticket that came on one (spec/10 R322): one that comes from the slice device, or that
entered here, did not; of another no message tells, and it is taken to have (log entry 128). -/
def offHint (s : State) (k : TicketRec) (key : Word) : Bool :=
  k.fwdFrom.isNone || decide (k.fwd = 0 ∨ k.fwdFrom = some (sliceDev s key))

/-- A ticket arrives: it is checked, and stays here or travels on (spec/10 R297, R305, R322). The handler's V and GCNT are
looked at when it is admitted (R304). A continuation runs at the destination that its number was fixed for (R324; log entry
104). -/
def arrive (s : State) (k : TicketRec) : State :=
  let n := s.mason.nextArrival
  let k := { k with arrival := n }
  let s := addTicket s k
  if !ticketValid s k.raw then refuse s k 1
  else match handlerWord s k.raw with
    | none => refuse s k 2
    | some (w0, _) =>
      let sdev := aliasOf s (tSdev k.raw)
      if w0.getLsbD 62 = false ∨ tNkeys k.raw = 0 then
        if tSdev k.raw = s.devNo then s
        else if sdev = s.devNo then refuse s k 3
        else if k.receipt.isSome then s
        else forwardTicket s k (tSdev k.raw) false false
      else if sdev ≠ tSdev k.raw then refuse s k 3
      else if k.receipt.isSome then s
      else
        let key := (tKeys k.raw).headD 0
        let s := repairSlice s key
        match hopOf s key k.fwd (offHint s k key) with
        | .here => s
        | .create =>
          if tCreate k.raw then
            match createBrick s key (tCpool k.raw) with
            | (0, s) => s
            | (st, s) => refuse s k st
          else refuse s k 4
        | .noBrick => refuse s k 4
        | .stuck => refuse s k 5
        | .fwd d tomb hint w => if lostHome s k key then askSlice s key else forwardTicket s k d tomb hint w

/-! ## Migration (spec/10 Sequence 10-12) -/

/-- MIGC and BCMD payloads: the key, a code with its fields, and one more word (the spec gives no layout; log entry 27). -/
def migWords : MigMsg → List Word
  | .request k d c w => [k, BitVec.ofNat 64 (0 * 2 ^ 56 + b2n c.isSome * 2 ^ 20 + (c.getD 0).toNat * 2 ^ 16 + d.toNat), w]
  | .start k p pin mir => [k, BitVec.ofNat 64 (1 * 2 ^ 56 + b2n pin * 2 ^ 17 + b2n mir * 2 ^ 16 + p.toNat), 0]
  | .alloc k f c => [k, BitVec.ofNat 64 (2 * 2 ^ 56 + f.toNat * 2 ^ 16 + c.toNat), 0]
  | .noFrame k => [k, BitVec.ofNat 64 (3 * 2 ^ 56), 0]
  | .copied k => [k, BitVec.ofNat 64 (4 * 2 ^ 56), 0]
  | .commit k w => [k, BitVec.ofNat 64 (5 * 2 ^ 56), w]
  | .committed k => [k, BitVec.ofNat 64 (6 * 2 ^ 56), 0]
  | .abort k => [k, BitVec.ofNat 64 (7 * 2 ^ 56), 0]
  | .refuse k st => [k, BitVec.ofNat 64 (8 * 2 ^ 56 + st.toNat), 0]
  | .aff k w => [k, BitVec.ofNat 64 (9 * 2 ^ 56), w]

/-- Read a MIGC payload. -/
def migOfWords (ws : List Word) : MigMsg :=
  let k := ws.getD 0 0
  let c := ws.getD 1 0
  match bitsNat c 63 56 with
  | 0 => .request k (BitVec.ofNat 9 (bitsNat c 8 0)) (if c.getLsbD 20 then some (BitVec.ofNat 4 (bitsNat c 19 16)) else none)
      (ws.getD 2 0)
  | 1 => .start k (BitVec.ofNat 4 (bitsNat c 3 0)) (c.getLsbD 17) (c.getLsbD 16)
  | 2 => .alloc k (BitVec.ofNat 29 (bitsNat c 44 16)) (BitVec.ofNat 4 (bitsNat c 3 0))
  | 3 => .noFrame k
  | 4 => .copied k
  | 5 => .commit k (ws.getD 2 0)
  | 6 => .committed k
  | 7 => .abort k
  | 8 => .refuse k (BitVec.ofNat 8 (bitsNat c 7 0))
  | _ => .aff k (ws.getD 2 0)

/-- Send a migration message. -/
def sendMig (s : State) (d : BitVec 9) (m : MigMsg) : State := s.send 0x15 d 0 (migWords m)

/-- Change the migration of a key. -/
def modMig (s : State) (k : Word) (f : Mig → Mig) : State :=
  s.modMason (fun m => { m with migs := m.migs.map (fun g => if g.key = k then f g else g) })

/-- Forget the migration of a key. -/
def dropMig (s : State) (k : Word) : State :=
  s.modMason (fun m => { m with migs := m.migs.filter (fun g => decide (g.key ≠ k)) })

/-- Migrations that run. -/
def migCount (s : State) : Nat := (s.mason.migs.filter (fun g => decide (1 ≤ g.step ∧ g.step < 10))).length

/-- Step 1 of a migration from here to another device: freeze (spec/10 R328). A pinned brick never migrates (R338). -/
def startMig (s : State) (k : Word) (d : BitVec 9) (course : BitVec 4) (pull : Bool) : State :=
  match homeEntry s k with
  | none => s
  | some w =>
    if ePin w || decide (d = s.devNo) then s
    else
      let s := cacheEntry s k (setBits w 61 3 2)
      (s.modMason (fun m => { m with migs := m.migs ++
        [{ key := k, peer := d, course := course, atHome := true, step := 1, frame := 0, pull := pull }] })).evCount pMason 0x28 1

/-- An aborted migration: the brick is homed here again (spec/10 R330). -/
def abortMig (s : State) (k : Word) : State :=
  let s := match s.mason.cached.find? (fun q => decide (q.1 = k.toNat)) with
    | some q => cacheEntry s k (setBits q.2 61 3 1)
    | none => s
  ((dropMig s k).raise pMason 4).evCount pMason 0x2A 1

/-- The oldest ticket that waits for a key is refused (spec/10 R335). -/
def refuseOldest (s : State) (k : Word) (status : Nat) : State :=
  match s.mason.tickets.find? (fun t => decide (t.st = .staged) && (tKeys t.raw).contains k) with
  | some t => refuse s t status
  | none => s

/-- Every ticket that waits for a key is refused, in arrival order (spec/10 R309). -/
def refuseAll (s : State) (k : Word) (status : Nat) : State :=
  (s.mason.tickets.filter (fun t => decide (t.st = .staged) && (tKeys t.raw).contains k)).foldl (fun s t => refuse s t status) s

/-- A tombstone ends, by its time or early, and its brick is free (spec/10 R333, R338); the frame's brick-map bits are cleared
(spec/14 R437). -/
def endTomb (s : State) (key : Nat) : State :=
  match s.mason.tombs.find? (fun q => decide (q.key = key)) with
  | some t => markBrick (s.modMason (fun m => { m with tombs := m.tombs.erase t })) t.pool t.frame false
  | none => s

/-- Keep a tombstone; a full table ends the oldest early (spec/10 R333). A brick leaves its frame: its bit is cleared in the
brick map of every recording course (spec/14 R437). -/
def addTomb (s : State) (t : Tomb) : State :=
  let s := endTomb s t.key
  let s := match (if Config.tombstones ≤ s.mason.tombs.length then s.mason.tombs.head? else none) with
    | some old => endTomb s old.key
    | none => s
  clearBrickBits (s.modMason (fun m => { m with tombs := m.tombs ++ [t] })) t.frame none

/-- The pool number and frame place of an entry homed here: a promoted brick lies in pool 16 + n. -/
def poolOfFrame (s : State) (w : Word) : Nat := (poolAt s (eFrame w)).getD (ePool w)

/-! ## Brick commands (spec/10 R338, R340, R344) -/

/-- The effect of a brick command has taken place: every device that asked for it is told (spec/10 R344). -/
def delReply (s : State) (k : Word) (st : BitVec 8) (res : Word) : State :=
  (s.mason.dels.filter (fun q => decide (q.1 = k.toNat))).foldl (fun s q => sendBcmd s q.2 k (.reply st res))
    (s.modMason (fun m => { m with dels := m.dels.filter (fun q => decide (q.1 ≠ k.toNat)) }))

/-- Brick commands whose effect has taken place here and at the home, and on the buddy, are answered; so are commits of step
5 (spec/10 R320, R344; spec/11 R368). -/
def replyPump (s : State) : State :=
  let open_ (k : Nat) : Bool :=
    entryPending s (BitVec.ofNat 64 k) || s.mason.homeWait.contains k ||
      s.mason.migs.any (fun g => decide (g.key.toNat = k ∧ 10 ≤ g.step))
  let ks := (s.mason.dels.filter (fun q => !open_ q.1)).map Prod.fst
  let cs := s.mason.commits.filter (fun c => !entryPending s c.1)
  let s := ks.dedup.foldl (fun s k => delReply s (BitVec.ofNat 64 k) 2 0) s
  let s := s.modMason (fun m => { m with commits := m.commits.filter (fun c => !cs.contains c) })
  cs.foldl (fun s c => sendMig s c.2 (.committed c.1)) s

/-- BRICKDEL takes effect once no ticket holds the brick (spec/10 R338). -/
def finishDel (s : State) (k : Word) : State :=
  let s := repairSlice (dropMig s k) k
  match homeEntry s k with
  | none => s
  | some w =>
    let s := refuseAll s k 4
    let s := addTomb s { key := k.toNat, dev := none, frame := eFrame w, pool := poolOfFrame s w }
    let s := uncache s k
    if sliceDev s k = s.devNo then
      match sliceFind s k with
      | some a => putSlice s a 0 0
      | none => delReply s k 0x0C 0
    else sendMig s (sliceDev s k) (.commit k 0)

/-- Migrations and deletions whose brick no ticket holds go on (spec/10 R331). -/
def migPump (s : State) : State :=
  s.mason.migs.foldl (fun s g =>
    if g.atHome && (holder? s g.key).isNone && !entryPending s g.key then
      if g.step = 1 then
        match homeEntry s g.key with
        | some w =>
          sendMig (modMig s g.key (fun g => { g with step := 3 })) g.peer
            (.start g.key (BitVec.ofNat 4 (ePool w)) (ePin w) (inMirrored s (eFrame w)))
        | none => dropMig s g.key
      else if g.step = 10 then finishDel s g.key
      else s
    else s) s

/-- The slice entry of a key changes at step 5, or is removed (spec/10 R328; spec/11 R368); PIN stays as the slice has it (R320).
The answer goes out once the buddy has it (`replyPump`). -/
def commitEntry (s : State) (src : BitVec 9) (k w : Word) : State :=
  let s := repairSlice s k
  match sliceFind s k with
  | none => s
  | some a =>
    if w = 0 then (putSlice s a 0 0).modMason (fun m => { m with homeWait := m.homeWait.filter (· ≠ k.toNat) })
    else (putSlice s a k (setBit w 60 (ePin (sliceNext s a)))).modMason (fun m => { m with commits := m.commits ++ [(k, src)] })

/-- The new home takes the brick into use, with the CAND and AFF that step 5 wrote (spec/10 R320, R332): the tickets that the
old home forwarded in step 6 go before those received otherwise. -/
def endMark (s : State) (src : BitVec 9) (k : Word) : State :=
  match migOf s k with
  | none => s
  | some g =>
    if g.atHome then s
    else
      let w := mkEntry 1 (g.pinned.getD g.pull) s.devNo g.course.toNat ((poolAt s g.frame).getD 0) g.frame ||| BitVec.ofNat 64 g.cand
      let s := dropMig (cacheEntry (endTomb s k.toNat) k w) k
      let s := s.modMason (fun m =>
        { m with resident := m.resident.filter (fun q => decide (q.1 ≠ k.toNat)) ++ [(k.toNat, s.clk.tb)] })
      let direct := s.mason.tickets.filter (fun t =>
        decide (t.st = .staged ∧ ¬(t.fwdFrom = some src ∧ g.mark ≤ t.arrival)) && (tKeys t.raw).contains k)
      direct.foldl (fun s t =>
        let s := s.modMason (fun m => { m with tickets := m.tickets.filter (fun q => decide (q.arrival ≠ t.arrival)) })
        addTicket s t) s

/-- The slice or the home answers a pull (spec/10 R305, R335); while a creation or a change is pending it waits (R337). A home that
has lost its copy and asks is sent the entry. -/
def pullRequest (s : State) (k : Word) (d : BitVec 9) (create : Option (BitVec 4)) (ent : Word) : State :=
  let begin_ (s : State) : State :=
    match homeEntry s k with
    | some w => if ePin w then sendMig s d (.abort k) else startMig s k d 0xF#4 true
    | none => s
  let wait (s : State) : State := again s d 0x15 (migWords (.request k d create 0))
  let s := recache (repairSlice s k) k ent
  if (migOf s k).isSome || entryPending s k then wait s
  else if (homeEntry s k).isSome then (if d = s.devNo then s else begin_ s)
  else match (tombOf s k).bind Tomb.dev with
    | some t => sendMig s t (.request k d create 0)
    | none =>
      if sliceDev s k ≠ s.devNo then sendMig s (sliceDev s k) (.request k d create 0)
      else match sliceEntry s k with
        | some (_, w) =>
          if eState w = 3 then sendMig s d (.abort k)
          else if eDev w = d then sendMig s d (.commit k w)
          else sendMig s (eDev w) (.request k d create w)
        | none =>
          let no (s : State) (st : Nat) : State := sendMig s d (.refuse k (BitVec.ofNat 8 st))
          match create with
          | none => no s 4
          | some n =>
            match createBrick s k n.toNat with
            | (0, s) => if entryPending s k then wait s else begin_ s
            | (st, s) => no s st

/-- The slice entry that step 5 writes (spec/10 Sequence 10-12, R320). -/
def stepFive (w : Word) (g : Mig) : Word :=
  mkEntry 1 (ePin w) g.peer g.course.toNat (ePool w) g.frame ||| (w &&& 0x3FFE#64)

/-- A MIGC message takes effect. In step 6 the tickets go that are to run at the new home: GUEST ones with the brick as key 0
(log entry 105). -/
def migStep (s : State) (src : BitVec 9) (m : MigMsg) : State :=
  match m with
  | .request k d c w => pullRequest s k d c w
  | .aff k w =>
    let s := repairSlice s k
    match (if sliceDev s k = s.devNo then sliceFind s k else none) with
    | some a => if eDev (sliceNext s a) = src ∧ eState (sliceNext s a) = 1 then putAff s a k w else s
    | none => s
  | .start k p pin _ =>
    let was := (migOf s k).any (fun g => g.pull)
    let s := dropMig s k
    match allocBrick s p.toNat with
    | some (fr, s) =>
      let c := (leastCourse s).val
      let s := s.modMason (fun m => { m with migs := m.migs ++
        [{ key := k, peer := src, course := BitVec.ofNat 4 c, atHome := false, step := 3, frame := fr, pull := pin, pulled := was }] })
      sendMig s src (.alloc k (BitVec.ofNat 29 (fr / 4096)) (BitVec.ofNat 4 c))
    | none =>
      let s := if was then refuseOldest s k 5 else s
      sendMig s src (.noFrame k)
  | .alloc k f c =>
    match migOf s k, homeEntry s k with
    | some g, some w =>
      if g.atHome ∧ g.step = 3 then
        let s := modMig s k (fun g => { g with step := 4, frame := f.toNat * 4096, course := if g.course = 0xF#4 then c else g.course })
        s.send 0x30 g.peer 0 (k :: wordsOf (s.bytes (eFrame w) 4096))
      else s
    | _, _ => s
  | .noFrame k => if (migOf s k).any (fun g => g.atHome) then abortMig s k else s
  | .copied k =>
    match migOf s k, homeEntry s k with
    | some g, some w =>
      if g.atHome ∧ g.step = 4 then
        sendMig (modMig s k (fun g => { g with step := 5 })) (sliceDev s k) (.commit k (stepFive w g))
      else s
    | _, _ => s
  | .commit k w =>
    if sliceDev s k = s.devNo ∧ entryPending s k then again s src 0x15 (migWords m) else
    let s := match migOf s k with
      | some g =>
        if g.atHome then s
        else if g.step = 0 then (if s.hwj.promoted then askSlice (dropMig s k) k else recache (dropMig s k) k w)
        else modMig s k (fun g =>
          { g with pull := ePin w, course := BitVec.ofNat 4 (eCourse w), cand := w.toNat % 0x4000 / 2 * 2, step := 6,
                   mark := s.mason.nextArrival })
      | none => s
    if sliceDev s k ≠ s.devNo then s else commitEntry s src k w
  | .committed k =>
    match migOf s k, homeEntry s k with
    | some g, some w =>
      if g.atHome ∧ g.step = 5 then
        let s := sendMig s g.peer (.commit k (stepFive w g))
        let s := (uncache (dropMig s k) k).evCount pMason 0x29 1
        let s := addTomb s { key := k.toNat, dev := some g.peer, frame := eFrame w, pool := poolOfFrame s w }
        let go := s.mason.tickets.filter (fun t =>
          decide (t.st = .staged ∧ t.receipt = none) && decide ((tKeys t.raw).head? = some k) && tGuest s t.raw)
        let s := go.foldl (fun s t => forwardTicket s t g.peer false false) s
        s.send 0x16 g.peer 0 [k]
      else if g.atHome ∧ g.step = 20 then dropMig (cacheEntry s k (setBits w 47 4 g.course.toNat)) k
      else s
    | _, _ => s
  | .refuse k st => if (migOf s k).any (fun g => !g.atHome && decide (g.step = 0)) then refuseOldest (dropMig s k) k st.toNat else s
  | .abort k =>
    match migOf s k with
    | some g =>
      if g.atHome then abortMig s k
      else
        let s := dropMig s k
        let s := if g.step = 0 ∨ g.pulled then refuseOldest s k 5 else s
        if g.frame = 0 then s else markBrick s ((poolAt s g.frame).getD 0) g.frame false
    | none => s

/-- A copy of a brick is written to a frame. The poison of the source's lines travels with it (spec/09 R295, spec/10 R345); the
message has no field for it, so which lines are poisoned is a free value (log entry 106). -/
def landCopy (s : State) (fr : Nat) (data : List Byte) : State :=
  let mask : BitVec 32 := s.freeVal 32
  let s := ((s.drew).setBytes fr (data.take 4096)).unpoison fr 4096
  { s with poison := s.poison ++ ((List.range 32).filter (fun i => mask.getLsbD i)).map (fun i => fr / 128 + i) }

/-- A brick copy arrives at the new home (spec/10 Sequence 10-12, step 4). -/
def brickCopyIn (s : State) (src : BitVec 9) (k : Word) (data : List Byte) : State :=
  match migOf s k with
  | some g =>
    if g.atHome ∨ g.step ≠ 3 then s
    else
      let s := clearBrickBits (landCopy s g.frame data) g.frame none
      let s := modMig s k (fun g => { g with step := 4 })
      let s := match buddy? s with
        | some b => if mirroring s && inMirrored s g.frame then s.send 0x31 b 0 (k :: wordsOf (data.take 4096)) else s
        | none => s
      sendMig s src (.copied k)
  | none => s

/-- A RESYNC copy fills a replica brick; extents that waited for it are applied (spec/11 R372). -/
def resyncIn (s : State) (src : BitVec 9) (k : Word) (data : List Byte) : State :=
  match replicaFrame s src k with
  | some fr =>
    let s := (landCopy s fr data).modHwj (fun h => { h with rCopied := h.rCopied.filter (· ≠ fr) ++ [fr] })
    applyPump s.hwj.rApply.length s
  | none => s

/-! ## Brick commands at their device (spec/10 R338, R340, R344) -/

/-- Set PIN in the copy of a home, and of a new home whose migration has still to end. -/
def pinCopy (s : State) (k : Word) (v : Bool) : State :=
  let s := modMig s k (fun g => if g.atHome then g else { g with pinned := some v })
  match s.mason.cached.find? (fun q => decide (q.1 = k.toNat)) with
  | some q => cacheEntry s k (setBit q.2 60 v)
  | none => s

/-- COURSE of a homed brick changes: the slice is written first (spec/10 R320). -/
def moveCourse (s : State) (k w : Word) (c : Nat) : State :=
  let w' := setBits w 47 4 c
  if sliceDev s k = s.devNo then
    match sliceFind s k with
    | some a => let s := putSlice s a k w'; if entryPending s k then s else cacheEntry s k w'
    | none => s
  else sendMig (s.modMason (fun m => { m with migs := m.migs ++
      [{ key := k, peer := sliceDev s k, course := BitVec.ofNat 4 c, atHome := true, step := 20, frame := 0, pull := false }] }))
    (sliceDev s k) (.commit k w')

/-- A HINT at the home: a migration, or a move between courses of this device; none while a migration of the brick is in progress,
and the command is then done (log entry 129). -/
def hintHere (s : State) (k : Word) (d : BitVec 9) (course : BitVec 4) : State :=
  match homeEntry s k with
  | some w =>
    if (migOf s k).isSome then s
    else if d = s.devNo then moveCourse s k w (if course = 0xF#4 then (leastCourse s).val else course.toNat)
    else startMig s k d course false
  | none => s

/-- The slice answers a LOOKUP of the Mason itself: about a brick whose old home failed in mid-migration (spec/11 Table 11-9),
or one of the failed device (spec/11 R381). -/
def slicedReply (s : State) (k : Word) (st : Nat) (res : Word) : State :=
  let ours := decide (st = 2 ∧ eDev res = s.devNo)
  match migOf s k with
  | some g =>
    if !g.atHome ∧ g.step = 7 then
      if ours then
        endMark (modMig s k (fun g => { g with pull := ePin res, course := BitVec.ofNat 4 (eCourse res),
                                               cand := res.toNat % 0x4000 / 2 * 2 })) g.peer k
      else
        let s := if g.frame = 0 then s else markBrick s ((poolAt s g.frame).getD 0) g.frame false
        let s := (dropMig s k).raise pMason 4
        if g.pulled then refuseOldest s k 5 else s
    else s
  | none =>
    if ours && s.hwj.promoted && (homeEntry s k).isNone then
      match promotedEntry s k res with
      | some w => cacheEntry (clearBrickBits s (eFrame w) none) k w
      | none =>
        let s := (refuseAll s k 4).logErr pHwj 0x24 0 0xFF k
        sendMig s (sliceDev s k) (.commit k 0)
    else s

/-- The answer to a brick command (spec/10 R344): of the slice device to this device's own command, or of the home to the device
that had asked it. -/
def brickReply (s : State) (src : BitVec 9) (k : Word) (st : BitVec 8) (res : Word) : State :=
  if s.mason.homeWait.contains k.toNat then
    let s := s.modMason (fun m => { m with homeWait := m.homeWait.filter (· ≠ k.toNat) })
    if s.mason.dels.any (fun q => decide (q.1 = k.toNat)) then (if st = 2 then s else delReply s k st res)
    else slicedReply s k st.toNat res
  else match s.mason.cmdKey with
    | some key =>
      if s.fld (ctl pMason 0xF8) 7 0 = 1 ∧ key = k ∧ src = sliceDev s k then
        let s := if s.fld (ctl pMason 0xF8) 15 8 = 0x0D ∧ st = 2 then
            putHint (s.setReg (masonReg 0x178) res) k.toNat (eDev res)
          else s
        (s.cmdDone pMason st.toNat).modMason (fun m => { m with cmdKey := none })
      else s
    | none => s

/-- Ask the home, or the device that a tombstone names, to carry out a brick command: the answer comes when it has. -/
def toHome (s : State) (k : Word) (d : BitVec 9) (c : BrickCmd) : State :=
  sendBcmd (s.modMason (fun m => { m with homeWait := m.homeWait ++ [k.toNat] })) d k c

/-- The slice entry that a brick command carries. -/
def cmdEntry : BrickCmd → Word
  | .pin w | .unpin w | .hint _ _ w | .del w => w
  | _ => 0

/-- A brick command with the slice entry for the home. -/
def withEntry (w : Word) : BrickCmd → BrickCmd
  | .pin _ => .pin w
  | .unpin _ => .unpin w
  | .hint d c _ => .hint d c w
  | .del _ => .del w
  | c => c

/-- A command that changes a brick, at its home or at the new home of a migration that has still to end. -/
def brickHere (s : State) (k : Word) (c : BrickCmd) : State :=
  match c with
  | .pin _ => pinCopy s k true
  | .unpin _ => pinCopy s k false
  | .hint d course _ => hintHere s k d course
  | .del _ =>
    if (migOf s k).isSome then s
    else s.modMason (fun m => { m with migs := m.migs ++
      [{ key := k, peer := s.devNo, course := 0, atHome := true, step := 10, frame := 0, pull := false }] })
  | _ => s

/-- The change of the slice entry that a brick command makes; a static home is all in its entry. -/
def brickSlice (s : State) (k : Word) (a : Nat) (w : Word) (c : BrickCmd) : State :=
  match c with
  | .pin _ => putSlice s a k (setBit w 60 true)
  | .unpin _ => putSlice s a k (setBit w 60 false)
  | .del _ =>
    if eState w = 3 then (putSlice s a 0 0).modMason (fun m => { m with statics := m.statics.filter (fun q => decide (q.1 ≠ k.toNat)) })
    else s
  | _ => s

/-- A HINT of a pinned brick or a static home is refused (spec/10 Table 10-11). -/
def hintRefused (w : Word) : BrickCmd → Bool
  | .hint _ _ _ => ePin w || eState w == 3
  | _ => false

/-- A brick command waits: for a change of the entry that the buddy has not applied, or, BRICKDEL, for the end of a migration, after
which it goes on as the tickets that wait do. -/
def brickWaits (s : State) (k : Word) (c : BrickCmd) : Bool :=
  (decide (sliceDev s k = s.devNo) && entryPending s k) ||
    (match c with
     | .del _ => (migOf s k).any (fun g => decide (g.step < 10 ∨ g.step = 20))
     | _ => false)

/-- PIN, UNPIN, HINT and BRICKDEL at the device they were carried to (spec/10 R338, R344): the slice device changes its entry and
has the home do the rest; a home that has given the brick up sends the command on as it does tickets (R322). The answer waits until
the effect has taken place here, at the home and on the buddy (`replyPump`). -/
def brickChange (s : State) (src : BitVec 9) (k : Word) (c : BrickCmd) : State :=
  let reply (s : State) (st : Nat) : State := sendBcmd s src k (.reply (BitVec.ofNat 8 st) 0)
  let later (s : State) : State := s.modMason (fun m => { m with dels := m.dels ++ [(k.toNat, src)] })
  if brickWaits s k c then again s src 0x14 (bcmdWords k c)
  else if sliceDev s k = s.devNo then
    match sliceEntry s k with
    | none => reply s 0x0C
    | some (a, w) =>
      if hintRefused w c then reply s 0x0E
      else
        let s := brickSlice (later s) k a w c
        if eState w = 3 then s
        else if eDev w = s.devNo then brickHere s k c
        else toHome s k (eDev w) (withEntry w c)
  else
    let s := recache s k (cmdEntry c)
    match homeEntry s k with
    | some w => if hintRefused w c then reply s 0x0E else brickHere (later s) k c
    | none =>
      if (migOf s k).isSome then brickHere (later s) k c
      else match tombOf s k with
        | some t => match t.dev with
          | some d => toHome (later s) k d (withEntry 0 c)
          | none => reply s 0x0C
        | none => toHome (later s) k (sliceDev s k) (withEntry 0 c)

/-- A brick command at the device it was carried to. STATICDEF of a key that has an entry answers 0Eh (log entry 130). -/
def brickCmd (s : State) (src : BitVec 9) (k : Word) (c : BrickCmd) : State :=
  let s := repairSlice s k
  let reply (s : State) (st : Nat) (res : Word) : State := sendBcmd s src k (.reply (BitVec.ofNat 8 st) res)
  match c with
  | .reply st res => brickReply s src k st res
  | .lookup =>
    match sliceEntry s k with
    | some (_, w) => reply s 2 w
    | none => reply s 0x0C 0
  | .staticDef d =>
    if k = 0 then reply s 0x0B 0
    else match sliceEntry s k, freeEntry s k with
    | some _, _ => reply s 0x0E 0
    | none, some a =>
      (putSlice s a k (mkEntry 3 false d 0 0 0)).modMason (fun m =>
        { m with statics := m.statics ++ [(k.toNat, d)], dels := m.dels ++ [(k.toNat, src)] })
    | none, none => reply (s.raise pMason 9) 0x0D 0
  | .pin _ | .unpin _ | .hint _ _ _ | .del _ => brickChange s src k c

/-! ## Admission (spec/10 R306–R309, R329) -/

/-- The affinity update of a homed brick at an admission, and the proposal it may make (spec/10 R329, R339); none to this device,
where the brick is homed already. -/
def affinity (s : State) (key : Word) (origin : BitVec 9) : State :=
  match homeEntry s key with
  | none => s
  | some w =>
    let cand := BitVec.ofNat 9 (bitsNat w 13 5)
    let aff := bitsNat w 4 1
    let (cand, aff) : BitVec 9 × Nat :=
      if origin = s.devNo then (cand, aff - 1)
      else if origin = cand ∧ aff ≠ 0 then (cand, min 15 (aff + 1))
      else if aff = 0 then (origin, 1)
      else (cand, aff - 1)
    let s := cacheEntry s key (setBits (setBits w 5 9 cand.toNat) 1 4 aff)
    let ctlr := s.reg (masonReg 0x130)
    let since := match s.mason.resident.find? (fun q => decide (q.1 = key.toNat)) with
      | some q => (s.clk.tb.toNat - q.2.toNat) / 1000
      | none => 2 ^ 16
    if ctlr.getLsbD 63 && decide (bitsNat ctlr 3 0 ≤ aff ∧ cand ≠ s.devNo) && !ePin w && decide (bitsNat ctlr 23 8 ≤ since) &&
        decide (migCount s < bitsNat ctlr 31 24) then
      if ctlr.getLsbD 62 then
        if (s.reg (masonReg 0x188)).getLsbD 63 then s
        else ((s.setReg (masonReg 0x180) key).setReg (masonReg 0x188)
          (BitVec.ofNat 64 (2 ^ 63 + cand.toNat * 16))).raise pMason 5
      else startMig s key cand 0xF#4 false
    else s

/-- Begin what an unavailable brick of the first ticket needs: a creation, a pull, or a refusal; `true` while the ticket
still stands. -/
def needBrick (s : State) (k : TicketRec) (key : Word) : Bool × State :=
  let s := repairSlice s key
  if (homeEntry s key).isSome || (migOf s key).isSome || entryPending s key || s.mason.homeWait.contains key.toNat then (true, s)
  else
    let pull (d : BitVec 9) : Bool × State :=
      let s := s.modMason (fun m => { m with migs := m.migs ++
        [{ key := key, peer := d, course := 0, atHome := false, step := 0, frame := 0, pull := true }] })
      (true, sendMig s d (.request key s.devNo (if tCreate k.raw then some (BitVec.ofNat 4 (tCpool k.raw)) else none) 0))
    match hopOf s key k.fwd true with
    | .create =>
      if tCreate k.raw then
        match createBrick s key (tCpool k.raw) with
        | (0, s) => (true, s)
        | (st, s) => (false, refuse s k st)
      else (false, refuse s k 4)
    | .fwd d _ _ w =>
      let runs := tGuest s k.raw && decide ((tKeys k.raw).head? = some key)
      if lostHome s k key then (true, askSlice s key)
      else if runs && k.receipt.isNone then (false, forwardTicket s k d false false w)
      else if isForerunner s d then (false, refuse s k 5)
      else pull d
    | _ => (true, s)

/-- Ask for every brick that is not here. -/
def needBricks (k : TicketRec) : List Word → State → Bool × State
  | [], s => (true, s)
  | key :: r, s =>
    match needBrick s k key with
    | (true, s) => needBricks k r s
    | (false, s) => (false, s)

/-- The session a ticket runs in (spec/10 R305): its own, or a free guest session of its handler. -/
def sessionFor (s : State) (k : TicketRec) (w1 : Word) : Option (BitVec 18) :=
  if tSdev k.raw = s.devNo then some (tSession k.raw)
  else (List.range (bitsNat w1 45 28)).findSome? (fun i =>
    let n := BitVec.ofNat 18 (bitsNat w1 63 46 + i)
    if sessLive s n && !sessionHeld s n then some n else none)

/-- The bricks that a ticket may write lose their bits in the brick maps of the courses other than its own (spec/14 R437). -/
def clearHeld (s : State) (k : TicketRec) (c : CourseId) : State :=
  (List.range (min 4 (tNkeys k.raw))).foldl (fun s i =>
    if tWmask k.raw i then clearBrickBits s ((bbOf s k i).toNat / 4096 % 2 ^ 36 * 4096) (some c) else s) s

/-- A line of the Mason's working area, where tickets are staged (spec/01 Table 1-10), is poisoned. -/
def stagePoisoned (s : State) : Bool := s.poison.any (fun l => decide (0x040208000000 ≤ 128 * l ∧ 128 * l < 0x040240000000))

/-- A staged ticket that lies in a poisoned line is lost (spec/10 R345). Where in the area a ticket lies no rule says: a free value
tells (log entry 131). -/
def loseTicket (s : State) (k : TicketRec) : Bool × State :=
  if stagePoisoned s then
    let lost := s.freeVal 1 == 1
    let s := s.drew
    (lost, if lost then ((dropTicket s k.arrival).raise pMason 8).logErr pMason 0x20
      ((k.ring.map (fun r => r.val)).getD 0xFF) 0xFF (BitVec.ofNat 64 k.index) else s)
  else (false, s)

/-- The course an admitted ticket is placed on: the home course of its key 0, or the least-occupied one (spec/10 R313). -/
def admitCourse (s : State) (k : TicketRec) : CourseId :=
  let c : CourseId := match ((tKeys k.raw).head?).bind (homeEntry s) with
    | some w => Fin.ofNat 12 (eCourse w)
    | none => leastCourse s
  if cstate s c = 0 then c else leastCourse s

/-- A ticket whose bricks and session are here is admitted (spec/10 R307, R313): its directory lookups are counted as hits and
misses of the cache. -/
def admitNow (s : State) (k : TicketRec) (w0 : Word) (sess : BitVec 18) : State :=
  let c := admitCourse s k
  let s := modTicket s k.arrival (fun k =>
    { k with st := .admitted, session := sess, course := c, prio := w0.getLsbD 61, entry := BitVec.ofNat 64 (bitsNat w0 47 2 * 4) })
  let s := clearHeld s k c
  let hits := ((tKeys k.raw).filter (fun x => s.mason.cached.any (fun q => decide (q.1 = x.toNat)))).length
  let s := ((s.evCount pMason 0x22 1).evCount pMason 0x25 hits).evCount pMason 0x26 ((tKeys k.raw).length - hits)
  (tKeys k.raw).foldl (fun s key => affinity s key k.origin) s

/-- The Mason tries to admit a ticket (spec/10 R307), by the handler entry as it stands now (R304, R305). It admits in state RUN
alone: in QUIESCING the tickets that wait stay (log entry 132). -/
def admitTicket (s : State) (n : Nat) : State :=
  match ticketOf s n with
  | none => s
  | some k =>
    if k.st ≠ .staged ∨ firstInQueues s k = false ∨ masonState s ≠ 1 ∨ hwjState s = 5 ∨
        (List.finRange 12).all (fun c => decide (cstate s c ≠ 0)) then s
    else match loseTicket s k with
    | (true, s) => s
    | (false, s) => match handlerOf s k.raw with
      | none => refuse s k 2
      | some (w0, w1) =>
        if tSdev k.raw ≠ s.devNo ∧ k.receipt = none ∧ (w0.getLsbD 62 = false ∨ tNkeys k.raw = 0) then
          (if aliasOf s (tSdev k.raw) = s.devNo then refuse s k 3 else forwardTicket s k (tSdev k.raw) false false)
        else if tSdev k.raw = s.devNo ∧ sessLive s (tSession k.raw) = false then refuse s k 3
        else if tSdev k.raw ≠ s.devNo ∧ bitsNat w1 45 28 = 0 then refuse s k 2
        else match needBricks k (tKeys k.raw) s with
          | (false, s) => s
          | (true, s) =>
            match sessionFor s k w1 with
            | none => s
            | some sess =>
              if (tKeys k.raw).all (usable s) then admitNow s k w0 sess else s

/-- Tickets whose session is not live when they come first in its queue are refused (spec/10 R309). -/
def sessionPump (s : State) : State :=
  s.mason.tickets.foldl (fun s k =>
    if k.st = .staged ∧ tSdev k.raw = s.devNo ∧ (ticketOf s k.arrival).isSome ∧ firstInSession s k ∧
        sessLive s (tSession k.raw) = false then refuse s k 3
    else s) s

end Sys2Proof.Machine
end

