-- ==== Sys2Proof/Machine/MasonOps.lean ====
section
/-! DEFINITION. The Mason's rings, session mover, commands, draining and retirement (spec/10 R299–R303, R310–R317,
R325, R334, R336–R345; spec/11 R350, R383, R384). -/

namespace Sys2Proof.Machine

/-! ## Ingress and completion rings -/

/-- The Mason accepts work: RUN, and the device is not FENCED (spec/10 Table 10-15, spec/11 R379). -/
def masonOpen (s : State) : Bool := masonState s == 1 && hwjState s != 5

/-- The Mason reads entry ICI of ring `r` (spec/10 R301, R302; a poisoned entry is lost, R345). -/
def ingressRead (s : State) (r : Fin 64) : State :=
  let reg0 := s.reg (masonReg (0x800 + 0x20 * r.val))
  let ici := s.fld (masonReg (0x810 + 0x20 * r.val)) 15 0
  let a := bitsNat reg0 47 12 * 4096 + 64 * ici
  let raw : Ticket := BitVec.ofNat 512 (s.memNat a 64)
  let rs := s.mason.rings.get r
  if masonOpen s && reg0.getLsbD 63 && !s.mason.stageFull && decide (tf raw 47 47 = b2n rs.iphase) then
    let nxt := (ici + 1) % 2 ^ (bitsNat reg0 51 48 + 4)
    let s := s.setFld (masonReg (0x810 + 0x20 * r.val)) 15 0 nxt
    let rs' : RingSt := { rs with iphase := if nxt = 0 then !rs.iphase else rs.iphase }
    let s := s.modMason (fun m => { m with rings := m.rings.set r rs' })
    let s := (writeBack s r.val).evCount pMason 0x20 1
    if s.poisoned a 64 then (s.raise pMason 8).logErr pMason 0x20 r.val 0xFF (BitVec.ofNat 64 ici)
    else arrive s { newTicket (clearPh raw) s.devNo (some r) none 0 none with index := ici }
  else s

/-- Completion records of ring `r` that waited are written while there is room; their tiles leave POST (spec/10 R303). With CEN = 0
none is written, and they wait on (log entry 133). -/
def flushComps (r : Fin 64) : Nat → State → State
  | 0, s => s
  | f + 1, s =>
    match s.mason.comps.find? (fun c => decide (c.ring = r)) with
    | some c =>
      if compRoom s r && compOn s r then
        let s := putComp (s.modMason (fun m => { m with comps := m.comps.erase c })) c
        let s := match c.tile with
          | some t => match (s.tile t).run with
            | .postWait n => if (ticketOf s n).isNone then leavePost s n (some t) else s
            | _ => s
          | none => s
        flushComps r f s
      else s
    | none => s

/-- A FENCED device writes no completion record for a POST past step 2: one that was held back is dropped, and its tile leaves
POST (spec/11 R379). -/
def fencedPump (s : State) : State :=
  if hwjState s = 5 then
    let out := s.mason.comps.filter CompRec.past
    out.foldl (fun s c => match c.tile with
      | some t => match (s.tile t).run with
        | .postWait n => if (ticketOf s n).isNone then leavePost s n (some t) else s
        | _ => s
      | none => s) (s.modMason (fun m => { m with comps := m.comps.filter (fun c => !c.past) }))
  else s

/-- A write of the register at +10h: CCNT (spec/10 R303). -/
def ccntWrite (s : State) (src : Nat) (r : Fin 64) (w : WReq) : State :=
  let old := s.reg w.ca8
  let new := (old &&& ~~~w.mask) ||| (w.val &&& w.mask)
  let c := bitsNat new 48 32
  if ((s.mason.rings.get r).written + 2 ^ 17 - c) % 2 ^ 17 ≤ compSize s r.val then
    flushComps r (s.mason.comps.length) (s.setFld w.ca8 48 32 c)
  else s.logErr pMason 1 (w.ca8 % 4096 / 8) src w.raw

/-- ICI and CPI of a ring become `v` in bits [hi:lo]; a change is written back (spec/10 Map 10-13, WBADDR). -/
def ringIndex (s : State) (r : Fin 64) (hi lo v : Nat) : State :=
  let a := masonReg (0x810 + 0x20 * r.val)
  let s' := s.setFld a hi lo v
  if s'.reg a = s.reg a then s' else writeBack s' r.val

/-- A write of the register at +00h: IEN (spec/10 R300). -/
def ienWrite (s : State) (src : Nat) (r : Fin 64) (w : WReq) : State :=
  let was := (s.reg w.ca8).getLsbD 63
  let s := regWrite s src w
  if !was && (s.reg w.ca8).getLsbD 63 then
    let rs : RingSt := { s.mason.rings.get r with iphase := true }
    (ringIndex s r 15 0 0).modMason (fun m => { m with rings := m.rings.set r rs })
  else s

/-- A write of the register at +08h: CEN (spec/10 R300). -/
def cenWrite (s : State) (src : Nat) (r : Fin 64) (w : WReq) : State :=
  let was := (s.reg w.ca8).getLsbD 63
  let s := regWrite s src w
  if !was && (s.reg w.ca8).getLsbD 63 then
    let rs : RingSt := { s.mason.rings.get r with cphase := true, written := 0 }
    let s := (ringIndex (s.setFld (masonReg (0x810 + 0x20 * r.val)) 48 32 0) r 31 16 0).modMason
      (fun m => { m with rings := m.rings.set r rs })
    flushComps r s.mason.comps.length s
  else s

/-! ## Continuations received (spec/10 R325) -/

/-- A continuation arrives. -/
def recvCont (s : State) (src : BitVec 9) (course : BitVec 4) (seq : BitVec 48) (tk : Ticket) (dest : BitVec 9) : State :=
  let e := recvEnt s dest src course
  let supp (s : State) : State := s.incSat (masonReg 0x148) 48 1
  if e.has seq.toNat then sendCack (supp s) dest src course seq
  else if contBusy s src course seq then supp s
  else if e.lw + 256 < seq.toNat then s
  else
    let s := if dest = s.devNo then s else s.modHwj (fun h => { h with forBuddy := h.forBuddy ++ [(dest, src, course, seq)] })
    arrive s (newTicket tk src none (some (src, course, seq)) 0 (some src))

/-- A void notice: a continuation that is refused with status 7Fh, which CONT_REFUSED does not count (spec/11 R356, spec/10
R326). -/
def recvVoid (s : State) (src : BitVec 9) (course : BitVec 4) (seq : BitVec 48) (dest : BitVec 9) : State :=
  let e := recvEnt s dest src course
  let supp (s : State) : State := s.incSat (masonReg 0x148) 48 1
  if e.has seq.toNat then sendCack (supp s) dest src course seq
  else if contBusy s src course seq then supp s
  else if e.lw + 256 < seq.toNat then s
  else
    let s := if dest = s.devNo then s else s.modHwj (fun h => { h with forBuddy := h.forBuddy ++ [(dest, src, course, seq)] })
    let s := (s.raise pMason 2).logErr pMason 0x21 0x7F 0xFF
      (BitVec.ofNat 64 (course.toNat * 2 ^ 60 + src.toNat * 2 ^ 48 + seq.toNat))
    journalOwn s 1 (receiptItem src course seq 0x7F) (some (src, course, seq, 0x7F))

/-- Send a continuation of the pending store again (spec/10 R324; a void notice is not counted, spec/11 R356). -/
def resendCont (s : State) (course : CourseId) (dest : BitVec 9) (seq : BitVec 48) : State :=
  match s.mason.pend.find? (fun p => decide (p.course.toNat = course.val ∧ p.dest = dest ∧ p.seq = seq) && !p.held) with
  | some p =>
    let s := sendPend s p
    if p.void then s else s.incSat (masonReg 0x140) 48 1
  | none => s

/-! ## The session mover (spec/10 R311, spec/02 R52–R57) -/

/-- Spill a bank: its session's image is written, the bank is left empty (spec/02 R53). -/
def spillBank (s : State) (t : TileId) (b : Fin 16) : State :=
  let bk := (s.tile t).banks.get b
  match bk.sess with
  | none => s
  | some n =>
    let a := sessAddr n
    let s := s.setBytes a (bk.image n (sessLive s n))
    let s := { s with poison := s.poison.filter (fun l => decide (l < a / 128 ∨ a / 128 + 4 ≤ l)) }
    (s.modTile t (fun x => x.putBank b Bank.empty)).evCount (pCourse + (courseOf t).val) 0x25 1

/-- Kiln registers of another session (spec/02 R49): free values. -/
def freeKiln (s : State) (t : TileId) : State :=
  let n := s.freeCtr
  let s := { s with freeCtr := n + 40 }
  s.modTile t (fun x => { x with kiln := { x.kiln with
    vctl := 0, vstat := 0,
    v := Vector.ofFn (fun i => Config.freeValue (n + i.val) 4096),
    m := Vector.ofFn (fun i => Config.freeValue (n + 32 + i.val) 512) } })

/-- SWS makes a bank current and sets pd (spec/02, SWS). -/
def swsEnter (s : State) (t : TileId) (pd : BitVec 3) (b : Fin 16) : State :=
  s.modTile t (fun x => ({ x with bank := b, banks := x.usedNow b }).setP pd true)

/-- SWS to a session of a bank: the Kiln registers of another session are undefined (spec/02 R49; spec/06 R216). -/
def swsSwitch (s : State) (t : TileId) (pd : BitVec 3) (b : Fin 16) : State :=
  swsEnter (if (s.tile t).bank = b then s else freeKiln s t) t pd b

/-- A Steward instruction that waited retires. -/
def stewardRetires (s : State) (t : TileId) : State :=
  s.evCountQ (tilePage t) 0x20 (fun q => decide (q % 8 = 0) || decide (q / 2 % 2 = 1)) 1

/-- SWS completes after its fill: another session has come into the bank, be it the current one. -/
def swsDone (s : State) (t : TileId) (pd : BitVec 3) (b : Fin 16) : State :=
  (stewardRetires (swsEnter (freeKiln s t) t pd b) t).modTile t (fun x => { x with run := .running, pc := x.pc + 4 })

/-- SWS ends in a fault, with the frame PC at SWS. -/
def swsFault (s : State) (t : TileId) (code sub : Nat) (n : BitVec 18) : State :=
  let s := s.modTile t (fun x => { x with run := .running })
  let fi : Word := if code = 0x12 then BitVec.ofNat 64 n.toNat else 0
  enter s t { code, sub, finfo := fi } false (s.tile t).pc

/-- The outcome of a fill for its requester: the bank holds the session, or what failed, as the subcode and the session of the
MOVER fault (spec/08 Table 8-1). A session whose image is not live leaves the bank of an SWS empty, wherever it came from
(spec/02, SWS). -/
def fillEnd (s : State) (o : MoverOp) (bad : Option (Nat × BitVec 18)) : State :=
  match o.why with
  | .sws =>
    match (s.tile o.tile).run, bad with
    | .swsWait _ _, some (sub, n) => swsFault s o.tile 0x12 sub n
    | .swsWait pd _, none =>
      if !sessLive s o.session then
        swsFault (s.modTile o.tile (fun x => x.putBank o.bank Bank.empty)) o.tile 0x0F 2 o.session
      else swsDone s o.tile pd o.bank
    | _, _ => s
  | .ticket _ =>
    match bad with
    | some (sub, n) => s.modCourse (courseOf o.tile) (fun c => { c with fillErr := c.fillErr ++ [(o.session, o.bank, sub, n)] })
    | none => s
  | _ => s

/-- The session store answers: the HBM controller is READY (spec/16 Table 16-1). -/
def storeReady (s : State) : Bool := s.fld (ctl pHbmc 0x120) 1 0 == 2

/-- The session of a bank, when one is there. -/
def sessIn (s : State) (t : TileId) (b : Fin 16) : Option (BitVec 18) := ((s.tile t).banks.get b).sess

/-- The session mover of a course completes its operation (spec/10 R311). A bank whose session has been bound since the
operation was queued is no victim: the operation lapses and is asked for again. While the store does not answer a spill fails,
and leaves its bank as it is, and so does a fill (spec/02 R57; log entry 98). -/
def moverStep (s : State) (c : CourseId) : State :=
  match (s.course c).mover with
  | [] => s
  | o :: rest =>
    let s := s.modCourse c (fun x => { x with mover := rest })
    let old := sessIn s o.tile o.bank
    if o.spill then (if storeReady s then spillBank s o.tile o.bank else s)
    else if old.any (fun m => decide (m ≠ o.session) && sessionHeld s m) then s
    else match residentAt s o.session with
      | some (t', b') =>
        if t' = o.tile ∧ b' = o.bank then fillEnd s o none
        else if !storeReady s && (old.isSome || decide (courseOf t' ≠ c)) then fillEnd s o (some (2, old.getD o.session))
        else
          let s := spillBank s o.tile o.bank
          if courseOf t' = c then
            let bk := (s.tile t').banks.get b'
            let s := s.modTile t' (fun x => x.putBank b' Bank.empty)
            let s := s.modTile o.tile (fun x => x.putBank o.bank bk)
            fillEnd (s.evCount (pCourse + c.val) 0x26 1) o none
          else
            let s := spillBank s t' b'
            match bankFromMem s (sessAddr o.session) o.session with
            | some bk =>
              let s := s.modTile o.tile (fun x => x.putBank o.bank bk)
              fillEnd (s.evCount (pCourse + c.val) 0x24 1) o none
            | none => fillEnd s o (some (1, o.session))
      | none =>
        if !storeReady s then fillEnd s o (some (match old with
          | some m => (2, m)
          | none => (1, o.session)))
        else
        let s := spillBank s o.tile o.bank
        let a := sessAddr o.session
        if s.poisoned a 512 then fillEnd s o (some (1, o.session))
        else match bankFromMem s a o.session with
          | some bk =>
            let s := s.modTile o.tile (fun x => x.putBank o.bank bk)
            fillEnd (s.evCount (pCourse + c.val) 0x24 1) o none
          | none => fillEnd s o (some (1, o.session))

/-! ## Commands (spec/10 Table 10-14) -/

/-- SESSINIT (spec/10 R310): a resident copy is dropped. -/
def sessInit (s : State) (n : BitVec 18) (ast : BitVec 16) (krr : BitVec 128) : State :=
  let s := match residentAt s n with
    | some (t, b) => s.modTile t (fun x => x.putBank b Bank.empty)
    | none => s
  let bk : Bank := { Bank.reset with ast := ast, krr := krr }
  let a := sessAddr n
  let s := s.setBytes a (bk.image n true)
  { s with poison := s.poison.filter (fun l => decide (l < a / 128 ∨ a / 128 + 4 ≤ l)) }

/-- SESSFREE (spec/10 R310): a resident copy is written back first. -/
def sessFree (s : State) (n : BitVec 18) : State :=
  let s := match residentAt s n with
    | some (t, b) => spillBank s t b
    | none => s
  let a := sessAddr n + 0x1F7
  s.setByte a (s.byte a &&& 0xFE#8)

/-- POOLDEF (spec/10 R336): 0Bh, or the pool defined with every brick free. -/
def poolDef (s : State) (a0 a1 a2 : Word) : State :=
  let n := bitsNat a0 4 0
  let mode := bitsNat a0 9 8
  let b := bitsNat a1 47 14 * 0x4000
  let e := bitsNat a2 47 14 * 0x4000
  let modeOk := if n < 16 then mode < 2 else mode = 2
  let clash := (List.range 32).any (fun i =>
    let p := poolOf s i
    p.v && decide (i = n ∨ (b ≤ p.last ∧ p.base ≤ e)))
  if decide modeOk && decide (b ≤ e) && !clash && framesReserved s b (e + 0x4000 - b) then
    let s := s.setReg (masonReg (0x400 + 0x20 * n))
      (BitVec.ofNat 64 (2 ^ 63 + mode * 2 ^ 61 + bitsNat a0 12 12 * 2 ^ 60 + b))
    let s := s.setReg (masonReg (0x408 + 0x20 * n)) (BitVec.ofNat 64 e)
    let p := poolOf s n
    let s := s.setReg (masonReg (0x410 + 0x20 * n)) (BitVec.ofNat 64 (p.bricks - p.reserved))
    (if mode = 2 then s else s.zeroRange b (p.reserved * 4096)).cmdDone pMason 2
  else s.cmdDone pMason 0x0B

/-- POOLDEL. -/
def poolDel (s : State) (n : Nat) : State :=
  let p := poolOf s n
  if !p.v then s.cmdDone pMason 0x0C
  else if s.fld (masonReg (0x410 + 0x20 * n)) 28 0 ≠ p.bricks - p.reserved then s.cmdDone pMason 0x0E
  else
    let s := [0x400, 0x408, 0x410].foldl (fun s o => s.setReg (masonReg (o + 0x20 * n)) 0) s
    s.cmdDone pMason 2

/-- Bricks homed on a course move to another (spec/10 Table 10-14, DRAINC). -/
def moveHomes (s : State) (c : CourseId) : State :=
  let keys := (s.mason.cached.map (fun q => BitVec.ofNat 64 q.1)) ++
    (((s.mem.filter (fun x => decide (0x040000000000 ≤ x.1 ∧ x.1 < 0x040200000000))).map
      (fun x => s.dword (x.1 / 16 * 16))).dedup.filter (fun k => decide (k ≠ 0) && (homeEntry s k).isSome))
  keys.dedup.foldl (fun s k =>
    let s := repairSlice s k
    match (if entryPending s k then none else homeEntry s k) with
    | some w => if eCourse w = c.val then hintHere s k s.devNo 0xF#4 else s
    | none => s) s

/-- A course drains: never-dispatched tickets and home bricks go to other courses (spec/11 R350). -/
def drainCourse (s : State) (c : CourseId) : State :=
  let s := s.setFld (masonReg (0x200 + 0x10 * c.val)) 63 62 1
  let mv (k : TicketRec) : Bool :=
    decide (k.course = c) && !k.started && (match k.st with
      | .admitted | .queued | .bound _ => true
      | _ => false)
  let ns := (s.mason.tickets.filter mv).map (fun k => k.arrival)
  let s := ns.foldl (fun s n =>
    let dest := leastCourse s
    let s := s.modCourse c (fun x => { x with runHi := x.runHi.filter (· ≠ n), runLo := x.runLo.filter (· ≠ n) })
    let s := modTicket s n (fun k => { k with st := .admitted, course := dest })
    match ticketOf s n with
    | some k => clearHeld s k dest
    | none => s) s
  moveHomes s c

/-- A draining course on which no ticket runs or waits is drained: its banks are spilled (spec/11 R350), and the DRAINC that
asked for it is complete (spec/13 R422). -/
def drainedCheck (s : State) : State :=
  (List.finRange 12).foldl (fun s c =>
    if cstate s c = 1 ∧ !s.mason.tickets.any (fun k => decide (k.st ≠ .staged ∧ k.course = c)) then
      let s := (courseTiles c).foldl (fun s t => (List.finRange 15).foldl (fun s b => spillBank s t b.succ) s) s
      let s := (s.setFld (masonReg (0x200 + 0x10 * c.val)) 63 62 2).raise pMason 3
      if s.mason.drainCmd = some c then (s.cmdDone pMason 2).modMason (fun m => { m with drainCmd := none }) else s
    else s) s

/-- QUIESCING ends when no ticket is admitted and no migration runs. -/
def quiescedCheck (s : State) : State :=
  if masonState s = 2 ∧ s.mason.migs = [] ∧ !s.mason.tickets.any (fun k => decide (k.st ≠ .staged)) then
    s.setFld (masonReg 0x100) 2 0 3
  else s

/-- End-to-end quenches that STAGEFULL caused end with it (spec/12 R401). -/
def unquenchCheck (s : State) : State :=
  if stageShown s then s
  else
    let l := s.mason.quenched.filter (fun q => q.2.2 && decide (s.clk.tb.toNat < q.2.1.toNat + 20000))
    let s := s.modMason (fun m => { m with quenched := m.quenched.map (fun q => (q.1, q.2.1, false)) })
    l.foldl (fun s q => s.send 0x09 q.1 0 [BitVec.ofNat 64 (2 ^ 63 + 2 ^ 56 + q.1.toNat * 2 ^ 32)]) s

/-- Commands that a MASON state allows (spec/10 Table 10-15). -/
def masonAllows (st code : Nat) : Bool :=
  match st with
  | 0 => [1, 4, 5, 6, 7, 8].contains code
  | 1 => code == 2 || inRange code 5 0x12
  | 3 => [3, 4, 5, 6, 7, 8, 9, 0x0D].contains code
  | _ => false

/-- A brick command goes to the slice device (spec/10 R344). No brick has key 0: it is a bad argument (log entry 107). -/
def brickOut (s : State) (c : BrickCmd) : State :=
  let k := s.reg (masonReg 0x160)
  if k = 0 then s.cmdDone pMason 0x0B
  else sendBcmd (s.modMason (fun m => { m with cmdKey := some k })) (sliceDev s k) k c

/-- The effect of an accepted MASON command. -/
def masonRun (code : Nat) (s : State) : State :=
  let a0 := s.reg (masonReg 0x160)
  let a1 := s.reg (masonReg 0x168)
  let a2 := s.reg (masonReg 0x170)
  let done (st : Nat) (s : State) : State := s.cmdDone pMason st
  let n := BitVec.ofNat 18 (bitsNat a0 17 0)
  match code with
  | 1 =>
    if s.placeSet && decide (s.fld (masonReg 0x110) 16 0 ≠ 0) && s.mason.pmapLoaded && s.hwj.bibaseSet then
      done 2 (s.setFld (masonReg 0x100) 2 0 1)
    else done 0x0B s
  | 2 => done 2 (s.setFld (masonReg 0x100) 2 0 2)
  | 3 => done 2 (s.setFld (masonReg 0x100) 2 0 1)
  | 4 =>
    let first := bitsNat a0 11 0
    let cnt := bitsNat a0 27 16 + 1
    let dev := BitVec.ofNat 9 (bitsNat a0 40 32)
    if 4096 < first + cnt then done 0x0B s
    else done 2 (s.modMason (fun m =>
      { m with pmap := Vector.ofFn (fun i => if first ≤ i.val ∧ i.val < first + cnt then dev else m.pmap.get i),
               pmapLoaded := true, repl := m.repl.filter (fun i => decide (i < first ∨ first + cnt ≤ i)), aliases := m.aliases.filter (fun q => decide (q.1 ≠ dev)) }))
  | 5 => poolDef s a0 a1 a2
  | 6 => poolDel s (bitsNat a0 4 0)
  | 7 =>
    if sessionHeld s n then done 0x0E s else done 2 (sessInit s n (BitVec.ofNat 16 (bitsNat a0 47 32)) (a1 ++ a2))
  | 8 => if sessionHeld s n then done 0x0E s else done 2 (sessFree s n)
  | 9 =>
    if sessionHeld s n then done 0x0E s
    else done 2 (match residentAt s n with
      | some (t, b) => spillBank s t b
      | none => s)
  | 0x0A => brickOut s (.pin 0)
  | 0x0B => brickOut s (.unpin 0)
  | 0x0C => brickOut s (.hint (BitVec.ofNat 9 (bitsNat a1 8 0)) (BitVec.ofNat 4 (bitsNat a1 19 16)) 0)
  | 0x0D => brickOut s .lookup
  | 0x0E => brickOut s (.del 0)
  | 0x0F => brickOut s (.staticDef (BitVec.ofNat 9 (bitsNat a1 8 0)))
  | 0x10 =>
    match courseOf? (bitsNat a0 3 0) with
    | some c => (drainCourse s c).modMason (fun m => { m with drainCmd := some c })
    | none => done 0x0B s
  | 0x11 =>
    match courseOf? (bitsNat a0 3 0) with
    | some c => done 2 (s.setFld (masonReg (0x200 + 0x10 * c.val)) 63 62 0)
    | none => done 0x0B s
  | _ =>
    if (s.reg (masonReg 0x188)).getLsbD 63 then
      let key := s.reg (masonReg 0x180)
      let dev := BitVec.ofNat 9 (s.fld (masonReg 0x188) 12 4)
      let s := s.setFld (masonReg 0x188) 63 63 0
      done 2 (if a0.getLsbD 0 && (migOf s key).isNone then startMig s key dev 0xF#4 false else s)
    else done 0x0C s

/-- A CMD write of the MASON page (spec/10 R343). -/
def masonCmd (s : State) (src code : Nat) : State :=
  s.command pMason src code (inRange code 1 0x12) (masonAllows (masonState s) code) (masonState s) (masonRun code)

/-- A course-balance move (spec/10 R334): COURSE only, of a brick that nothing holds or waits for, at most once in
MINRES. -/
def balanceMove (s : State) (key : Word) (c : CourseId) : State :=
  let s := repairSlice s key
  match (if entryPending s key then none else homeEntry s key) with
  | none => s
  | some w =>
    let since := match s.mason.resident.find? (fun q => decide (q.1 = key.toNat)) with
      | some q => (s.clk.tb.toNat - q.2.toNat) / 1000
      | none => 2 ^ 16
    if ePin w || (migOf s key).isSome || s.mason.tickets.any (fun k => (tKeys k.raw).contains key) ||
        decide (since < s.fld (masonReg 0x130) 23 8) then s
    else
      let s := hintHere s key s.devNo (BitVec.ofNat 4 c.val)
      s.modMason (fun m => { m with resident := m.resident.filter (fun q => decide (q.1 ≠ key.toNat)) ++ [(key.toNat, s.clk.tb)] })

/-! ## Retirement of a tile (spec/11 R383, R384) -/

/-- A tile is retired. -/
def retired (s : State) (t : TileId) : Bool := (s.reg (hwjReg (0x188 + 8 * (t.val / 64)))).getLsbD (t.val % 64)

/-- A session whose bank cannot be read is not live, and the ticket that holds it is refused; what the ticket wrote is undone
(spec/11 R384). -/
def loseSession (s : State) (n : BitVec 18) : State :=
  let a := sessAddr n + 0x1F7
  let s := s.setByte a (s.byte a &&& 0xFE#8)
  match s.mason.tickets.find? (fun k => decide (k.session = n) && (match k.st with
    | .staged | .posting _ => false
    | _ => true)) with
  | some k => refuse (freeTicketSlot (restoreWs s k) k) k 3
  | none => s

/-- The session mover empties a bank of a retired tile. Whether the bank can be read no rule says: a free value tells (log
entry 36). -/
def retireBank (t : TileId) (s : State) (b : Fin 16) : State :=
  match sessIn s t b with
  | none => s
  | some n =>
    let bad := s.freeVal 1 == 1
    let s := s.drew
    if bad then loseSession (s.modTile t (fun x => x.putBank b Bank.empty)) n else spillBank s t b

/-- Retire a ledger tile that is in checkstop (spec/11 Sequence 11-10). -/
def retireTile (s : State) (t : TileId) : State :=
  let c := courseOf t
  let ct := masonReg (0x208 + 0x10 * c.val)
  let s := s.setReg ct (setBit (s.reg ct) (t.val % 8) false)
  let s := s.modCourse c (fun x => { x with mover := x.mover.filter (fun o => decide (o.tile ≠ t)) })
  let s := s.modMason (fun m => { m with tickets := m.tickets.map (fun k =>
    if k.st = .bound t then { k with st := if k.started then .yielded else .queued } else k) })
  let s := match s.mason.tickets.find? (fun k => decide (k.st = .running t)) with
    | some k => failTicket s k.arrival 0x14 none
    | none => s
  let n := ((List.finRange 15).filter (fun b => ((s.tile t).banks.get b.succ).sess.isSome)).length
  let s := (List.finRange 15).foldl (fun s b => retireBank t s b.succ) s
  let rr := hwjReg (0x188 + 8 * (t.val / 64))
  let s := (s.setReg rr (setBit (s.reg rr) (t.val % 64) true)).raise pHwj 7
  let s := s.mcPush 2 (tilePage t) n
  if (courseTiles c).all (retired s) then
    let ys := s.mason.tickets.filter (fun k => decide (k.course = c ∧ k.st ≠ .staged) && k.started &&
      (match k.st with
       | .posting _ => false
       | _ => true))
    let s := ys.foldl (fun s k => failTicket s k.arrival 0x14 none) s
    drainCourse s c
  else s

end Sys2Proof.Machine
end

