-- ==== Sys2Proof/Machine/HwjOps.lean ====
section
/-! DEFINITION. The journal unit's commands, pairing, heartbeats, witness evidence, and the messages of VC2 and of
takeover (spec/11 R367–R386). -/

namespace Sys2Proof.Machine

/-- Slot of a device in its grove. -/
def slotOf (d : BitVec 9) : Fin 8 := Fin.ofNat 8 d.toNat

/-- A device is a grove peer of this one. -/
def grovePeer (s : State) (d : BitVec 9) : Bool := decide (d.toNat / 8 = s.devNo.toNat / 8 ∧ d ≠ s.devNo)

/-- The newest evidence of a grove slot (spec/11 R376). -/
def evidence (s : State) (i : Fin 8) : Nat :=
  (s.hwj.reported.toList.map (fun r => (r.get i).toNat)).foldl max (s.hwj.seen.get i).toNat

/-- Evidence of a slot is younger than 12 µs. -/
def fresh12 (s : State) (v : Nat) : Bool := decide (v ≠ 0 ∧ s.clk.tb.toNat < v + 12000)

/-- HWJ.PEERSEEN (spec/11 Map 11-11). -/
def peerSeen (s : State) : Nat :=
  ((List.finRange 8).map (fun i => if fresh12 s (evidence s i) then 2 ^ i.val else 0)).sum

/-! ## RESYNC (spec/11 R372) -/

/-- The 16-byte slots of the 8 GiB at `b` that hold an entry, with their keys. -/
def slotsIn (s : State) (b : Nat) : List (Nat × Word) :=
  (((s.mem.filter (fun c => decide (b ≤ c.1 ∧ c.1 < b + 2 ^ 33))).map (fun c => c.1 / 16 * 16)).dedup.map
    (fun a => (a, s.dword a))).filter (fun q => decide (q.2 ≠ 0))

/-- Keys of the local directory slice that hold an entry. -/
def sliceKeys (s : State) : List (Nat × Word) :=
  slotsIn s 0x040000000000

/-- Keys of the bricks homed here in mirrored pools. -/
def mirroredKeys (s : State) : List Nat :=
  ((s.mason.cached.map Prod.fst) ++ (sliceKeys s).map (fun q => q.2.toNat)).dedup.filter (fun k =>
    match homeEntry s (BitVec.ofNat 64 k) with
    | some w => inMirrored s (eFrame w)
    | none => false)

/-- Bricks that no ticket holds are copied to their replicas. -/
def resyncPump (s : State) : State :=
  match buddy? s with
  | some b =>
    if hwjState s = 2 then
      s.hwj.resyncLeft.foldl (fun s k =>
        let key := BitVec.ofNat 64 k
        if (holder? s key).isSome then s
        else
          let s := s.modHwj (fun h => { h with resyncLeft := h.resyncLeft.filter (· ≠ k) })
          let s := repairSlice s key
          match homeEntry s key with
          | some w => s.send 0x31 b 0 (key :: wordsOf (s.bytes (eFrame w) 4096))
          | none => s) s
    else s
  | none => s

/-- PAIR (spec/11 R372, R378, R411). Whether the buddy names this device within 1 s, and its mirrored pools match the replica
pools here, no message tells: a free value does (log entry 28). A device's heartbeats are received by both when each has evidence
of it younger than 12 µs (log entry 134). The replica of the buddy's slice and sequence state starts anew, but for the partitions
that this device has taken over and serves from it. -/
def pairOp (s : State) : State :=
  let differ := s.freeVal 1 == 1
  let s := s.drew
  let b := BitVec.ofNat 9 (s.fld (hwjReg 0x168) 8 0)
  let witness := (List.finRange 8).any (fun i =>
    decide (i ≠ slotOf b ∧ i ≠ slotOf s.devNo) && fresh12 s (s.hwj.seen.get i).toNat &&
      fresh12 s ((s.hwj.reported.get (slotOf b)).get i).toNat)
  let k := groveLink (slotOf s.devNo).val (slotOf b).val
  if !grovePeer s b || !witness || !linkFeat s k 0x20 || differ then s.cmdDone pHwj 0x0B
  else
    let s := s.setReg (hwjReg 0x128) (BitVec.ofNat 64 (2 ^ 63 + b.toNat))
    let s := setHwjState s 2
    let s := s.modHwj (fun h =>
      { h with replicaValid := true, declared := false, promoted := false, closedFrom := h.closedFrom.filter (· ≠ b),
               rCopied := [], resyncLeft := mirroredKeys s, rRecv := [], rPend := h.rPend.filter (fun p => decide (p.src = b)) })
    let s := (slotsIn s (s.fld (hwjReg 0x150) 47 33 * 2 ^ 33)).foldl (fun s q =>
      if s.mason.repl.contains (keyhash q.2).1 then s else (s.setDword q.1 0).setDword (q.1 + 8) 0) s
    let s := (sliceKeys s).foldl (fun s q =>
      s.send 0x22 b 0 [BitVec.ofNat 64 ((q.1 - 0x040000000000) / 16), q.2, s.dword (q.1 + 8)]) s
    (snapshot s).cmdDone pHwj 2

/-- RESYNC is complete (spec/11 R372). -/
def resyncDone (s : State) : State :=
  if hwjState s = 2 ∧ s.hwj.resyncLeft = [] then
    let s := (setHwjState s 3).raise pHwj 8
    applyPump s.hwj.rApply.length (s.modHwj (fun h => { h with rCopied := [] }))
  else s

/-! ## Commands (spec/11 Tables 11-12, 11-13) -/

/-- Commands that an HWJ state allows. -/
def hwjAllows (st code : Nat) : Bool :=
  match st with
  | 0 => code == 1 || code == 2
  | 1 => [3, 6, 7].contains code
  | 2 | 3 => [4, 6, 7].contains code
  | 4 => inRange code 3 7
  | _ => false

/-- Send an entry of the pending store again; a void notice is not counted (spec/11 R356). -/
def sendCounted (s : State) (p : Pend) : State :=
  if p.void then sendPend s p else (sendPend s p).incSat (masonReg 0x140) 48 1

/-- RELEASE: the continuations that RINGOPEN held are sent; those of a POST without an outcome stay. -/
def releaseHeld (s : State) : State :=
  let busy (p : Pend) : Bool := s.hwj.inflight.any (fun r => decide (r.pos = p.pos) && r.ticket.isSome)
  (s.mason.pend.filter (fun p => p.held && !busy p)).foldl sendCounted s

/-- Migrations here that have asked device `a` for the change of the slice entry (spec/10 Sequence 10-12, step 5). -/
def sliceAsked (s : State) (a : BitVec 9) : List Mig :=
  s.mason.migs.filter (fun g => g.atHome && decide ((g.step = 5 ∨ g.step = 20) ∧ sliceDev s g.key = a))

/-- A migration with the failed device as the other end (spec/11 Table 11-9). At the new home the slice decides whether step 5
has taken effect, where this device does not know: the slice here, or one that is asked with LOOKUP. -/
def endFailed (s : State) (g : Mig) : State :=
  let drop (s : State) : State :=
    let s := if g.frame = 0 then s else markBrick s ((poolAt s g.frame).getD 0) g.frame false
    let s := (dropMig s g.key).raise pMason 4
    if g.pulled then refuseOldest s g.key 5 else s
  if g.atHome then (if 1 ≤ g.step ∧ g.step < 5 then abortMig s g.key else s)
  else if g.step ≤ 3 then drop s
  else if g.step = 6 then endMark s g.peer g.key
  else if sliceDev s g.key = s.devNo then
    match sliceEntry s g.key with
    | some (_, w) =>
      if eDev w = s.devNo then
        endMark (modMig s g.key (fun g => { g with course := BitVec.ofNat 4 (eCourse w), cand := w.toNat % 0x4000 / 2 * 2 })) g.peer g.key
      else drop s
    | none => drop s
  else askSlice (modMig s g.key (fun g => { g with step := 7 })) g.key

/-- Migrations at a takeover of device `a` (spec/11 Table 11-9); the replica is asked again for the changes that the failed
slice device may not have made. A pull that has not begun may lie with the failed device: its ticket asks again. -/
def endMigs (s : State) (a : BitVec 9) (asked : List Mig) : State :=
  let s := s.modMason (fun m => { m with migs := m.migs.filter (fun g => g.atHome || decide (g.step ≠ 0)) })
  let s := (s.mason.migs.filter (fun g => decide (g.peer = a ∧ g.step < 10))).foldl endFailed s
  asked.foldl (fun s g => match homeEntry s g.key with
    | some w => sendMig s (sliceDev s g.key) (.commit g.key (if g.step = 5 then stepFive w g else setBits w 47 4 g.course.toNat))
    | none => s) s

/-- This device takes the place of its failed buddy (spec/11 Sequence 11-8, steps 4 to 7; Table 11-9). -/
def takeOver (s : State) (a : BitVec 9) : State := endMigs (promote s a) a (sliceAsked s a)

/-- The effect of an accepted HWJ command. -/
def hwjRun (code : Nat) (s : State) : State :=
  match code with
  | 1 => ringInitOp s
  | 2 => ringOpenOp s
  | 3 => pairOp s
  | 4 =>
    let s := match buddy? s with
      | some b => sendAllRoutes s 2 b
      | none => s
    let s := decideWaiting (flushDrep (setHwjState s 1))
    (journalPump (s.setReg (hwjReg 0x128) 0)).cmdDone pHwj 2
  | 5 =>
    match buddy? s with
    | some b =>
      if s.hwj.declared && !s.hwj.promoted then (takeOver s b).cmdDone pHwj 2 else s.cmdDone pHwj 0x0E
    | none => s.cmdDone pHwj 0x0E
  | 6 => journalPump ((enterFenced s false).cmdDone pHwj 2)
  | _ => (releaseHeld s).cmdDone pHwj 2

/-- A CMD write of the HWJ page (spec/11 R386). -/
def hwjCmd (s : State) (src code : Nat) : State :=
  s.command pHwj src code (inRange code 1 7) (hwjAllows (hwjState s) code) (hwjState s) (hwjRun code)

/-! ## Heartbeats and failures -/

/-- A heartbeat of this device to its grove peers. -/
def sendHeartbeats (s : State) : State :=
  (grovePeers s).foldl (fun s d =>
    (s.send 1 d 0 ([BitVec.ofNat 64 (hwjState s * 2 ^ 61), s.clk.tb] ++ s.hwj.seen.toList)).evCount pHwj 0x26 1) s

/-- B declares its buddy failed (spec/11 R377). -/
def declareFailed (s : State) (b : BitVec 9) : State :=
  let s := enterDegraded (s.raise pHwj 2)
  let s := s.modHwj (fun h => { h with closedFrom := h.closedFrom.filter (· ≠ b) ++ [b], declared := true })
  let s := (sendAllRoutes s 3 b).mcPush 3 pHwj b.toNat
  if (s.reg (hwjReg 0x138)).getLsbD 63 then takeOver s b else s

/-- A heartbeat instant: the next multiple of 4,000 ns (spec/11 R376, R377, R379). -/
def heartbeat (s : State) : State :=
  let st := hwjState s
  if st = 0 ∨ st = 5 then s
  else
    let s := if s.clk.seeded then { s with clk := { s.clk with tb := BitVec.ofNat 64 ((s.clk.tb.toNat / 4000 + 1) * 4000) } } else s
    let s := sendHeartbeats s
    let ev := (List.finRange 8).filter (fun i => decide (i ≠ slotOf s.devNo) && fresh12 s (evidence s i))
    if (st = 2 ∨ st = 3) ∧ ev = [] then journalPump (enterFenced s false)
    else match buddy? s with
      | some b =>
        let e := evidence s (slotOf b)
        let s := s.setReg (hwjReg 0x158) (BitVec.ofNat 64 e)
        if (st = 2 ∨ st = 3) ∧ !fresh12 s e then declareFailed s b else s
      | none => s

/-- A heartbeat received (spec/11 R376). -/
def hbIn (s : State) (src : BitVec 9) (tb : Word) (seen : Vector Word 8) : State :=
  if !grovePeer s src then s
  else
    let s := s.evCount pHwj 0x27 1
    let mx (a b : Word) : Word := if a < b then b else a
    let s := s.modHwj (fun h =>
      { h with seen := h.seen.set (slotOf src) (mx (h.seen.get (slotOf src)) tb),
               reported := h.reported.set (slotOf src) (Vector.ofFn (fun i => mx ((h.reported.get (slotOf src)).get i) (seen.get i))) })
    match buddy? s with
    | some b => s.setReg (hwjReg 0x158) (BitVec.ofNat 64 (evidence s (slotOf b)))
    | none => s

/-- BREAK received (spec/11 R370). -/
def breakIn (s : State) (src : BitVec 9) : State :=
  if buddy? s = some src ∧ (hwjState s = 2 ∨ hwjState s = 3 ∨ hwjState s = 4) then
    enterDegraded (s.modHwj (fun h => { h with replicaValid := false, declared := false }))
  else s

/-- FENCE received (spec/11 R379). -/
def fenceIn (s : State) (src : BitVec 9) : State :=
  if buddy? s = some src ∧ hwjState s ≠ 0 then journalPump (enterFenced s true) else s

/-- A missing mirror acknowledgement (spec/11 R370). -/
def mirrorTimeout (s : State) : State :=
  if mirroring s && s.hwj.inflight.any (fun r => r.needAck && !r.acked) then
    let s := s.raise pHwj 1
    let s := match buddy? s with
      | some b => sendAllRoutes s 2 b
      | none => s
    enterDegraded s
  else s

/-- A takeover announcement (spec/11 R380, Table 11-9). -/
def tkovIn (s : State) (a b : BitVec 9) : State :=
  if b = s.devNo then s
  else
    let asked := sliceAsked s a
    let s := endMigs (renameDev s a b) a asked
    let s := (sliceKeys s).foldl (fun s q =>
      let w := sliceNext s q.1
      if eDev w = a ∧ eState w ≠ 3 then putSlice s q.1 q.2 (setBits w 51 9 b.toNat) else s) s
    let dest := s.mason.pend.filter (fun p => decide (p.dest = a) && !p.held)
    dest.foldl sendCounted s

/-! ## VC2 -/

/-- VC2 of a sender is accepted: it is the buddy and not closed (spec/11 R377, R379). -/
def vc2Open (s : State) (src : BitVec 9) : Bool :=
  decide (buddy? s = some src) && !s.hwj.closedFrom.contains src && hwjState s != 5 && hwjState s != 0

/-- A mirror record takes its place in the ring, or waits (spec/11 R364, R367). -/
def mrecIn (s : State) (src : BitVec 9) (rec : List Byte) : State :=
  if vc2Open s src then journalPump (s.modHwj (fun h => { h with waiting := h.waiting ++ [.copy src rec] })) else s

/-- A mirror acknowledgement. -/
def mackIn (s : State) (src : BitVec 9) (pos : Word) : State :=
  if vc2Open s src then mirrorAck s pos.toNat else s

/-- A directory change of the buddy: applied to the replica and acknowledged; the creation of a brick in a mirrored pool
zeroes its replica (spec/11 R368). -/
def drepIn (s : State) (src : BitVec 9) (off : Nat) (k w : Word) : State :=
  if vc2Open s src then
    let a := s.fld (hwjReg 0x150) 47 33 * 2 ^ 33 + 16 * off
    let new := decide (s.dword a = 0 ∧ k ≠ 0 ∧ eState w = 1 ∧ eDev w = src)
    let s := (s.setDword a k).setDword (a + 8) w
    let p := poolOf s (16 + ePool w)
    let s := if new && p.v then s.fill (p.base + (eFrame w - Config.peerPoolBase (ePool w))) 4096 0 else s
    s.send 0x23 src 0 [BitVec.ofNat 64 off]
  else s

/-- The buddy has applied a directory change: it takes effect (spec/11 R368). -/
def dackIn (s : State) (src : BitVec 9) (off : Nat) : State :=
  if vc2Open s src then
    match s.hwj.drepWait.find? (fun q => decide (q.1 % 2 ^ 33 / 16 = off % 2 ^ 29)) with
    | some q =>
      entryLands (s.modHwj (fun h => { h with drepWait := h.drepWait.erase q })) q.1 (q.2.extractLsb' 64 64) (q.2.extractLsb' 0 64)
    | none => s
  else s

/-- A continuation acknowledgement (spec/11 R369): for the pending store of device `src`, or for the replica of the buddy's.
The message names no source, so where both hold such a continuation a free value tells which is meant (log entry 39). -/
def cackIn (s : State) (src dest : BitVec 9) (course : BitVec 4) (seq : BitVec 48) : State :=
  let same (p : Pend) : Bool := decide (p.dest = dest ∧ p.course = course ∧ p.seq = seq)
  let own := s.mason.pend.any (fun p => same p && decide (p.src = src))
  let copy := s.hwj.rPend.any same
  let first := s.freeVal 1 == 1
  let s := if own && copy then s.drew else s
  if own && (!copy || first) then ackCont s src dest course seq
  else s.modHwj (fun h => { h with rPend := h.rPend.filter (fun p => !same p) })

/-- The length of a record that waits. -/
def jwaitLen (s : State) : JWait → Nat
  | .post n _ => match ticketOf s n with
    | some k => postLen s k
    | none => 0
  | .copy _ b => b.length
  | .own kind body _ => 64 * recUnits (if kind = 5 then List.replicate 536 0 else body)

/-- The ring has no space for the oldest record that waits (spec/11 R364). -/
def ringShort (s : State) : Bool :=
  match s.hwj.waiting with
  | w :: _ => decide (ringFree s < spaceFor s (jwaitLen s w))
  | [] => false

/-- The POST of tile `t` has waited for ring space for FULLTO (spec/11 R364); a checkstop of the tile changes nothing (R357). -/
def ringFull (s : State) (t : TileId) : State :=
  let of? (w : JWait) : Option Nat := match w with
    | .post n (some t') => if t' = t then some n else none
    | _ => none
  match (if ringShort s then s.hwj.waiting.findSome? of? else none) with
  | some n =>
    journalPump (failTicket (s.modHwj (fun h => { h with waiting := h.waiting.filter (fun w => decide (of? w ≠ some n)) })) n 0x11 none)
  | none => s

/-- The next sequence snapshot (spec/11 R366). -/
def snapshotDue (s : State) : State :=
  if hwjState s = 0 ∨ hwjState s = 5 then s else snapshot s

end Sys2Proof.Machine
end

