-- ==== Sys2Proof/Machine/Fabric.lean ====
section
/-! DEFINITION. Mortar: delivery of messages, training and negotiation, flits and frames, quenches, canopy time (spec/12
R387–R414). -/

namespace Sys2Proof.Machine

/-! ## Messages received -/

/-- Hold a message for this device, or for the failed buddy, until the Mason accepts work. -/
def holdMsg (s : State) (m : Msg) : State := { s with loopq := s.loopq ++ [m] }

/-- While STAGEFULL is 1, the source of a VC1 message is quenched, at most once in 10 µs (spec/12 R401). The STAT bit shows
the full staging area; set by STAT_SET alone it has no effect here (spec/13 R420). -/
def quenchSource (s : State) (src : BitVec 9) : State :=
  if !stageShown s || decide (src = s.devNo) ||
      s.mason.quenched.any (fun q => decide (q.1 = src ∧ s.clk.tb.toNat < q.2.1.toNat + 10000)) then s
  else
    let s := s.modMason (fun m => { m with quenched := m.quenched.filter (fun q => decide (q.1 ≠ src)) ++ [(src, s.clk.tb, true)] })
    s.send 8 src 0 [BitVec.ofNat 64 (2 ^ 63 + 2 ^ 56 + src.toNat * 2 ^ 32 + 20)]

/-- A ticket message (spec/10 R322). No field carries the ring that the ticket was read from, nor, past its first hop, the
device: the free values of log entry 99. The home takes the entry attached where it holds no copy. -/
def ticketIn (s : State) (m : Msg) (tk : Ticket) : State :=
  if masonOpen s then
    let s := recache s ((tKeys tk).headD 0) (m.payload.getD 8 0)
    let fwd := m.arg.toNat % 16
    let ring : Fin 64 := Fin.ofNat 64 (s.freeVal 6).toNat
    let s := s.drew
    let (origin, s) : BitVec 9 × State := if fwd < 2 then (m.src, s) else (s.freeVal 9, s.drew)
    arrive (s.evCount pMason 0x21 1) (newTicket (clearPh tk) origin (some ring) none fwd (some m.src))
  else holdMsg s m

/-- A continuation message (spec/10 R325). -/
def contIn (s : State) (m : Msg) (src : BitVec 9) (course : BitVec 4) (seq : BitVec 48) (tk : Ticket) : State :=
  if masonOpen s then recvCont (s.evCount pMason 0x21 1) src course seq (clearPh tk) m.dst
  else holdMsg s m

/-! ## Canopy time (spec/12 R404–R409) -/

/-- DEV.TSTAT as it stands. -/
def tstat (s : State) : Word := s.reg (ctl pDev 0x188)

/-- This device acts as the canopy root (spec/12 R404). -/
def actsAsRoot (s : State) : Bool := (s.reg (ctl pDev 0x180)).getLsbD 63 && !(tstat s).getLsbD 62

/-- Canopy root, when a TANN has been received or sent. -/
def canopyRoot (s : State) : Option (BitVec 9) :=
  if (tstat s).getLsbD 63 then some (BitVec.ofNat 9 (bitsNat (tstat s) 17 9)) else none

/-- Links whose traffic includes time messages. -/
def timeLinks (s : State) : List LinkId :=
  (List.finRange 16).filter (fun k => decide (linkState s k = 2) && (s.reg (mortReg k 0x100)).getLsbD 41)

/-- A device's time parent (spec/12 R405). -/
def timeParent (s : State) : Option (BitVec 9) :=
  match canopyRoot s with
  | none => none
  | some r =>
    if r = s.devNo then none
    else if r.toNat / 8 = s.devNo.toNat / 8 then some r
    else
      let lower := (grovePeers s).filter (fun d => decide (d < s.devNo) &&
        (timeLinks s).any (fun k => decide ((linkPeer s.devNo k).1 = d) && !linkFr s k))
      match lower.head? with
      | some d => some d
      | none => some r

/-- This device is a grove root: its parent is the canopy root of another grove. -/
def isGroveRoot (s : State) : Bool :=
  match canopyRoot s with
  | none => false
  | some r => decide (r.toNat / 8 ≠ s.devNo.toNat / 8 ∧ timeParent s = some r)

/-- Round `n / d` to the nearest integer, halves away from zero. -/
def roundDiv (n : Int) (d : Nat) : Int := if 0 ≤ n then (2 * n + d) / (2 * d) else -((-2 * n + d) / (2 * d))

/-- Bound a value. -/
def clampInt (x b : Int) : Int := max (-b) (min b x)

/-- Write TADJ, in ppb. -/
def setTadj (s : State) (v : Int) : State :=
  s.setReg (ctl pDev 0x198) (BitVec.ofNat 64 ((BitVec.ofInt 32 v).toNat))

/-- Set TSTATE. -/
def setTstate (s : State) (v : Nat) : State := s.setFld (ctl pDev 0x188) 19 18 v

/-- A TRSP arrives with stamp t4 (spec/12 R406–R408). Half nanoseconds of θ are kept: the numerators are 2θ. -/
def trspIn (s : State) (k : LinkId) (src : BitVec 9) (t1 t2 t3 cq cr t4 : Word) : State :=
  if timeParent s ≠ some src then s
  else
    let up : Int := (t2.toNat : Int) - t1.toNat - cq.toNat
    let dn : Int := (t4.toNat : Int) - t3.toNat - cr.toNat
    let th2 := up - dn
    let s := s.setReg (ctl pDev 0x190) (BitVec.ofInt 64 (Int.tdiv th2 2))
    let s := if (linkPeer s.devNo k).1 = src then
        s.setReg (mortReg k 0x118) (BitVec.ofNat 64 ((Int.tdiv (up + dn) 2).toNat % 65536)) else s
    let freq := clampInt (s.clk.freq + th2 * 1000000) (100000 * 8192)
    let adj := clampInt (roundDiv (freq + th2 * 16000000) 8192) 200000
    let big := decide (20000 < th2.natAbs)
    let tb := if s.clk.seeded && big && (decide (0 < th2) || decide (hwjState s = 0)) then
        BitVec.ofInt 64 ((s.clk.tb.toNat : Int) + Int.tdiv th2 2) else s.clk.tb
    let cnt := if th2.natAbs ≤ 20 then s.clk.lockCount + 1 else 0
    let s := setTadj { s with clk := { s.clk with freq := freq, tb := tb, lockCount := min 8 cnt } } adj
    let s := s.setFld (ctl pDev 0x188) 60 60 0
    let st := bitsNat (tstat s) 19 18
    if 80 < th2.natAbs then setTstate s 1
    else if 8 ≤ cnt then setTstate s 2
    else if st = 2 then s
    else setTstate s 1

/-- A time parent answers TREQ (spec/12 R406). -/
def treqIn (s : State) (src : BitVec 9) (t1 corr : Word) : State :=
  s.send 6 src 0 [t1, s.clk.tb, s.clk.tb, corr, 0]

/-- Put a TANN on every time link but one. -/
def floodTann (s : State) (num : Nat) (root : BitVec 9) (but : Option LinkId) : State :=
  (timeLinks s).foldl (fun s k =>
    if but = some k then s
    else enqueueMsg s k { ty := 7, dst := (linkPeer s.devNo k).1, src := s.devNo, via := none, arg := 0,
                          payload := [BitVec.ofNat 64 (num * 2 ^ 16 + root.toNat)] }) s

/-- A TANN arrives (spec/12 R404). -/
def tannIn (s : State) (k : LinkId) (num : Nat) (root : BitVec 9) : State :=
  let croot := (s.reg (ctl pDev 0x180)).getLsbD 63
  let s := if croot && decide (root < s.devNo) then s.setFld (ctl pDev 0x188) 62 62 1 else s
  let lost := (tstat s).getLsbD 61
  let s := s.setFld (ctl pDev 0x188) 61 61 0
  let mine := croot && decide (s.devNo ≤ root)
  let s := if mine then
      (if (canopyRoot s).isSome then s
       else (s.setFld (ctl pDev 0x188) 17 9 s.devNo.toNat).setFld (ctl pDev 0x188) 63 63 1)
    else match canopyRoot s with
      | some r => if root ≤ r ∨ lost then s.setFld (ctl pDev 0x188) 17 9 root.toNat else s
      | none => (s.setFld (ctl pDev 0x188) 17 9 root.toNat).setFld (ctl pDev 0x188) 63 63 1
  if s.clk.lastTann < num then
    floodTann { s with clk := { s.clk with lastTann := num } } num root (some k)
  else s

/-- The canopy root announces itself (spec/12 R404). -/
def tannOut (s : State) : State :=
  if actsAsRoot s then
    let num := s.clk.lastTann + 1
    let s := (s.setFld (ctl pDev 0x188) 17 9 s.devNo.toNat).setFld (ctl pDev 0x188) 63 63 1
    floodTann { s with clk := { s.clk with lastTann := num } } num s.devNo none
  else s

/-- A child asks its parent (spec/12 R406). -/
def treqOut (s : State) : State :=
  match timeParent s with
  | some p => s.send 5 p 0 [s.clk.tb, 0]
  | none => s

/-- Enter HOLDOVER (spec/12 R409). -/
def holdover (s : State) : State :=
  let s := setTadj s (clampInt (roundDiv s.clk.freq 8192) 200000)
  setTstate (s.setFld (ctl pDev 0x188) 60 60 1) 3

/-- No TRSP for 1 ms. -/
def trspLost (s : State) : State := if (timeParent s).isSome then holdover s else s

/-- No TANN for 4,096 µs (spec/12 R409): the device that sends them hears none. -/
def rootLost (s : State) : State :=
  if actsAsRoot s then s else
  let s := s.setFld (ctl pDev 0x188) 61 61 1
  if isGroveRoot s then holdover s else s

/-! ## Quenches (spec/12 R400) -/

/-- Try every link again. -/
def pumpAll (s : State) : State :=
  (List.finRange 16).foldl pumpLink s

/-- A quench arrives: end-to-end, or of the link. -/
def quenchIn (s : State) (k : LinkId) (src : BitVec 9) (w : Word) : State :=
  let vcs := bitsNat w 58 56
  if w.getLsbD 63 then
    { s with e2e := s.e2e.filter (fun q => decide (q.1 ≠ src)) ++ [(src, BitVec.ofNat 3 vcs, bitsNat w 15 0)] }
  else
    ((s.setReg (mortReg k 0x120) (BitVec.ofNat 64 (2 ^ 63 + vcs * 2 ^ 56 + bitsNat w 15 0))).raise (pMort + k.val) 4).modLink k
      (fun l => { l with qEnd := s.clk.tb.toNat + 1000 * bitsNat w 15 0 })

/-- An end-to-end quench ends (`some src`), or the link's. -/
def quenchEnd (s : State) (k : LinkId) (src : Option (BitVec 9)) : State :=
  pumpAll (match src with
    | some d => { s with e2e := s.e2e.filter (fun q => decide (q.1 ≠ d)) }
    | none => s.setReg (mortReg k 0x120) 0)

/-- UNQUENCH arrives. -/
def unquenchIn (s : State) (k : LinkId) (src : BitVec 9) (w : Word) : State :=
  quenchEnd s k (if w.getLsbD 63 then some src else none)

/-! ## Delivery -/

/-- A message for this device has its effect (spec/12 Table 12-9), arriving on link `k`; `none` for its own; the source
of a VC1 message may be quenched (R401). -/
def deliver (s : State) (k : Option LinkId) (m : Msg) : State :=
  let ty := m.ty.toNat
  let p := m.payload
  let w (i : Nat) : Word := p.getD i 0
  let k' : LinkId := k.getD 0
  let s := if vcOf ty = 1 ∧ k.isSome then quenchSource s m.src else s
  match ty with
    | 0x01 => hbIn s m.src (w 1) (Vector.ofFn (fun i => w (2 + i.val)))
    | 0x02 => breakIn s m.src
    | 0x03 => fenceIn s m.src
    | 0x04 => tkovIn s (BitVec.ofNat 9 (bitsNat (w 0) 17 9)) (BitVec.ofNat 9 (bitsNat (w 0) 8 0))
    | 0x05 => treqIn s m.src (w 0) (w 1)
    | 0x06 => trspIn s k' m.src (w 0) (w 1) (w 2) (w 3) (w 4) s.clk.tb
    | 0x07 => tannIn s k' (bitsNat (w 0) 63 16) (BitVec.ofNat 9 (bitsNat (w 0) 8 0))
    | 0x08 => quenchIn s k' m.src (w 0)
    | 0x09 => unquenchIn s k' m.src (w 0)
    | 0x10 => ticketIn s m (fromT2 p)
    | 0x11 => contIn s m (BitVec.ofNat 9 (bitsNat (w 8) 63 55)) (BitVec.ofNat 4 (bitsNat (w 8) 54 51))
        (BitVec.ofNat 48 (bitsNat (w 8) 47 0)) (fromT2 p)
    | 0x12 =>
      let d := BitVec.ofNat 9 (bitsNat (w 0) 63 55)
      let c := BitVec.ofNat 4 (bitsNat (w 0) 54 51)
      let q := BitVec.ofNat 48 (bitsNat (w 0) 47 0)
      cackIn s m.dst d c q
    | 0x13 => recvVoid s m.src (BitVec.ofNat 4 (bitsNat (w 0) 54 51)) (BitVec.ofNat 48 (bitsNat (w 0) 47 0)) m.dst
    | 0x14 => brickCmd s m.src (w 0) (bcmdOfWords p)
    | 0x15 => migStep s m.src (migOfWords p)
    | 0x16 => endMark s m.src (w 0)
    | 0x20 => mrecIn s m.src (p.flatMap (fun x => beBytes 8 x.toNat))
    | 0x21 => mackIn s m.src (w 0)
    | 0x22 => drepIn s m.src (w 0).toNat (w 1) (w 2)
    | 0x23 => dackIn s m.src (w 0).toNat
    | 0x30 => brickCopyIn s m.src (w 0) ((p.drop 1).flatMap (fun x => beBytes 8 x.toNat))
    | 0x31 => if vc2Open s m.src then resyncIn s m.src (w 0) ((p.drop 1).flatMap (fun x => beBytes 8 x.toNat)) else s
    | _ => s

/-- The device's messages to itself take effect; a message that must wait goes to the end. -/
def deliverLoop : Nat → State → State
  | 0, s => s
  | f + 1, s =>
    match s.loopq with
    | [] => s
    | m :: rest => deliverLoop f (deliver { s with loopq := rest } none m)

/-- Time messages gain the residence of each device that forwards them; the stamps are finer than the model's time, so
the addition is a free value (spec/12 R406; log entry 29). -/
def addCorr (s : State) (m : Msg) : Msg × State :=
  let add (i : Nat) : Msg × State :=
    ({ m with payload := m.payload.set i (m.payload.getD i 0 + s.freeVal 64) }, s.drew)
  if m.ty = 5 then add 1 else if m.ty = 6 then add 4 else (m, s)

/-- A ticket leaves a link in format T2 (spec/12 R412). -/
def offLink (m : Msg) : Msg :=
  if m.ty = 0x10 ∧ m.payload.length < 8 then { m with payload := ticketWords (fromT1 m.payload) } else m

/-- A whole message received on a link: checked, delivered, or sent on (spec/12 R394, R402); at its waypoint it gets no
second one. Messages of a device that has been taken over are discarded on VC1 to VC3 (spec/11 R380). -/
def receiveMsg (s : State) (k : LinkId) (m : Msg) : State :=
  if vcOf m.ty.toNat ≠ 0 ∧ aliasOf s m.src ≠ m.src then s
  else if !msgType m.ty.toNat || !linkCarries s k m || (linkFr s k && decide (2 ≤ (vcOf m.ty.toNat).val)) then
    dropMsg s k (vcOf m.ty.toNat).val
  else
    let seen := decide (m.via = some s.devNo)
    let m := offLink (if seen then { m with via := none } else m)
    if m.via.isNone ∧ (m.dst = s.devNo ∨ aliasOf s m.dst = s.devNo) then deliver s (some k) m
    else
      let (m, s) := addCorr s m
      routeVia s m seen

/-- Read a message from its words. -/
def msgOfWords (ws : List Word) : Msg :=
  let h := ws.headD 0
  { ty := BitVec.ofNat 8 (bitsNat h 63 56), dst := BitVec.ofNat 9 (bitsNat h 55 47), src := BitVec.ofNat 9 (bitsNat h 46 38),
    via := if h.getLsbD 25 then some (BitVec.ofNat 9 (bitsNat h 24 16)) else none, arg := BitVec.ofNat 16 (bitsNat h 15 0),
    payload := ws.drop 1 }

/-- Take the whole messages out of the words of a VC (spec/12 R393): what is left is a message not yet complete, and the
words of padding. -/
def takeMsgs (k : LinkId) : Nat → List Word → State → List Word × Nat × State
  | 0, ws, s => (ws, 0, s)
  | f + 1, ws, s =>
    match ws with
    | [] => ([], 0, s)
    | h :: _ =>
      let len := bitsNat h 37 26
      if bitsNat h 63 56 = 0 ∨ len = 0 then ([], ws.length, s)
      else if ws.length < len then (ws, 0, s)
      else takeMsgs k f (ws.drop len) (receiveMsg s k (msgOfWords (ws.take len)))

/-- Words of a VC arrive. The words of messages are owed back as credits, on M1 in blocks of 256 bytes (spec/12 R396,
R399). -/
def rxWords (s : State) (k : LinkId) (vc : Fin 4) (ws : List Word) : State :=
  let all := (s.link k).rx.get vc ++ ws
  let m2 := linkM2 s k
  let (left, pad, s) := takeMsgs k all.length all s
  let n := ws.length - pad
  s.modLink k (fun l =>
    { l with rx := l.rx.set vc left, owed := l.owed.set vc (l.owed.get vc + if m2 then n else ceilDiv n 32) })

/-! ## Link states (spec/12 R390–R392, R410) -/

/-- Set LSTAT.STATE. -/
def setLink (s : State) (k : LinkId) (n : Nat) : State := s.setFld (mortReg k 0x100) 2 0 n

/-- Enter TRAIN (spec/12 Sequence 12-4): LCTL as it stands now takes effect (R413). -/
def startTrain (s : State) (k : LinkId) (again : Bool) : State :=
  let c := s.reg (mortReg k 0x108)
  let s := (setLink s k 1).setFld (mortReg k 0x100) 11 8 0
  s.modLink k (fun l =>
    { l with step := .detect, negoCount := 0, lastNego := 0, allowM1 := c.getLsbD 62, verifyTries := 0, retryFull := again,
             foffer := BitVec.ofNat 6 (bitsNat c 13 8), errThr := bitsNat c 7 0, refused := 0,
             crcTimes := [], rx := Vector.replicate 4 [] })

/-- The messages of a link that leaves UP for good: those of the replay buffer, and those sent in part, are lost; the others
are routed again (spec/12 R398, R410). On M1 nothing tells which of the last frames had arrived: a free value says how many
had not (log entry 112). One that has had its waypoint here gets no second (R402). -/
def flushLink (s : State) (k : LinkId) : State :=
  let l := s.link k
  let m2 := linkM2 s k
  let n := if m2 then 0 else (s.freeVal 9).toNat % (l.replay.length + 1)
  let s := if m2 then s else s.drew
  let gone := if m2 then l.replay else l.replay.drop (l.replay.length - n)
  let s := s.modLink k (fun l =>
    { l with tx := [], part := Vector.replicate 4 0, partDst := Vector.replicate 4 0, replay := [], nextSeq := 0, rxSeq := 0,
             nakOwed := false, nakWait := false, credit := Vector.replicate 4 0, owed := Vector.replicate 4 0 })
  let s := gone.foldl (fun s q => (List.range q.ends).foldl (fun s _ => dropMsg s k q.vc.val) s) s
  let s := (List.finRange 4).foldl (fun s vc => if l.part.get vc = 0 then s else dropMsg s k vc.val) s
  l.tx.foldl (fun s m => routeVia s { m with routed := false } m.routed) s

/-- A link fails with a cause (spec/12 R392, Map 12-12). -/
def failLink (s : State) (k : LinkId) (cause : Nat) : State :=
  let s := ((setLink s k 4).setFld (mortReg k 0x100) 11 8 cause).raise (pMort + k.val) 0
  if cause = 2 ∨ cause = 3 then s.raise (pMort + k.val) 6 else s

/-- A training step reaches its limit (spec/12 Sequence 12-4, R391, R410). Nothing outside shows when steps 1, 2 and 5 end,
so a limit of a step says that those before it have ended (log entry 119). -/
def trainLimit (s : State) (k : LinkId) (step : TrainStep) : State :=
  let l := s.link k
  let early := decide (l.step = .detect ∨ l.step = .nrz)
  if linkState s k = 3 then
    startTrain ((flushLink (setLink s k 1) k).raise (pMort + k.val) 0) k true
  else if linkState s k ≠ 1 then s
  else match step with
    | .detect => if l.step = .detect then failLink s k 1 else s
    | .nrz => if early then failLink s k 7 else s
    | .nego => if early || decide (l.step = .nego) then failLink s k 7 else s
    | .eq =>
      if l.step ≠ .eq then s
      else if l.allowM1 && l.lastNego.getLsbD 72 then
        ((s.setFld (mortReg k 0x100) 32 32 0).raise (pMort + k.val) 7).modLink k (fun l => { l with step := .verify })
      else failLink s k 5
    | .verify =>
      if l.step ≠ .eq ∧ l.step ≠ .verify then s
      else if l.verifyTries < 2 then s.modLink k (fun l => { l with step := .verify, verifyTries := l.verifyTries + 1 })
      else failLink s k 6

/-- A NEGO is well formed: MAGIC and CRC (spec/12 Layout 12-5). -/
def negoOk (n : BitVec 128) : Bool :=
  decide (bitsNat n 127 112 = 0x4D4E) && decide (crc32 ((beBytes 16 n.toNat).take 12) = BitVec.ofNat 32 (bitsNat n 31 0))

/-- Step 4: checks and choice (spec/12 R391, R392). -/
def negotiate (s : State) (k : LinkId) (n : BitVec 128) : State :=
  let part := bitsNat n 111 96
  let plink := bitsNat n 94 91
  let pdev := BitVec.ofNat 9 (bitsNat n 90 82)
  let proto := bitsNat n 73 72
  let tfmt := bitsNat n 71 64
  let feat := bitsNat n 57 52
  let want := linkPeer s.devNo k
  let l := s.link k
  let m1 := decide (part = 0x3100) || l.allowM1
  if pdev = s.devNo then failLink s k 2
  else if pdev ≠ want.1 ∨ (part = 0x5200 ∧ plink ≠ want.2) then failLink s k 3
  else if (proto / 2 % 2 = 0 ∧ !(m1 && decide (proto % 2 = 1))) ∨ tfmt % 4 = 0 then failLink s k 4
  else
    let m2 := decide (proto / 2 % 2 = 1)
    let t2 := decide (tfmt / 2 % 2 = 1)
    let f := l.foffer.toNat &&& feat
    let s := ((s.setFld (mortReg k 0x100) 32 32 (b2n m2)).setFld (mortReg k 0x100) 33 33 (b2n t2)).setFld (mortReg k 0x100) 45 40 f
    let s := if !m2 || !t2 || decide (f ≠ l.foffer.toNat) then s.raise (pMort + k.val) 7 else s
    s.modLink k (fun l => { l with step := if m2 then .eq else .verify })

/-- A NEGO arrives during training (spec/12 Sequence 12-4, step 3). -/
def negoIn (s : State) (k : LinkId) (n : BitVec 128) : State :=
  if linkState s k ≠ 1 ∨ !negoOk n then s
  else
    let s := s.setFld (mortReg k 0x100) 63 49
      (2 ^ 14 + b2n (decide (bitsNat n 111 96 = 0x3100)) * 2 ^ 13 + bitsNat n 94 91 * 2 ^ 9 + bitsNat n 90 82)
    let l := s.link k
    match l.step with
    | .eq | .verify => s
    | _ =>
      let cnt := if n.getLsbD 95 then (if l.lastNego = n then l.negoCount + 1 else 1) else 0
      let s := s.modLink k (fun l => { l with lastNego := n, negoCount := cnt, step := .nego })
      if 3 ≤ cnt then negotiate s k n else s

/-- Receive buffers that the peer grants (spec/12 Table 12-10): in words, on M1 in blocks of 256 bytes. -/
def fullCredit (m2 : Bool) : Vector Nat 4 :=
  if m2 then Vector.ofFn (fun i => if i.val = 0 then 512 else if i.val = 1 then 2048 else 4096)
  else Vector.replicate 4 1024

/-- Flits or frames of the replay buffer are sent again (spec/12 R395, R410): on M1, where nothing is acknowledged, all of the last
256 frames (log entry 112). -/
def resendAll (s : State) (k : LinkId) : State :=
  (s.link k).replay.foldl (fun s q =>
    (s.incSat (mortReg k 0x128) 48 1).evCountQ (pMort + k.val) 0x24 (fun x => decide (x = 0 ∨ x = 8 + q.vc.val)) 1) s

/-- The first time exchange over a link that has come up: where the parent lies behind it (spec/12 Sequence 12-4, step 7). -/
def firstExchange (s : State) (k : LinkId) : State :=
  match timeParent s with
  | some p => if nexthop s.devNo (aliasOf s p) = k ∧ linkFeat s k 5 then treqOut s else s
  | none => s

/-- Training or retraining completes: the link enters UP (spec/12 R390, R396, R410). -/
def linkUpOp (s : State) (k : LinkId) : State :=
  let l := s.link k
  let up (s : State) : State := pumpAll ((setLink s k 2).raise (pMort + k.val) 1)
  if linkState s k = 3 then
    up ((resendAll s k).modLink k (fun l => { l with refused := 0, crcTimes := [], nakWait := false }))
  else if linkState s k = 1 ∧ (l.step = .eq ∨ l.step = .verify) then
    firstExchange (up (s.modLink k (fun l =>
      { l with credit := fullCredit (linkM2 s k), owed := Vector.replicate 4 0, nextSeq := 0, rxSeq := 0, nakOwed := false,
               nakWait := false, replay := [], part := Vector.replicate 4 0, rx := Vector.replicate 4 [],
               retryFull := false }))) k
  else s

/-- A TRAIN or RETRAIN command is done once its link has left TRAIN and RETRAIN (spec/13 R422). -/
def mortCmdEnds (s : State) (k : LinkId) : State :=
  let p := pMort + k.val
  let c := s.reg (ctl p 0xF8)
  if bitsNat c 7 0 = 1 ∧ linkState s k ≠ 1 ∧ linkState s k ≠ 3 then s.cmdDone p 2 else s

/-- Enter RETRAIN (spec/12 R410). -/
def enterRetrain (s : State) (k : LinkId) : State :=
  if linkState s k = 2 then
    (((setLink s k 3).incSat (mortReg k 0x130) 48 1).raise (pMort + k.val) 2).modLink k (fun l => { l with step := .nrz, verifyTries := 0 })
  else s

/-- A flit or frame is refused for its CRC (spec/12 R395, R410): the errors of the last 1 ms are counted. -/
def crcBad (s : State) (k : LinkId) : State :=
  let s := s.raise (pMort + k.val) 3
  let now := s.clk.tb.toNat
  let s := s.modLink k (fun l =>
    { l with nakOwed := true, nakWait := true, refused := l.refused + 1,
             crcTimes := now :: l.crcTimes.filter (fun t => decide (now < t + 1000000)) })
  let l := s.link k
  if 8 ≤ l.refused ∨ l.errThr < l.crcTimes.length then enterRetrain s k else s

/-- Acknowledged flits leave the replay buffer (spec/12 R395): those up to ACKSEQ, the oldest first. Of 256 outstanding flits
the last one's number stands for none. -/
def ackFlits (s : State) (k : LinkId) (ack : Nat) : State :=
  s.modLink k (fun l =>
    match l.replay with
    | [] => l
    | q :: _ =>
      let n := (ack + 257 - q.seq.toNat) % 256
      if n ≤ l.replay.length then { l with replay := l.replay.drop n } else l)

/-- A flit of an M2 link (spec/12 Layout 12-7, R393–R396). -/
def flitIn (s : State) (k : LinkId) (raw : BitVec 2048) : State :=
  let bs := beBytes 256 raw.toNat
  let h := BitVec.ofNat 64 (ofBytes (bs.take 8))
  let crc := crc32 (bs.take 4 ++ List.replicate 4 0 ++ bs.drop 8)
  if crc ≠ BitVec.ofNat 32 (bitsNat h 31 0) then crcBad s k
  else if bitsNat h 61 54 ≠ (s.link k).rxSeq.toNat then s
  else
    let vc : Fin 4 := Fin.ofNat 4 (bitsNat h 63 62)
    let cr : Fin 4 := Fin.ofNat 4 (bitsNat h 44 43)
    let s := s.evCountQ (pMort + k.val) 0x21 (fun x => decide (x = 0 ∨ x = 8 + vc.val)) 1
    let s := s.modLink k (fun l =>
      { l with rxSeq := l.rxSeq + 1, refused := 0, nakWait := false, credit := l.credit.set cr (l.credit.get cr + bitsNat h 42 32) })
    let s := ackFlits s k (bitsNat h 53 46)
    let s := if h.getLsbD 45 then resendAll s k else s
    pumpLink (rxWords s k vc (wordsOf (bs.drop 8))) k

/-- A unit received on an UP link (spec/12 R395, R399). -/
def unitIn (s : State) (k : LinkId) (u : RxUnit) : State :=
  if linkState s k ≠ 2 then s
  else match u with
    | .flit raw => if (s.reg (mortReg k 0x100)).getLsbD 32 then flitIn s k raw else s
    | .frame ok vc ws cv cc =>
      if (s.reg (mortReg k 0x100)).getLsbD 32 then s
      else if !ok then crcBad s k
      else
        let v : Fin 4 := vc.toFin
        let s := s.evCountQ (pMort + k.val) 0x21 (fun x => decide (x = 0 ∨ x = 8 + v.val)) 1
        let s := s.modLink k (fun l =>
          { l with refused := 0, credit := l.credit.set (cv.toFin : Fin 4) (l.credit.get (cv.toFin : Fin 4) + cc) })
        pumpLink (rxWords s k v ws) k

/-! ## MORT commands (spec/12 Table 12-15) -/

/-- A command of a MORT page is allowed in a state. TRAIN also needs PLACE.SET (R390). -/
def mortAllows (s : State) (k : LinkId) (code : Nat) : Bool :=
  let st := linkState s k
  match code with
  | 1 => (st == 0 || st == 4) && s.placeSet
  | 2 => st != 0
  | 4 => st == 0
  | _ => st == 2

/-- DOWN: the link enters OFF; its messages as after a failed retrain. -/
def linkDown (s : State) (k : LinkId) : State :=
  let was := linkState s k
  let s := flushLink (setLink s k 0) k
  if was = 2 ∨ was = 3 then s.raise (pMort + k.val) 0 else s

/-- QUENCH and UNQUENCH (spec/12 R400, R401, R414). -/
def quenchCmd (s : State) (k : LinkId) (code : Nat) : State :=
  let w := s.reg (mortReg k 0x140)
  let tgt := BitVec.ofNat 9 (bitsNat w 40 32)
  let known := s.mason.pmap.toList.contains tgt || staticHome s tgt
  let p := pMort + k.val
  if bitsNat w 58 56 = 0 ∨ (bitsNat w 15 0 = 0) ∨ (w.getLsbD 63 ∧ !known) then s.cmdDone p 0x0B
  else
    let dst := if w.getLsbD 63 then tgt else (linkPeer s.devNo k).1
    (s.send (if code = 5 then 8 else 9) dst 0 [w]).cmdDone p 2

/-- The effect of an accepted MORT command. TRAIN and RETRAIN stay busy until the link leaves those states (`mortCmdEnds`). -/
def mortRun (k : LinkId) (code : Nat) (s : State) : State :=
  let p := pMort + k.val
  match code with
  | 1 => startTrain s k false
  | 2 => (linkDown s k).cmdDone p 2
  | 3 => enterRetrain s k
  | 4 => (setLink s k 5).cmdDone p 2
  | _ => quenchCmd s k code

/-- A CMD write of a MORT page (spec/12 R414). -/
def mortCmd (s : State) (src : Nat) (k : LinkId) (code : Nat) : State :=
  s.command (pMort + k.val) src code (inRange code 1 6) (mortAllows s k code) (linkState s k) (mortRun k code)

/-- A link with AUTO = 1 leaves OFF for TRAIN (spec/12 R390). -/
def autoTrain (s : State) (k : LinkId) : State :=
  if linkState s k = 0 ∧ s.placeSet ∧ (s.reg (mortReg k 0x108)).getLsbD 63 then startTrain s k false else s

/-- A link that failed with NOSIG trains again (spec/12 R392). -/
def nosigAgain (s : State) (k : LinkId) : State :=
  if linkState s k = 4 ∧ s.fld (mortReg k 0x100) 11 8 = 1 ∧ (s.reg (mortReg k 0x108)).getLsbD 63 then startTrain s k false else s

end Sys2Proof.Machine
end

