-- ==== Sys2Proof/Machine/Replay.lean ====
section
/-! DEFINITION. Replay of a recording on a course (spec/14 R445–R448) and the RINGS commands (spec/14 Table 14-5). -/

namespace Sys2Proof.Machine

/-- RTYPE, TILE, LEN in bytes and ICNT of the record at a position. -/
def recHead (s : State) (c : CourseId) (p : Nat) : Nat × Nat × Nat × Nat :=
  let w := s.dword (ringsAddr s c p)
  (bitsNat w 63 56, bitsNat w 55 53, bitsNat w 52 41 * 16, bitsNat w 39 0)

/-- Payload word `i` of a record. -/
def recWord (s : State) (c : CourseId) (p i : Nat) : Word := s.dword (ringsAddr s c (p + 16 + 8 * i))

/-- A record meets Layout 14-1. -/
def recOk (s : State) (c : CourseId) (p lim : Nat) : Bool :=
  let h := recHead s c p
  inRange h.1 1 0x0F && decide (h.2.2.1 ≠ 0 ∧ p + h.2.2.1 ≤ lim) && !(s.dword (ringsAddr s c p)).getLsbD 40

/-- Where a search through the records ends. -/
inductive Scan where
  | found (p : Nat) | used (p : Nat) | bad (p : Nat)
  deriving DecidableEq, Repr

/-- The first record from `p` that `q` accepts; a GAP or a malformed record ends the search (spec/14 R447). -/
def scanRec (s : State) (c : CourseId) (q : Nat → Bool) (lim : Nat) : Nat → Nat → Scan
  | 0, p => .used p
  | f + 1, p =>
    if lim ≤ p then .used p
    else if !recOk s c p lim ∨ (recHead s c p).1 = 0x0D then .bad p
    else if q p then .found p
    else scanRec s c q lim f (p + (recHead s c p).2.2.1)

/-- HEAD: the end of the records under replay. -/
def replayLim (s : State) (c : CourseId) : Nat := (s.reg (ringsReg c 0x128)).toNat

/-- Search from a position to the end of the records. -/
def scanFrom (s : State) (c : CourseId) (p : Nat) (q : Nat → Bool) : Scan := scanRec s c q (replayLim s c) (2 ^ 26) p

/-- TID being replayed. -/
def rtid (s : State) (c : CourseId) : Nat := s.fld (ringsReg c 0x188) 31 0

/-- The ticket record of the replayed ticket leaves. -/
def dropReplayed (s : State) (t : TileId) : State :=
  match (s.tile t).tk.bind (ticketOf s) with
  | some k => dropTicket (freeTicketSlot s k) k.arrival
  | none => s

/-- The tile of a replay gives up its ticket and idles; one in checkstop stays there (spec/08 R260). -/
def replayLeaves (s : State) (c : CourseId) : State :=
  match (s.course c).rings.rTile with
  | some t =>
    let s := dropReplayed s t
    if (s.tile t).run = .checkstop then s.modTile t (fun x => { x with tk := none }) else idle s t
  | none => s

/-- Replay ends with a result at a record (spec/14 R447). -/
def replayEnd (s : State) (c : CourseId) (result pos : Nat) : State :=
  let s := replayLeaves s c
  let s := s.modRings c (fun r => { r with rTile := none })
  let s := (s.setFld (ringsReg c 0x180) 63 56 result).setFld (ringsReg c 0x180) 47 0 pos
  let s := (s.setFld (ringsReg c 0x100) 2 0 4).raise (pRings + c.val) 4
  if result = 2 then s.raise (pRings + c.val) 5 else s

/-- The replay frame of a key. -/
def replayFrame (s : State) (c : CourseId) (key : Nat) : Option Nat :=
  ((s.course c).rings.rFrames.find? (fun q => decide (q.1 = key))).map Prod.snd

/-- A BRICKIN: load a new replay frame, or compare (spec/14 R445, R446). -/
def brickIn (s : State) (c : CourseId) (p : Nat) : State :=
  let key := (recWord s c p 0).toNat
  let data := s.bytes (ringsAddr s c (p + 32)) 4096
  match replayFrame s c key with
  | some f => if s.bytes f 4096 = data then s else replayEnd s c 2 p
  | none =>
    let f := s.fld (ringsReg c 0x170) 47 12 * 4096 + 4096 * (s.course c).rings.rNext
    if s.fld (ringsReg c 0x178) 47 12 * 4096 < f then replayEnd s c 3 p
    else
      (s.setBytes f data).modRings c (fun r => { r with rFrames := r.rFrames ++ [(key, f)], rNext := r.rNext + 1 })

/-- The bank of a SESSIN: a session is in one bank of the device at most (spec/02 R54), so what else holds it, and what the bank
held, is spilled. -/
def loadSessin (s : State) (t : TileId) (bank : Fin 16) (sess : BitVec 18) (b : Bank) : State :=
  let s := match residentAt s sess with
    | some (t', b') => if t' = t ∧ b' = bank then s else spillBank (spillBank s t' b') t bank
    | none => spillBank s t bank
  s.modTile t (fun x => x.putBank bank { b with fresh := false })

/-- The result with which a replay ends that finds none of the records it needs: all used up, a GAP or a malformed record, or a
record that disagrees (spec/14 R446, R447). -/
def scanEnd (s : State) (c : CourseId) : Scan → State
  | .used q => replayEnd s c 1 q
  | .bad q => replayEnd s c 4 q
  | .found q => replayEnd s c 2 q

/-- The SESSIN and BRICKIN records that follow a DISPATCH: where the next record stands, and what the search for it found. -/
def dispatchInputs (c : CourseId) (t : TileId) (bank : Fin 16) (sess : BitVec 18) : Nat → Nat → State → Nat × Scan × State
  | 0, p, s => (p, .used p, s)
  | f + 1, p, s =>
    if !s.replaying t then (p, .used p, s)
    else match scanFrom s c p (fun q => decide ((recHead s c q).2.1 = t.val % 8) && !inRange (recHead s c q).1 0x0D 0x0F) with
      | .found q =>
        let ty := (recHead s c q).1
        let nxt := q + (recHead s c q).2.2.1
        if ty = 3 then
          let s := match bankFromMem s (ringsAddr s c (q + 32)) sess with
            | some b => loadSessin s t bank sess b
            | none => replayEnd s c 4 q
          dispatchInputs c t bank sess f nxt s
        else if ty = 4 then dispatchInputs c t bank sess f nxt (brickIn s c q)
        else (p, .found q, s)
      | r => (p, r, s)

/-- The record is of the tile's Ledger-level execution: Steward code does not run in replay, so what it recorded (STW = 1, and
every CALREAD) is passed over (spec/14 R445, Table 14-7). -/
def ledgerRec (s : State) (c : CourseId) (q : Nat) : Bool :=
  match (recHead s c q).1 with
  | 6 => false
  | 5 | 7 => !(recWord s c q 0).getLsbD 56
  | _ => true

/-- The tile's next record: KLOAD, MARK, CKPT and PAD records and those of Steward level apart. -/
def nextTileRec (s : State) (t : TileId) : Scan :=
  let c := courseOf t
  scanFrom s c (s.course c).rings.rPos (fun q =>
    decide ((recHead s c q).2.1 = t.val % 8) && !([1, 8, 0x0E, 0x0F].contains (recHead s c q).1) &&
      ledgerRec s c q)

/-- Take the tile's next record when it is of a type and `ok`; otherwise the replay diverges there, or ends where no record is left
(spec/14 R446, R447). -/
def takeRec (s : State) (t : TileId) (ty : Nat) (ok : Nat → Bool) : Option Nat × State :=
  let c := courseOf t
  match nextTileRec s t with
  | .found q =>
    if (recHead s c q).1 = ty ∧ ok q then (some q, s.modRings c (fun r => { r with rPos := q + (recHead s c q).2.2.1 }))
    else (none, replayEnd s c 2 q)
  | r => (none, scanEnd s c r)

/-- PC and ICNT of a record agree with the tile. -/
def atRec (s : State) (t : TileId) (pcWord : Nat) (q : Nat) : Bool :=
  let c := courseOf t
  decide (bitsNat (recWord s c q pcWord) 47 0 = (s.tile t).pc.toNat % 2 ^ 48 ∧ (recHead s c q).2.2.2 = (s.tile t).icnt % 2 ^ 40)

/-- MFSYS of TB in replay. -/
def replayTb (s : State) (t : TileId) : Option Word × State :=
  match takeRec s t 5 (atRec s t 0) with
  | (some q, s) => (some (recWord s (courseOf t) q 1), s)
  | (none, s) => (none, s)

/-- A load of recorded memory in replay: `n` bytes, in records of at most 64. -/
def replayLoad (t : TileId) : Nat → Nat → State → Option (List Byte) × State
  | 0, _, s => (some [], s)
  | f + 1, n, s =>
    if n = 0 then (some [], s)
    else
      let c := courseOf t
      let k := min n 64
      match takeRec s t 7 (fun q => atRec s t 0 q && decide (bitsNat (recWord s c q 0) 63 57 = k)) with
      | (some q, s) =>
        let bs := s.bytes (ringsAddr s c (q + 32)) k
        match replayLoad t f (n - k) s with
        | (some r, s) => (some (bs ++ r), s)
        | (none, s) => (none, s)
      | (none, s) => (none, s)

/-- Code and subcode of the entry that an INTR or XENT records. One that ended in a STACKFAULT has them in ORIG of its FINFO
(spec/08 Layout 8-7): the frame pushes of Steward level are no part of a replay. -/
def recCause (s : State) (c : CourseId) (q : Nat) : Nat × Nat :=
  let w := recWord s c q 1
  let w := if bitsNat w 15 8 = 0x20 then recWord s c q 3 else w
  (bitsNat w 15 8, bitsNat w 7 0)

/-- The fault that the replayed Kiln holds agrees with an entry's record: subcode, FADDR and FINFO with its DISC (spec/14 R445,
R446). -/
def sameKiln (s : State) (t : TileId) (q : Nat) : Bool :=
  let c := courseOf t
  match (s.tile t).kiln.fault with
  | some k => decide (k.sub.toNat = (recCause s c q).2) &&
      (decide (bitsNat (recWord s c q 1) 15 8 = 0x20) || decide (k.faddr = recWord s c q 2 ∧ k.finfo = recWord s c q 3))
  | none => false

/-- Apply the next RESUME of the tile: bank and PC (spec/14 R445). -/
def replayResume (s : State) (t : TileId) : State :=
  let c := courseOf t
  match takeRec s t 0x0B (fun _ => true) with
  | (some q, s) =>
    match bankFromMem s (ringsAddr s c (q + 32)) (((s.tile t).cur.sess).getD 0) with
    | some b =>
      s.modTile t (fun x =>
        { x.modBank (fun o => { b with sess := o.sess, used := o.used, fresh := false }) with
          pc := BitVec.ofNat 64 (bitsNat (recWord s c q 0) 47 0), run := .running })
    | none => replayEnd s c 4 q
  | (none, s) => s

/-- INTR records whose point the tile has reached are applied (spec/14 R445, R446). -/
def replayIntr (t : TileId) : Nat → State → State
  | 0, s => s
  | f + 1, s =>
    if !s.replaying t ∨ (s.course (courseOf t)).rings.rTile ≠ some t then s
    else
      let c := courseOf t
      match nextTileRec s t with
      | .found q =>
        let x := s.tile t
        if (recHead s c q).1 = 9 ∧ atRec s t 0 q ∧ bitsNat (recWord s c q 0) 63 56 = satNat 8 x.units then
          let code := (recCause s c q).1
          if code = 0x10 ∧ !sameKiln s t q then replayEnd s c 2 q
          else
            let s := s.modRings c (fun r => { r with rPos := q + (recHead s c q).2.2.1 })
            let s := if code = 0x10 then s.modTile t (fun x => { x with kiln := { x.kiln with fault := none } }) else s
            replayIntr t f (replayResume s t)
        else s
      | _ => s

/-- Replay the DISPATCH at position `p` (spec/14 R445). A tile in checkstop takes no dispatch: the replay diverges there (spec/08
R260; log entry 123). Interrupts accepted before the first instruction are applied at once. -/
def replayDispatch (s : State) (c : CourseId) (p : Nat) : State :=
  let t := courseTile c (Fin.ofNat 8 (recHead s c p).2.1)
  if (s.tile t).run = .checkstop then replayEnd s c 2 p
  else
  let w0 := recWord s c p 0
  let raw : Ticket := BitVec.ofNat 512 (s.memNat (ringsAddr s c (p + 32)) 64)
  let bank : Fin 16 := Fin.ofNat 16 (bitsNat w0 28 25)
  let sess := BitVec.ofNat 18 (bitsNat w0 17 0)
  let rq := s.dword (ringsAddr s c (p + 96))
  let s := s.setFld (ringsReg c 0x188) 31 0 (bitsNat w0 63 32)
  let s := s.modRings c (fun r => { r with rTile := some t })
  let s := s.setBytes (slotAddr s sess) (beBytes 64 (clearPh raw).toNat)
  let prev := s.mason.tickets.find? (fun k => decide (k.tid = some (bitsNat w0 63 32) ∧ k.course = c ∧ k.st = .yielded))
  let (n, s) : Nat × State := match prev with
    | some k => (k.arrival, modTicket s k.arrival (fun k => { k with st := .running t }))
    | none =>
      let n := s.mason.nextArrival
      let sl := freeSlot s c
      let rc : Option (BitVec 9 × BitVec 4 × BitVec 48) := if w0.getLsbD 29 then
          some (BitVec.ofNat 9 (bitsNat rq 63 55), BitVec.ofNat 4 (bitsNat rq 54 51), BitVec.ofNat 48 (bitsNat rq 47 0)) else none
      let s := addTicket s (newTicket raw s.devNo none rc 0 none)
      let s := s.modCourse c (fun x => { x with slots := x.slots ++ sl.toList })
      (n, modTicket s n (fun k => { k with st := .running t, course := c, session := sess, slot := sl, started := true,
                                           tid := some (bitsNat w0 63 32) }))
  let (q, nxt, s) := dispatchInputs c t bank sess 8 (p + (recHead s c p).2.2.1) s
  if !s.replaying t then s
  else
    let bb : Vector Word 4 := Vector.ofFn (fun i =>
      match (tKeys raw)[i.val]? with
      | some key => match replayFrame s c key.toNat with
        | some f => BitVec.ofNat 64 (2 ^ 63 + b2n (tWmask raw i.val) * 2 ^ 62 + f)
        | none => 0
      | none => 0)
    if (List.range (min 4 (tNkeys raw))).any (fun i => (bb.toList.getD i 0) == 0) then scanEnd s c nxt
    else
      let s := modTicket s n (fun k => { k with frames := bb })
      let s := freeKiln (s.modRings c (fun r => { r with rPos := q })) t
      replayIntr t 16 (s.modTile t (fun x =>
        { x with run := .running, bb := bb, bank := bank, ticket := true, lvl := .ledger, ie := true,
                 pc := BitVec.ofNat 64 (bitsNat (recWord s c p 1) 47 0), tk := some n, icnt := 0, tcc := 0, kcnt := 0,
                 units := 0, long := none, window := [], banks := x.usedNow bank }))

/-- A DISPATCH of a TID that is not PRE. -/
def isDispatch (s : State) (c : CourseId) (q : Nat) : Bool := decide ((recHead s c q).1 = 2) && !(recWord s c q 0).getLsbD 30

/-- The next dispatch of a ticket that YIELDed, else the first of the next TID, or the end (spec/14 R445, R447). Where a GAP
hides the former, the tickets that come before the GAP are still replayed. -/
def replayNext (s : State) (c : CourseId) (again : Bool) : State :=
  let s := s.modRings c (fun r => { r with rTile := none })
  let tid (q : Nat) : Nat := bitsNat (recWord s c q 0) 63 32
  let start := (s.reg (ringsReg c 0x130)).toNat
  match (if again then scanFrom s c (s.course c).rings.rPos (fun q => isDispatch s c q && decide (tid q = rtid s c))
    else .used 0) with
  | .found q => replayDispatch s c q
  | .used _ | .bad _ =>
    match scanFrom s c start (fun q => isDispatch s c q && decide (rtid s c < tid q)) with
    | .found q => replayDispatch s c q
    | .bad q => replayEnd s c 4 q
    | .used _ => replayEnd s c 1 (replayLim s c)

/-- An exception, TRAP or KCALL from Ledger level in replay: matched with its XENT, then the RESUME is applied. -/
def replayXent (s : State) (t : TileId) (code : Nat) : State :=
  let c := courseOf t
  match takeRec s t 0x0A (fun q => atRec s t 0 q && decide ((recCause s c q).1 = code) &&
      decide (bitsNat (recWord s c q 0) 63 56 = satNat 8 (s.tile t).units)) with
  | (some _, s) => replayResume (s.modTile t (fun x => { x with units := 0, long := none })) t
  | (none, s) => s

/-- The record that a replayed POST forms agrees with the HASH of its END (spec/14 R446). -/
def replayHash (s : State) (c : CourseId) (k : TicketRec) (q : Nat) : Bool :=
  let start := (s.reg (ringsReg c 0x130)).toNat
  let w0 := recWord s c q 0
  let cseq := (recWord s c q 1).toNat
  let ck := recWord s c start 0
  let prev := match scanFrom s c start (fun p => decide ((recHead s c p).1 = 0x0C) && !(recWord s c p 0).getLsbD 60 &&
      decide ((recWord s c p 1).toNat + 1 = cseq)) with
    | .found p => s.bytes (ringsAddr s c (p + 48)) 32
    | _ => s.bytes (ringsAddr s c (start + 48)) 32
  let ds := (runDevices k.conts s).1
  let seqs := (List.range k.conts.length).map (fun i => (k.conts.getD i 0, ds.getD i 0, bitsNat (recWord s c q (8 + i)) 47 0))
  let body := postBody s { k with course := Fin.ofNat 12 (bitsNat ck 22 19) } seqs
  let h : RecHdr := { kind := 0, chain := bitsNat ck 22 19, unmir := w0.getLsbD 61, ncont := seqs.length,
                      rcpt := k.receipt.isSome, next := k.ws.length, nkey := min 4 (tNkeys k.raw) }
  decide (recHash prev h (bitsNat ck 31 23) cseq (recWord s c q 2).toNat body = s.bytes (ringsAddr s c (q + 48)) 32)

/-- The STATUS of an END agrees with the replay (spec/14 R446): a YIELD has none, a checkstop ends a ticket with TILEFAIL (spec/11
R384), and a POST that forms a record commits or fails as the END says (Table 14-7); one that forms none commits (spec/11
R352). -/
def statusOk (how status : Nat) (empty : Bool) : Bool :=
  match how with
  | 0 => if empty then status == 0 else [0, 0x10, 0x11, 0x12, 0x13, 0x15].contains status
  | 1 => status == 0
  | _ => status == 0x14

/-- POST, YIELD or checkstop of a replayed ticket, compared with its END: HOW 0, 1, 2 (spec/14 R445, R446). A POST that failed
before it formed a record has NOREC 1 and no HASH. -/
def replayFinish (s : State) (t : TileId) (how : Nat) : State :=
  let c := courseOf t
  match (s.tile t).tk.bind (ticketOf s) with
  | none => replayEnd s c 2 (s.course c).rings.rPos
  | some k =>
    match takeRec s t 0x0C (fun q => atRec s t 0 q && decide (bitsNat (recWord s c q 0) 63 62 = how)) with
    | (none, s) => s
    | (some q, s) =>
      let w0 := recWord s c q 0
      let empty := k.ws.isEmpty && k.conts.isEmpty && k.receipt.isNone
      let ok := statusOk how (bitsNat w0 55 48) empty &&
        (how != 0 || (if w0.getLsbD 60 then empty || bitsNat w0 55 48 != 0 else !empty && replayHash s c k q))
      if !ok then replayEnd s c 2 q
      else
        let s := if how = 1 then modTicket s k.arrival (fun k => { k with st := .yielded })
          else
            let s := if bitsNat w0 55 48 ≠ 0 then restoreWs s k else s
            dropTicket (freeTicketSlot s k) k.arrival
        replayNext (if how = 2 then s else idle s t) c (decide (how = 1))

/-- Enter REPLAY (spec/14 Table 14-5): 0Eh, 0Bh, or the replay begins. -/
def replayOp (s : State) (c : CourseId) : State :=
  let p := pRings + c.val
  let a := (s.reg (ringsReg c 0x160)).toNat
  let e := (s.reg (ringsReg c 0x168)).toNat
  if cstate s c ≠ 2 ∨ windowTaken s c (s.fld (ringsReg c 0x108) 1 0) then s.cmdDone p 0x0E
  else if e ≤ a ∨ 2 ^ 30 < e - a ∨ !recOk s c a (a + 80) ∨ (recHead s c a).1 ≠ 1 ∨ (recHead s c a).2.2.1 ≠ 80 then s.cmdDone p 0x0B
  else
    let s := (s.setReg (ringsReg c 0x130) (BitVec.ofNat 64 a)).setReg (ringsReg c 0x128) (BitVec.ofNat 64 e)
    let s := (s.setReg (ringsReg c 0x180) 0).setReg (ringsReg c 0x188) 0
    let s := s.setFld (ringsReg c 0x100) 2 0 3
    let s := s.modRings c (fun r => { r with rTile := none, rPos := a, rFrames := [], rNext := 0 })
    let s := s.cmdDone p 2
    match scanFrom s c a (isDispatch s c) with
    | .found q =>
      let low (s : State) : Nat := bitsNat (recWord s c q 0) 63 32
      match scanFrom s c a (fun r => isDispatch s c r && decide (bitsNat (recWord s c r 0) 63 32 < low s)) with
      | .found r => replayDispatch s c r
      | _ => replayDispatch s c q
    | .bad q => replayEnd s c 4 q
    | .used _ => replayEnd s c 1 e

/-- STOP, of a recording or a replay. -/
def ringsStop (s : State) (c : CourseId) : State := ringsStopOp (replayLeaves s c) c

/-- Commands that a RINGS state allows (spec/14 Table 14-6); START with STREAM where RSTREAM is 0 is refused in every state
(R440). -/
def ringsAllows (s : State) (c : CourseId) (code : Nat) : Bool :=
  match s.fld (ringsReg c 0x100) 2 0 with
  | 0 => (code == 1 && !((s.reg (ringsReg c 0x108)).getLsbD 63 && !s.fuses.caps0.getLsbD 10)) || code == 5
  | 1 => inRange code 2 4
  | _ => code == 4

/-- A CMD write of a RINGS page. -/
def ringsCmd (s : State) (src : Nat) (c : CourseId) (code : Nat) : State :=
  s.command (pRings + c.val) src code (inRange code 1 5) (ringsAllows s c code) (s.fld (ringsReg c 0x100) 2 0)
    (fun s => match code with
      | 1 => ringsStartOp s c
      | 2 => ringsCkptOp s c
      | 3 => ringsMarkOp s c
      | 4 => ringsStop s c
      | _ => replayOp s c)

end Sys2Proof.Machine
end

