-- ==== Sys2Proof/Machine/Boot.lean ====
section
/-! DEFINITION. Resets, the boot ROM, memory training, live course reload, the calendar and the timebase seed (spec/15). -/

namespace Sys2Proof.Machine

/-- Groups 2 to 5 are present and the device is out of reset (spec/15 Table 15-4). -/
def State.powered (s : State) : Bool := s.sby.powerGood && !s.sby.inReset

/-- The device acts: it is powered, and the boot ROM has not stopped it (spec/15 R459). -/
def State.live (s : State) : Bool := s.powered && !s.boot.stopped

/-- What the device does only while it is out of reset. -/
def whenLive (s : State) (f : State → State) : State := if s.live then f s else s

/-! ## Resets (spec/15 Table 15-3) -/

/-- The pages that a cold, warm or device reset keeps: SMB and CAL. -/
def keptPage (ca : Nat) : Bool := decide (ca / 4096 = pSmb ∨ ca / 4096 = pCal)

/-- The bytes that a reset keeps: Heartwood (spec/15 R455: DDR5 and HBM hold nothing that was written). -/
def keptByte (a : Nat) : Bool := inRange a 0x080000000000 0x08001FFFFFFF

/-- A strap land as sampled: one left open reads a free value, the `k`-th from now (spec/16 R501). -/
def strapBit (s : State) (k : Nat) : Strap → Bool
  | .low => false
  | .high => true
  | .opened => (Config.freeValue (s.freeCtr + k) 1).getLsbD 0

/-- Two strap lands as sampled. -/
def strapBits (s : State) (k : Nat) (p : StrapPair) : BitVec 2 :=
  BitVec.ofBool (strapBit s k p.hi) ++ BitVec.ofBool (strapBit s (k + 1) p.lo)

/-- The release of reset: the BIF straps are sampled (spec/16 Table 16-6, R501), and a root port whose straps read 11b sets BIFERR
(R480). -/
def releaseReset (s : State) : State :=
  let read (p : Fin 2) : BitVec 2 := strapBits s (2 * p.val) (s.sby.bifPins.get p)
  let s := { s with freeCtr := s.freeCtr + 4, boot := { s.boot with bifVal := Vector.ofFn read } }
  (List.finRange 2).foldl (fun s p => if s.boot.bifVal.get p = 3 then s.raise (pPcie + p.val) 5 else s) s

/-- Clear what a cold, warm or device reset clears (spec/15 R454, R455, Table 15-3). -/
def clearPages (s : State) : State :=
  { State.reset with
    pending := s.pending, freeCtr := s.freeCtr, mem := s.mem.filter (fun c => keptByte c.1),
    regs := s.regs.filter (fun r => keptPage r.1), sby := s.sby, fuses := s.fuses, tap := s.tap,
    posted := s.posted.filter (fun w => decide (w.ca / 4096 = pCal)), calShadow := s.calShadow,
    stopped := s.stopped.filter (fun p => decide (p = pCal ∨ p = pSmb)), clk := { Clock.reset with calAcc := s.clk.calAcc } }

/-- A cold, warm or device reset: what it clears, and its release. -/
def clearDevice (s : State) : State := releaseReset (clearPages s)

/-- POWER_GOOD rises and RESET_n is released (spec/15 R451, Table 15-3; spec/16 R498). -/
def coldResetOp (s : State) : State :=
  clearDevice { s with sby := { s.sby with powerGood := true, resetN := true, inReset := false, trip := false } }

/-- Every tile stops where it stands. -/
def holdTiles (s : State) : State := { s with tiles := s.tiles.map (fun x => { x with run := .held }) }

/-- POWER_GOOD falls (spec/15 R453): the ring holds every block accepted, the device enters reset, and the board holds
RESET_n until power returns. -/
def powerLossOp (s : State) : State :=
  let s := holdTiles s
  { s with sby := { s.sby with powerGood := false, resetN := false, inReset := true } }

/-- The device enters reset with its rails present, as on a fall of POWER_GOOD (spec/16 R498). -/
def holdReset (s : State) : State :=
  let s := holdTiles s
  { s with sby := { s.sby with inReset := true } }

/-! ## The boot ROM (spec/15 R457–R460, Sequence 15-5) -/

/-- `n` bytes of a flash image from `a`; erased flash reads FFh. -/
def imgBytes (img : List Byte) (a n : Nat) : List Byte :=
  let b := (img.drop a).take n
  b ++ List.replicate (n - b.length) 0xFF

/-- A number of an image's header (spec/15 R457: byte order of R11). -/
def imgNat (img : List Byte) (a n : Nat) : Nat := ofBytes (imgBytes img a n)

/-- Two byte ranges share no byte. -/
def apart (a n b m : Nat) : Bool := decide (a + n ≤ b ∨ b + m ≤ a ∨ n = 0 ∨ m = 0)

/-- Bytes of a control store (spec/15 Layout 15-6). -/
def csBytes : Nat := 393216

/-- MAGIC, the RSVD bytes, the length and the sections of a header (spec/15 R457, first point). -/
def headerOk (img : List Byte) : Bool :=
  let total := imgNat img 0xC 4
  let lcs := imgNat img 0x10 4
  let kcs := imgNat img 0x14 4
  let fw := imgNat img 0x18 4
  let fwl := imgNat img 0x1C 4
  decide (imgNat img 0 4 = 0x5A48564D ∧ imgNat img 0xA 2 = 0 ∧ imgNat img 0xF0 16 = 0 ∧ 0x100 ≤ total ∧ total ≤ 2 ^ 25 ∧
    lcs + csBytes ≤ total ∧ kcs + csBytes ≤ total ∧ fw + fwl ≤ total) &&
  apart 0 0x100 lcs csBytes && apart 0 0x100 kcs csBytes && apart 0 0x100 fw fwl &&
  apart lcs csBytes kcs csBytes && apart lcs csBytes fw fwl && apart kcs csBytes fw fwl

/-- The signature of an image is valid by its own key (spec/15 R457, last point). -/
def imageSigned (img : List Byte) : Bool :=
  let total := imgNat img 0xC 4
  ecdsaVerify (imgNat img 0x30 48) (imgNat img 0x60 48) (imgNat img 0x90 48) (imgNat img 0xC0 48)
    (imgBytes img 0 0x90 ++ imgBytes img 0x100 (total - 0x100))

/-- The code of a header: 01h passes so far, else the failing check of step 3 (spec/15 Sequence 15-5). -/
def headerCode (s : State) (img : List Byte) : Nat :=
  if !headerOk img then 3
  else if imgNat img 4 4 < s.fuses.minVer.toNat then 4
  else if ofBytes (sha384 (imgBytes img 0x30 96)) ≠ s.fuses.keyHash.toNat then 5
  else 1

/-- Slot A stands at flash offset 0, slot B at half the density that SFDP reports (spec/15 R458). -/
def slotImage (density : Nat) (flash : List Byte) (slotB : Bool) : List Byte :=
  if slotB then flash.drop (density / 2) else flash

/-- The result of one slot, and the state with what was read into the boot window: its image, and whether it can be read. -/
def trySlot (s : State) (img : List Byte) (readable : Bool) : Nat × State :=
  let c := headerCode s img
  if c ≠ 1 then (c, s)
  else if !readable then (7, s)
  else
    let s := s.setBytes 0x2000000 (imgBytes img 0 (imgNat img 0xC 4))
    if imageSigned img then (1, s) else (6, s)

/-- BOOTSTAT (spec/15 Map 15-7). -/
def setBootStat (s : State) (done : Bool) (slot a b : Nat) : State :=
  s.setReg (ctl pDev 0x1A8) (BitVec.ofNat 64 (b2n done * 2 ^ 63 + slot * 65536 + a * 256 + b))

/-- Neither slot is accepted: both codes, and the device does nothing further (spec/15 R459). -/
def bootStop (s : State) (a b : Nat) : State :=
  let s := setBootStat s false 0 a b
  { s with boot := { s.boot with stopped := true } }

/-- UCODE of a tile page and UCVER of a course (spec/15 Map 15-10). -/
def setUcode (s : State) (p uabi ver : Nat) : State :=
  s.setReg (ctl p 0x300) (BitVec.ofNat 64 (uabi * 2 ^ 32 + ver))

/-- LOWEST: the lowest IMGVER running on any course (spec/15 Map 15-7). -/
def setLowest (s : State) : State :=
  s.setFld (ctl pDev 0x1A0) 63 32
    (((List.range 12).map (fun c => s.fld (ctl (pCourse + c) 0x108) 31 0)).foldl min (2 ^ 32 - 1))

/-- A tile starts at an address at Keystone level with PSTATE as at reset (spec/15 R460). -/
def startTile (s : State) (t : TileId) (pc : Word) : State := s.modTile t (fun x => { x with run := .running, pc := pc })

/-- Steps 6 and 7: the control stores are loaded and the firmware starts on keystone tile 0. -/
def bootFrom (s : State) (img : List Byte) : State :=
  let ver := imgNat img 4 4
  let uabi := imgNat img 8 2
  let s := (List.range 100).foldl (fun s t => setUcode s t uabi ver) s
  let s := (List.range 12).foldl (fun s c => s.setReg (ctl (pCourse + c) 0x108) (BitVec.ofNat 64 ver)) s
  let s := s.setBytes (imgNat img 0x20 8) (imgBytes img (imgNat img 0x18 4) (imgNat img 0x1C 4))
  let s := setLowest (s.setFld (ctl pDev 0x1A0) 31 0 ver)
  let s := { s with boot := { s.boot with imgVer := BitVec.ofNat 32 ver, uabi := BitVec.ofNat 16 uabi } }
  startTile s 96 (BitVec.ofNat 64 (imgNat img 0x28 8))

/-- The boot ROM on keystone tile 0 (spec/15 R458, R459, Sequence 15-5): `density` is what the flash's SFDP table reports, in
bytes; a flash without it fails step 2 (spec/16 R486). -/
def bootRomOp (s : State) (density : Option Nat) (flash : List Byte) (readable : FlashReads) : State :=
  if s.boot.romRan then s
  else
    let s := { s with boot := { s.boot with romRan := true } }
    match density with
    | none => bootStop s 2 2
    | some d =>
      let a := slotImage d flash false
      let b := slotImage d flash true
      let ra := trySlot s a readable.a
      if ra.1 = 1 then setBootStat (bootFrom ra.2 a) true 1 1 0
      else
        let rb := trySlot ra.2 b readable.b
        if rb.1 = 1 then setBootStat (bootFrom rb.2 b) true 2 ra.1 1 else bootStop rb.2 ra.1 rb.1

/-- STARTPC as an address. -/
def startPc (s : State) : Word := BitVec.ofNat 64 (s.fld (ctl pDev 0x1B8) 47 2 * 4)

/-- Release a held tile at STARTPC. -/
def releaseTile (s : State) (t : TileId) : State :=
  if (s.tile t).run = .held then startTile s t (startPc s) else s

/-- A write to DEV.START (spec/15 R460): each bit that goes from 0 to 1 releases its tiles. -/
def devStartOp (s : State) (v : Word) : State :=
  let old := s.reg (ctl pDev 0x1B0)
  let new := v &&& 0x1E#64 &&& ~~~old
  let s := s.setReg (ctl pDev 0x1B0) (old ||| new)
  let ts : List TileId := (List.finRange 100).filter (fun t =>
    if isKeyst t then decide (t ≠ 96) && new.getLsbD (t.val - 96) else new.getLsbD 4)
  ts.foldl releaseTile s

/-! ## Memory training (spec/15 Table 15-9, R462; spec/16 R477–R479) -/

/-- The page of a memory controller: DDRC 0–7, HBMC. -/
def ctlPage (c : Fin 9) : Nat := if c = 8 then pHbmc else pDdrc + c.val

/-- TRAIN of a DDRC or HBMC page. -/
def memCmd (s : State) (src page code : Nat) : State :=
  let st := s.fld (ctl page 0x120) 1 0
  s.command page src code (decide (code = 1)) (decide (st = 0 ∨ st = 3)) st (fun s => s.setFld (ctl page 0x120) 1 0 1)

/-- The I2C bus and the 7-bit address of the SPD hub of DIMM `d` of channel `c` (spec/16 R479). -/
def spdHub (c : Fin 8) (d : Fin 2) : Nat × Nat := (c.val / 4, 0x50 + 2 * (c.val % 4) + d.val)

/-- A DDRC training reads SPD on an I2C bus (spec/16 R479, R497). -/
def spdOn (s : State) (bus : Nat) : Bool :=
  (List.finRange 8).any (fun c => decide ((spdHub c 0).1 = bus ∧ s.fld (ctl (pDdrc + c.val) 0x120) 1 0 = 1))

/-- A DIMM within the limits of spec/16 R477. -/
def spdOk (d : Spd) : Bool :=
  d.registered && d.ecc && d.x4 && [32, 64, 128].contains d.capGiB && decide (4800 ≤ d.speed)

/-- The DIMMs of a channel, position 0 first. -/
def dimmList (p : DimmPair) : List Spd := p.d0.toList ++ p.d1.toList

/-- A channel that a TRAIN can bring to READY (spec/16 R477): 1 or 2 DIMMs within the limits, with the same ranks, and
position 0 taken first. -/
def dimmsOk (p : DimmPair) : Bool :=
  p.d0.isSome && (dimmList p).all spdOk && (dimmList p).all (fun d => (dimmList p).all (fun e => decide (d.ranks = e.ranks)))

/-- The speed at which every DDRC page trains: the highest of R477 that every installed DIMM of the device supports
(spec/16 R478). -/
def boardSpeed (d : Dimms) : Nat :=
  let sup (v : Nat) : Bool := d.chans.toList.all (fun p => (dimmList p).all (fun e => decide (v ≤ e.speed)))
  if sup 6400 then 6400 else if sup 5600 then 5600 else 4800

/-- NFRAME once all eight channels are READY with the same DIMMs (spec/15 R462). -/
def setNframe (s : State) : State :=
  let ready (c : Nat) : Bool := decide (s.fld (ctl (pDdrc + c) 0x120) 1 0 = 2)
  match s.boot.dimms.get 0 with
  | some p =>
    let cap := (p.d0.map Spd.capGiB).getD 0
    if (List.range 8).all ready &&
        s.boot.dimms.toList.all (fun e => match e with
          | some e => decide ((dimmList e).length = (dimmList p).length) && (dimmList e).all (fun d => decide (d.capGiB = cap))
          | none => false) then
      s.setFld (ctl pDev 0x130) 27 0 (8 * (dimmList p).length * cap * 65536)
    else s
  | none => s

/-- A training ends READY or FAILED (spec/15 Table 15-9, R462; spec/16 R477). -/
def trainDone (s : State) (c : Fin 9) (d : Dimms) : State :=
  let page := ctlPage c
  if s.fld (ctl page 0x120) 1 0 ≠ 1 then s
  else
    let ok := d.ok && (if h : c.val < 8 then dimmsOk (d.chans.get ⟨c.val, h⟩) else true)
    let s := (s.setFld (ctl page 0x120) 1 0 (if ok then 2 else 3)).cmdDone page 2
    let s := if h : c.val < 8 then
        { s with boot := { s.boot with
            dimms := s.boot.dimms.set c.val (if ok then some (d.chans.get ⟨c.val, h⟩) else none),
            speed := if ok && s.boot.speed.isNone then some (boardSpeed d) else s.boot.speed } } else s
    let s := if s.boot.i2cWaiting ∧ spdOn s (s.fld (ctl pPwr 0x180) 56 56) = false then
        { s with boot := { s.boot with i2cWaiting := false } } else s
    if c = 8 then s else setNframe s

/-- Half the DRAM clock of the speed at which a channel runs, in MHz: 1.2 GHz until TRAIN sets the speed and on a channel whose
TRAIN failed; the trained speed stays until the next reset (spec/16 R478). -/
def memClock (s : State) (c : Fin 8) : Nat := if (s.boot.dimms.get c).isSome then s.boot.speed.getD 4800 / 4 else 1200

/-! ## Live course reload (spec/15 R463) -/

def courseReg (c : CourseId) (off : Nat) : Nat := ctl (pCourse + c.val) off

/-- RELOAD of a COURSE page. On stepping A0 it is refused in every state (spec/00 Table 0-3). -/
def courseCmd (s : State) (src : Nat) (c : CourseId) (code : Nat) : State :=
  let p := pCourse + c.val
  let st := s.fld (courseReg c 0x100) 1 0
  s.command p src code (decide (code = 1))
    (!s.isA0 && decide (st = 0) && decide (cstate s c = 2) && decide (s.fld (ringsReg c 0x100) 2 0 = 0)) st (fun s =>
      if (List.finRange 12).any (fun d => (s.course d).reloading.isSome) then s.cmdDone p 0x0E
      else
        (s.modCourse c (fun x => { x with reloading := some (s.reg (courseReg c 0x110)).toNat })).setFld
          (courseReg c 0x100) 1 0 1)

/-- A tile at a course reset (spec/15 Table 15-3): its emergency area is cleared, with the KILN page its pending Kiln fault
(spec/06 Map 6-11) and its Kiln queue, whose occupancy the page holds (R222), and with the RINGS page its wait for room; its
other arrays are kept. A tile in checkstop leaves it, held (spec/08 R260; log entry 56). -/
def Tile.courseReset (x : Tile) : Tile :=
  { x with run := if x.run = .checkstop then .held else x.run, ef := Vector.replicate 512 0,
           kiln := { x.kiln with fault := none, queue := [] }, recWait := false }

/-- The course reset of spec/15 Table 15-3. A tile that it leaves held starts at STARTPC where DEV.START.LEDGER has released
the tiles (log entry 56). -/
def courseReset (s : State) (c : CourseId) : State :=
  let tiles := courseTiles c
  let s := s.resetRegs (fun ca =>
    decide (ca / 4096 / 8 = c.val) || decide (ca / 4096 = pKiln + c.val ∨ ca / 4096 = pRings + c.val))
  let s := s.modCourse c (fun x => { x with ctlb := [], rings := Rings.reset })
  let s := tiles.foldl (fun s t => s.modTile t Tile.courseReset) s
  let s := tiles.foldl (fun s t =>
    s.setReg (hwjReg (0x188 + 8 * (t.val / 64))) (setBit (s.reg (hwjReg (0x188 + 8 * (t.val / 64)))) (t.val % 64) false)) s
  if (s.reg (ctl pDev 0x1B0)).getLsbD 4 then tiles.foldl releaseTile s else s

/-- What the verify engine finds of the image at an address (spec/15 R457, R463): 01h, or a code of Sequence 15-5. The
code for a UABI that differs is not given: a free value. -/
def verifyAt (s : State) (pa : Nat) : Nat :=
  let total := s.memNat (pa + 0xC) 4
  if s.ddrBytes < pa + 0x100 ∨ s.ddrBytes < pa + total ∨ s.poisoned pa (max 0x100 total) then 7
  else
    let img := s.bytes pa (max 0x100 (min total (2 ^ 25)))
    let c := headerCode s img
    if c ≠ 1 then c
    else if !imageSigned img then 6
    else if imgNat img 8 2 ≠ s.fld (ctl 0x60 0x300) 47 32 then (s.freeVal 8).toNat
    else 1

/-- VERIFY ends: the course is loaded, or the reload fails (spec/15 R463). -/
def reloadDone (s : State) (c : CourseId) : State :=
  match (s.course c).reloading with
  | none => s
  | some pa =>
    let p := pCourse + c.val
    let img := s.bytes pa 0x100
    let total := s.memNat (pa + 0xC) 4
    let bad := decide (imgNat img 8 2 ≠ s.fld (ctl 0x60 0x300) 47 32)
    let code := verifyAt s pa
    let s := s.modCourse c (fun x => { x with reloading := none })
    let failed (s : State) : State :=
      ((s.drew.setReg (courseReg c 0x118) (BitVec.ofNat 64 code)).setFld (courseReg c 0x100) 1 0 0).cmdDone p 0x0B
    if code ≠ 1 ∨ bad ∨ total = 0 then failed s
    else
      let ver := imgNat img 4 4
      let s := courseReset s c
      let s := (courseTiles c).foldl (fun s t => setUcode s t.val (imgNat img 8 2) ver) s
      let s := setLowest (s.setReg (courseReg c 0x108) (BitVec.ofNat 64 ver))
      ((s.setReg (courseReg c 0x118) 1).setFld (courseReg c 0x100) 1 0 0).cmdDone p 2

/-! ## Calendar and timebase (spec/15 R465–R470) -/

def calReg (off : Nat) : Nat := ctl pCal off

/-- CMD of the CAL page: SET acts at the tick at which its write takes effect (`calSet`; spec/15 R467). -/
def calCmd (s : State) (src code : Nat) : State := s.command pCal src code (decide (code = 1)) true 0 id

/-- CLK SEED: allowed while HWJ STATE is INIT; busy until the tick that seeds (spec/15 R468). -/
def clkCmd (s : State) (src code : Nat) : State :=
  s.command pClk src code (decide (code = 1)) (decide (hwjState s = 0)) (hwjState s) id

/-- PWR DEVRESET. -/
def pwrCmd (s : State) (src code : Nat) : State :=
  s.command pPwr src code (decide (code = 1)) true 0 clearDevice

/-- A seed of the timebase is due (spec/15 R468). -/
def seedDue (s : State) : Bool :=
  (!s.clk.seeded && s.clk.pllLocked) || decide (s.fld (ctl pClk 0xF8) 7 0 = 1)

/-- Seed the timebase from the calendar value of a tick (spec/15 R468). -/
def seedTb (s : State) : State :=
  if seedDue s then
    let v := s.fld (calReg 0x100) 47 0 * 10 ^ 9 + s.fld (calReg 0x108) 31 0 * 10 ^ 9 / 2 ^ 32
    let s := { s with clk := { s.clk with tb := BitVec.ofNat 64 v, seeded := true } }
    if s.fld (ctl pClk 0xF8) 7 0 = 1 then s.cmdDone pClk 2 else s
  else s

/-- FRAC gains `n` ticks, with its carry into SEC. -/
def calAdvance (s : State) (n : Nat) : State :=
  let f := s.fld (calReg 0x108) 31 0 + n * 2 ^ 17
  (s.setReg (calReg 0x108) (BitVec.ofNat 64 (f % 2 ^ 32))).setReg (calReg 0x100)
    (BitVec.ofNat 64 ((s.fld (calReg 0x100) 47 0 + f / 2 ^ 32) % 2 ^ 48))

/-- TRIM in ppm (spec/15 Map 15-11). -/
def calTrim (s : State) : Int := (BitVec.ofNat 8 (s.fld (calReg 0x10) 7 0)).toInt

/-- One tick of the crystal with the accumulator of R466: a skipped tick, or an advance with the extra ticks that the
second's addition gives (spec/15 R465, R466). -/
def calCount (s : State) : State :=
  if s.clk.calAcc ≤ -(2 ^ 17) then { s with clk := { s.clk with calAcc := s.clk.calAcc + 2 ^ 17 } }
  else
    let carry := decide (2 ^ 32 ≤ s.fld (calReg 0x108) 31 0 + 2 ^ 17)
    let s := calAdvance s 1
    if carry then
      let acc := s.clk.calAcc + calTrim s * 4295
      let extra : Nat := if 2 ^ 17 ≤ acc then (acc / 2 ^ 17).toNat else 0
      calAdvance { s with clk := { s.clk with calAcc := acc - extra * 2 ^ 17 } } extra
    else s

/-- SET has reached the calendar: it loads SEC and FRAC (spec/15 R467). -/
def calSet (s : State) : State :=
  if s.fld (calReg 0xF8) 7 0 = 1 then
    let s := ((s.setReg (calReg 0x100) (BitVec.ofNat 64 (s.fld (calReg 0x118) 47 0))).setReg (calReg 0x108)
      (BitVec.ofNat 64 (s.fld (calReg 0x120) 31 17 * 2 ^ 17))).setReg (calReg 0x110) 1
    (State.raise { s with clk := { s.clk with calAcc := 0 } } pCal 2).cmdDone pCal 2
  else s

/-- The clock of a page stops, or runs again (spec/01 R31). -/
def State.stopPage (s : State) (p : Nat) (on : Bool) : State :=
  { s with stopped := s.stopped.filter (· ≠ p) ++ (if on then [p] else []) }

/-- No crystal edge for 1 ms (spec/15 R465): the CAL domain has no running clock until the next one (spec/01 R31). -/
def oscStopOp (s : State) : State := ((s.raise pCal 1).setReg (calReg 0x110) 0).stopPage pCal true

/-- The device disciplines its timebase to PPS (spec/15 R470). -/
def disciplined (s : State) : Bool :=
  (s.reg (ctl pDev 0x180)).getLsbD 63 && (s.reg (ctl pClk 0x100)).getLsbD 61

/-- The multiple of 10^9 nearest to a value, minus the value; the upper of two. -/
def ppsError (tb : Nat) : Int := ((tb + 5 * 10 ^ 8) / 10 ^ 9 * 10 ^ 9 : Nat) - (tb : Int)

/-- A PPS edge (spec/15 R470, Map 15-12). -/
def ppsEdgeOp (s : State) (falling : Bool) : State :=
  let r := s.reg (ctl pClk 0x100)
  if !r.getLsbD 63 || (r.getLsbD 62 != falling) then s
  else
    let e := ppsError s.clk.tb.toNat
    let s := (s.setReg (ctl pClk 0x108) s.clk.tb).setReg (ctl pClk 0x110) (BitVec.ofInt 64 e)
    let s := (s.raise pClk 0).evCount pClk 0x20 1
    if disciplined s then
      let freq := clampInt (s.clk.freq + e * 512) (100000 * 8192)
      let adj := clampInt (roundDiv (freq + e * 4096) 8192) 200000
      let tb := if s.clk.seeded ∧ (10000 < e ∨ (e < -10000 ∧ hwjState s = 0)) then BitVec.ofInt 64 ((s.clk.tb.toNat : Int) + e)
        else s.clk.tb
      setTadj { s with clk := { s.clk with freq := freq, tb := tb } } adj
    else s

/-- No PPS edge for 1.5 s (spec/15 R470). -/
def ppsLostOp (s : State) : State :=
  let s := s.raise pClk 1
  if disciplined s then setTadj s (clampInt (roundDiv s.clk.freq 8192) 200000) else s

/-- The pages of a clock domain (spec/01 Table 1-6). -/
def pllPages : Pll → List Nat
  | .core => []
  | .mem => (List.range 8).map (fun c => pDdrc + c)
  | .hbm => [pHbmc]
  | .pcie => [pPcie, pPcie + 1]
  | .mortar => (List.range 16).map (fun k => pMort + k)

/-- A PLL loses lock, or its reference stops and the domain has no running clock (spec/16 R493, spec/01 R31). -/
def pllUnlockOp (s : State) (p : Pll) (stops : Bool) : State :=
  let s := (s.raise pClk 2).evCount pClk 0x21 1
  if stops then
    { s with stopped := s.stopped ++ (pllPages p).filter (fun q => !s.stopped.contains q),
             clk := { s.clk with pllLocked := s.clk.pllLocked && decide (p ≠ .core) } }
  else s

end Sys2Proof.Machine
end

