-- ==== Sys2Proof/Machine/Board.lean ====
section
/-! DEFINITION. PCI Express requesters and links, MSI, scrub, SPI, I2C, temperature, the SMBus target and the test access
port (spec/09 R293–R296, spec/16). -/

namespace Sys2Proof.Machine

/-! ## PCI Express (spec/16 R480–R484, spec/09 R293, R294) -/

def pcieReg (p : Fin 2) (off : Nat) : Nat := ctl (pPcie + p.val) off

/-- Sub-ports that the strap gives a root port (spec/16 Table 16-7). -/
def subPorts (s : State) (p : Fin 2) : List (Fin 4) :=
  let b := s.boot.bifVal.get p
  if b = 0 then [0] else if b = 1 then [0, 1] else if b = 2 then [0, 1, 2, 3] else []

/-- Lanes of a sub-port. -/
def subLanes (s : State) (p : Fin 2) : Nat :=
  let b := s.boot.bifVal.get p
  if b = 0 then 16 else if b = 1 then 8 else 4

/-- A sub-port's link is UP. -/
def subUp (s : State) (p : Fin 2) (k : Fin 4) : Bool := (s.reg (pcieReg p (0x110 + 8 * k.val))).getLsbD 63

/-- PERST bit of a sub-port. -/
def perstOn (s : State) (p : Fin 2) (k : Fin 4) : Bool := (s.reg (pcieReg p 0x108)).getLsbD k.val

/-- A link goes down: LSTAT and LINKDN; it stays down until PERST# is cycled (spec/16 Table 16-8, hot-plug). -/
def subDown (s : State) (p : Fin 2) (k : Fin 4) : State :=
  if subUp s p k then
    let s := (s.setReg (pcieReg p (0x110 + 8 * k.val)) 0).raise (pPcie + p.val) 3
    { s with pcieDown := s.pcieDown ++ [4 * p.val + k.val] }
  else s

/-- A sub-port's link becomes active (spec/16 R484, Map 16-9). -/
def subLinkUp (s : State) (p : Fin 2) (k : Fin 4) (gen : BitVec 3) (width : BitVec 5) : State :=
  if (subPorts s p).contains k && !perstOn s p k && !subUp s p k && !s.pcieDown.contains (4 * p.val + k.val) &&
      inRange gen.toNat 1 5 && inRange width.toNat 1 (subLanes s p) then
    (s.setReg (pcieReg p (0x110 + 8 * k.val)) (BitVec.ofNat 64 (2 ^ 63 + gen.toNat * 256 + width.toNat))).raise
      (pPcie + p.val) 4
  else s

/-- A write of PERST (spec/16 R484): a bit that becomes 1 takes the link down; one that becomes 0 lets it train. -/
def perstWriteOp (s : State) (src : Nat) (p : Fin 2) (w : WReq) : State :=
  let old := s.reg (pcieReg p 0x108)
  let s := regWrite s src w
  (List.finRange 4).foldl (fun s k =>
    if perstOn s p k then subDown s p k
    else if old.getLsbD k.val then { s with pcieDown := s.pcieDown.filter (fun q => q ≠ 4 * p.val + k.val) }
    else s) s

/-- The sub-port of an access to a root port's window at offset `a` (spec/16 R481), where its link can carry it. -/
def windowPort (s : State) (p : Fin 2) (a : Nat) : Option (Fin 4) :=
  (subPorts s p).find? (fun k =>
    (if a < 0x10000000 then
      let b := a / 2 ^ 20 % 256
      inRange b (s.fld (pcieReg p (0x140 + 8 * k.val)) 15 8) (s.fld (pcieReg p (0x140 + 8 * k.val)) 7 0)
    else inRange (a / 2 ^ 20) (s.fld (pcieReg p (0x160 + 16 * k.val)) 47 20) (s.fld (pcieReg p (0x168 + 16 * k.val)) 47 20)) &&
    subUp s p k && !perstOn s p k)

/-- A tile's load in a root port's window: a value from outside, or all ones (spec/16 R481). -/
def windowLoad (s : State) (p : Fin 2) (a n : Nat) : List Byte × State :=
  match windowPort s p a with
  | some _ =>
    ((List.range n).map (fun i => (Config.freeValue (s.freeCtr + i) 8)),
      (State.evCount { s with freeCtr := s.freeCtr + n } (pPcie + p.val) 0x21 1).evCount (pPcie + p.val) 0x20 1)
  | none => (List.replicate n 0xFF, s.raise (pPcie + p.val) 2)

/-- A tile's store in a root port's window: sent, or discarded (spec/16 R481). -/
def windowStore (s : State) (p : Fin 2) (a : Nat) : State :=
  match windowPort s p a with
  | some _ => s.evCount (pPcie + p.val) 0x21 1
  | none => s.raise (pPcie + p.val) 2

/-- The lowest valid DMA rights entry of a requester: its first word and its key rights (spec/09 R293, Map 9-13). -/
def dmaEntry (s : State) (p : Fin 2) (rid : BitVec 16) : Option (Word × BitVec 128) :=
  (List.range 64).findSome? (fun n =>
    let w := s.reg (pcieReg p (0x400 + 32 * n))
    if w.getLsbD 63 && decide (bitsNat w 15 0 = rid.toNat) then
      some (w, s.reg (pcieReg p (0x410 + 32 * n)) ++ s.reg (pcieReg p (0x418 + 32 * n)))
    else none)

/-- KEY and TYPE of a frame as a root port holds them: from its cache, or read and cached (spec/09 R294). -/
def dmaKey (s : State) (p : Fin 2) (i : Nat) : Nat × State :=
  match (s.dmaKeys.get p).find? (fun q => decide (q.1 = i)) with
  | some q => (q.2, s)
  | none =>
    let w := frameW0 s i
    let v := bitsNat w 61 60 * 64 + bitsNat w 53 48
    (v, State.evCount { s with dmaKeys := s.dmaKeys.set p (((i, v) :: s.dmaKeys.get p).take 256) } (pPcie + p.val) 0x26 1)

/-- Every frame of a request allows it (spec/09 R293). -/
def dmaFrames (s : State) (p : Fin 2) (krr : BitVec 128) (wr : Bool) : List Nat → Bool × State
  | [] => (true, s)
  | i :: r =>
    let (v, s) := dmaKey s p i
    if v / 64 = 3 ∨ keyAD krr (v % 64) ∨ (wr ∧ keyWD krr (v % 64)) then (false, s) else dmaFrames s p krr wr r

/-- A request that a root port reports through AER as an uncorrectable error, with its header (spec/16 Table 16-8). -/
def aerUnc (s : State) (p : Fin 2) (rid : BitVec 16) (addr : Word) (req : PcieReq) : State :=
  let s := (s.raise (pPcie + p.val) 1).evCount (pPcie + p.val) 0x24 1
  { s with aer := s.aer.set p.val (some (rid, addr, req)) }

/-- The refusal of an inbound request (spec/09 R293): Unsupported Request, REFUSED, AERUNC. -/
def dmaRefuse (s : State) (p : Fin 2) (rid : BitVec 16) (addr : Word) (req : PcieReq) : State :=
  let s := aerUnc ((s.raise (pPcie + p.val) 2).evCount (pPcie + p.val) 0x22 1) p rid addr req
  { s with reply := none, replyEp := false }

/-- The rights of a request to one region (spec/09 R293, spec/01 R41). -/
def dmaRights (s : State) (p : Fin 2) (rid : BitVec 16) (a n : Nat) (wr : Bool) : Bool × State :=
  match dmaEntry s p rid with
  | none => (false, s)
  | some (w, krr) =>
    if regionOf s a ≠ regionOf s (a + max n 1 - 1) then (false, s)
    else match regionOf s a with
      | .ddr =>
        if s.fld (ctl pDev 0x130) 27 0 = 0 then (false, s)
        else dmaFrames s p krr wr ((List.range (ceilDiv (a % 0x4000 + max n 1) 0x4000)).map (fun i => a / 0x4000 + i))
      | .general =>
        dmaFrames s p krr wr ((List.range (ceilDiv (a % 0x4000 + max n 1) 0x4000)).map
          (fun i => 0x8000000 + (a - 0x040240000000) / 0x4000 + i))
      | .heartwood => (!wr && w.getLsbD 62, s)
      | .window v => (w.getLsbD 61 && !(wr && windowBusy s v), s)
      | _ => (false, s)

/-- The MSI window of a root port holds a bus address (spec/16 R483). -/
def inMsi (s : State) (p : Fin 2) (a : Nat) : Bool := decide (a / 4096 = s.fld (pcieReg p 0x130) 47 12)

/-- MSI route `v` (spec/16 Map 16-9): valid, target, doorbell bit. -/
def msiRoute (s : State) (p : Fin 2) (v : Nat) : Option (Nat × Nat) :=
  let w := s.reg (pcieReg p (0xC00 + 8 * (v / 2)))
  let r := if v % 2 = 0 then bitsNat w 63 32 else bitsNat w 31 0
  if r / 2 ^ 15 % 2 = 1 then some (r / 256 % 128, r % 64) else none

/-- An inbound write to the MSI window (spec/16 R483). The data's last byte is bits [7:0], in the byte order of R11
(log entry 30). -/
def msiOp (s : State) (p : Fin 2) (rid : BitVec 16) (addr : Word) (data : List Byte) : State :=
  let refuse := dmaRefuse s p rid addr (.write data)
  let v := (data.getLastD 0).toNat
  match (dmaEntry s p rid), msiRoute s p v with
  | some _, some (tgt, bit) =>
    if data.length = 4 ∧ data.dropLast.all (fun b => b = 0) then
      { (s.bell tgt bit).evCount (pPcie + p.val) 0x25 1 with reply := some [], replyEp := false }
    else refuse
  | _, _ => refuse

/-- The sub-ports through which a requester's requests come: those whose SEC to SUB range holds its bus, any where none does
(log entry 135). -/
def inboundPorts (s : State) (p : Fin 2) (rid : BitVec 16) : List (Fin 4) :=
  let ks := (subPorts s p).filter (fun k => inRange (rid.toNat / 256) (s.fld (pcieReg p (0x140 + 8 * k.val)) 15 8)
    (s.fld (pcieReg p (0x140 + 8 * k.val)) 7 0))
  if ks.isEmpty then subPorts s p else ks

/-- A requester's sub-port carries its requests: its link is UP and its PERST# released (spec/16 R484). -/
def inboundOpen (s : State) (p : Fin 2) (rid : BitVec 16) : Bool :=
  (inboundPorts s p rid).any (fun k => subUp s p k && !perstOn s p k)

/-- A request that has reached its root port (spec/09 R293, spec/16 R482, R483, Table 16-8). An ECRC that is wrong counts only
while CTRL.ECRCCHK is 1; the request is then not made (log entry 136). -/
def inboundReq (s : State) (p : Fin 2) (rid : BitVec 16) (addr : Word) : PcieReq → State
  | .write data =>
    let a := addr.toNat
    if inMsi s p a then msiOp s p rid addr data
    else
      let (ok, s) := dmaRights s p rid a data.length true
      if ok then { (s.setBytes a data).unpoison a data.length with reply := some [], replyEp := false }
      else dmaRefuse s p rid addr (.write data)
  | .read n =>
    let a := addr.toNat
    let s := s.evCount (pPcie + p.val) 0x21 1
    if inMsi s p a then dmaRefuse s p rid addr (.read n)
    else
      let (ok, s) := dmaRights s p rid a n false
      if ok then
        let s' := { s with reply := some (s.bytes a n), replyEp := s.poisoned a n }
        if s.poisoned a n then aerUnc s' p rid addr (.read n) else s'
      else dmaRefuse s p rid addr (.read n)
  | .other k => dmaRefuse s p rid addr (.other k)
  | .intx => s.raise (pPcie + p.val) 2
  | .correctable => (s.raise (pPcie + p.val) 0).evCount (pPcie + p.val) 0x23 1
  | .badEcrc req => if (s.reg (pcieReg p 0x10)).getLsbD 1 then aerUnc s p rid addr (.badEcrc req) else inboundReq s p rid addr req

/-- A request of a requester: one whose sub-port does not carry it is discarded (spec/16 R484). -/
def inboundOp (s : State) (p : Fin 2) (rid : BitVec 16) (addr : Word) (req : PcieReq) : State :=
  if inboundOpen s p rid then inboundReq (s.evCount (pPcie + p.val) 0x20 1) p rid addr req else s

/-! ## Patrol scrub (spec/09 R295, R296, Map 9-15) -/

/-- A line belongs to a controller: 256-byte blocks are spread over the 8 channels (spec/01 R38). -/
def ctlOwns (s : State) (c : Fin 9) (a : Nat) : Bool :=
  if c = 8 then inRange a 0x040000000000 0x0403FFFFFFFF else decide (a < s.ddrBytes ∧ a / 256 % 8 = c.val)

/-- The last line of a controller's installed memory. -/
def lastLine (s : State) (c : Fin 9) : Nat :=
  if c = 8 then 0x0403FFFFFF80 else s.ddrBytes - 2048 + 256 * c.val + 128

/-- A controller finds an error on a read of a line (spec/09 R295; log entry 120). -/
def eccFound (s : State) (page a : Nat) (e : Ecc) : State :=
  match e with
  | .clean => s
  | .corrected =>
    let s := (s.setReg (ctl page 0x108) (BitVec.ofNat 64 a)).setReg (ctl page 0x118)
      (BitVec.ofNat 64 (satNat 32 (s.fld (ctl page 0x118) 31 0 + 1)))
    (s.raise page 0).evCount page 0x22 1
  | .uncorrectable =>
    let s := s.setReg (ctl page 0x110) (BitVec.ofNat 64 a)
    ({ s with poison := a / 128 :: s.poison.filter (fun l => l ≠ a / 128) }.raise page 1).evCount page 0x23 1

/-- A scrub read (spec/09 R296), or, while scrub does not run, the demand read that finds an error (R295; log entry 120). A
line already poisoned stays poisoned (Table 9-14). -/
def scrubOp (s : State) (c : Fin 9) (addr : BitVec 48) (e : Ecc) : State :=
  let page := ctlPage c
  let a := addr.toNat / 128 * 128
  if decide (s.fld (ctl page 0x120) 1 0 = 2) && ctlOwns s c a then
    let found (s : State) : State := if s.poison.contains (a / 128) then s else eccFound s page a e
    if (s.reg (ctl page 0x100)).getLsbD 63 then
      let s := found ((s.evCount page 0x24 1).evCount page 0x20 1)
      if a = lastLine s c then s.raise page 2 else s
    else found s
  else s

/-! ## SPI and I2C (spec/16 R487, R497) -/

/-- A write of the SPI control register: GO while BUSY is a reserved encoding (spec/16 R487). -/
def spiWrite (s : State) (src : Nat) (w : WReq) : State :=
  let go := (w.val &&& w.mask).getLsbD 63
  let busy := (s.reg (ctl pDev 0x1C0)).getLsbD 62
  if go && busy then s.logErr pDev 1 0x38 src w.raw
  else
    let s := regWrite s src w
    if go then { s.setFld (ctl pDev 0x1C0) 62 62 1 with boot := { s.boot with spiGot := 0 } } else s

/-- A write of SPIBUF (spec/16 R487). -/
def spiBufWrite (s : State) (src : Nat) (w : WReq) : State :=
  if (s.reg (ctl pDev 0x1C0)).getLsbD 62 then s.logErr pDev 1 (w.ca8 % 4096 / 8) src w.raw else regWrite s src w

/-- Put a byte into a register file of doublewords. -/
def putRegByte (s : State) (ca i : Nat) (b : Byte) : State :=
  s.setFld (ca + i / 8 * 8) (63 - 8 * (i % 8)) (56 - 8 * (i % 8)) b.toNat

/-- The next bytes of an SPI operation: a read's are in SPIBUF as they are received, and the operation ends with its last one
(spec/16 R487; log entry 64). -/
def spiDoneOp (s : State) (data : List Byte) : State :=
  let r := s.reg (ctl pDev 0x1C0)
  let got := s.boot.spiGot
  let len := bitsNat r 8 0
  if !r.getLsbD 62 then s
  else if r.getLsbD 42 then s.setFld (ctl pDev 0x1C0) 62 62 0
  else
    let n := min data.length (len - got)
    let s := (List.range n).foldl (fun s i => putRegByte s (ctl pDev 0x400) (got + i) (data.getD i 0)) s
    let s := { s with boot := { s.boot with spiGot := got + n } }
    if got + n < len then s else s.setFld (ctl pDev 0x1C0) 62 62 0

/-- A write of the I2C control register; a GO for a bus that TRAIN holds waits, and one while BUSY is a reserved encoding: the
other fields of its write take effect (spec/16 R497, spec/00 R14). -/
def i2cWrite (s : State) (src : Nat) (w : WReq) : State :=
  let go := (w.val &&& w.mask).getLsbD 63
  let busy := (s.reg (ctl pPwr 0x180)).getLsbD 62
  let s := regWrite s src w
  if go && busy then s.logErr pPwr 1 0x30 src w.raw
  else
    if go then
      let s := s.setFld (ctl pPwr 0x180) 62 62 1
      { s with boot := { s.boot with i2cWaiting := spdOn s (s.fld (ctl pPwr 0x180) 56 56) } }
    else s

/-- An I2C operation ends (spec/16 Map 16-19). -/
def i2cDoneOp (s : State) (nack : Bool) (data : Word) : State :=
  let r := s.reg (ctl pPwr 0x180)
  if !r.getLsbD 62 || s.boot.i2cWaiting then s
  else
    let s := (s.setFld (ctl pPwr 0x180) 62 62 0).setFld (ctl pPwr 0x180) 61 61 (b2n nack)
    if nack || r.getLsbD 35 then s
    else
      let n := min 8 (bitsNat r 3 0)
      s.setFld (ctl pPwr 0x188) 63 (64 - 8 * n) (data.toNat / 2 ^ (64 - 8 * n))

/-! ## Temperature and rails (spec/16 R496–R498) -/

/-- Throttling begins or ends (spec/16 R498). -/
def setThrottling (s : State) (on : Bool) : State := { s with boot := { s.boot with throttling := on } }

/-- TJMAX is updated; throttling and the thermal trip (spec/16 R498). -/
def temperatureOp (s : State) (tj : BitVec 16) : State :=
  let s := s.setReg (ctl pPwr 0x100) (BitVec.ofNat 64 tj.toNat)
  let thr : Int := s.fld (ctl pPwr 0x108) 7 0 * 16
  let hyst : Int := s.fld (ctl pPwr 0x108) 15 8 * 16
  let on := s.boot.throttling
  let s := if !on && decide (thr ≤ tj.toInt) then setThrottling (s.raise pPwr 1) true
    else if on && decide (tj.toInt ≤ thr - hyst) then setThrottling (s.setFld (ctl pPwr 0x18) 1 1 0) false
    else s
  if 1760 ≤ tj.toInt then
    let s := holdReset (s.raise pPwr 2)
    { s with sby := { s.sby with trip := true } }
  else s

/-- A rail within 1 % of its limit. -/
def railWarnOp (s : State) : State := (s.raise pPwr 0).evCount pPwr 0x20 1

/-! ## SMBus target and standby store (spec/16 R488–R490) -/

/-- PSTATE of Layout 16-13. -/
def powerState (s : State) : Nat :=
  if !s.sby.powerGood then 0 else if s.sby.trip then 3 else if s.sby.inReset then 1 else 2

/-- SMB_ALERT_n is low (spec/16 R490). -/
def smbAlert (s : State) : Bool := !s.sby.store.isEmpty || (s.reg (ctl pPwr 0x18)).getLsbD 1

/-- The 7-bit address of the SMBus target (spec/16 R488). -/
def smbAddress (s : State) : BitVec 7 := BitVec.ofNat 7 (0x6C + s.sby.addr.toNat)

/-- A command of the target while V_STBY is in tolerance (spec/16 R488, R489). -/
def smbCmd (s : State) (code : Nat) (allowed : Bool) (run : State → State) : State :=
  if !s.sby.vstby then s
  else
    let s := s.evCount pSmb 0x20 1
    let s := { s with sby := { s.sby with nacked := false, reply := [] } }
    if allowed then
      let s' := run s
      { s' with sby := { s'.sby with lastErr := 0 } }
    else
      State.logErr { s with sby := { s.sby with lastErr := 0x0A } } pSmb 2 0x1E 0x80
        (BitVec.ofNat 64 (powerState s * 256 + code))

/-- The reply of a block read. -/
def smbReply (s : State) (bs : List Byte) : State := { s with sby := { s.sby with reply := bs } }

/-- The STATUS block (spec/16 Layout 16-13). -/
def statusWord (s : State) : Nat :=
  let b := s.reg (ctl pDev 0x1A8)
  powerState s * 2 ^ 56 + b2n s.sby.pwrEn * 2 ^ 55 + b2n s.sby.powerGood * 2 ^ 54 + b2n s.sby.resetN * 2 ^ 53 +
    s.sby.lastErr.toNat * 2 ^ 40 + s.sby.store.length * 2 ^ 32 + satNat 8 s.sby.lost * 2 ^ 24 +
    bitsNat b 63 63 * 2 ^ 23 + hwjState s * 2 ^ 20 + bitsNat b 15 0

/-- The TEMP block (spec/16 Table 16-12). -/
def tempBytes (s : State) : List Byte :=
  beBytes 2 (if s.sby.powerGood then s.fld (ctl pPwr 0x100) 15 0 else 0x8000) ++
    beBytes 1 (s.fld (ctl pPwr 0x108) 7 0) ++ beBytes 1 (s.fld (ctl pPwr 0x18) 2 0)

/-- The oldest entry of the standby store, or zeros (spec/16 Table 16-12). -/
def logBytes (s : State) : List Byte :=
  match s.sby.store with
  | [] => List.replicate 16 0
  | m :: _ => beBytes 8 m.1.toNat ++ beBytes 8 m.2.toNat

/-- V_STBY rises (spec/15 Table 15-3). -/
def standbyResetOp (s : State) (straps : StrapPair) : State :=
  let addr := strapBits s 0 straps
  let s := { s with freeCtr := s.freeCtr + 2 }
  let s := s.resetRegs (fun ca => decide (ca / 4096 = pSmb))
  State.stopPage { s with
      posted := s.posted.filter (fun w => decide (w.ca / 4096 ≠ pSmb)),
      sby := { s.sby with store := [], lost := 0, lastErr := 0, reply := [], nacked := false, addr := addr,
                          vstby := true, onVbat := false, pwrEn := false } } pSmb false

/-- V_STBY leaves tolerance (spec/15 R465): the oscillator of the MGMT domain stops (spec/01 Table 1-6, R31). -/
def standbyLossOp (s : State) : State :=
  State.stopPage { s with sby := { s.sby with vstby := false, onVbat := true } } pSmb true

/-- Calendar power returns after both supplies were absent (spec/15 Table 15-3, R465). -/
def calendarResetOp (s : State) : State :=
  let s := s.resetRegs (fun ca => decide (ca / 4096 = pCal))
  { s with clk := { s.clk with calAcc := 0 }, calShadow := [],
           posted := s.posted.filter (fun w => decide (w.ca / 4096 ≠ pCal)) }

/-! ## Test access port (spec/16 R491, R492) -/

/-- IDCODE (spec/16 Table 16-14). -/
def idcodeWord (s : State) : Nat := if s.isA0 then 0x05200B4F else 0x15200B4F

/-- The instruction of an 8-bit opcode; any other acts as BYPASS (spec/16 Table 16-14, R491). -/
def tapOf (opcode : BitVec 8) : TapInstr :=
  if opcode = 0x00 then .extest else if opcode = 0x01 then .idcode else if opcode = 0x02 then .sample
  else if opcode = 0x04 then .clamp else if opcode = 0x05 then .highz else if opcode = 0x80 then .cpacc else .bypass

/-- The instruction as it acts: all but BYPASS, IDCODE and CPACC take effect only while RESET_n is low (spec/16 R491). -/
def tapActs (s : State) : TapInstr :=
  match s.tap.ir with
  | .idcode => .idcode
  | .cpacc => .cpacc
  | .bypass => .bypass
  | i => if s.sby.resetN then .bypass else i

/-- An opcode is loaded into the instruction register. -/
def tapSelect (s : State) (opcode : BitVec 8) : State := { s with tap := { s.tap with ir := tapOf opcode } }

/-! ## Signals (spec/16 Table 16-6, spec/15 Table 15-4) -/

/-- DDR5 signals of a channel in reset by their position in Table 16-4: DRST_n, DCS_n, DCA with DPAR and DCK, and DQ with DQS. -/
def ddrInReset (pos : Nat) : PinLevel :=
  if pos = 154 then .low
  else if pos = 152 ∨ pos = 153 then .z
  else
    let i := pos % 76
    if i < 60 then .z else if 68 ≤ i ∧ i ≤ 71 then .high else .low

/-- The level at which the device drives a signal by itself: `z` where it drives none; `none` where another standard or the
operation in progress says it. -/
def deviceLevel (s : State) : Signal → Option PinLevel
  | .ddr c pos =>
    if !s.sby.vstby then some .z
    else if !s.powered then some (ddrInReset pos.val)
    else if pos.val = 154 then some (if s.fld (ctl (pDdrc + c.val) 0x120) 1 0 = 0 then .low else .high)
    else none
  | .thermtripN => some (if s.sby.vstby && s.sby.trip then .low else .z)
  | .pwrEn => some (if s.sby.vstby && s.sby.pwrEn then .high else .low)
  | .smbAlertN => some (if s.sby.vstby && smbAlert s then .low else .z)
  | .smbClk => if s.sby.vstby then none else some .z
  | .smbDat => if s.sby.vstby then none else some .z
  | .spiCsN =>
    if !s.sby.vstby then some .z
    else some (if s.powered && (s.reg (ctl pDev 0x1C0)).getLsbD 62 then .low else .high)
  | .spiClk => if !s.sby.vstby then some .z else if s.powered && (s.reg (ctl pDev 0x1C0)).getLsbD 62 then none else some .low
  | .spiIo _ => if s.powered && (s.reg (ctl pDev 0x1C0)).getLsbD 62 then none else some .z
  | .i2cScl _ => if s.powered then none else some .z
  | .i2cSda _ => if s.powered then none else some .z
  | .perst p k =>
    if !s.sby.vstby then some .z
    else some (if s.powered && (subPorts s p).contains k && !perstOn s p k then .high else .low)
  | .ppsIn => some .z
  | .powerGood => some .z
  | .resetN => some .z
  | .smbAddr _ => some .z
  | .bifLand _ _ => some .z

/-- A signal that the device can drive (spec/16 Table 16-6, column Dir). -/
def isOutput : Signal → Bool
  | .ppsIn | .powerGood | .resetN | .smbAddr _ | .bifLand _ _ => false
  | _ => true

/-- The boundary-scan cell of a signal as last loaded; one not loaded holds 0. -/
def bsrCell (cells : List (Signal × Bool)) (q : Signal) : Bool := ((cells.find? (fun c => decide (c.1 = q))).map (·.2)).getD false

/-- The level of a signal at its land: EXTEST and CLAMP hold the outputs at their boundary cells, HIGHZ floats them (spec/16
R491). -/
def signalLevel (s : State) (q : Signal) : Option PinLevel :=
  if !isOutput q then
    match q with
    | .powerGood => some (if s.sby.powerGood then .high else .low)
    | .resetN => some (if s.sby.resetN then .high else .low)
    | _ => none
  else match tapActs s with
    | .extest => some (if bsrCell s.tap.bsr q then .high else .low)
    | .clamp => some (if bsrCell s.tap.bsr q then .high else .low)
    | .highz => some .z
    | _ => deviceLevel s q

/-- EXTEST or SAMPLE/PRELOAD while it acts: the cells capture the levels at the lands (`none`: a level from outside), and are then
loaded (spec/16 R491). -/
def tapScan (s : State) (opcode : BitVec 8) (bsr : List (Signal × Bool)) : State :=
  let s := tapSelect s opcode
  if s.sby.resetN then s
  else { s with tap := { s.tap with bsr := bsr, captured := bsr.map (fun c => (c.1, signalLevel s c.1)) } }

end Sys2Proof.Machine
end

