-- ==== Sys2Proof/Machine/Settle.lean ====
section
/-! DEFINITION. What the Mason, the journal unit and waiting tiles do as soon as they can, after a command has changed what
they wait for. -/

namespace Sys2Proof.Machine

/-- The conditions of JSYNC beside its store buffer (spec/11 R358). -/
def jsyncOk (s : State) (pos : Nat) : Bool :=
  decide (pos ≤ (s.reg (hwjReg 0x110)).toNat) &&
    !s.hwj.inflight.any (fun r => decide (r.pos < pos) && r.needAck && !r.acked)

/-- A tile that waits in JSYNC goes on when its conditions hold. -/
def jsyncTile (s : State) (t : TileId) : State :=
  match (s.tile t).run with
  | .jsyncWait pos =>
    if jsyncOk s pos then
      let x := s.tile t
      let s := tCount s t x.lvl 0x20 1
      s.modTile t (fun x =>
        { x with run := .running, pc := x.pc + 4, icnt := x.icntAfter 1 })
    else s
  | _ => s

/-- Every tile that waits in JSYNC. -/
def jsyncPump (s : State) : State := (List.finRange 100).foldl jsyncTile s

/-- The first snapshot is written as soon as RINGINIT or RINGOPEN completes (spec/11, snapshots). -/
def firstSnapshot (s : State) : State :=
  if s.hwj.snapFirst then snapshotDue (s.modHwj (fun h => { h with snapFirst := false })) else s

/-- The training of every link that has ended answers its command (spec/12 R414; spec/13 R422). -/
def mortPump (s : State) : State := (List.finRange 16).foldl mortCmdEnds s

/-- One round of what is due. -/
def settleOnce (s : State) : State :=
  let s := deliverLoop (s.loopq.length + 8) s
  let s := journalPump (firstSnapshot (resyncPump (migPump s)))
  let s := sessionPump (replyPump s)
  let s := stageCheck (masonPump s)
  jsyncPump (unquenchCheck (quiescedCheck (drainedCheck (mortPump (fencedPump s)))))

/-- What is due, with what it leads to. -/
def settleDev (s : State) : State := settleOnce (settleOnce s)

end Sys2Proof.Machine
end

