-- ==== Sys2Proof/Machine/Control.lean ====
section
/-! DEFINITION. The control space: what a read of each register returns, what a write of each register does, posted
writes, snapshots, and the accesses of tiles, the SMBus target and JTAG to it (spec/13, spec/01 R26–R43). -/

namespace Sys2Proof.Machine

/-- The physical address of a control-space offset. -/
def ctlPa (ca : Nat) : Word := BitVec.ofNat 64 (0x3F0000000000 + ca)

/-! ## Reads -/

/-- IDENT and VERSION (spec/13 Map 13-1, R416). -/
def identWord (k : Kind) (inst : Nat) : Word := BitVec.ofNat 64 ((k.code * 65536 + inst) * 2 ^ 32 + 0x01000000)

/-- Views of the DEV page that are computed. -/
def devView (s : State) (off : Nat) : Word :=
  let ca := ctl pDev off
  if off = 0x100 then s.fuses.partid
  else if off = 0x168 then BitVec.ofNat 64 (s.fld ca 63 48 * 2 ^ 48 + s.mcq.length)
  else if off = 0x170 then (s.mcq.head?.map Prod.fst).getD 0
  else if off = 0x178 then (s.mcq.head?.map Prod.snd).getD 0
  else if off = 0x188 then
    setBits (setBit (s.reg ca) 59 (isGroveRoot s)) 0 9 ((timeParent s).getD 0).toNat
  else s.reg ca

/-- The doubleword that a read of a page returns (the spec's Maps); a register that only writes act on reads 0. -/
def regView (s : State) (page off : Nat) : Word :=
  let ca := ctl page off
  match pageKind page with
  | none => 0
  | some (k, inst) =>
    if off = 0 then identWord k inst
    else if off = 8 then (if k = .dev then BitVec.ofNat 64 (s.fuses.caps0.toNat * 2 ^ 32) else 0)
    else if off = 0x20 then s.reg (ctl page 0x18)
    else if off < 0x100 then s.reg ca
    else match k with
      | .tile | .keyt =>
        if off = 0x108 then s.reg (ctl page 0x100)
        else if off = 0x128 then
          match tileOf? page with
          | some t => (s.tile t).ef.get (Fin.ofNat 512 (s.fld (ctl page 0x120) 8 0))
          | none => 0
        else s.reg ca
      | .kiln =>
        if off = 0x200 then
          match courseOf? inst with
          | some c => BitVec.ofNat 64 (((List.finRange 8).map (fun n =>
              (s.tile (courseTile c n)).kiln.queue.length * 32 ^ n.val)).sum)
          | none => 0
        else s.reg ca
      | .mason =>
        if 0x200 ≤ off ∧ off < 0x2C0 ∧ off % 16 = 0 then
          match courseOf? ((off - 0x200) / 16) with
          | some c => setBits (s.reg ca) 0 11 (depth s c)
          | none => 0
        else s.reg ca
      | .hwj =>
        if off = 0x120 then BitVec.ofNat 64 (drainLim s)
        else if off = 0x160 then BitVec.ofNat 64 (peerSeen s)
        else s.reg ca
      | .pcie =>
        if off = 0x100 then (if h : inst < 2 then BitVec.ofNat 64 (s.boot.bifVal.get ⟨inst, h⟩).toNat else 0) else s.reg ca
      | .mort =>
        if off = 0x120 ∧ (s.reg ca).getLsbD 63 then
          setBits (s.reg ca) 0 16 (ceilDiv ((s.link (Fin.ofNat 16 inst)).qEnd - s.clk.tb.toNat) 1000)
        else s.reg ca
      | .dev => devView s off
      | _ => s.reg ca

/-- The bytes of the doubleword at `ca8` that an access covers (spec/13 R417). -/
def viewBytes (w : Word) (ca n : Nat) : List Byte := ((beBytes 8 w.toNat).drop (ca % 8)).take n

/-! ## Writes -/

/-- STAT_SET: each 1 of a defined bit has the event's effect on STAT, OCCUR and the page interrupt (spec/13 R420). -/
def statSetOp (s : State) (page : Nat) (bits : Word) : State :=
  match pageKind page with
  | none => s
  | some (k, _) => (List.range k.stats).foldl (fun s i => if bits.getLsbD i then s.raise page i else s) s

/-- IENA: a bit that becomes 1 while its STAT bit is 1 rings the doorbell once (spec/13 R421). -/
def ienaOp (s : State) (src page : Nat) (w : WReq) : State :=
  let old := s.reg (ctl page 0x28)
  let s := regWrite s src w
  let new := s.reg (ctl page 0x28)
  if new &&& ~~~old &&& s.reg (ctl page 0x18) ≠ 0 then
    s.bell (s.fld (ctl page 0x10) 63 57) (s.fld (ctl page 0x10) 55 50) else s

/-- A command code reaches the block of a page (spec/13 R422, R423). -/
def cmdOp (s : State) (src : Nat) (k : Kind) (inst code : Nat) : State :=
  match k with
  | .mason => masonCmd s src code
  | .hwj => hwjCmd s src code
  | .mort => mortCmd s src (Fin.ofNat 16 inst) code
  | .rings => ringsCmd s src (Fin.ofNat 12 inst) code
  | .course => courseCmd s src (Fin.ofNat 12 inst) code
  | .ddrc => memCmd s src (pDdrc + inst) code
  | .hbmc => memCmd s src pHbmc code
  | .cal => calCmd s src code
  | .clk => clkCmd s src code
  | .pwr => pwrCmd s src code
  | _ => s

/-- The first write of DEV.PLACE (spec/01 R18, R20, R21): links with AUTO begin to train. -/
def placeOp (s : State) (v : Word) : State :=
  if s.placeSet then s
  else
    let s := s.setReg (ctl pDev 0x108) ((v &&& 0x1FF#64) ||| 0x8000#64)
    (List.finRange 16).foldl autoTrain s

/-- Copy the counters of a page into its SNAP registers (spec/13 R428). -/
def snapPage (s : State) (p : Nat) : State :=
  (List.range 4).foldl (fun s n => s.setReg (ctl p (0xC8 + 8 * n)) (s.reg (ctl p (0xA0 + 8 * n)))) s

/-- Pages that have a block, of remote domains or not. -/
def pagesWhere (remote : Bool) : List Nat :=
  (List.range 256).filter (fun p => (pageKind p).isSome && (remotePage p == remote))

/-- EVSNAP (spec/13 R428, R429). A hold is in force at once, but on a page that has still to capture. -/
def evsnapOp (s : State) (src : Nat) (v raw : Word) : State :=
  let st := ctl pDev 0x148
  if v.getLsbD 0 && (s.reg st).getLsbD 63 then s.logErr pDev 8 0 src raw
  else
    let s := if v.getLsbD 0 then
        let s := (pagesWhere false).foldl snapPage s
        let s := s.setFld st 47 0 (s.fld st 47 0 + 1)
        let s := (s.setReg (ctl pDev 0x150) s.clk.tb).setFld st 63 63 1
        { s with capturing := pagesWhere true }
      else s
    if v.getLsbD 1 && v.getLsbD 2 then s.logErr pDev 1 0x28 src raw
    else if v.getLsbD 1 then
      { s.setFld st 62 62 1 with holdWait := if (s.reg st).getLsbD 62 then s.holdWait else s.capturing }
    else if v.getLsbD 2 then { s.setFld st 62 62 0 with holdWait := [] }
    else s

/-- A remote-domain page captures (spec/01 R33, spec/13 R428). -/
def captureOp (s : State) (p : Nat) : State :=
  if s.capturing.contains p && !s.stopped.contains p then
    let s := snapPage s p
    let s := { s with capturing := s.capturing.filter (fun q => q ≠ p), holdWait := s.holdWait.filter (fun q => q ≠ p) }
    if s.capturing.isEmpty then s.setFld (ctl pDev 0x148) 63 63 0 else s
  else s

/-- POP of the machine-check queue (spec/13 R433). -/
def popOp (s : State) : State := { s with mcq := s.mcq.drop 1 }

/-- DBELL_SET (spec/08 Map 8-10). -/
def dbellSetOp (s : State) (page : Nat) (bits : Word) : State :=
  s.setReg (ctl page 0x100) (s.reg (ctl page 0x100) ||| bits)

/-- IPI_SET: PEND, and SRC names the writer (spec/08 Map 8-10). -/
def ipiSetOp (s : State) (a : Agent) (page : Nat) : State :=
  let src := match a with
    | .tile t => t.val
    | _ => 0x7F
  s.setReg (ctl page 0x110) (BitVec.ofNat 64 (2 ^ 63 + src))

/-- A register with the bits of a write put in. -/
def merged (s : State) (w : WReq) : Word := (s.reg w.ca8 &&& ~~~w.mask) ||| (w.val &&& w.mask)

/-- A write of a ring-pair register (spec/10 Map 10-4). -/
def ringPairOp (s : State) (src off : Nat) (w : WReq) : State :=
  let r : Fin 64 := Fin.ofNat 64 ((off - 0x800) / 32)
  if off % 32 = 0 then ienWrite s src r w
  else if off % 32 = 8 then cenWrite s src r w
  else if off % 32 = 16 then (if w.mask.getLsbD 32 then ccntWrite s src r w else s)
  else regWrite s src w

/-- A write of a DEV register (the spec's Maps of the DEV page). -/
def devWrite (s : State) (src off : Nat) (w : WReq) : State :=
  let low := w.mask.getLsbD 0
  let v := w.val &&& w.mask
  if off = 0x108 then (if low then placeOp s v else s)
  else if off = 0x140 then (if low then evsnapOp s src v w.raw else s)
  else if off = 0x158 then (if v.getLsbD 0 then popOp s else s)
  else if off = 0x160 then
    let s := regWrite s src w
    if allKeystStopped s then s else mcRetarget s
  else if off = 0x180 then
    let s := regWrite s src w
    if (s.reg (ctl pDev 0x180)).getLsbD 63 then s else s.setFld (ctl pDev 0x188) 62 62 0
  else if off = 0x1B0 then devStartOp s v
  else if off = 0x1C0 then spiWrite s src w
  else if 0x400 ≤ off ∧ off < 0x500 then spiBufWrite s src w
  else regWrite s src w

/-- A write as it takes effect in its block (spec/13 R415–R423 and the blocks' chapters). -/
def blockWrite (s : State) (a : Agent) (w : WReq) : State :=
  let page := w.ca8 / 4096
  let off := w.ca8 % 4096
  let src := agentCode a
  let v := w.val &&& w.mask
  match pageKind page with
  | none => s
  | some (k, inst) =>
    if off = 0x20 then statSetOp s page v
    else if off = 0x28 then ienaOp s src page w
    else if off = 0xF0 then (if w.mask.getLsbD 0 then cmdOp s src k inst (bitsNat v 7 0) else s)
    else if off < 0x100 then regWrite s src w
    else match k with
      | .tile | .keyt =>
        if off = 0x108 then dbellSetOp s page v
        else if off = 0x118 then (if v.getLsbD 0 then ipiSetOp s a page else s)
        else regWrite s src w
      | .mason => if 0x800 ≤ off then ringPairOp s src off w else regWrite s src w
      | .hwj =>
        if off = 0x118 then drainWrite s src (merged s w)
        else if off = 0x148 ∧ hwjState s = 0 then
          let s' := regWrite s src w
          if fieldOk s .hwj 0 0x148 47 0 (candidate (fieldsOf .hwj 0x148) (s.reg w.ca8) w.mask w.val) then
            s'.modHwj (fun h => { h with bibaseSet := true }) else s'
        else regWrite s src w
      | .mort => if off = 0x108 then autoTrain (regWrite s src w) (Fin.ofNat 16 inst) else regWrite s src w
      | .pcie => if off = 0x108 then perstWriteOp s src (Fin.ofNat 2 inst) w else regWrite s src w
      | .rings =>
        let c : CourseId := Fin.ofNat 12 inst
        let s := regWrite s src w
        if off = 0x120 ∧ recording s c then ringsDrain s c else s
      | .pwr => if off = 0x180 then i2cWrite s src w else regWrite s src w
      | .dev => devWrite s src off w
      | _ => regWrite s src w

/-! ## Accesses -/

/-- Bytes of an access. -/
def Size.bytes : Size → Nat
  | .b1 => 1 | .b2 => 2 | .b4 => 4 | .b8 => 8

/-- An access to a page index with no block (spec/01 R43). -/
def unassigned (s : State) (a : Agent) (ca : Nat) : State :=
  (s.logErr pDev 5 (ca / 4096) (agentCode a) (ctlPa ca)).evCount pDev 0x21 1

/-- An access to a remote-domain page without a running clock (spec/01 R31). -/
def unclocked (s : State) (a : Agent) (ca : Nat) : State :=
  (s.logErr pDev 6 (ca / 4096) (agentCode a) (ctlPa ca)).evCount pDev 0x21 1

/-- The oldest posted write of a page takes effect (spec/01 R27, R28); one of the CAL page does so at a calendar tick (R32). -/
def postedEffect (s : State) (page : Nat) : State :=
  match (if page = pCal then none else s.posted.find? (fun w => decide (w.ca / 4096 = page))) with
  | none => s
  | some w =>
    let s := { s with posted := s.posted.erase w }
    if s.stopped.contains page then unclocked s w.a w.ca else blockWrite s w.a (wreq w.ca w.sz w.v)

/-- Every posted write of a page takes effect, in order. -/
def flushPosted (page : Nat) : Nat → State → State
  | 0, s => s
  | f + 1, s => flushPosted page f (postedEffect s page)

/-- Posted writes of a page. -/
def postedCount (s : State) (page : Nat) : Nat := (s.posted.filter (fun w => decide (w.ca / 4096 = page))).length

/-- The effect of an access to the control space, counted by the DEV page (spec/13 R425): a counter of that page that is being
written holds the written value and the access itself (R427), and an OVF bit that the access sets is 1 after a write of EVCTL
(spec/00 R12, spec/13 R426). -/
def ctlCounted (ca : Nat) (f : State → State) (s : State) : State :=
  let c := s.evCount pDev 0x20 1
  if ca / 4096 = pDev ∧ inRange (ca % 4096) 0xA0 0xBF then (f s).evCount pDev 0x20 1
  else if ca / 4096 = pDev ∧ inRange (ca % 4096) 0xC0 0xC7 then
    let set := s.reg (ctl pDev 0xC0) ^^^ c.reg (ctl pDev 0xC0)
    let r := f c
    r.setReg (ctl pDev 0xC0) (r.reg (ctl pDev 0xC0) ||| set)
  else f c

/-- A store to the control space, the count of it apart (spec/13 R417, spec/01 R27, R31, R43). -/
def ctlPut (a : Agent) (ca : Nat) (sz : Size) (v : Word) (s : State) : State :=
  let page := ca / 4096
  if (pageKind page).isNone then unassigned s a ca
  else if s.stopped.contains page then unclocked s a ca
  else if sz = .b1 ∨ sz = .b2 then s.logErr page 7 (ca % 4096 / 8) (agentCode a) (ctlPa ca)
  else if remotePage page then { s with posted := s.posted ++ [{ a := a, ca := ca, sz := sz, v := v }] }
  else blockWrite s a (wreq ca sz v)

/-- A store to the control space. -/
def ctlStore (s : State) (a : Agent) (ca : Nat) (sz : Size) (v : Word) : State := ctlCounted ca (ctlPut a ca sz v) s

/-- A doubleword of the CAL page as an agent reads it: the shadow copy of the last tick (spec/01 R32), with the agent's own writes
that have still to take effect (R28; log entry 108). -/
def calView (s : State) (a : Agent) (off : Nat) : Word :=
  let v := s.calShadow.foldl (fun s r => s.setReg r.1 r.2) (s.resetRegs (fun ca => decide (ca / 4096 = pCal)))
  regView ((s.posted.filter (fun w => decide (w.ca / 4096 = pCal ∧ w.a = a))).foldl
    (fun s w => blockWrite s w.a (wreq w.ca w.sz w.v)) v) pCal off

/-- A tick of the crystal, after which it runs (spec/01 R31): the count, the writes that arrived before the last tick (R32), the
shadow copy, and a seed that is due (spec/15 R465–R468). -/
def calTickOp (s : State) : State :=
  let s := calCount (State.stopPage { s with posted := s.posted.map (fun w =>
    if w.ca / 4096 = pCal then { w with ticks := w.ticks + 1 } else w) } pCal false)
  let due (w : Posted) : Bool := decide (w.ca / 4096 = pCal ∧ 2 ≤ w.ticks)
  let s := (s.posted.filter due).foldl (fun s w => calSet (blockWrite s w.a (wreq w.ca w.sz w.v)))
    { s with posted := s.posted.filter (fun w => !due w) }
  whenLive { s with calShadow := s.regs.filter (fun r => decide (r.1 / 4096 = pCal)) } seedTb

/-- A read of TILE.EFDATA or KEYT.EFDATA steps an index that has AUTO set (spec/08 R259, Map 8-10). -/
def efAuto (s : State) (page off : Nat) : State :=
  match pageKind page with
  | some (.tile, _) | some (.keyt, _) =>
    let w := s.reg (ctl page 0x120)
    if off = 0x128 ∧ w.getLsbD 9 then s.setFld (ctl page 0x120) 8 0 ((bitsNat w 8 0 + 1) % 512) else s
  | _ => s

/-- A load of the control space: its bytes (spec/13 R417, spec/01 R28, R31, R43). -/
def ctlLoad (s : State) (a : Agent) (ca n : Nat) : List Byte × State :=
  let page := ca / 4096
  let s := s.evCount pDev 0x20 1
  if (pageKind page).isNone then (List.replicate n 0, unassigned s a ca)
  else if s.stopped.contains page then (List.replicate n 0xFF, unclocked s a ca)
  else
    let s := if s.posted.any (fun w => decide (w.ca / 4096 = page ∧ w.a = a)) then
        flushPosted page (postedCount s page) s else s
    let off := ca % 4096 / 8 * 8
    (viewBytes (if page = pCal then calView s a off else regView s page off) ca n, efAuto s page (ca % 4096 / 8 * 8))

/-- A row of the table that is one register's write: earlier posted writes of the page first (spec/01 R28), then this
one takes effect; a write of the CAL page does so at the second tick (R32). Without a running clock it is discarded and logged
(R31). -/
def rowWrite (s : State) (a : Agent) (ca : Nat) (v : Word) : State :=
  let page := ca / 4096
  ctlCounted ca (fun s =>
    let s := flushPosted page (postedCount s page) s
    if (pageKind page).isNone then unassigned s a ca
    else if s.stopped.contains page then unclocked s a ca
    else if page = pCal then { s with posted := s.posted ++ [{ a := a, ca := ca, sz := .b8, v := v }] }
    else blockWrite s a (wreq ca .b8 v)) s

/-! ## Store buffer (spec/03 R97, spec/09 R288) -/

/-- Size of a scalar access in bytes. -/
def sizeOf (n : Nat) : Size := if n = 1 then .b1 else if n = 2 then .b2 else if n = 4 then .b4 else .b8

/-- A retired store is performed: control space, a PCI Express window, or memory with its before-image (spec/11 R348,
R349) and its poison (spec/09 R295). -/
def storeEffect (s : State) (t : TileId) (e : StoreEntry) : State :=
  match regionOf s e.pa with
  | .control =>
    settleDev (ctlStore s (.tile t) (e.pa - 0x3F0000000000) (sizeOf e.bytes.length) (BitVec.ofNat 64 (ofBytes e.bytes)))
  | .pcie p => windowStore s p (e.pa - 0x100000000000 - p.val * 0x040000000000)
  | _ =>
    let s := if e.brick then brickWrite s (s.tile t).tk e.pa e.bytes.length else s
    (s.setBytes e.pa e.bytes).unpoison e.pa e.bytes.length

/-- The oldest store buffer entry of a tile is written. -/
def drainOne (s : State) (t : TileId) : State :=
  match (s.tile t).sbuf with
  | [] => s
  | e :: r => storeEffect (s.modTile t (fun x => { x with sbuf := r })) t e

/-- The first `n` entries of a tile's store buffer are written, oldest first. -/
def drainN (t : TileId) : Nat → State → State
  | 0, s => s
  | n + 1, s => drainN t n (drainOne s t)

/-- A tile's store buffer empties. -/
def drainTile (s : State) (t : TileId) : State := drainN t (s.tile t).sbuf.length s

end Sys2Proof.Machine
end

