-- ==== Sys2Proof/Machine/Operands.lean ====
section
/-! DEFINITION. Operand forms and data accesses of a tile: addresses of scalar forms, loads with forwarding, stores into the store buffer
(spec/02 R77–R79, spec/03 R94–R99, spec/09 R287). -/

namespace Sys2Proof.Machine

/-- The context of the tile's level. -/
def dataCtx (s : State) (t : TileId) : Ctx := ctxOf s t (s.tile t).lvl

/-- An address as an instruction names it: an offset in the brick of slot `k`, or a virtual address. -/
inductive Addr where
  | brick (k : Fin 4) (off : Nat)
  | virt (va : Word)
  deriving DecidableEq, Repr

/-- FADDR of an address: the virtual address, or the brick offset (spec/04 R133, spec/02 R79). -/
def Addr.fa : Addr → Word
  | .brick _ off => BitVec.ofNat 64 off
  | .virt va => va

/-- An address moved up. -/
def Addr.plus (a : Addr) (n : Nat) : Addr :=
  match a with
  | .brick k off => .brick k (off + n)
  | .virt va => .virt (va + BitVec.ofNat 64 n)

/-- The checks of a brick access of `n` bytes (spec/02 R77, R79): its place, or the exception. -/
def brickXl (s : State) (t : TileId) (k : Acc) (slot : Fin 4) (off n : Nat) : R Xl :=
  let bb := (s.tile t).bb.get slot
  let f (sub : Nat) : R Xl := .exc { code := 5, sub := sub, faddr := BitVec.ofNat 64 off, finfo := BitVec.ofNat 64 slot.val } s
  if !bb.getLsbD 63 then f 1
  else if k.writes && !bb.getLsbD 62 then f 2
  else if 4096 < off + n then f 3
  else .ok { pa := bitsNat bb 47 12 * 4096 + off, ty := .brick } s

/-- Where an access of `n` bytes in one page goes. -/
def place (s : State) (t : TileId) (c : Ctx) (k : Acc) (a : Addr) (n : Nat) : R Xl :=
  match a with
  | .brick slot off => brickXl s t k slot off n
  | .virt va => translate s t .data c k va n

/-- A scalar access: brick checks, then alignment, then translation (spec/02 R77). -/
def scalarXl (s : State) (t : TileId) (k : Acc) (a : Addr) (n : Nat) : R Xl :=
  let align : Exc := { code := 4, sub := 0, faddr := a.fa }
  match a with
  | .brick slot off =>
    (brickXl s t k slot off n).bind (fun x s => if x.pa % n ≠ 0 then .exc align s else .ok x s)
  | .virt va => if va.toNat % n ≠ 0 then .exc align s else translate s t .data (dataCtx s t) k va n

/-- The address of an M-format or indexed form (spec/02 Table 2-17). -/
def refAddr (x : Tile) (m : MemRef) : Addr :=
  match m with
  | .mform base disp =>
    if h : base.toNat < 4 then .brick ⟨base.toNat, h⟩ disp.toNat
    else .virt (x.g (BitVec.ofNat 5 (16 + base.toNat)) + disp.signExtend 64)
  | .indexed ra rb => .virt (x.g ra + x.g rb)

/-- General registers that an address form reads. -/
def refRegs (m : MemRef) : List (BitVec 5) :=
  match m with
  | .mform base _ => if base.toNat < 4 then [] else [BitVec.ofNat 5 (16 + base.toNat)]
  | .indexed ra rb => [ra, rb]

/-- A load of `n` bytes of cacheable memory that needs neither a walk nor an A update: it need not be the oldest instruction of
the commit window (spec/03 R94, spec/09 R277). -/
def quickLoad (s : State) (t : TileId) (a : Addr) : Bool :=
  match a with
  | .brick _ _ => true
  | .virt va =>
    let c := dataCtx s t
    if va.toNat / 2 ^ 48 ≠ 0 then true
    else if c.lvl = .keystone then !deviceRegion s va.toNat
    else match spanHit s t c.lvl va.toNat with
      | some (_, r, pa) => decide (bitsNat r 61 60 = 0) && !deviceRegion s pa
      | none =>
        match (s.tile t).dtlb.find? (fun e => e.hits (va.toNat / 0x4000) c.ast) with
        | some e => decide (bitsNat e.w0 61 60 = 0) && e.w0.getLsbD 58
        | none => false

/-! ## Loads -/

/-- The index of the youngest store buffer entry that overlaps a load (spec/03 R99). -/
def lastOverlap (q : List StoreEntry) (pa n : Nat) : Option Nat :=
  ((List.range q.length).filter (fun i =>
    match q[i]? with
    | some e => decide (e.pa < pa + n ∧ pa < e.pa + e.bytes.length)
    | none => false)).getLast?

/-- The oldest entries up to the youngest overlapping one are written, unless that one forwards (spec/03 R99); every
entry where a device store waits (spec/09 R287). -/
def readNormal (s : State) (t : TileId) (pa n : Nat) : R (List Byte) :=
  let q := (s.tile t).sbuf
  let s := if q.any (fun e => e.device) then drainTile s t else s
  let q := (s.tile t).sbuf
  let mem (s : State) : R (List Byte) :=
    match poisonExc s pa n with
    | some e => .exc e s
    | none => .ok (s.bytes pa n) s
  match lastOverlap q pa n with
  | none => mem s
  | some i =>
    match q[i]? with
    | some e => if e.pa = pa ∧ e.bytes.length = n then .ok e.bytes s else mem (drainN t (i + 1) s)
    | none => mem s

/-- The tile runs the ticket under replay (spec/14 R445). -/
def replayTile (s : State) (t : TileId) : Bool :=
  s.replaying t && decide ((s.course (courseOf t)).rings.rTile = some t) && decide ((s.tile t).lvl = .ledger)

/-- A load of memory of type recorded: from the recording in replay, else from memory and recorded (spec/09 R282, spec/14
R435, R445). It waits for room in the record buffer (spec/14 R441). -/
def readRecorded (s : State) (t : TileId) (a : Addr) (pa n : Nat) : R (List Byte) :=
  let s := drainTile s t
  if replayTile s t then
    match replayLoad t (n / 64 + 2) n s with
    | (some bs, s) => .ok bs s
    | (none, s) => .halt s
  else
    match poisonExc s pa n with
    | some e => .exc e s
    | none =>
      if ringsStalls s t (16 + min n 64) then .halt s
      else
        let bs := s.bytes pa n
        .ok bs (ringsRload s t a.fa.toNat bs)

/-- A load of memory of type device, at the head of the commit window with the store buffer empty (spec/03 R94). A ledger
tile's load of the CAL page is recorded (spec/14 Table 14-2). -/
def readDevice (s : State) (t : TileId) (pa n : Nat) : R (List Byte) :=
  let s := drainTile s t
  match regionOf s pa with
  | .control =>
    let ca := pa - 0x3F0000000000
    if decide (ca / 4096 = pCal) && ringsStalls s t 16 then .halt s
    else
      let (bs, s) := ctlLoad s (.tile t) ca n
      .ok bs (if ca / 4096 = pCal then
        ringsEvent s t 0x06 (beBytes 8 (ca % 4096) ++ beBytes 8 (ofBytes bs)) else s)
  | .pcie p =>
    let (bs, s) := windowLoad s p (pa - 0x100000000000 - p.val * 0x040000000000) n
    .ok bs s
  | _ =>
    match poisonExc s pa n with
    | some e => .exc e s
    | none => .ok (s.bytes pa n) s

/-- The bytes of a load that goes to `x`. -/
def readAt (s : State) (t : TileId) (a : Addr) (x : Xl) (n : Nat) : R (List Byte) :=
  match x.ty with
  | .normal | .brick => readNormal s t x.pa n
  | .recorded => if isKeyst t then readNormal s t x.pa n else readRecorded s t a x.pa n
  | .device => readDevice s t x.pa n

/-! ## Stores -/

/-- Entries of a store buffer (spec/03 R97). -/
def sbufSize : Nat := 8

/-- A store enters the store buffer; the oldest entry is written first where the buffer is full (spec/03 R97). -/
def pushStore (s : State) (t : TileId) (x : Xl) (bytes : List Byte) : State :=
  let s := if sbufSize ≤ (s.tile t).sbuf.length then drainOne s t else s
  s.modTile t (fun y => { y with sbuf := y.sbuf ++
    [{ pa := x.pa, bytes := bytes, device := decide (x.ty = .device), brick := decide (x.ty = .brick), via := x.via }] })

/-- A store performed at once, with nothing of the tile before it in the store buffer: atomics and units of long
instructions (spec/09 R288, spec/05 R166). -/
def storeNow (s : State) (t : TileId) (x : Xl) (bytes : List Byte) : State :=
  storeEffect (drainTile s t) t
    { pa := x.pa, bytes := bytes, device := decide (x.ty = .device), brick := decide (x.ty = .brick), via := x.via }

/-! ## Accesses that may cross a page -/

/-- The pieces of an access of `n` bytes: one for each page of 16 KiB it touches (spec/04 R147). -/
def pieces (a : Addr) (n : Nat) : List (Addr × Nat) :=
  match a with
  | .brick _ _ => [(a, n)]
  | .virt va =>
    let first := 0x4000 - va.toNat % 0x4000
    if n ≤ first then [(a, n)] else [(a, first), (a.plus first, n - first)]

/-- Translate every piece before any access. -/
def placePieces (s : State) (t : TileId) (c : Ctx) (k : Acc) : List (Addr × Nat) → R (List (Addr × Xl × Nat))
  | [] => .ok [] s
  | (a, n) :: r =>
    (place s t c k a n).bind (fun x s => (placePieces s t c k r).bind (fun l s => .ok ((a, x, n) :: l) s))

/-- Translate every piece before any access; an access that faults in a later piece has made no access, and leaves no A or D
bit that an earlier piece would have set (spec/04 R147, spec/03 R92); the event counts of its walks stay. -/
def placeAll (s : State) (t : TileId) (c : Ctx) (k : Acc) (l : List (Addr × Nat)) : R (List (Addr × Xl × Nat)) :=
  match placePieces s t c k l with
  | .exc e s' => .exc e (if l.length < 2 then s' else { s with regs := s'.regs })
  | r => r

/-- Read the pieces one by one. -/
def readPieces (s : State) (t : TileId) : List (Addr × Xl × Nat) → R (List Byte)
  | [] => .ok [] s
  | (a, x, n) :: r =>
    (readAt s t a x n).bind (fun b s => (readPieces s t r).bind (fun l s => .ok (b ++ l) s))

/-- Read every piece. An access of two pages takes no data from the store buffer, whose entries hold one page each: it waits
until they are written (spec/03 R99); and it waits until the records of both pieces find room (spec/14 R441). -/
def readAll (s : State) (t : TileId) (l : List (Addr × Xl × Nat)) : R (List Byte) :=
  if l.length < 2 then readPieces s t l
  else
    let n := ((l.filter (fun q => decide (q.2.1.ty = .recorded))).map (fun q => 32 + ceilDiv q.2.2 16 * 16)).sum
    if n ≠ 0 ∧ !replayTile s t ∧ ringsFull s t n then .halt s
    else match readPieces (drainTile s t) t l with
      | .exc e _ => .exc e s
      | r => r

/-- Write every piece through `put`. -/
def writeAll (put : State → Xl → List Byte → State) : List (Addr × Xl × Nat) → List Byte → State → State
  | [], _, s => s
  | (_, x, n) :: r, bs, s => writeAll put r (bs.drop n) (put s x (bs.take n))

end Sys2Proof.Machine
end

