-- ==== Sys2Proof/Machine/Digits.lean ====
section
/-! DEFINITION. Packed decimal values: fields, registers, pairs, signs, overflow and rounding (spec/04 R124–R132). -/

namespace Sys2Proof.Machine

/-- A signed decimal value: its sign, kept where the magnitude is 0, and its magnitude. -/
structure Dec where
  neg : Bool
  mag : Nat
  deriving DecidableEq, Repr

/-- The value with the sign inverted. -/
def Dec.opp (a : Dec) : Dec := { a with neg := !a.neg }

/-- As an integer. -/
def Dec.int (a : Dec) : Int := if a.neg then -(a.mag : Int) else a.mag

/-- The number that `n` BCD nibbles spell, the least significant lowest. -/
def bcdVal : Nat → Nat → Nat
  | 0, _ => 0
  | n + 1, v => v % 16 + 10 * bcdVal n (v / 16)

/-- `n` BCD nibbles of a number. -/
def bcdOf : Nat → Nat → Nat
  | 0, _ => 0
  | n + 1, v => v % 10 + 16 * bcdOf n (v / 10)

/-- A sign nibble is minus (spec/04 Table 4-2). -/
def signMinus (n : Nat) : Bool := decide (n = 0xB ∨ n = 0xD)

/-- Nibbles of bytes, in the order of R124. -/
def nibblesOf (bs : List Byte) : List Nat := (bs.map (fun b => [b.toNat / 16, b.toNat % 16])).flatten

/-- The number of the first invalid nibble of a field (spec/04 R125, R133). -/
def badNibble (bs : List Byte) : Option Nat :=
  let ns := nibblesOf bs
  (List.range ns.length).find? (fun i =>
    if i + 1 = ns.length then decide (ns.getD i 0 < 0xA) else decide (9 < ns.getD i 0))

/-- The value of a field of bytes (spec/04 R124, Table 4-2). -/
def fieldVal (bs : List Byte) : Dec :=
  let v := ofBytes bs
  { neg := signMinus (v % 16), mag := bcdVal (2 * bs.length - 1) (v / 16) }

/-- The value of a decimal register (spec/04 Layout 4-3). -/
def decVal (x : BitVec 128) : Dec := { neg := signMinus (x.toNat % 16), mag := bcdVal 31 (x.toNat / 16) }

/-- The field of `n` digits and a sign, as a number (spec/04 R126). -/
def packDec (digits : Nat) (neg : Bool) (mag : Nat) : Nat := bcdOf digits mag * 16 + (if neg then 0xD else 0xC)

/-- A decimal register of a value. -/
def decReg (neg : Bool) (mag : Nat) : BitVec 128 := BitVec.ofNat 128 (packDec 31 neg mag)

/-- The value of a pair: even register, odd register (spec/04 R127). -/
def wideVal (hi lo : BitVec 128) : Dec :=
  let h := decVal hi
  let l := decVal lo
  { neg := l.neg, mag := b2n h.neg * 10 ^ 62 + h.mag * 10 ^ 31 + l.mag }

/-- The pair of a value below 2 × 10^62 (spec/04 Layout 4-4). -/
def widePack (neg : Bool) (mag : Nat) : BitVec 128 × BitVec 128 :=
  (decReg (decide (10 ^ 62 ≤ mag)) (mag % 10 ^ 62 / 10 ^ 31), decReg neg (mag % 10 ^ 31))

/-- Limit of a register and of a pair (spec/04, finish). -/
def decLimit : Nat := 10 ^ 31
/-- Limit of a pair. -/
def wideLimit : Nat := 2 * 10 ^ 62

/-- Sum of signed magnitudes; a zero sum is minus where both addends are (spec/04 Table 4-7). -/
def Dec.add (a b : Dec) : Dec :=
  if a.neg = b.neg then { neg := a.neg, mag := a.mag + b.mag }
  else if b.mag < a.mag then { neg := a.neg, mag := a.mag - b.mag }
  else if a.mag < b.mag then { neg := b.neg, mag := b.mag - a.mag }
  else { neg := false, mag := 0 }

/-- Product; a zero product is minus where the signs differ (spec/04 Table 4-7). -/
def Dec.mul (a b : Dec) : Dec := { neg := a.neg != b.neg, mag := a.mag * b.mag }

/-- What `finish` delivers (spec/04, finish; R126, R131): the sign, the magnitude, and whether the exact result
overflowed. A zero result, an overflow's included, keeps its sign where KEEPZ is 1. -/
def finishDec (keepz : Bool) (v : Dec) (limit : Nat) : Dec × Bool :=
  let m := v.mag % limit
  ({ neg := v.neg && (keepz || decide (m ≠ 0)), mag := m }, decide (limit ≤ v.mag))

/-- A magnitude divided by 10^n and rounded, and whether a nonzero digit was discarded (spec/04 Table 4-8, R132). -/
def roundDec (m : Rnd) (mag n : Nat) : Nat × Bool :=
  let p := 10 ^ n
  let q := mag / p
  let r := mag % p
  let up := match m with
    | .halfUp => decide (p ≤ 2 * r ∧ r ≠ 0)
    | .halfEven => decide (p < 2 * r) || (decide (p = 2 * r) && decide (q % 2 = 1))
    | .truncate => false
  (q + b2n up, decide (r ≠ 0))

/-- The rounding mode of DCTL.RMODE (spec/04 Map 4-6, R128). -/
def dctlRnd (dctl : BitVec 8) : Rnd :=
  match bitsNat dctl 1 0 with
  | 1 => .halfEven
  | 2 => .truncate
  | _ => .halfUp

/-- The mode of DSHR's RM field (spec/04 Layout 4-12). -/
def rndOf (r : RndSel) (dctl : BitVec 8) : Rnd :=
  match r with
  | .halfUp => .halfUp
  | .halfEven => .halfEven
  | .truncate => .truncate
  | .dctl => dctlRnd dctl

/-- A condition of DCMP (spec/04 Table 4-11). -/
def DecCond.holds (c : DecCond) (a b : Dec) : Bool :=
  match c with
  | .eq => decide (a.int = b.int)
  | .ne => decide (a.int ≠ b.int)
  | .lt => decide (a.int < b.int)
  | .le => decide (a.int ≤ b.int)
  | .gt => decide (b.int < a.int)
  | .ge => decide (b.int ≤ a.int)

end Sys2Proof.Machine
end

