-- ==== Sys2Proof/Machine/Fp32.lean ====
section
/-! DEFINITION. FP32 arithmetic: one exact result rounded once, with its conditions (spec/07 R230–R236). -/

namespace Sys2Proof.Machine

/-- Conditions as FSTAT[4:0] holds them (spec/07 Map 7-2). -/
def fIV : BitVec 5 := 1
def fDZ : BitVec 5 := 2
def fOF : BitVec 5 := 4
def fUF : BitVec 5 := 8
def fIX : BitVec 5 := 16

/-- The canonical NaN (spec/07 R233). -/
def canonNaN : BitVec 32 := 0x7FC00000#32

/-- A result and its conditions. -/
abbrev FRes := BitVec 32 × BitVec 5

def fNeg (x : BitVec 32) : Bool := x.getLsbD 31
def fExp (x : BitVec 32) : Nat := bitsNat x 30 23
def fFrac (x : BitVec 32) : Nat := bitsNat x 22 0
def fNaN (x : BitVec 32) : Bool := decide (fExp x = 255 ∧ fFrac x ≠ 0)
def fSNaN (x : BitVec 32) : Bool := fNaN x && !x.getLsbD 22
def fInf (x : BitVec 32) : Bool := decide (fExp x = 255 ∧ fFrac x = 0)
def fZero (x : BitVec 32) : Bool := decide (fExp x = 0 ∧ fFrac x = 0)
def fSub (x : BitVec 32) : Bool := decide (fExp x = 0 ∧ fFrac x ≠ 0)

/-- Significand of a finite value as an integer. -/
def fSig (x : BitVec 32) : Nat := if fExp x = 0 then fFrac x else 2 ^ 23 + fFrac x
/-- Exponent of the significand's last bit. -/
def fE (x : BitVec 32) : Int := (max (fExp x) 1 : Nat) - 150

/-- A signed zero, infinity, largest finite value. -/
def fSigned (neg : Bool) (v : BitVec 32) : BitVec 32 := if neg then v ||| 0x80000000#32 else v
def zeroF (neg : Bool) : BitVec 32 := fSigned neg 0
def infF (neg : Bool) : BitVec 32 := fSigned neg 0x7F800000#32
def maxF (neg : Bool) : BitVec 32 := fSigned neg 0x7F7FFFFF#32

/-- A flushed operand (spec/07 R236). -/
def flushF (ftz : Bool) (x : BitVec 32) : BitVec 32 := if ftz && fSub x then zeroF (fNeg x) else x

/-- `sig × 2^e` rounded to a multiple of 2^u in mode `frm`: the multiple, and whether it is inexact (spec/07 R230). -/
def roundAt (frm : Nat) (neg : Bool) (sig : Nat) (e u : Int) : Nat × Bool :=
  if u ≤ e then (sig * 2 ^ (e - u).toNat, false)
  else
    let p := 2 ^ (u - e).toNat
    let q := sig / p
    let r := sig % p
    let up := match frm with
      | 0 => decide (p < 2 * r) || (decide (p = 2 * r) && decide (q % 2 = 1))
      | 1 => false
      | 2 => !neg && decide (r ≠ 0)
      | _ => neg && decide (r ≠ 0)
    (q + b2n up, decide (r ≠ 0))

/-- The result of an overflow (spec/07 R231). -/
def overflowF (frm : Nat) (neg : Bool) : BitVec 32 :=
  match frm with
  | 0 => infF neg
  | 1 => maxF neg
  | 2 => if neg then maxF neg else infF neg
  | _ => if neg then infF neg else maxF neg

/-- A nonzero exact value `± sig × 2^e` rounded to binary32 (spec/07 R230, R231, R236). -/
def packF (frm : Nat) (ftz neg : Bool) (sig : Nat) (e : Int) : FRes :=
  let u1 : Int := e + (Nat.log2 sig : Int) - 23
  let m1 := (roundAt frm neg sig e u1).1
  let top : Int := if 2 ^ 24 ≤ m1 then u1 + 24 else u1 + 23
  if 127 < top then (overflowF frm neg, fOF ||| fIX)
  else if ftz ∧ top < -126 then (zeroF neg, fUF ||| fIX)
  else
    let u := max u1 (-149)
    let r := roundAt frm neg sig e u
    (fSigned neg (BitVec.ofNat 32 ((u + 149).toNat * 2 ^ 23 + r.1)),
      (if r.2 then fIX else 0) ||| (if r.2 ∧ top < -126 then fUF else 0))

/-- The sign of an exact zero sum (spec/07 R231). -/
def zeroSum (frm : Nat) : BitVec 32 := zeroF (decide (frm = 3))

/-- The exact sum of two finite values, rounded. -/
def addExact (frm : Nat) (ftz na : Bool) (sa : Nat) (ea : Int) (nb : Bool) (sb : Nat) (eb : Int) : FRes :=
  if sa = 0 ∧ sb = 0 ∧ na = nb then (zeroF na, 0)
  else
    let e := min ea eb
    let a : Int := (sa * 2 ^ (ea - e).toNat : Nat)
    let b : Int := (sb * 2 ^ (eb - e).toNat : Nat)
    let v := (if na then -a else a) + (if nb then -b else b)
    if v = 0 then (zeroSum frm, 0) else packF frm ftz (decide (v < 0)) v.natAbs e

/-- Addition (spec/07 R230). -/
def addF (frm : Nat) (ftz : Bool) (a b : BitVec 32) : FRes :=
  let a := flushF ftz a
  let b := flushF ftz b
  if fNaN a ∨ fNaN b then (canonNaN, if fSNaN a ∨ fSNaN b then fIV else 0)
  else if fInf a then (if fInf b ∧ fNeg a ≠ fNeg b then (canonNaN, fIV) else (a, 0))
  else if fInf b then (b, 0)
  else addExact frm ftz (fNeg a) (fSig a) (fE a) (fNeg b) (fSig b) (fE b)

/-- The sign inverted, a NaN made canonical (spec/07 R229, R233). -/
def negF (x : BitVec 32) : BitVec 32 := if fNaN x then canonNaN else x ^^^ 0x80000000#32

/-- The sign cleared. -/
def absF (x : BitVec 32) : BitVec 32 := if fNaN x then canonNaN else x &&& 0x7FFFFFFF#32

/-- Subtraction. A NaN keeps its kind. -/
def subF (frm : Nat) (ftz : Bool) (a b : BitVec 32) : FRes := addF frm ftz a (if fNaN b then b else negF b)

/-- Multiplication. -/
def mulF (frm : Nat) (ftz : Bool) (a b : BitVec 32) : FRes :=
  let a := flushF ftz a
  let b := flushF ftz b
  let neg := fNeg a != fNeg b
  if fNaN a ∨ fNaN b then (canonNaN, if fSNaN a ∨ fSNaN b then fIV else 0)
  else if fInf a ∨ fInf b then (if fZero a ∨ fZero b then (canonNaN, fIV) else (infF neg, 0))
  else if fZero a ∨ fZero b then (zeroF neg, 0)
  else packF frm ftz neg (fSig a * fSig b) (fE a + fE b)

/-- a × b + c with one rounding. A subnormal c is flushed with FTZ = 1 (spec/07 R236), where R241 reads otherwise (log entry
111). -/
def fmaF (frm : Nat) (ftz : Bool) (a b c : BitVec 32) : FRes :=
  let a := flushF ftz a
  let b := flushF ftz b
  let c := flushF ftz c
  let neg := fNeg a != fNeg b
  let zeroInf := (fInf a && fZero b) || (fZero a && fInf b)
  if fNaN a ∨ fNaN b ∨ fNaN c then
    (canonNaN, if fSNaN a ∨ fSNaN b ∨ fSNaN c ∨ zeroInf then fIV else 0)
  else if zeroInf then (canonNaN, fIV)
  else if fInf a ∨ fInf b then (if fInf c ∧ fNeg c ≠ neg then (canonNaN, fIV) else (infF neg, 0))
  else if fInf c then (c, 0)
  else addExact frm ftz neg (fSig a * fSig b) (fE a + fE b) (fNeg c) (fSig c) (fE c)

/-- A finite or infinite value as an ordered integer: infinities outermost, zeros equal. -/
def fOrd (x : BitVec 32) : Int :=
  let m : Int := (x.toNat % 2 ^ 31 : Nat)
  if fNeg x then -m else m

/-- Minimum and maximum (spec/07 R233). -/
def minMaxF (mx ftz : Bool) (a b : BitVec 32) : FRes :=
  let a := flushF ftz a
  let b := flushF ftz b
  if fSNaN a ∨ fSNaN b then (canonNaN, fIV)
  else if fNaN a ∧ fNaN b then (canonNaN, 0)
  else if fNaN a then (b, 0)
  else if fNaN b then (a, 0)
  else
    let less := decide (fOrd a < fOrd b) || (decide (fOrd a = fOrd b) && fNeg a && !fNeg b)
    (if less = mx then b else a, 0)

/-- Compares (spec/07 R234). -/
def cmpF (f : FCmpFn) (ftz : Bool) (a b : BitVec 32) : Bool × BitVec 5 :=
  let a := flushF ftz a
  let b := flushF ftz b
  let nan := fNaN a || fNaN b
  let quiet : BitVec 5 := if fSNaN a ∨ fSNaN b then fIV else 0
  match f with
  | .eq => (!nan && decide (fOrd a = fOrd b), quiet)
  | .un => (nan, quiet)
  | .lt => (!nan && decide (fOrd a < fOrd b), if nan then fIV else 0)
  | .le => (!nan && decide (fOrd a ≤ fOrd b), if nan then fIV else 0)

/-- Conversion to a signed integer of `w` bits (spec/07 R235). -/
def toIntF (frm : Nat) (ftz : Bool) (w : Nat) (x : BitVec 32) : Int × BitVec 5 :=
  let x := flushF ftz x
  let neg := fNeg x
  let sat : Int := if neg then -(2 ^ (w - 1) : Nat) else (2 ^ (w - 1) - 1 : Nat)
  if fNaN x then (0, fIV)
  else if fInf x then (sat, fIV)
  else
    let r := roundAt frm neg (fSig x) (fE x) 0
    let v : Int := if neg then -(r.1 : Int) else r.1
    if v < -(2 ^ (w - 1) : Nat) ∨ (2 ^ (w - 1) - 1 : Nat) < v then (sat, fIV)
    else (v, if r.2 then fIX else 0)

/-- Conversion of an integer (spec/07 Table 7-3). -/
def ofIntF (frm : Nat) (v : Int) : FRes := if v = 0 then (0, 0) else packF frm false (decide (v < 0)) v.natAbs 0

/-! ## Division by step (spec/07 R237) -/

/-- sig(x) of the pseudocode: 2^23 ≤ sig < 2^24. -/
def sigD (x : BitVec 32) : Nat := fSig x * 2 ^ (23 - Nat.log2 (fSig x))

/-- ex(x): x = sig(x) × 2^(ex(x) − 23). -/
def exD (x : BitVec 32) : Int := fE x + (Nat.log2 (fSig x) : Int)

/-- Table 7-5: result, invalid, division by zero. -/
def decidedDiv (a b : BitVec 32) : BitVec 32 × Bool × Bool :=
  let s := fNeg a != fNeg b
  if fNaN a ∨ fNaN b then (canonNaN, fSNaN a || fSNaN b, false)
  else if (fZero a ∧ fZero b) ∨ (fInf a ∧ fInf b) then (canonNaN, true, false)
  else if fInf a then (infF s, false, false)
  else if fZero b then (infF s, false, true)
  else (zeroF s, false, false)

/-- FDIVS: g[rd] and g[rd+1]. -/
def fdivsF (a b : BitVec 32) : Word × Word :=
  let s := fNeg a != fNeg b
  let special (x : BitVec 32) : Bool := fNaN x || fZero x || fInf x
  if special a ∨ special b then
    let (res, iv, dz) := decidedDiv a b
    (BitVec.ofNat 64 (2 ^ 63 + b2n s * 2 ^ 62 + b2n dz * 2 ^ 41 + b2n iv * 2 ^ 40), res.setWidth 64)
  else
    let e := exD a - exD b
    let (ma, e) := if sigD a < sigD b then (2 * sigD a, e - 1) else (sigD a, e)
    (BitVec.ofNat 64 (b2n s * 2 ^ 62 + (BitVec.ofInt 14 e).toNat * 2 ^ 48), BitVec.ofNat 64 ma)

/-- One of the four repetitions of FDSTEP. -/
def fdbit (d : Nat) (qr : Nat × Nat) : Nat × Nat :=
  if d ≤ qr.2 then ((2 * qr.1 + 1) % 2 ^ 28, 2 * (qr.2 - d) % 2 ^ 64) else (2 * qr.1 % 2 ^ 28, 2 * qr.2 % 2 ^ 64)

/-- FDSTEP; a divisor that is no finite nonzero value has no significand (`none`). -/
def fdstepF (q r : Word) (b : BitVec 32) : Word × Word :=
  if q.getLsbD 63 then (q, r)
  else
    let z := fdbit (sigD b) (fdbit (sigD b) (fdbit (sigD b) (fdbit (sigD b) (bitsNat q 27 0, r.toNat))))
    (setBits q 0 28 z.1, BitVec.ofNat 64 z.2)

/-- The divisor of FDSTEP is a finite nonzero value, as the pseudocode's sig(x) needs. -/
def fdstepOk (b : BitVec 32) : Bool := !(fNaN b || fZero b || fInf b)

/-- FDFIN: the result and its conditions. Where the remainder is not 0, the amount below one unit of Q is `f` of 2^33,
which matters only where fewer than 26 quotient bits were produced. -/
def fdfinF (frm : Nat) (q r : Word) (f : BitVec 32) : FRes :=
  if q.getLsbD 63 then
    (r.extractLsb' 0 32, (if q.getLsbD 40 then fIV else 0) ||| (if q.getLsbD 41 then fDZ else 0))
  else
    let neg := q.getLsbD 62
    let e : Int := (q.extractLsb' 48 14).toInt - 27
    let n := bitsNat q 27 0
    if r = 0 then (if n = 0 then (zeroF neg, 0) else packF frm false neg n e)
    else if 2 ^ 25 ≤ n then packF frm false neg (2 * n + 1) (e - 1)
    else packF frm false neg (n * 2 ^ 33 + 2 * f.toNat + 1) (e - 33)

end Sys2Proof.Machine
end

