-- ==== Sys2Proof/Machine/Flags.lean ====
section
/-! DEFINITION. Status registers: overflow of integer operations, sticky bits, and writes by software (spec/02 Map 2-5, R62,
R74; spec/04 R128; spec/07 R225). -/

namespace Sys2Proof.Machine

/-- A value fits a signed doubleword. -/
def fits64 (v : Int) : Bool := decide (-(2 ^ 63 : Int) ≤ v ∧ v < 2 ^ 63)

/-- The exact signed result of an overflow-checking function (spec/02 Table 2-15). -/
def OvFn.exact (f : OvFn) (a b : Word) : Int :=
  match f with
  | .addv => a.toInt + b.toInt
  | .subv => a.toInt - b.toInt
  | .mulv => a.toInt * b.toInt

/-- The wrapped result and whether it overflowed. -/
def OvFn.run (f : OvFn) (a b : Word) : Word × Bool := (BitVec.ofInt 64 (OvFn.exact f a b), !fits64 (OvFn.exact f a b))

/-- ISTAT bits (spec/02 Map 2-5). -/
def iIOVF : Word := 1
def iDOVF : Word := 2
def iDZ : Word := 4

/-- DSTAT bits (spec/04 Map 4-5). -/
def dDOVF : BitVec 8 := 1
def dDZ : BitVec 8 := 2
def dDINX : BitVec 8 := 4

/-- Set sticky bits of ISTAT. -/
def Tile.orI (x : Tile) (m : Word) : Tile := x.modBank (fun b => { b with istat := b.istat ||| m })

/-- Set sticky bits of DSTAT. -/
def Tile.orD (x : Tile) (m : BitVec 8) : Tile := x.modBank (fun b => { b with dstat := b.dstat ||| m })

/-- Set sticky bits of FSTAT. -/
def Tile.orF (x : Tile) (m : BitVec 5) : Tile :=
  x.modBank (fun b => { b with fstat := b.fstat ||| m.setWidth 8 })

/-- DSTAT.KEEPZ. -/
def Tile.keepz (x : Tile) : Bool := x.cur.dstat.getLsbD 7

/-- DCTL.DOVT and DCTL.DZT (spec/04 Map 4-6). -/
def Tile.dovt (x : Tile) : Bool := x.cur.dctl.getLsbD 2
def Tile.dzt (x : Tile) : Bool := x.cur.dctl.getLsbD 3

/-- FCTL.FRM (spec/07 Map 7-1). -/
def Tile.frm (x : Tile) : Nat := bitsNat x.cur.fctl 6 5

/-- The enabled conditions of FCTL. -/
def Tile.fen (x : Tile) : BitVec 5 := x.cur.fctl.extractLsb' 0 5

/-- The subcode of the first enabled condition that occurred (spec/07 R232), 0 for none. -/
def firstFp (c en : BitVec 5) : Nat :=
  match (List.range 5).find? (fun i => (c &&& en).getLsbD i) with
  | some i => i + 1
  | none => 0

/-- A status or control register of a session that MTSYS and BWDATA write. -/
inductive SReg where
  | istat | preg | dstat | dctl | fstat | fctl
  deriving DecidableEq, Repr

/-- Write a status register of a bank: RSVD bits are ignored, p0 stays, RMODE 11b leaves RMODE (spec/02 R62, spec/04
R128, spec/07 R225). -/
def Bank.writeS (b : Bank) (r : SReg) (v : Word) : Bank :=
  let low : BitVec 8 := v.extractLsb' 0 8
  match r with
  | .istat => { b with istat := v &&& 0x70007#64 }
  | .preg => { b with p := low &&& 0xFE#8 }
  | .dstat => { b with dstat := low &&& 0x87#8 }
  | .dctl =>
    let n := low &&& 0x0F#8
    { b with dctl := if n &&& 3#8 = 3#8 then (n &&& 0x0C#8) ||| (b.dctl &&& 3#8) else n }
  | .fstat => { b with fstat := low &&& 0x1F#8 }
  | .fctl => { b with fctl := low &&& 0x7F#8 }

/-- Read a status register of a bank: bit 0 of the guards reads 1 (spec/02 Table 2-7). -/
def Bank.readS (b : Bank) (r : SReg) : Word :=
  match r with
  | .istat => b.istat
  | .preg => b.p.setWidth 64 ||| 1
  | .dstat => b.dstat.setWidth 64
  | .dctl => b.dctl.setWidth 64
  | .fstat => b.fstat.setWidth 64
  | .fctl => b.fctl.setWidth 64

end Sys2Proof.Machine
end

