-- ==== Sys2Proof/Machine/KilnOps.lean ====
section
/-! DEFINITION. The Kiln: lanes and masks, lane operations, memory accesses, faults, and the head of a queue
(spec/06; spec/07 R236 and R241 for its FP32 lanes). -/

namespace Sys2Proof.Machine

/-! ## Lanes and masks (spec/06 R192–R194) -/

/-- Lane `i` of `w` bytes of a register as a number. -/
def lane (v w i : Nat) : Nat := v / 256 ^ (512 - w * (i + 1)) % 256 ^ w

/-- The register of the lanes of a list, lane 0 first. -/
def packLanes (w : Nat) (l : List Nat) : BitVec 4096 :=
  BitVec.ofNat 4096 (l.foldl (fun a x => a * 256 ^ w + x % 256 ^ w) 0)

/-- A lane is active. -/
def kAct (m : BitVec 512) (w i : Nat) : Bool := m.getLsbD (w * i)

/-- Write lanes for which `act` holds; the others keep their values. Lane `base + i` of a pair stands in lane `i`. -/
def mapLanes (w base : Nat) (act : Nat → Bool) (old : BitVec 4096) (f : Nat → Nat) : BitVec 4096 :=
  packLanes w ((List.range (512 / w)).map (fun i => if act (base + i) then f (base + i) else lane old.toNat w i))

/-- The mask with all bits of each lane that `f` accepts. -/
def maskOf (w : Nat) (f : Nat → Bool) : BitVec 512 :=
  BitVec.ofNat 512 ((List.range (512 / w)).foldl (fun a i => if f i then a + (2 ^ w - 1) * 2 ^ (w * i) else a) 0)

/-- Vector register. -/
def KFile.vr (f : KFile) (r : BitVec 5) : BitVec 4096 := f.v.get r.toFin
/-- Write a vector register. -/
def KFile.setV (f : KFile) (r : BitVec 5) (x : BitVec 4096) : KFile := { f with v := f.v.set r.toFin x }
/-- Mask register; m0 reads as all ones (spec/06 R193). -/
def KFile.mr (f : KFile) (r : BitVec 3) : BitVec 512 := if r = 0 then BitVec.allOnes 512 else f.m.get r.toFin
/-- Write a mask register; a write to m0 is discarded. -/
def KFile.setM (f : KFile) (r : BitVec 3) (x : BitVec 512) : KFile :=
  if r = 0 then f else { f with m := f.m.set r.toFin x }
/-- Set sticky bits of VSTAT. -/
def KFile.orV (f : KFile) (m : Word) : KFile := { f with vstat := f.vstat ||| m }

/-- VSTAT bits (spec/06 Map 6-3). -/
def vDOVF : Word := 1
def vDINX : Word := 2

/-- A fault condition: Layout 6-9 without DISC, the data address, and the VSTAT bits that it sets (spec/06 R210). -/
structure KF where
  kind : Nat
  sub : Nat
  elem : Nat
  opnd : Nat := 0
  slot : Nat := 0
  faddr : Nat := 0
  vst : Word := 0

/-- What an instruction does to its file. -/
abbrev KOut := Sum KF KFile

/-- Bytes of a binary element. -/
def elemBytes : ElemB → Nat
  | .b8 => 1 | .b16 => 2 | .b32 => 4 | .b64 => 8

/-- Encodings that Tables 6-5 and 6-6 and R195 define. -/
def kLegal : KOp → Bool
  | .bin f e vd _ _ _ =>
    match f with
    | .mulw => decide (e ≠ .b64 ∧ vd.toNat % 2 = 0)
    | .dot => decide (e = .b8 ∨ e = .b16)
    | .cmpeq | .cmplt | .cmpltu => decide (vd.toNat < 8)
    | _ => true
  | .dec f d32 _ _ vb _ =>
    match f with
    | .mul => d32
    | .shr _ n | .shl n => decide (vb = 0) && (d32 || decide (n.toNat ≤ 15))
    | .neg | .abs => decide (vb = 0)
    | _ => true
  | .dmulw vd _ _ _ | .dwid vd _ _ => decide (vd.toNat % 2 = 0)
  | .dnar _ va _ => decide (va.toNat % 2 = 0)
  | .fp f vd _ vb _ =>
    match f with
    | .cvtws | .cvtsw => decide (vb = 0)
    | .cmpeq | .cmplt | .cmple | .cmpun => decide (vd.toNat < 8)
    | _ => true
  | .ldk k v _ _ _ | .stk k v _ _ _ => decide (2 ≤ k.toNat ∧ k.toNat ≤ 4 ∧ v.toNat + k.toNat ≤ 32)
  | .ldx w _ _ _ _ | .stx w _ _ _ _ => decide (w ≠ 3)
  | _ => true

/-! ## Binary lanes (spec/06 R196) -/

/-- A lane function of two operands of `w` bytes. -/
def binLane (f : KBin) (w a b : Nat) : Nat :=
  let n := 8 * w
  let sa := signedOf n a
  let sb := signedOf n b
  let sh := b % n
  match f with
  | .add => a + b
  | .sub => a + 2 ^ n - b
  | .mul => a * b
  | .and => a &&& b
  | .or => a ||| b
  | .xor => a ^^^ b
  | .shl => a * 2 ^ sh
  | .shr => a / 2 ^ sh
  | .sar => (BitVec.ofInt n (sa / 2 ^ sh)).toNat
  | .min => if sa ≤ sb then a else b
  | .max => if sa ≤ sb then b else a
  | _ => 0

/-- A compare of two lanes. -/
def binCmp (f : KBin) (w a b : Nat) : Bool :=
  match f with
  | .cmpeq => decide (a = b)
  | .cmplt => decide (signedOf (8 * w) a < signedOf (8 * w) b)
  | _ => decide (a < b)

/-- Signed product of two lanes, wrapped to `n` bits. -/
def mulLane (w a b : Nat) : Int := signedOf (8 * w) a * signedOf (8 * w) b

/-- A binary operation. -/
def kBin (x : KFile) (f : KBin) (e : ElemB) (vd va vb : BitVec 5) (m : BitVec 2) : KFile :=
  let w := elemBytes e
  let mk := x.mr (m.setWidth 3)
  let a := (x.vr va).toNat
  let b := (x.vr vb).toNat
  let act := kAct mk w
  match f with
  | .cmpeq | .cmplt | .cmpltu =>
    x.setM (vd.setWidth 3) (maskOf w (fun i => act i && binCmp f w (lane a w i) (lane b w i)))
  | .mulw =>
    let p (i : Nat) : Nat := (BitVec.ofInt (16 * w) (mulLane w (lane a w i) (lane b w i))).toNat
    let v1 := mapLanes (2 * w) 0 act (x.vr vd) p
    let v2 := mapLanes (2 * w) (256 / w) act (x.vr (vd + 1)) p
    (x.setV vd v1).setV (vd + 1) v2
  | .dot =>
    let d := (x.vr vd).toNat
    x.setV vd (mapLanes (4 * w) 0 (fun _ => true) (x.vr vd) (fun j =>
      let s : Int := ((List.range 4).map (fun k =>
        if act (4 * j + k) then mulLane w (lane a w (4 * j + k)) (lane b w (4 * j + k)) else 0)).sum
      (BitVec.ofInt (32 * w) ((lane d (4 * w) j : Int) + s)).toNat))
  | _ => x.setV vd (mapLanes w 0 act (x.vr vd) (fun i => binLane f w (lane a w i) (lane b w i)))

/-! ## Decimal lanes (spec/06 R197–R199) -/

/-- A lane as a packed field. -/
def laneDec (w x : Nat) : Dec := fieldVal (beBytes w x)

/-- The first invalid nibble among lanes given as (element, register, width, value). -/
def laneBad : List (Nat × Nat × Nat × Nat) → Option KF
  | [] => none
  | (el, opnd, w, v) :: r =>
    match badNibble (beBytes w v) with
    | some p => some { kind := 6, sub := p, elem := el, opnd := opnd }
    | none => laneBad r

/-- Active lanes of width `w`. -/
def actLanes (mk : BitVec 512) (w : Nat) : List Nat := (List.range (512 / w)).filter (kAct mk w)

/-- Lanes of registers to check, in lane order, `va` before `vb`. -/
def checkLanes (ls : List Nat) (w : Nat) (rs : List (Nat × Nat)) : List (Nat × Nat × Nat × Nat) :=
  (ls.map (fun i => rs.map (fun r => (i, r.1, w, lane r.2 w i)))).flatten

/-- Deliver decimal results to the lanes `ls` of width `w`: validity first, then overflow under VCTL.DOVT, then `put`
(spec/06 R197, R199, R210, R212). -/
def kDecOut (x : KFile) (checks : List (Nat × Nat × Nat × Nat)) (keepz : Bool) (w : Nat) (ls : List Nat)
    (res : Nat → Dec × Bool) (put : (Nat → Nat) → KFile) : KOut :=
  match laneBad checks with
  | some f => .inl f
  | none =>
    let lim := 10 ^ (2 * w - 1)
    let ov := ls.find? (fun i => decide (lim ≤ (res i).1.mag))
    let vst := (if ov.isSome then vDOVF else 0) ||| (if ls.any (fun i => (res i).2) then vDINX else 0)
    match ov with
    | some i =>
      if x.vctl.getLsbD 0 then .inl { kind := 7, sub := 1, elem := i, vst := vst }
      else .inr ((put (fun i => let r := (finishDec keepz (res i).1 lim).1; packDec (2 * w - 1) r.neg r.mag)).orV vst)
    | none =>
      .inr ((put (fun i => let r := (finishDec keepz (res i).1 lim).1; packDec (2 * w - 1) r.neg r.mag)).orV vst)

/-- VCTL.KEEPZ. -/
def KFile.keepz (x : KFile) : Bool := x.vctl.getLsbD 1

/-- Exact result of a lane operation and whether a nonzero digit was discarded. -/
def decLane (f : KDec) (a b : Dec) : Dec × Bool :=
  match f with
  | .add => (a.add b, false)
  | .sub => (a.add b.opp, false)
  | .mul => (a.mul b, false)
  | .shr r n => let q := roundDec r a.mag n.toNat; ({ a with mag := q.1 }, q.2)
  | .shl n => ({ a with mag := a.mag * 10 ^ n.toNat }, false)
  | .neg => (a.opp, false)
  | .abs => ({ a with neg := false }, false)

/-- The operation reads vb. -/
def decBinary : KDec → Bool
  | .add | .sub | .mul => true
  | _ => false

/-- Width of a decimal lane. -/
def decW (d32 : Bool) : Nat := if d32 then 16 else 8

/-- A decimal operation of one lane width. -/
def kDec (x : KFile) (f : KDec) (d32 : Bool) (vd va vb : BitVec 5) (m : BitVec 2) : KOut :=
  let w := decW d32
  let mk := x.mr (m.setWidth 3)
  let a := (x.vr va).toNat
  let b := (x.vr vb).toNat
  let ls := actLanes mk w
  kDecOut x (checkLanes ls w (if decBinary f then [(0, a), (1, b)] else [(0, a)])) x.keepz w ls
    (fun i => decLane f (laneDec w (lane a w i)) (if decBinary f then laneDec w (lane b w i) else { neg := false, mag := 0 }))
    (fun g => x.setV vd (mapLanes w 0 (kAct mk w) (x.vr vd) g))

/-- VDDOT (spec/06 R196, R198, R199). -/
def kDdot (x : KFile) (vd va vb : BitVec 5) (m : BitVec 2) : KOut :=
  let mk := x.mr (m.setWidth 3)
  let a := (x.vr va).toNat
  let b := (x.vr vb).toNat
  let d := (x.vr vd).toNat
  let sum (j : Nat) : Dec :=
    (List.range 4).foldl (fun s k =>
      if kAct mk 8 (4 * j + k) then s.add ((laneDec 8 (lane a 8 (4 * j + k))).mul (laneDec 8 (lane b 8 (4 * j + k)))) else s)
      (laneDec 16 (lane d 16 j))
  kDecOut x (checkLanes (actLanes mk 8) 8 [(0, a), (1, b)] ++ checkLanes (List.range 16) 16 [(2, d)]) false 16 (List.range 16)
    (fun j => (sum j, false)) (fun g => x.setV vd (mapLanes 16 0 (fun j => decide (j < 16)) (x.vr vd) g))

/-- VDMULW. -/
def kDmulw (x : KFile) (vd va vb : BitVec 5) (m : BitVec 2) : KOut :=
  let mk := x.mr (m.setWidth 3)
  let a := (x.vr va).toNat
  let b := (x.vr vb).toNat
  let ls := actLanes mk 8
  kDecOut x (checkLanes ls 8 [(0, a), (1, b)]) x.keepz 16 ls
    (fun i => ((laneDec 8 (lane a 8 i)).mul (laneDec 8 (lane b 8 i)), false))
    (fun g => (x.setV vd (mapLanes 16 0 (kAct mk 8) (x.vr vd) g)).setV (vd + 1)
      (mapLanes 16 32 (kAct mk 8) (x.vr (vd + 1)) g))

/-- VDSUM. -/
def kDsum (x : KFile) (vd va : BitVec 5) (m : BitVec 2) : KOut :=
  let mk := x.mr (m.setWidth 3)
  let a := (x.vr va).toNat
  let ls := actLanes mk 16
  kDecOut x (checkLanes ls 16 [(0, a)]) false 16 [0]
    (fun _ => (ls.foldl (fun s i => s.add (laneDec 16 (lane a 16 i))) { neg := false, mag := 0 }, false))
    (fun g => x.setV vd (mapLanes 16 0 (fun j => decide (j = 0)) (x.vr vd) g))

/-- VDWID. -/
def kDwid (x : KFile) (vd va : BitVec 5) (m : BitVec 2) : KOut :=
  let mk := x.mr (m.setWidth 3)
  let a := (x.vr va).toNat
  let ls := actLanes mk 8
  kDecOut x (checkLanes ls 8 [(0, a)]) x.keepz 16 ls (fun i => (laneDec 8 (lane a 8 i), false))
    (fun g => (x.setV vd (mapLanes 16 0 (kAct mk 8) (x.vr vd) g)).setV (vd + 1)
      (mapLanes 16 32 (kAct mk 8) (x.vr (vd + 1)) g))

/-- VDNAR: D32 lane k of the pair goes to D16 lane k (spec/06 R194, R198). -/
def kDnar (x : KFile) (vd va : BitVec 5) (m : BitVec 2) : KOut :=
  let mk := x.mr (m.setWidth 3)
  let src (k : Nat) : Nat := if k < 32 then lane (x.vr va).toNat 16 k else lane (x.vr (va + 1)).toNat 16 (k - 32)
  let ls := actLanes mk 8
  kDecOut x (ls.map (fun k => (k, 0, 16, src k))) x.keepz 8 ls (fun k => (laneDec 16 (src k), false))
    (fun g => x.setV vd (mapLanes 8 0 (kAct mk 8) (x.vr vd) g))

/-- VDCMP. -/
def kDcmp (x : KFile) (c : KDCmp) (d32 : Bool) (md : BitVec 3) (va vb : BitVec 5) (m : BitVec 2) : KOut :=
  let w := decW d32
  let mk := x.mr (m.setWidth 3)
  let a := (x.vr va).toNat
  let b := (x.vr vb).toNat
  match laneBad (checkLanes (actLanes mk w) w [(0, a), (1, b)]) with
  | some f => .inl f
  | none =>
    .inr (x.setM md (maskOf w (fun i =>
      kAct mk w i &&
        (let p := (laneDec w (lane a w i)).int
         let q := (laneDec w (lane b w i)).int
         match c with
         | .eq => decide (p = q)
         | .lt => decide (p < q)
         | .le => decide (p ≤ q)))))

/-- VDVAL. -/
def kDval (x : KFile) (d32 : Bool) (md : BitVec 3) (va : BitVec 5) (m : BitVec 2) : KFile :=
  let w := decW d32
  let mk := x.mr (m.setWidth 3)
  x.setM md (maskOf w (fun i => kAct mk w i && (badNibble (beBytes w (lane (x.vr va).toNat w i))).isNone))

/-! ## FP32 lanes (spec/06 R200) -/

/-- VCTL's enables as FSTAT orders the conditions (spec/06 Map 6-2); division by zero never occurs. -/
def KFile.fen (x : KFile) : BitVec 5 :=
  BitVec.ofNat 5 (bitsNat x.vctl 2 2 + 4 * bitsNat x.vctl 5 3)

/-- VSTAT bits of conditions (spec/06 Map 6-3). -/
def vstOf (c : BitVec 5) : Word := BitVec.ofNat 64 (4 * bitsNat c 0 0 + 8 * bitsNat c 4 2)

/-- An operation's result in one lane: 32 bits or a mask bit, and the conditions. -/
def fpLane (x : KFile) (f : KFp) (a b d : BitVec 32) : BitVec 32 × BitVec 5 :=
  let frm := bitsNat x.vctl 9 8
  let ftz := x.vctl.getLsbD 6
  let cmp (g : FCmpFn) : BitVec 32 × BitVec 5 := let r := cmpF g ftz a b; (BitVec.ofNat 32 (b2n r.1), r.2)
  match f with
  | .add => addF frm ftz a b
  | .sub => subF frm ftz a b
  | .mul => mulF frm ftz a b
  | .fma => fmaF frm ftz a b d
  | .min => minMaxF false ftz a b
  | .max => minMaxF true ftz a b
  | .cvtws => let r := toIntF frm ftz 32 a; (BitVec.ofInt 32 r.1, r.2)
  | .cvtsw => ofIntF frm a.toInt
  | .cmpeq => cmp .eq
  | .cmplt => cmp .lt
  | .cmple => cmp .le
  | .cmpun => cmp .un

/-- A compare. -/
def fpCmp : KFp → Bool
  | .cmpeq | .cmplt | .cmple | .cmpun => true
  | _ => false

/-- An FP32 operation. -/
def kFp (x : KFile) (f : KFp) (vd va vb : BitVec 5) (m : BitVec 2) : KOut :=
  let mk := x.mr (m.setWidth 3)
  let a := (x.vr va).toNat
  let b := (x.vr vb).toNat
  let d := (x.vr vd).toNat
  let r (i : Nat) : BitVec 32 × BitVec 5 :=
    fpLane x f (BitVec.ofNat 32 (lane a 4 i)) (BitVec.ofNat 32 (lane b 4 i)) (BitVec.ofNat 32 (lane d 4 i))
  let ls := actLanes mk 4
  let c := ls.foldl (fun c i => c ||| (r i).2) 0
  let sub := firstFp c x.fen
  if sub ≠ 0 then
    .inl { kind := 8, sub := sub, vst := vstOf c,
           elem := (ls.find? (fun i => (r i).2.getLsbD (sub - 1))).getD 0 }
  else
    let x := x.orV (vstOf c)
    if fpCmp f then .inr (x.setM (vd.setWidth 3) (maskOf 4 (fun i => kAct mk 4 i && (r i).1.getLsbD 0)))
    else .inr (x.setV vd (mapLanes 4 0 (kAct mk 4) (x.vr vd) (fun i => (r i).1.toNat)))

/-! ## Control (spec/06 Table 6-6) -/

/-- Mask logic. -/
def maskFn (f : KMask) (a b : BitVec 512) : BitVec 512 :=
  match f with
  | .and => a &&& b
  | .or => a ||| b
  | .xor => a ^^^ b
  | .andn => a &&& ~~~b

/-- Bits of VCTL and VSTAT that are not RSVD. -/
def vctlMask : Word := 0x37F#64
def vstatMask : Word := 0x3F#64

/-- What an instruction that makes no memory access does to its file. -/
def kExec (x : KFile) (e : KEntry) : KOut :=
  match e.op with
  | .bin f el vd va vb m => .inr (kBin x f el vd va vb m)
  | .dec f d32 vd va vb m => kDec x f d32 vd va vb m
  | .ddot vd va vb m => kDdot x vd va vb m
  | .dmulw vd va vb m => kDmulw x vd va vb m
  | .dsum vd va m => kDsum x vd va m
  | .dwid vd va m => kDwid x vd va m
  | .dnar vd va m => kDnar x vd va m
  | .dcmp c d32 md va vb m => kDcmp x c d32 md va vb m
  | .dval d32 md va m => .inr (kDval x d32 md va m)
  | .fp f vd va vb m => kFp x f vd va vb m
  | .msetn md _ => .inr (x.setM md (BitVec.ofNat 512 (2 ^ min e.gval.toNat 512 - 1)))
  | .brdB el vd _ m =>
    let w := elemBytes el
    .inr (x.setV vd (mapLanes w 0 (kAct (x.mr (m.setWidth 3)) w) (x.vr vd) (fun _ => e.gval.toNat)))
  | .brdD d32 vd _ m =>
    let w := decW d32
    let mk := x.mr (m.setWidth 3)
    kDecOut x [] x.keepz w (actLanes mk w) (fun _ => (decVal e.dval, false))
      (fun g => x.setV vd (mapLanes w 0 (kAct mk w) (x.vr vd) g))
  | .mov vd va m =>
    .inr (x.setV vd (mapLanes 1 0 (kAct (x.mr (m.setWidth 3)) 1) (x.vr vd) (fun i => lane (x.vr va).toNat 1 i)))
  | .mts _ => .inr { x with vstat := e.gval &&& vstatMask }
  | .mtc _ => .inr { x with vctl := e.gval &&& vctlMask }
  | .mlogic f md ma mb => .inr (x.setM md (maskFn f (x.mr ma) (x.mr mb)))
  | .ld .. | .st .. | .ldk .. | .stk .. | .ldx .. | .stx .. | .ldm .. | .stm .. => .inr x

/-! ## Memory instructions (spec/06 R201–R206) -/

/-- A memory instruction. -/
def kMem : KOp → Bool
  | .ld .. | .st .. | .ldk .. | .stk .. | .ldx .. | .stx .. | .ldm .. | .stm .. => true
  | _ => false

/-- A memory instruction that stores. -/
def kStores : KOp → Bool
  | .st .. | .stk .. | .stx .. | .stm .. => true
  | _ => false

/-- An indexed access. -/
def kIndexed : KOp → Bool
  | .ldx .. | .stx .. => true
  | _ => false

/-- Elements in order: number, address or offset, bytes, register above the first, byte in it. -/
structure KEl where
  el : Nat
  off : Nat
  n : Nat
  reg : Nat
  pos : Nat

/-- The elements of a memory instruction (spec/06 R202–R204). -/
def kElems (x : KFile) (e : KEntry) : List KEl :=
  let a := bitsNat e.gval 47 0
  let plain (m : BitVec 2) : List KEl :=
    (actLanes (x.mr (m.setWidth 3)) 1).map (fun j => ⟨j, a + j, 1, 0, j⟩)
  let struct (k : BitVec 3) (c m : BitVec 2) : List KEl :=
    let w := 2 * 2 ^ c.toNat
    ((actLanes (x.mr (m.setWidth 3)) w).map (fun i =>
      (List.range k.toNat).map (fun q => (⟨i, a + (k.toNat * i + q) * w, w, q, i * w⟩ : KEl)))).flatten
  let idx (c : BitVec 2) (vb : BitVec 5) (m : BitVec 2) : List KEl :=
    let w := 4 * 2 ^ c.toNat
    (actLanes (x.mr (m.setWidth 3)) w).map (fun i => ⟨i, a + lane (x.vr vb).toNat 4 i, w, 0, i * w⟩)
  match e.op with
  | .ld _ _ m | .st _ _ m => plain m
  | .ldk k _ _ w m | .stk k _ _ w m => struct k w m
  | .ldx w _ _ vb m | .stx w _ _ vb m => idx w vb m
  | .ldm .. | .stm .. => (List.range 64).map (fun j => ⟨j, a + j, 1, 0, j⟩)
  | _ => []

/-- Kind and subcode of a Kiln fault from an exception of a translation (spec/09 R274). -/
def kindOf (e : Exc) : Nat × Nat :=
  if e.code = 7 ∨ e.code = 9 then (1, e.sub)
  else if e.code = 8 then (2, e.sub)
  else if e.code = 0x0A then (3, e.sub)
  else (3, 0x80 + e.sub % 0x80)

/-- Add a run, joined to the last one where it continues it. -/
def joinRun (l : List KAcc) (r : KAcc) : List KAcc :=
  match l with
  | p :: q =>
    if p.pa + p.n = r.pa ∧ p.reg = r.reg ∧ p.pos + p.n = r.pos ∧ p.brick = r.brick ∧ p.recorded = r.recorded then
      { p with n := p.n + r.n } :: q
    else r :: p :: q
  | [] => [r]

/-- Every lane checked and every page translated, in element order (spec/06 R204, R205): the runs, newest first. `cache`
holds the pages translated so far. -/
def kPlan (t : TileId) (e : KEntry) (ctx : Ctx) : List KEl → List (Nat × Xl) → List KAcc → State → Sum KF (List KAcc) × State
  | [], _, acc, s => (.inr acc.reverse, s)
  | x :: r, cache, acc, s =>
    let base := bitsNat e.gval 63 60
    let slot := base - 4
    if 4 ≤ base then
      if kIndexed e.op ∧ 4096 < x.off + x.n then (.inl { kind := 4, sub := 3, elem := x.el, slot := slot, faddr := x.off }, s)
      else if kIndexed e.op ∧ x.off % x.n ≠ 0 then (.inl { kind := 5, sub := 0, elem := x.el, slot := slot, faddr := x.off }, s)
      else
        let pa := bitsNat (e.bb.toList.getD slot 0) 47 12 * 4096 + x.off
        kPlan t e ctx r cache (joinRun acc { pa := pa, n := x.n, reg := x.reg, pos := x.pos, brick := true, recorded := false }) s
    else if kIndexed e.op ∧ x.off % x.n ≠ 0 then (.inl { kind := 5, sub := 0, elem := x.el, faddr := x.off }, s)
    else
      let page := x.off / 0x4000
      let use (b : Xl) : List KAcc :=
        joinRun acc { pa := b.pa + x.off % 0x4000, n := x.n, reg := x.reg, pos := x.pos, brick := false,
                      recorded := decide (b.ty = .recorded) }
      match cache.find? (fun c => decide (c.1 = page)) with
      | some c => kPlan t e ctx r cache (use c.2) s
      | none =>
        match translate s t .kiln ctx (if kStores e.op then .unitStore else .unitLoad) (BitVec.ofNat 64 (page * 0x4000)) 1 with
        | .ok b s => kPlan t e ctx r ((page, b) :: cache) (use b) s
        | .exc z s => (.inl { kind := (kindOf z).1, sub := (kindOf z).2, elem := x.el, faddr := x.off }, s)
        | .halt s => (.inl { kind := 1, sub := 1, elem := x.el, faddr := x.off }, s)

/-! ## Faults and machine checks (spec/06 R210; spec/13 R431) -/

/-- Count an event of the KILN page under its file qualifier (spec/13 Table 13-12). -/
def kCount (s : State) (t : TileId) (src k : Nat) : State :=
  s.evCountQ (pKiln + (courseOf t).val) src (fun q => decide (q = 0 ∨ q = 8 + t.val % 8)) k

/-- Change the file of a tile. -/
def State.modKiln (s : State) (t : TileId) (f : KFile → KFile) : State :=
  s.modTile t (fun x => { x with kiln := f x.kiln })

/-- Issued memory instructions of a queue; they complete whatever a younger one meets (spec/06 R210). -/
def kIssued (s : State) (t : TileId) : List KEntry := (s.tile t).kiln.queue.filter (fun e => e.plan.isSome)

/-- Record a fault of the oldest unissued instruction of the queue. -/
def kilnFault (s : State) (t : TileId) (e : KEntry) (f : KF) : State :=
  let n := t.val % 8
  let page := pKiln + (courseOf t).val
  let keep := kIssued s t
  let disc := (s.tile t).kiln.queue.length - keep.length - 1
  let info : Word := BitVec.ofNat 64 (f.kind * 2 ^ 56 + satNat 8 disc * 2 ^ 48 + f.sub % 256 * 2 ^ 32 + f.slot % 4 * 2 ^ 16 +
    f.opnd % 4 * 2 ^ 10 + f.elem % 1024)
  let fa : Word := BitVec.ofNat 64 f.faddr
  let s := s.modKiln t (fun k => { k.orV f.vst with
    queue := keep, fault := some { sub := BitVec.ofNat 8 f.sub, faddr := fa, finfo := info } })
  let s := s.setReg (ctl page (0x100 + 0x20 * n)) (BitVec.ofNat 64 (2 ^ 63 + e.iaddr.toNat % 2 ^ 48))
  let s := s.setReg (ctl page (0x108 + 0x20 * n)) info
  let s := s.setReg (ctl page (0x110 + 0x20 * n)) fa
  (kCount (kCount s t 0x23 1) t 0x24 disc).raise page n

/-- A machine check of a Kiln access or register file: the queue is discarded but for `keep`, which are older, and the machine
check pends on the tile. -/
def kilnMcheck (s : State) (t : TileId) (keep : List KEntry) (sub : BitVec 8) (fa fi : Word) : State :=
  let s := kCount s t 0x24 ((s.tile t).kiln.queue.length - keep.length - 1)
  s.modTile t (fun x =>
    { x with kiln := { x.kiln with queue := keep }, mcPend := if x.mcPend.isSome then x.mcPend else some (sub, fa, fi) })

/-! ## Issue and completion -/

/-- The head of a tile's queue. -/
def kHead (s : State) (t : TileId) : Option KEntry := (s.tile t).kiln.queue.head?

/-- The head leaves the queue. -/
def kPop (s : State) (t : TileId) : State := s.modKiln t (fun k => { k with queue := k.queue.tail })

/-- The oldest unissued instruction leaves the queue; those before it, which have issued, count it. -/
def kDone (s : State) (t : TileId) : State :=
  s.modKiln t (fun k => { k with
    queue := (k.queue.filter (fun e => e.plan.isSome)).map (fun e => { e with ran := e.ran + 1 }) ++
      (k.queue.filter (fun e => e.plan.isNone)).tail })

/-- The registers of a file. -/
def KFile.regs (x : KFile) : KRegs := { v := x.v, m := x.m, vctl := x.vctl, vstat := x.vstat }

/-- A file with other registers. -/
def KFile.withRegs (x : KFile) (u : KRegs) : KFile := { x with v := u.v, m := u.m, vctl := u.vctl, vstat := u.vstat }

/-- An instruction of the tile's queue issues: the round robin goes on at the next file (spec/06 R219). -/
def kIssues (s : State) (t : TileId) : State :=
  (kCount s t 0x20 1).modCourse (courseOf t) (fun c => { c with kilnNext := Fin.ofNat 8 (t.val + 1) })

/-- Issue of an instruction that makes no access: its whole effect. -/
def kilnRun (s : State) (t : TileId) (e : KEntry) : State :=
  let s := kIssues s t
  match kExec (s.tile t).kiln e with
  | .inr f => kDone (s.modKiln t (fun _ => f)) t
  | .inl f => kilnFault s t e f

/-- The context of a memory instruction (spec/09 R266): the bank's as it was when the instruction entered; Steward's registers of
Map 9-6 as they are when it is translated (R281). -/
def kCtx (s : State) (t : TileId) (e : KEntry) : Ctx :=
  if e.lvl = .steward then stewardCtx s t else { lvl := e.lvl, ast := e.ast.toNat, krr := e.krr }

/-- The oldest unissued entry of a queue issues with its accesses. -/
def kMark (p : List KAcc) (u : KRegs) : List KEntry → List KEntry
  | [] => []
  | e :: r => if e.plan.isNone then { e with plan := some p, undo := some u } :: r else e :: kMark p u r

/-- Issue of a memory instruction: the checks of R205. Where one fails nothing is accessed, and the A and D bits of the pages
before it stay as they were. -/
def kilnIssueMem (s : State) (t : TileId) (e : KEntry) : State :=
  let s := kIssues s t
  match kPlan t e (kCtx s t e) (kElems (s.tile t).kiln e) [] [] s with
  | (.inl f, s') => kilnFault { s with regs := s'.regs } t e f
  | (.inr p, s) => s.modKiln t (fun k => { k with queue := kMark p k.regs k.queue })

/-- Bytes of a register with a run replaced. -/
def patchBytes (v : BitVec 4096) (pos : Nat) (bs : List Byte) : BitVec 4096 :=
  let p := 256 ^ (512 - pos - bs.length)
  let old := v.toNat / p % 256 ^ bs.length
  BitVec.ofNat 4096 (v.toNat - old * p + ofBytes bs * p)

/-- Bytes of a register. -/
def regBytes (v : BitVec 4096) (pos n : Nat) : List Byte := beBytes n (v.toNat / 256 ^ (512 - pos - n))

/-- A mask in its form in memory, and back: bit 8k + b is bit 7 − b of byte k (spec/06 Table 6-6). -/
def maskRev (m : BitVec 512) : BitVec 512 :=
  BitVec.ofNat 512 ((List.range 512).foldl (fun a i => 2 * a + b2n (m.getLsbD i)) 0)

/-- Registers of an instruction: the first, and how many. -/
def kRegs : KOp → BitVec 5 × Nat
  | .ld v _ _ | .st v _ _ => (v, 1)
  | .ldk k v _ _ _ | .stk k v _ _ _ => (v, k.toNat)
  | .ldx _ v _ _ _ | .stx _ v _ _ _ => (v, 1)
  | .ldm md _ => (md.setWidth 5, 1)
  | .stm ms _ => (ms.setWidth 5, 1)
  | _ => (0, 0)

/-- A mask instruction. -/
def kMaskMem : KOp → Bool
  | .ldm .. | .stm .. => true
  | _ => false

/-- Register `q` above the first, as the instruction moves it; a mask as its 64 bytes and zeros. -/
def kReg (x : KFile) (op : KOp) (q : Nat) : BitVec 4096 :=
  if kMaskMem op then
    BitVec.ofNat 4096 ((maskRev (x.mr ((kRegs op).1.setWidth 3))).toNat * 2 ^ 3584)
  else x.vr ((kRegs op).1 + BitVec.ofNat 5 q)

/-- Write register `q` above the first. -/
def kSetReg (x : KFile) (op : KOp) (q : Nat) (v : BitVec 4096) : KFile :=
  if kMaskMem op then x.setM ((kRegs op).1.setWidth 3) (maskRev (v.extractLsb' 3584 512))
  else x.setV ((kRegs op).1 + BitVec.ofNat 5 q) v

/-- The file after the loads of a plan. -/
def kLoadAll (s : State) (op : KOp) (p : List KAcc) (x : KFile) : KFile :=
  p.foldl (fun x r => kSetReg x op r.reg (patchBytes (kReg x op r.reg) r.pos (s.bytes r.pa r.n))) x

/-- Stores of a plan as byte runs, adjoining ones joined. -/
def kRuns (x : KFile) (op : KOp) : List KAcc → List (Nat × List Byte × Bool)
  | [] => []
  | r :: rest =>
    let b := regBytes (kReg x op r.reg) r.pos r.n
    match kRuns x op rest with
    | (pa, bs, br) :: q => if r.pa + r.n = pa ∧ br = r.brick then (r.pa, b ++ bs, br) :: q else (r.pa, b, r.brick) :: (pa, bs, br) :: q
    | [] => [(r.pa, b, r.brick)]

/-- The writes of a vector store (spec/06 R206; spec/11 R348; spec/09 R295). -/
def kStoreAll (t : TileId) (l : List (Nat × List Byte × Bool)) (s : State) : State :=
  l.foldl (fun s r =>
    let s := if r.2.2 then brickWrite s (s.tile t).tk r.1 r.2.1.length else s
    (s.setBytes r.1 r.2.1).unpoison r.1 r.2.1.length) s

/-- The dispatch of a tile under replay: the last DISPATCH of the tile before `lim` (spec/14 R445). -/
def lastDispatch (s : State) (t : TileId) (lim : Nat) : Nat → Nat → Nat → Nat
  | 0, _, d => d
  | f + 1, p, d =>
    if lim ≤ p then d
    else
      let h := recHead s (courseOf t) p
      lastDispatch s t lim f (p + max 16 h.2.2.1) (if h.1 = 2 ∧ h.2.1 = t.val % 8 then p else d)

/-- The KLOAD of an instruction in replay, or where the search for it ended and with which RESULT (spec/14 R436, R445, R447). -/
def replayKload (s : State) (t : TileId) (kcnt : Nat) : Sum (Nat × Nat) Nat :=
  let c := courseOf t
  let d := lastDispatch s t (s.course c).rings.rPos (2 ^ 26) (s.reg (ringsReg c 0x130)).toNat 0
  match scanFrom s c d (fun q => decide ((recHead s c q).2.1 = t.val % 8) &&
      (((recHead s c q).1 == 8 && decide (bitsNat (recWord s c q 0) 63 32 = kcnt)) || (recHead s c q).1 == 0x0C)) with
  | .found q => if (recHead s c q).1 = 8 then .inr q else .inl (2, q)
  | .used q => .inl (1, q)
  | .bad q => .inl (4, q)

/-- An entry with the registers that a machine check of it would restore changed as the file is (spec/06 R191). -/
def KEntry.also (e : KEntry) (x : KFile) (f : KFile → KFile) : KEntry :=
  { e with undo := e.undo.map (fun u => (f (x.withRegs u)).regs) }

/-- Loaded registers are written in the file, and in what the younger accesses under way would restore. -/
def kWritten (s : State) (t : TileId) (f : KFile → KFile) : State :=
  s.modKiln t (fun x => { f x with queue := x.queue.map (fun e => e.also x f) })

/-- Completion of a load whose accesses are `p`. `none`: it waits for room in the record buffer (spec/14 R441). -/
def kilnLoadDone (s : State) (t : TileId) (e : KEntry) (p : List KAcc) : Option State :=
  let nreg := (kRegs e.op).2
  let c := courseOf t
  if p.any (fun r => r.recorded) ∧ replayTile s t then
    match replayKload s t e.kcnt with
    | .inr q =>
      let w0 := recWord s c q 0
      if bitsNat w0 7 5 ≠ nreg ∨ bitsNat w0 4 0 ≠ (kRegs e.op).1.toNat ∨
          bitsNat (recWord s c q 1) 47 0 ≠ e.iaddr.toNat % 2 ^ 48 then
        some ((replayEnd s c 2 q).modKiln t (fun k => { k with queue := [] }))
      else
      some (kPop (kWritten s t (fun x => (List.range nreg).foldl (fun x i =>
        kSetReg x e.op i (BitVec.ofNat 4096 (s.memNat (ringsAddr s c (q + 32 + 512 * i)) 512))) x)) t)
    | .inl r => some ((replayEnd s c r.1 r.2).modKiln t (fun k => { k with queue := [] }))
  else
    match p.findSome? (fun r => poisonExc s r.pa r.n) with
    | some z =>
      let s := kCount s t 0x24 e.ran
      some (kilnMcheck (s.modKiln t (fun x => (e.undo.map x.withRegs).getD x)) t [] 2 z.faddr z.finfo)
    | none =>
      if p.any (fun r => r.recorded) ∧ ringsStalls s t (16 + 512 * nreg) then none
      else
        let x := kLoadAll s e.op p (s.tile t).kiln
        let s := kPop (kWritten s t (kLoadAll s e.op p)) t
        some (if p.any (fun r => r.recorded) then
          ringsEvent s t 0x08 (beBytes 8 (e.kcnt * 2 ^ 32 + nreg * 32 + (kRegs e.op).1.toNat) ++ beBytes 8 e.iaddr.toNat ++
            ((List.range nreg).map (fun i => beBytes 512 (kReg x e.op i).toNat)).flatten) else s)

/-- Completion of a memory instruction. -/
def kilnDone (s : State) (t : TileId) (e : KEntry) (p : List KAcc) : Option State :=
  if kStores e.op then some (kPop (kStoreAll t (kRuns (s.tile t).kiln e.op p) s) t)
  else kilnLoadDone s t e p

/-! ## Registers that an instruction names -/

/-- A register pair. -/
def kPair (v : BitVec 5) : List Nat := [v.toNat, (v + 1).toNat]

/-- Registers that an instruction writes: v0 to v31 by number, a mask register as 32 and its number; m0 is never written. -/
def kWrites (op : KOp) : List Nat :=
  let mk (m : BitVec 3) : List Nat := if m = 0 then [] else [32 + m.toNat]
  match op with
  | .bin f _ vd _ _ _ => match f with
    | .cmpeq | .cmplt | .cmpltu => mk (vd.setWidth 3)
    | .mulw => kPair vd
    | _ => [vd.toNat]
  | .dec _ _ vd _ _ _ | .ddot vd _ _ _ | .dsum vd _ _ | .dnar vd _ _ | .brdB _ vd _ _ | .brdD _ vd _ _ | .mov vd _ _ => [vd.toNat]
  | .dmulw vd _ _ _ | .dwid vd _ _ => kPair vd
  | .dcmp _ _ md _ _ _ | .dval _ md _ _ | .ldm md _ | .msetn md _ | .mlogic _ md _ _ => mk md
  | .fp f vd _ _ _ => if fpCmp f then mk (vd.setWidth 3) else [vd.toNat]
  | .ld .. | .ldk .. | .ldx .. => (List.range (kRegs op).2).map (fun q => ((kRegs op).1 + BitVec.ofNat 5 q).toNat)
  | .st .. | .stk .. | .stx .. | .stm .. | .mts _ | .mtc _ => []

/-- Registers that an instruction reads. -/
def kReads (op : KOp) : List Nat :=
  let mk (m : BitVec 2) : Nat := 32 + m.toNat
  match op with
  | .bin f _ vd va vb m => [va.toNat, vb.toNat, mk m] ++ (match f with
    | .dot => [vd.toNat]
    | _ => [])
  | .dec _ _ _ va vb m | .dmulw _ va vb m | .dcmp _ _ _ va vb m => [va.toNat, vb.toNat, mk m]
  | .ddot vd va vb m | .fp _ vd va vb m => [vd.toNat, va.toNat, vb.toNat, mk m]
  | .dsum _ va m | .dwid _ va m | .dval _ _ va m | .mov _ va m => [va.toNat, mk m]
  | .dnar _ va m => mk m :: kPair va
  | .ld _ _ m | .ldk _ _ _ _ m | .brdB _ _ _ m | .brdD _ _ _ m => [mk m]
  | .ldx _ _ _ vb m => [vb.toNat, mk m]
  | .st .. | .stk .. => (match op with
    | .st _ _ m | .stk _ _ _ _ m => [mk m]
    | _ => []) ++ (List.range (kRegs op).2).map (fun q => ((kRegs op).1 + BitVec.ofNat 5 q).toNat)
  | .stx _ vs _ vb m => [vs.toNat, vb.toNat, mk m]
  | .stm ms _ => [32 + ms.toNat]
  | .ldm .. | .msetn .. | .mts _ | .mtc _ => []
  | .mlogic _ _ ma mb => [32 + ma.toNat, 32 + mb.toNat]

/-- An instruction meets an uncorrectable error in its file: it has no effect, and a machine check pends (spec/06 R218; spec/13
R431; log entry 114). -/
def kilnBad (s : State) (t : TileId) : State := kilnMcheck (s.modKiln t (fun k => { k with ue := false })) t (kIssued s t) 3 0 0

/-- An instruction reads a register of the file: a vector or mask register, m0 apart, or VCTL alone, whose KEEPZ a decimal
broadcast takes (spec/06 R188, R197). -/
def kTouches (op : KOp) : Bool :=
  (kReads op).any (· ≠ 32) || (match op with
    | .brdD .. => true
    | _ => false)

/-- Issue of an instruction of a queue. -/
def kilnGo (s : State) (t : TileId) (e : KEntry) : State :=
  if (s.tile t).kiln.ue && kTouches e.op then kilnBad s t
  else if kMem e.op then kilnIssueMem s t e
  else kilnRun s t e

/-! ## Which file issues (spec/06 R219) -/

/-- A younger instruction must wait for an issued one: a register that it reads or writes is still to be written, or one that it
writes is still to be stored (spec/06 R191, R219; log entry 116). -/
def kConflict (old new : KOp) : Bool :=
  (kWrites old).any (fun r => (kReads new ++ kWrites new).contains r) ||
    (kStores old && (kReads old).any (fun r => (kWrites new).contains r))

/-- The candidate of a queue: its oldest unissued instruction. -/
def kCand (s : State) (t : TileId) : Option KEntry := (s.tile t).kiln.queue.find? (fun e => e.plan.isNone)

/-- Behind a load that is under way an instruction would record a fault or a machine check: that waits for the load, since queue
order puts the load's own before it (spec/06 R191, R210). -/
def kHeld (s : State) (t : TileId) (e : KEntry) : Bool :=
  let x := (kilnGo s t e).tile t
  (kIssued s t).any (fun o => !kStores o.op) &&
    (x.kiln.fault.isSome || (x.mcPend.isSome && (s.tile t).mcPend.isNone))

/-- The candidate of a queue is ready, the memory port apart: that is free again before the access completes (spec/06 R220), and no
row tells when (log entry 68). -/
def kReady (s : State) (t : TileId) : Bool :=
  match kCand s t with
  | some e => !(kIssued s t).any (fun o => kConflict o.op e.op) && !kHeld s t e
  | none => false

/-- No access is under way in the Kiln of the tile: its memory port is free. -/
def kPortFree (s : State) (t : TileId) : Bool := (courseTiles (courseOf t)).all (fun u => (kIssued s u).isEmpty)

/-- The candidate of a queue is ready, whatever the port does. -/
def kSure (s : State) (t : TileId) : Bool :=
  kReady s t && (match kCand s t with
    | some e => !kMem e.op || kPortFree s t
    | none => false)

/-- The files that come before the tile's own in round-robin order. -/
def kBefore (s : State) (t : TileId) : List TileId :=
  (((List.finRange 8).map (fun i => (s.course (courseOf t)).kilnNext + i)).takeWhile (· ≠ Fin.ofNat 8 t.val)).map
    (courseTile (courseOf t))

/-- The Kiln may issue from this tile's file next: its candidate is ready, and no file before it has one that surely is. -/
def kTurn (s : State) (t : TileId) : Bool := kReady s t && !(kBefore s t).any (kSure s)

/-! ## The queue executed by a wait -/

/-- The ready candidates of the files whose turn comes first issue (spec/06 R219). -/
def kilnOthers (s : State) (t : TileId) : State :=
  (kBefore s t).foldl (fun s u => match kCand s u with
    | some e => if kReady s u then kilnGo s u e else s
    | none => s) s

/-- The oldest instruction of a queue is executed whole, each file in its turn. `none`: it must wait. -/
def kilnHeadDone (s : State) (t : TileId) : Option State :=
  match kHead s t with
  | none => some s
  | some e =>
    match e.plan with
    | some p => kilnDone s t e p
    | none =>
      let s := kilnGo (kilnOthers s t) t e
      match kHead s t with
      | some o => match o.plan with
        | some p => kilnDone s t o p
        | none => some s
      | none => some s

/-- The queue empties (spec/06 R214). `none`: an instruction of it must wait. -/
def kilnDrainN (t : TileId) : Nat → State → Option State
  | 0, s => some s
  | n + 1, s =>
    match kilnHeadDone s t with
    | some s => kilnDrainN t n s
    | none => none

/-- The queue of a tile empties. -/
def kilnDrain (s : State) (t : TileId) : Option State := kilnDrainN t (s.tile t).kiln.queue.length s

/-- A row that issues the candidate of a tile's queue when it is of the row's kind and the file's turn. -/
def kilnRow (s : State) (t : TileId) (kind : KOp → Bool) : State :=
  match kCand s t with
  | some e => if kind e.op && kTurn s t then kilnGo s t e else s
  | none => s

/-- A pending fault is delivered: its exception, and the state after (spec/06 R211). -/
def kilnDeliver (s : State) (t : TileId) : Option (Exc × State) :=
  if (s.tile t).kiln.fault.isSome then some (srcEntry s t .kiln) else none

end Sys2Proof.Machine
end

