-- ==== Sys2Proof/Machine/TileCore.lean ====
section
/-! DEFINITION. One instruction of a tile: what every instruction does around its own effect (spec/02 R65–R67; spec/03
R88, R92; spec/08 R242–R245; spec/14 R445, R446), and the waits that several instructions share. -/

namespace Sys2Proof.Machine

/-- How an instruction's own effect ends: the next instruction follows, a branch is taken, a unit of a long instruction is
done and the instruction is not complete (its control word register), its last unit is done, or it has issued and waits in the
commit window. -/
inductive Flow where
  | next
  | issued
  | to (pc : Word)
  | unit (r : BitVec 5)
  | last
  deriving DecidableEq, Repr

/-- An instruction of level `l` retires: the PC, the counts, ICNT (spec/14 Layout 14-1). -/
def retire (s : State) (t : TileId) (l : Level) (pc : Word) : State :=
  (tCount s t l 0x20 1).modTile t (fun x =>
    { x with pc := pc, icnt := if l = .ledger then x.icnt + 1 else x.icnt, long := none, units := 0 })

/-- A general exception. -/
def exc (code sub : Nat) (finfo : Word := 0) : Exc := { code := code, sub := sub, finfo := finfo }

/-- Undefined encoding (spec/00 R16), and instruction not present on this kind of tile (spec/02 R45, spec/06 R190). -/
def excIllegal : Exc := exc 1 0
def excAbsent : Exc := exc 1 1
/-- Resource outside the reach of the level (spec/02 R46). -/
def excPriv : Exc := exc 2 1

/-- The frame of an entry is written, behind the stores before it, before the first instruction of the handler (spec/08 R252). -/
def frameOut (s : State) (t : TileId) : State := if (s.tile t).sbuf.any (fun e => e.frame) then drainTile s t else s

/-- What follows an entry at once: a tile that has entered checkstop writes its retired stores, and a ledger tile is retired
(spec/08 R260, spec/11 R383); the frame of any other is written, behind the stores before it, before its handler runs (spec/08
R252). -/
def stopCheck (s : State) (t : TileId) : State :=
  if (s.tile t).run = .checkstop then
    let s := drainTile s t
    if isKeyst t ∨ retired s t then s else settleDev (retireTile s t)
  else frameOut s t

/-- What is due everywhere, tiles in checkstop included. -/
def settle (s : State) : State := (List.finRange 100).foldl stopCheck (settleDev s)

/-- In replay, INTR records whose point the tile has reached are applied, with every load retired; before one of a Kiln fault the
queue is run to its fault. -/
def replayAfter (s : State) (t : TileId) : State :=
  if !replayTile s t then s
  else
    let c := courseOf t
    let s := completeLoads s t
    match nextTileRec s t with
    | .found q =>
      let s := if (recHead s c q).1 = 9 ∧ atRec s t 0 q ∧ (recCause s c q).1 = 0x10 then
          (kilnDrain s t).getD s else s
      replayIntr t 16 s
    | _ => s

/-- An exception of the instruction at the PC: entered, or in replay compared with its record (spec/14 R445, R446). -/
def raiseAt (s : State) (t : TileId) (e : Exc) : State :=
  if replayTile s t then replayAfter (replayXent s t e.code) t else stopCheck (enter s t e false (s.tile t).pc) t

/-- In replay, an XENT of code 28h or 10h at the PC is raised from the record (spec/14 R445, R446). -/
def replayRaise (s : State) (t : TileId) : Option State :=
  if !replayTile s t then none
  else
    let c := courseOf t
    match nextTileRec s t with
    | .found q =>
      let code := (recCause s c q).1
      if (recHead s c q).1 = 0x0A ∧ atRec s t 0 q ∧ (code = 0x28 ∨ code = 0x10) ∧
          bitsNat (recWord s c q 0) 63 56 = satNat 8 (s.tile t).units then
        let s := if code = 0x10 then (kilnDrain s t).getD s else s
        if code = 0x10 ∧ !sameKiln s t q then some (replayEnd s c 2 q)
        else
          let s := if code = 0x10 then s.modKiln t (fun k => { k with fault := none }) else s
          let s := s.modRings c (fun r => { r with rPos := q + (recHead s c q).2.2.1 })
          some (replayAfter (replayResume (s.modTile t (fun x => { x with units := 0, long := none })) t) t)
      else none
    | _ => none

/-- What an instruction is to the wrapper: its guard and length; a branch; a load (earlier misses stay outstanding); a
long instruction (its progress stays); whether the encoding is defined, and whether the tile has the instruction. -/
structure Insn where
  g : Guard
  len : Nat := 4
  branch : Bool := false
  load : Bool := false
  long : Bool := false
  legal : Bool := true
  present : Bool := true

/-- The guard holds (spec/02 R65). -/
def Tile.guard (x : Tile) (g : Guard) : Bool := x.p g.pred != g.inv

/-- The end of an instruction's own effect. -/
def finish (s : State) (t : TileId) (l : Level) (pc : Word) (i : Insn) : Flow → State
  | .next => retire (if i.branch then tCount s t l 0x23 1 else s) t l (pc + BitVec.ofNat 64 i.len)
  | .issued => s.modTile t (fun x => { x with pc := pc + BitVec.ofNat 64 i.len, long := none, units := 0 })
  | .to p => retire (tCount s t l 0x22 1) t l p
  | .unit r => (tCount s t l 0x2E 1).modTile t (fun x => { x with long := some r, units := x.units + 1 })
  | .last => retire (tCount s t l 0x2E 1) t l (pc + BitVec.ofNat 64 i.len)

/-- The record of an entry from Ledger level finds no room: the instruction waits before it retires (spec/14 R441, log entry
14). -/
def xentWaits (s : State) (t : TileId) : Bool :=
  decide ((s.tile t).lvl = .ledger) && !replayTile s t && ringsStalls s t 32

/-- One instruction of tile `t`. A tile that does not run, or whose record waits for room, executes nothing. Every instruction
but a load retires after the loads before it (spec/03 R88, R90). -/
def tileOp (s : State) (t : TileId) (i : Insn) (body : State → R Flow) : State :=
  if (s.tile t).run ≠ .running ∨ (s.tile t).recWait = true then s
  else
  let s := frameOut s t
  match replayRaise s t with
  | some s => s
  | none =>
    let raise (s' : State) (e : Exc) : State := if xentWaits s' t then s else raiseAt s' t e
    let s := if i.load && (s.tile t).guard i.g then s else completeLoads s t
    let s := if i.long then s else s.modTile t (fun x => { x with long := none, units := 0 })
    let x := s.tile t
    if !i.legal then raise s excIllegal
    else if !x.guard i.g then
      let s := tCount s t x.lvl 0x21 1
      replayAfter (retire (if i.branch then tCount s t x.lvl 0x23 1 else s) t x.lvl (x.pc + BitVec.ofNat 64 i.len)) t
    else if !i.present then raise s excAbsent
    else match body s with
    | .ok f s => replayAfter (finish s t x.lvl x.pc i f) t
    | .exc e s => raise s e
    | .halt s => s

/-- The answer of a command whose meaning is a state. -/
def next (s : State) : Host.Outcome State Fault Refusal := .next s

/-- An instruction whose own effect is on its tile alone and raises nothing. -/
def tileFn (s : State) (t : TileId) (i : Insn) (f : Tile → Tile) : Host.Outcome State Fault Refusal :=
  next (tileOp s t i (fun s => .ok .next (s.modTile t f)))

/-- The wait of VSYNC: the queue empties, then a pending Kiln fault is raised (spec/06 R214, R215); one that pends behind a machine
check of the Kiln waits until that has been accepted (spec/13 R431). -/
def kilnWait (s : State) (t : TileId) (k : State → R Flow) : R Flow :=
  if isKeyst t then k s
  else match kilnDrain s t with
  | none => .halt (recHold s t)
  | some s =>
    match kilnDeliver s t with
    | some (e, u) => if (s.tile t).mcPend.isSome then .halt s else .exc e u
    | none => k s

/-- The level is not one of those that may use the instruction: PRIV (spec/02 R46). -/
def needSteward (s : State) (t : TileId) (k : State → R Flow) : R Flow :=
  if (s.tile t).lvl = .ledger then .exc excPriv s else k s

/-- Registers of an even–odd pair of g registers g2–g31 (spec/03 R111). -/
def gPair (r : BitVec 5) : Bool := decide (r ≠ 0 ∧ r.toNat % 2 = 0)

/-- A pair of d registers is named by its even register (spec/04 R137). -/
def dPair (r : BitVec 4) : Bool := decide (r.toNat % 2 = 0)

end Sys2Proof.Machine
end

