-- ==== Sys2Proof/Machine/CtlRows.lean ====
section
/-! DEFINITION. Rows of the control space, interrupts and checkstop (spec/13; spec/01 R21–R43; spec/08 R259–R265). -/

namespace Sys2Proof.Machine

/-- A row of the device outside its tiles: it acts while the device is out of reset, and what it leads to follows. -/
def devRow (s : State) (f : State → State) : Host.Outcome State Fault Refusal := next (whenLive s (fun s => settle (f s)))

/-- An access from outside by size, with the bytes of a read as its answer. -/
def probe (s : State) (a : Agent) (ca : BitVec 20) (write : Bool) (sz : Size) : State :=
  if write then ctlStore s a ca.toNat sz 0
  else
    let r := ctlLoad s a (ca.toNat / Size.bytes sz * Size.bytes sz) (Size.bytes sz)
    { r.2 with reply := some r.1, replyEp := false }

/-- REGISTER_WRITE. -/
def execRegisterWrite (a : Agent) (ca : BitVec 20) (sz : Size) (v : Word) (s : State) :
    Host.Outcome State Fault Refusal :=
  devRow s (fun s => ctlStore s a (ca.toNat / Size.bytes sz * Size.bytes sz) sz v)

/-- DEV_PLACE_WRITE. -/
def execDevPlaceWrite (a : Agent) (v : Word) (s : State) : Host.Outcome State Fault Refusal :=
  devRow s (fun s => rowWrite s a (ctl pDev 0x108) v)

/-- UNASSIGNED_PAGE_ACCESS: of a page index that has a block it is no such access, and has no effect. -/
def execUnassignedPageAccess (a : Agent) (ca : BitVec 20) (write : Bool) (sz : Size) (s : State) :
    Host.Outcome State Fault Refusal :=
  devRow s (fun s => if (pageKind (ca.toNat / 4096)).isNone then probe s a ca write sz else s)

/-- UNCLOCKED_PAGE_ACCESS: of a page whose clock runs it is no such access, and has no effect. -/
def execUnclockedPageAccess (a : Agent) (ca : BitVec 20) (write : Bool) (sz : Size) (s : State) :
    Host.Outcome State Fault Refusal :=
  devRow s (fun s => if s.stopped.contains (ca.toNat / 4096) then probe s a ca write sz else s)

/-- REMOTE_WRITE_TAKES_EFFECT. -/
def execRemoteWriteTakesEffect (page : BitVec 8) (s : State) : Host.Outcome State Fault Refusal :=
  devRow s (fun s => postedEffect s page.toNat)

/-- EVSNAP_SNAP: a write of DEV.EVSNAP with SNAP = 1. -/
def execEvsnapSnap (a : Agent) (v : Word) (s : State) : Host.Outcome State Fault Refusal :=
  devRow s (fun s => rowWrite s a (ctl pDev 0x140) (v ||| 1))

/-- EVSNAP_HOLD: a write of DEV.EVSNAP with HOLD = 1. -/
def execEvsnapHold (a : Agent) (v : Word) (s : State) : Host.Outcome State Fault Refusal :=
  devRow s (fun s => rowWrite s a (ctl pDev 0x140) (v ||| 2))

/-- EVSNAP_RELEASE: a write of DEV.EVSNAP with RELEASE = 1. -/
def execEvsnapRelease (a : Agent) (v : Word) (s : State) : Host.Outcome State Fault Refusal :=
  devRow s (fun s => rowWrite s a (ctl pDev 0x140) (v ||| 4))

/-- REMOTE_SNAPSHOT_CAPTURE. -/
def execRemoteSnapshotCapture (page : BitVec 8) (s : State) : Host.Outcome State Fault Refusal :=
  devRow s (fun s => captureOp s page.toNat)

/-- STAT_SET. -/
def execStatSet (a : Agent) (page : BitVec 8) (v : Word) (s : State) : Host.Outcome State Fault Refusal :=
  devRow s (fun s => rowWrite s a (ctl page.toNat 0x20) v)

/-- IENA_WRITE. -/
def execIenaWrite (a : Agent) (page : BitVec 8) (v : Word) (s : State) : Host.Outcome State Fault Refusal :=
  devRow s (fun s => rowWrite s a (ctl page.toNat 0x28) v)

/-- UNDEFINED_COMMAND. -/
def execUndefinedCommand (a : Agent) (page code : BitVec 8) (s : State) : Host.Outcome State Fault Refusal :=
  devRow s (fun s => rowWrite s a (ctl page.toNat 0xF0) (code.setWidth 64))

/-- MC_QUEUE_POP: a write of POP = 1. -/
def execMcQueuePop (a : Agent) (v : Word) (s : State) : Host.Outcome State Fault Refusal :=
  devRow s (fun s => rowWrite s a (ctl pDev 0x158) (v ||| 1))

/-- DBELL_SET. -/
def execDbellSet (a : Agent) (target : TileId) (v : Word) (s : State) : Host.Outcome State Fault Refusal :=
  devRow s (fun s => rowWrite s a (ctl (tilePage target) 0x108) v)

/-- IPI_SET. -/
def execIpiSet (a : Agent) (target : TileId) (v : Word) (s : State) : Host.Outcome State Fault Refusal :=
  devRow s (fun s => rowWrite s a (ctl (tilePage target) 0x118) v)

/-- TIMER_EXPIRY: a timebase that runs reaches TCMP. -/
def execTimerExpiry (t : TileId) (s : State) : Host.Outcome State Fault Refusal :=
  devRow s (fun s => if s.clk.seeded && decide (s.clk.tb < (s.tile t).tcmp) then
    { s with clk := { s.clk with tb := (s.tile t).tcmp } } else s)

/-- INTERRUPT_ACCEPT. -/
def execInterruptAccept (t : TileId) (s : State) : Host.Outcome State Fault Refusal :=
  next (stopCheck (acceptInterrupt s t) t)

/-- MCSUB of a condition (spec/13 Table 13-15). -/
def csSub : CsCond → Nat
  | .bank => 0x81 | .tagArray => 0x82 | .controlStore => 0x83 | .emergency => 0x84

/-- A condition of Table 13-15 on a tile not yet in checkstop (spec/08 R260, spec/13 R432). -/
def checkstopOp (s : State) (t : TileId) (c : CsCond) : State :=
  if (s.tile t).run = .checkstop then s
  else
    let s := checkstop s t 3 (csSub c)
    stopCheck (if replayTile s t then replayFinish s t 2 else s) t

/-- TILE_CHECKSTOP. -/
def execTileCheckstop (t : TileId) (c : CsCond) (s : State) : Host.Outcome State Fault Refusal := next (whenLive s (fun s => checkstopOp s t c))

/-- ILLEGAL_INSTRUCTION: whatever the guard of the word (spec/02 R67). -/
def execIllegalInstruction (t : TileId) (s : State) : Host.Outcome State Fault Refusal :=
  next (tileOp s t { g := ⟨false, 0⟩, legal := false } (fun s => .ok .next s))

end Sys2Proof.Machine
end

