-- ==== Sys2Proof/Machine/SysRows.lean ====
section
/-! DEFINITION. System registers, the bank window, session switch, YIELD, traps, RETE and IFENCE (spec/02 R51–R64; spec/08
R244–R259; spec/10 R311; spec/03 R104). -/

namespace Sys2Proof.Machine

/-! ## System registers (spec/02 Table 2-7, spec/08 Table 8-2) -/

/-- Status registers by their number. -/
def sregOf : Nat → Option SReg
  | 1 => some .istat | 2 => some .preg | 3 => some .dstat | 4 => some .dctl | 5 => some .fstat | 6 => some .fctl
  | _ => none

/-- Register `i` of an exception set, in the order of Table 8-2. -/
def ExRegs.read (r : ExRegs) (i : Nat) : Word :=
  match i with
  | 0 => r.entry | 1 => r.cause | 2 => r.faddr | 3 => r.finfo | 4 => r.sp | _ => r.slim

/-- Write register `i` of an exception set; RSVD bits are ignored. -/
def ExRegs.write (r : ExRegs) (i : Nat) (v : Word) : ExRegs :=
  match i with
  | 0 => { r with entry := v &&& 0x0000FFFFFFFFFFFC#64 }
  | 1 => { r with cause := v &&& 0x1FFFF#64 }
  | 2 => { r with faddr := v }
  | 3 => { r with finfo := v }
  | 4 => { r with sp := v }
  | _ => { r with slim := v }

/-- The index that EFWIN names (spec/08 Map 8-8). -/
def Tile.efIndex (x : Tile) : Fin 512 := Fin.ofNat 512 (bitsNat x.efwin 8 0)

/-- EFWIN after an EFDATA access. -/
def Tile.efStep (x : Tile) : Tile :=
  if x.efwin.getLsbD 9 then { x with efwin := BitVec.ofNat 64 (2 ^ 9 + (bitsNat x.efwin 8 0 + 1) % 512) } else x

/-- A write of EFDATA (spec/08 R259): the frame is replaced, bit 63 of EFSTAT acts as W1C, the rest is RO. -/
def efWrite (x : Tile) (v : Word) : Tile :=
  let i := x.efIndex
  let y :=
    if i.val < 16 then { x with ef := x.ef.set i v }
    else if i.val = 16 ∧ v.getLsbD 63 then { x with ef := x.ef.set i (setBit (x.ef.get i) 63 false) }
    else x
  y.efStep

/-- IENS as it reads (spec/08 Map 8-9). -/
def iensWord (s : State) (t : TileId) : Word :=
  BitVec.ofNat 64 (iensPend s t * 2 ^ 16 + 16 + (s.tile t).iens.toNat)

/-- The access at Keystone level alone (spec/08 R247). -/
def needKeystone (s : State) (t : TileId) (k : State → R Flow) : R Flow :=
  if (s.tile t).lvl = .keystone then k s else .exc excPriv s

/-- An instruction of Steward level alone on a ledger tile (spec/02 Table 2-2). -/
def onlySteward (s : State) (t : TileId) (k : State → R Flow) : R Flow :=
  if isKeyst t then .exc excAbsent s else if (s.tile t).lvl = .steward then k s else .exc excPriv s

/-- A value for register `rd`. -/
def give (t : TileId) (rd : BitVec 5) (v : Word) (s : State) : R Flow := .ok .next (s.modTile t (fun x => x.setG rd v))

/-! ## The bank window (spec/02 Table 2-10, R62–R64) -/

/-- Bank and slot that BWIN names (spec/02 Map 2-9). -/
def Tile.bwBank (x : Tile) : Fin 16 := Fin.ofNat 16 (bitsNat x.bwin 3 0)
def Tile.bwSlot (x : Tile) : Nat := bitsNat x.bwin 10 4

/-- BWIN after a BWDATA access. -/
def Tile.bwStep (x : Tile) : Tile :=
  if x.bwin.getLsbD 11 then
    { x with bwin := BitVec.ofNat 64 (2 ^ 11 + (x.bwSlot + 1) % 128 * 16 + x.bwBank.val) }
  else x

/-- The session mover works on the bank (spec/02 R64). -/
def bankMoves (s : State) (t : TileId) (b : Fin 16) : Bool :=
  match (s.course (courseOf t)).mover.head? with
  | some o => decide (o.tile = t ∧ o.bank = b) || decide (!o.spill ∧ ((s.tile t).banks.get b).sess = some o.session)
  | none => false

/-- The bank's registers are reached: bank 0, or one that holds a session (spec/02 R64). -/
def bankReached (x : Tile) (b : Fin 16) : Bool := decide (b = 0) || (x.banks.get b).sess.isSome

/-- A half of a decimal register. -/
def decHalf (d : BitVec 128) (low : Bool) : Word := if low then d.extractLsb' 0 64 else d.extractLsb' 64 64

/-- A slot of a bank as BWDATA reads it. -/
def bwRead (x : Tile) (b : Fin 16) (slot : Nat) : Word :=
  let k := x.banks.get b
  if slot = 0x48 then k.sessno
  else if !bankReached x b then 0
  else if slot < 0x20 then (if slot = 0 then 0 else k.g.get (Fin.ofNat 32 slot))
  else if slot < 0x40 then decHalf (k.d.get (Fin.ofNat 16 ((slot - 0x20) / 2))) (slot % 2 == 1)
  else match slot with
    | 0x40 => k.readS .preg
    | 0x41 => k.readS .istat
    | 0x42 => k.readS .dstat
    | 0x43 => k.readS .dctl
    | 0x44 => k.readS .fstat
    | 0x45 => k.readS .fctl
    | 0x46 => k.krr.extractLsb' 64 64
    | 0x47 => k.krr.extractLsb' 0 64
    | _ => 0

/-- A valid decimal value with its sign made Ch or Dh (spec/02 R63). -/
def decSign (v : BitVec 128) : BitVec 128 :=
  BitVec.ofNat 128 (v.toNat / 16 * 16 + (if signMinus (v.toNat % 16) then 0xD else 0xC))

/-- A write of a slot of a bank, or the position of the first invalid nibble (spec/02 R62, R63). -/
def bwWrite (k : Bank) (slot : Nat) (v : Word) : Sum Nat Bank :=
  if slot < 0x20 then .inr (k.setG (BitVec.ofNat 5 slot) v)
  else if slot < 0x40 then
    let n := Fin.ofNat 16 ((slot - 0x20) / 2)
    let old := k.d.get n
    let new : BitVec 128 := if slot % 2 = 1 then decHalf old false ++ v else v ++ decHalf old true
    match badNibble (beBytes 16 new.toNat) with
    | some p => .inl p
    | none => .inr { k with d := k.d.set n (decSign new) }
  else .inr (match slot with
    | 0x40 => k.writeS .preg v
    | 0x41 => k.writeS .istat v
    | 0x42 => k.writeS .dstat v
    | 0x43 => k.writeS .dctl v
    | 0x44 => k.writeS .fstat v
    | 0x45 => k.writeS .fctl v
    | 0x46 => { k with krr := v ++ k.krr.extractLsb' 0 64 }
    | 0x47 => { k with krr := k.krr.extractLsb' 64 64 ++ v }
    | _ => k)

/-- MFSYS of BWDATA. -/
def bwLoad (t : TileId) (rd : BitVec 5) (s : State) : R Flow :=
  onlySteward s t (fun s =>
    let x := s.tile t
    if bankMoves s t x.bwBank then .halt s
    else give t rd (bwRead x x.bwBank x.bwSlot) (s.modTile t Tile.bwStep))

/-- MTSYS of BWDATA. -/
def bwStore (t : TileId) (v : Word) (s : State) : R Flow :=
  onlySteward s t (fun s =>
    let x := s.tile t
    let b := x.bwBank
    if bankMoves s t b then .halt s
    else if !bankReached x b then .ok .next (s.modTile t Tile.bwStep)
    else match bwWrite (x.banks.get b) x.bwSlot v with
      | .inl p => .exc (exc 0x0C (0x40 + p)) s
      | .inr k => .ok .next (s.modTile t (fun x => (x.modBankAt b (fun _ => k)).bwStep)))

/-! ## MFSYS and MTSYS -/

/-- A read of the timebase: recorded, or from the recording in replay (spec/14 R435, R445). -/
def tbRead (t : TileId) (rd : BitVec 5) (s : State) : R Flow :=
  if replayTile s t then
    match replayTb s t with
    | (some v, s) => give t rd v s
    | (none, s) => .halt s
  else if ringsStalls s t 16 then .halt s
  else give t rd s.clk.tb (ringsEvent s t 5 (beBytes 8 (stwPc s t) ++ beBytes 8 s.clk.tb.toNat))

/-- MFSYS (spec/02 R51, Table 2-7; spec/08 R246, R247). -/
def mfBody (t : TileId) (rd : BitVec 5) (num : BitVec 11) (s : State) : R Flow :=
  let x := s.tile t
  let n := num.toNat
  match sregOf n with
  | some r => give t rd (x.cur.readS r) s
  | none =>
    if n = 0 then give t rd (s.pstate t) s
    else if n = 0x10 then onlySteward s t (give t rd x.bwin)
    else if n = 0x11 then bwLoad t rd s
    else if n = 0x18 then give t rd x.cur.sessno s
    else if n = 0x19 then give t rd 0x0305#64 s
    else if inRange n 0x20 0x25 then
      needSteward s t (give t rd (if isKeyst t then 0 else x.exS.read (n - 0x20)))
    else if n = 0x26 then needSteward s t (give t rd x.tcmp)
    else if n = 0x27 then needSteward s t (give t rd (iensWord s t))
    else if inRange n 0x28 0x2D then needKeystone s t (give t rd (x.exK.read (n - 0x28)))
    else if n = 0x2E then needKeystone s t (give t rd x.efwin)
    else if n = 0x2F then needKeystone s t (fun s => give t rd (x.ef.get x.efIndex) (s.modTile t Tile.efStep))
    else if n = 0x30 then tbRead t rd s
    else give t rd 0 s

/-- A write of PSTATE (spec/02 Map 2-4): IE, at Ledger level PRIV where it changes; on a keystone tile it empties the
return stack (spec/03 R110). -/
def pstateWrite (t : TileId) (v : Word) (s : State) : R Flow :=
  let x := s.tile t
  let ie := v.getLsbD 2
  if x.lvl = .ledger then (if ie = x.ie then .ok .next s else .exc excPriv s)
  else .ok .next (s.modTile t (fun x => { x with ie := ie, rstack := if isKeyst t then [] else x.rstack }))

/-- A change of the tile alone. -/
def put (t : TileId) (f : Tile → Tile) (s : State) : R Flow := .ok .next (s.modTile t f)

/-- MTSYS (spec/02 R51, R62; spec/08 R246, R247, R259). -/
def mtBody (t : TileId) (num : BitVec 11) (ra : BitVec 5) (s : State) : R Flow :=
  let x := s.tile t
  let n := num.toNat
  let v := x.g ra
  match sregOf n with
  | some r => put t (fun x => x.modBank (fun b => b.writeS r v)) s
  | none =>
    if n = 0 then pstateWrite t v s
    else if n = 0x10 then onlySteward s t (put t (fun x => { x with bwin := v &&& 0xFFF#64 }))
    else if n = 0x11 then bwStore t v s
    else if inRange n 0x20 0x25 then
      if isKeyst t then .exc excAbsent s
      else needSteward s t (put t (fun x => { x with exS := x.exS.write (n - 0x20) v }))
    else if n = 0x26 then needSteward s t (put t (fun x => { x with tcmp := v }))
    else if n = 0x27 then
      needSteward s t (put t (fun x => { x with iens := v.extractLsb' 0 4 &&& (if isKeyst t then 7#4 else 15#4) }))
    else if inRange n 0x28 0x2D then needKeystone s t (put t (fun x => { x with exK := x.exK.write (n - 0x28) v }))
    else if n = 0x2E then needKeystone s t (put t (fun x => { x with efwin := v &&& 0x3FF#64 }))
    else if n = 0x2F then needKeystone s t (put t (fun x => efWrite x v))
    else .exc excIllegal s

/-- MFSYS. -/
def execMfsys (t : TileId) (g : Guard) (rd : BitVec 5) (num : BitVec 11) (s : State) : Host.Outcome State Fault Refusal :=
  next (tileOp s t { g := g } (mfBody t rd num))

/-- MTSYS. -/
def execMtsys (t : TileId) (g : Guard) (num : BitVec 11) (ra : BitVec 5) (s : State) : Host.Outcome State Fault Refusal :=
  next (tileOp s t { g := g } (mtBody t num ra))

/-- BWDATA_ACCESS: MFSYS or MTSYS of number 011h. -/
def execBwdataAccess (t : TileId) (g : Guard) (write : Bool) (r : BitVec 5) (s : State) :
    Host.Outcome State Fault Refusal :=
  next (tileOp s t { g := g } (fun s => if write then mtBody t 0x11 r s else mfBody t r 0x11 s))

/-- EFDATA_WRITE: MTSYS of number 02Fh. -/
def execEfdataWrite (t : TileId) (g : Guard) (ra : BitVec 5) (s : State) : Host.Outcome State Fault Refusal :=
  next (tileOp s t { g := g } (mtBody t 0x2F ra))

/-! ## SWS, YIELD and the session mover -/

/-- SWS stalls and asks for its session (spec/02 R58, R59). -/
def swsAsk (s : State) (t : TileId) (pd : BitVec 3) (n : BitVec 18) : State :=
  askSws (s.modTile t (fun x => { x with run := .swsWait pd n })) t n

/-- SWS (spec/02, SWS; R58, R59). -/
def swsBody (t : TileId) (pd : BitVec 3) (ra : BitVec 5) (s : State) : R Flow :=
  onlySteward s t (fun s => kilnWait s t (fun s =>
    let x := s.tile t
    let a := x.g ra
    let n : BitVec 18 := a.extractLsb' 0 18
    if x.ticket then .exc (exc 0x0F 3) s
    else if a.toNat / 2 ^ 18 ≠ 0 then .exc (exc 0x0F 1) s
    else if sessionHeld s n then .ok .next (s.modTile t (fun x => x.setP pd false))
    else match bankOn s t n with
      | some b => if bankMoves s t b then .halt (swsAsk s t pd n) else .ok .next (swsSwitch s t pd b)
      | none => .halt (swsAsk s t pd n)))

/-- SWS. -/
def execSws (t : TileId) (g : Guard) (pd : BitVec 3) (ra : BitVec 5) (s : State) : Host.Outcome State Fault Refusal :=
  next (tileOp s t { g := g } (swsBody t pd ra))

/-- The ticket goes to the tail of its run queue and the tile to its next one (spec/02 R60; spec/10 R315, R316). -/
def yieldTicket (s : State) (t : TileId) (n : Nat) : State :=
  match ticketOf s n with
  | none => s
  | some k =>
    let s := drainTile s t
    let s := endRecord s t k 1 0 none
    let pc := (s.tile t).pc
    let s := modTicket s n (fun k => { k with st := .yielded, resume := some (pc + 4) })
    let s := enqueueRun s k.course k
    settle (nextTicket (tCount s t .ledger 0x20 1) t)

/-- YIELD (spec/02 R60, R61). -/
def yieldBody (t : TileId) (s : State) : R Flow :=
  let x := s.tile t
  if x.lvl ≠ .ledger then .exc (exc 0x0F 5) s
  else if !x.ticket then .exc (exc 0x0F 4) s
  else kilnWait s t (fun s =>
    if replayTile s t then .halt (replayFinish (drainTile s t) t 1)
    else if ringsStalls s t 96 then .halt s
    else match (s.tile t).tk with
      | some n => .halt (yieldTicket s t n)
      | none => .exc (exc 0x0F 4) s)

/-- YIELD. -/
def execYield (t : TileId) (g : Guard) (s : State) : Host.Outcome State Fault Refusal :=
  next (tileOp s t { g := g, present := !isKeyst t } (yieldBody t))

/-- SESSION_FILL_DONE. -/
def execSessionFillDone (c : CourseId) (s : State) : Host.Outcome State Fault Refusal :=
  next (whenLive s (fun s => settle (moverStep s c)))

/-! ## Traps and return (spec/08 R244, R254, R255) -/

/-- TRAP and KCALL retire, then enter. -/
def trapEntry (t : TileId) (code : Nat) (n : BitVec 12) (s : State) : R Flow :=
  let x := s.tile t
  if xentWaits s t then .halt s
  else .halt (raiseAt (retire s t x.lvl (x.pc + 4)) t { code := code, sub := 0, finfo := n.setWidth 64 })

/-- TRAP. -/
def execTrap (t : TileId) (g : Guard) (n : BitVec 12) (s : State) : Host.Outcome State Fault Refusal :=
  next (tileOp s t { g := g } (fun s =>
    if (s.tile t).lvl = .keystone then .exc excPriv s else trapEntry t 0x18 n s))

/-- KCALL. -/
def execKcall (t : TileId) (g : Guard) (n : BitVec 12) (s : State) : Host.Outcome State Fault Refusal :=
  next (tileOp s t { g := g } (trapEntry t 0x19 n))

/-- Doubleword `i` of loaded bytes. -/
def wordOf (bs : List Byte) (i : Nat) : Word := BitVec.ofNat 64 (ofBytes ((bs.drop (8 * i)).take 8))

/-- A frame's PSTATE is invalid at level `l` (spec/08 R254). -/
def frameInvalid (x : Tile) (t : TileId) (ps : Word) : Bool :=
  let lv := bitsNat ps 1 0
  let b : Fin 16 := Fin.ofNat 16 (bitsNat ps 7 4)
  decide (lv = 3 ∨ x.lvl.code < lv) || decide (bitsNat ps 63 11 ≠ 0) || ps.getLsbD 3 ||
    (if isKeyst t then decide (lv ≠ 2 ∨ b ≠ 0) else !bankReached x b)

/-- The level of a code. -/
def levelOf (n : Nat) : Level := if n = 0 then .ledger else if n = 1 then .steward else .keystone

/-- The changes of RETE (spec/08 R255). -/
def reteTile (x : Tile) (bs : List Byte) : Tile :=
  let ps := wordOf bs 1
  let b : Fin 16 := Fin.ofNat 16 (bitsNat ps 7 4)
  let y := { x.setEx x.lvl (fun r => { r with sp := r.sp + 128 }) with
    lvl := levelOf (bitsNat ps 1 0), bank := b, banks := x.usedNow b, ie := ps.getLsbD 2, rstack := [] }
  (((y.setG 1 (wordOf bs 8)).setG 2 (wordOf bs 9)).setG 3 (wordOf bs 10)).setG 4 (wordOf bs 11)

/-- RETE with its frame loaded. -/
def reteGo (t : TileId) (bs : List Byte) (s0 s : State) : R Flow :=
  let x := s.tile t
  let pc := wordOf bs 0
  if frameInvalid x t (wordOf bs 1) then .exc (exc 2 2) s
  else if pc.toNat % 4 ≠ 0 then .exc { code := 4, sub := 2, faddr := pc } s
  else
    let y := reteTile x bs
    let rec_ := decide (y.lvl = .ledger) && y.ticket
    if rec_ ∧ ringsStalls s t (16 + 512) then .halt s0
    else
      let s := (retire s t x.lvl pc).modTile t (fun _ => { y with pc := pc, long := none, units := 0 })
      .halt (if rec_ then
        ringsEvent s t 0x0B (beBytes 8 pc.toNat ++ beBytes 8 (s.pstate t).toNat ++
          (let b := (s.tile t).cur
           b.image (b.sess.getD 0) (sessLive s (b.sess.getD 0)))) else s)

/-- The load of a frame. FADDR of a memory exception is the frame address, whichever page failed (spec/08 R254, spec/09
R273). -/
def frameLoad (t : TileId) (sp : Word) (s : State) : R (List Byte) :=
  match (placeAll s t (dataCtx s t) .rete (pieces (.virt sp) 128)).bind (fun l s => readAll s t l) with
  | .exc e s => .exc (if inRange e.code 7 10 then { e with faddr := sp } else e) s
  | r => r

/-- RETE (spec/08 R254). -/
def reteBody (t : TileId) (s : State) : R Flow :=
  let x := s.tile t
  if x.lvl = .ledger then .exc excPriv s
  else (frameLoad t (x.ex x.lvl).sp s).bind (fun bs s1 => reteGo t bs s s1)

/-- RETE. -/
def execRete (t : TileId) (g : Guard) (s : State) : Host.Outcome State Fault Refusal :=
  next (tileOp s t { g := g } (reteBody t))

/-- IFENCE: the store buffer is written; the model keeps no prefetched words (spec/03 R104). -/
def execIfence (t : TileId) (g : Guard) (s : State) : Host.Outcome State Fault Refusal :=
  next (tileOp s t { g := g } (fun s => .ok .next (drainTile s t)))

end Sys2Proof.Machine
end

