-- ==== Sys2Proof/Machine/LongOps.lean ====
section
/-! DEFINITION. What the units of long instructions share: their start, their bytes in memory, and their faults (spec/04
R153–R155; spec/05 R161–R169). -/

namespace Sys2Proof.Machine

/-- The start of a unit whose control word is in register `r` (spec/04 R153, spec/05 R166): the first unit after each
issue has the store buffer empty. -/
def longStart (s : State) (t : TileId) (r : BitVec 5) (k : State → R Flow) : R Flow :=
  let s := if (s.tile t).long.isNone then drainTile s t else s
  k (s.modTile t (fun x => if (x.g r).getLsbD 63 then { x with long := some r } else x))

/-- A field address of a control word: a virtual address, or an offset into the brick of bb(base − 4) (spec/04 Map 4-14,
spec/05 Map 5-3). -/
def baseAddr (base : Nat) (a : Word) : Addr :=
  if 4 ≤ base then .brick (Fin.ofNat 4 (base - 4)) a.toNat else .virt a

/-- A BASE code names a virtual address or a brick. -/
def baseOk (base : Nat) : Bool := decide (base = 0 ∨ (4 ≤ base ∧ base ≤ 7))

/-- The slot of a brick address, 0 for a virtual one: FINFO of a data fault (spec/04 R133). -/
def Addr.slotInfo : Addr → Word
  | .brick k _ => BitVec.ofNat 64 k.val
  | .virt _ => 0

/-- A decimal data fault whose first bad byte is `i` bytes above `a`. -/
def decData (a : Addr) (sub i : Nat) : Exc := { code := 0x0C, sub := sub, faddr := (a.plus i).fa, finfo := a.slotInfo }

/-- A decimal data fault of a packed field (spec/04 R133, KIND 00b). -/
def packedFault (a : Addr) (pos : Nat) : Exc := decData a pos (pos / 2)

/-- Places of a unit's access of `n` bytes. -/
def unitPlace (s : State) (t : TileId) (k : Acc) (a : Addr) (n : Nat) : R (List (Addr × Xl × Nat)) :=
  if n = 0 then .ok [] s else placeAll s t (dataCtx s t) k (pieces a n)

/-- The bytes of a field. -/
def unitRead (s : State) (t : TileId) (a : Addr) (n : Nat) : R (List Byte) :=
  (unitPlace s t .unitLoad a n).bind (fun l s => readAll s t l)

/-- Store a unit's bytes at once (spec/05 R166). -/
def unitWrite (t : TileId) (l : List (Addr × Xl × Nat)) (bs : List Byte) (s : State) : State :=
  writeAll (fun s x b => storeNow s t x b) l bs s

/-- The runs of a store that each lie in one 128-byte line (spec/04 R147). -/
def lineRuns (x : Xl) (bs : List Byte) : List (Xl × List Byte) :=
  let first := 128 - x.pa % 128
  if bs.length ≤ first then [(x, bs)] else [(x, bs.take first), ({ x with pa := x.pa + first }, bs.drop first)]

/-- Store bytes through the store buffer, one entry for each line. -/
def pushLines (t : TileId) (s : State) (x : Xl) (bs : List Byte) : State :=
  (lineRuns x bs).foldl (fun s r => pushStore s t r.1 r.2) s

/-- The place of `n` aligned bytes at an address word (spec/06 R201, spec/09 R290, spec/10 R323): BASE and RSVD, brick,
alignment, translation. -/
def wordXl (s : State) (t : TileId) (k : Acc) (w : Word) (n : Nat) : R (Addr × Xl) :=
  let base := bitsNat w 63 60
  let a := bitsNat w 47 0
  if !baseOk base ∨ bitsNat w 59 48 ≠ 0 then .exc (exc 3 4) s
  else
    let addr : Addr := if 4 ≤ base then .brick (Fin.ofNat 4 (base - 4)) a else .virt (BitVec.ofNat 64 a)
    (scalarXl s t k addr n).bind (fun x s => .ok (addr, x) s)

end Sys2Proof.Machine
end

