-- ==== Sys2Proof/Machine/TicketRows.lean ====
section
/-! DEFINITION. Tickets, TAKE, CONT, ring pairs and the commands of the MASON page (spec/10). -/

namespace Sys2Proof.Machine

/-- INGRESS_ENTRY_READ (spec/10 R301, R302). -/
def execIngressEntryRead (r : Fin 64) (s : State) : Host.Outcome State Fault Refusal :=
  devRow s (fun s => ingressRead s r)

/-- TICKET_ADMISSION (spec/10 R307, R309, R329). -/
def execTicketAdmission (arrival : Nat) (s : State) : Host.Outcome State Fault Refusal :=
  devRow s (fun s => admitTicket s arrival)

/-- TAKE dispatches the ready ticket, or waits (spec/10 R315, R317). It does not wait for a Kiln queue (log entry 110). -/
def takeBody (t : TileId) (s : State) : R Flow :=
  let x := s.tile t
  if x.lvl ≠ .steward ∨ x.ticket then .exc excPriv s
  else match readyTicket s t with
    | some (k, b) => .halt (settle (dispatch (tCount s t .steward 0x20 1) t k b))
    | none => .halt (s.modTile t (fun x => { x with run := .takeWait }))

/-- TAKE. -/
def execTake (t : TileId) (g : Guard) (s : State) : Host.Outcome State Fault Refusal :=
  next (tileOp s t { g := g, present := !isKeyst t } (takeBody t))

/-- A ticket of 64 bytes that CONT may stage (spec/10 R323). -/
def contMay (s : State) (t : TileId) (tk : Ticket) : Bool :=
  match (s.tile t).tk.bind (ticketOf s) with
  | some k => (s.tile t).ticket && decide (k.conts.length < 4) && ticketValid s tk && !tReply tk && tf tk 47 47 == 0
  | none => false

/-- CONT (spec/10 R323). -/
def contBody (t : TileId) (pd : BitVec 3) (ra : BitVec 5) (s : State) : R Flow :=
  if (s.tile t).lvl = .keystone then .exc excPriv s
  else (wordXl s t .unitLoad ((s.tile t).g ra) 64).bind (fun p s =>
    (readAt s t p.1 p.2 64).bind (fun bs s =>
      let tk : Ticket := BitVec.ofNat 512 (ofBytes bs)
      if contMay s t tk then
        let s := match (s.tile t).tk with
          | some n => modTicket s n (fun k => { k with conts := k.conts ++ [tk] })
          | none => s
        put t (fun x => x.setP pd true) s
      else put t (fun x => x.setP pd false) s))

/-- CONT. -/
def execCont (t : TileId) (g : Guard) (pd : BitVec 3) (ra : BitVec 5) (s : State) : Host.Outcome State Fault Refusal :=
  next (tileOp s t { g := g, present := !isKeyst t } (contBody t pd ra))

/-- A register of ring pair `r` (spec/10 Map 10-4). -/
def ringReg (r : Fin 64) (off : Nat) : Nat := masonReg (0x800 + 0x20 * r.val + off)

/-- CCNT_WRITE (spec/10 R303). -/
def execCcntWrite (a : Agent) (r : Fin 64) (v : Word) (s : State) : Host.Outcome State Fault Refusal :=
  devRow s (fun s => rowWrite s a (ringReg r 0x10) v)

/-- IEN_WRITE (spec/10 R300, R302). -/
def execIenWrite (a : Agent) (r : Fin 64) (v : Word) (s : State) : Host.Outcome State Fault Refusal :=
  devRow s (fun s => rowWrite s a (ringReg r 0x00) v)

/-- CEN_WRITE (spec/10 R300). -/
def execCenWrite (a : Agent) (r : Fin 64) (v : Word) (s : State) : Host.Outcome State Fault Refusal :=
  devRow s (fun s => rowWrite s a (ringReg r 0x08) v)

/-- CONTINUATION_RESEND: CRETRY has passed without an acknowledgement (spec/10 R324). -/
def execContinuationResend (course : CourseId) (dest : BitVec 9) (seq : BitVec 48) (s : State) :
    Host.Outcome State Fault Refusal :=
  devRow s (fun s => resendCont s course dest seq)

/-- TOMBSTONE_EXPIRY: TOMB has passed (spec/10 R333, R338). -/
def execTombstoneExpiry (key : Word) (s : State) : Host.Outcome State Fault Refusal :=
  devRow s (fun s => endTomb s key.toNat)

/-- PROPOSAL_LAPSE: 1 ms without an answer (spec/10 R339). -/
def execProposalLapse (s : State) : Host.Outcome State Fault Refusal :=
  devRow s (fun s => s.setFld (masonReg 0x188) 63 63 0)

/-- COURSE_BALANCE_MOVE (spec/10 R334). -/
def execCourseBalanceMove (key : Word) (course : CourseId) (s : State) : Host.Outcome State Fault Refusal :=
  devRow s (fun s => balanceMove s key course)

/-! ## Commands of the MASON page (spec/10 Table 10-14): a write of the code to CMD -/

/-- A write of a command code to CMD of a page. -/
def cmdRow (s : State) (a : Agent) (page code : Nat) : Host.Outcome State Fault Refusal :=
  devRow s (fun s => rowWrite s a (ctl page 0xF0) (BitVec.ofNat 64 code))

/-- START. -/
def execStart (a : Agent) (s : State) : Host.Outcome State Fault Refusal := cmdRow s a pMason 0x01

/-- QUIESCE. -/
def execQuiesce (a : Agent) (s : State) : Host.Outcome State Fault Refusal := cmdRow s a pMason 0x02

/-- RESUME. -/
def execResume (a : Agent) (s : State) : Host.Outcome State Fault Refusal := cmdRow s a pMason 0x03

/-- PMAP. -/
def execPmap (a : Agent) (s : State) : Host.Outcome State Fault Refusal := cmdRow s a pMason 0x04

/-- POOLDEF. -/
def execPooldef (a : Agent) (s : State) : Host.Outcome State Fault Refusal := cmdRow s a pMason 0x05

/-- POOLDEL. -/
def execPooldel (a : Agent) (s : State) : Host.Outcome State Fault Refusal := cmdRow s a pMason 0x06

/-- SESSINIT. -/
def execSessinit (a : Agent) (s : State) : Host.Outcome State Fault Refusal := cmdRow s a pMason 0x07

/-- SESSFREE. -/
def execSessfree (a : Agent) (s : State) : Host.Outcome State Fault Refusal := cmdRow s a pMason 0x08

/-- SPILL. -/
def execSpill (a : Agent) (s : State) : Host.Outcome State Fault Refusal := cmdRow s a pMason 0x09

/-- PIN. -/
def execPin (a : Agent) (s : State) : Host.Outcome State Fault Refusal := cmdRow s a pMason 0x0A

/-- UNPIN. -/
def execUnpin (a : Agent) (s : State) : Host.Outcome State Fault Refusal := cmdRow s a pMason 0x0B

/-- HINT. -/
def execHint (a : Agent) (s : State) : Host.Outcome State Fault Refusal := cmdRow s a pMason 0x0C

/-- LOOKUP. -/
def execLookup (a : Agent) (s : State) : Host.Outcome State Fault Refusal := cmdRow s a pMason 0x0D

/-- BRICKDEL. -/
def execBrickdel (a : Agent) (s : State) : Host.Outcome State Fault Refusal := cmdRow s a pMason 0x0E

/-- STATICDEF. -/
def execStaticdef (a : Agent) (s : State) : Host.Outcome State Fault Refusal := cmdRow s a pMason 0x0F

/-- DRAINC. -/
def execDrainc (a : Agent) (s : State) : Host.Outcome State Fault Refusal := cmdRow s a pMason 0x10

/-- ADMITC. -/
def execAdmitc (a : Agent) (s : State) : Host.Outcome State Fault Refusal := cmdRow s a pMason 0x11

/-- MIGACK. -/
def execMigack (a : Agent) (s : State) : Host.Outcome State Fault Refusal := cmdRow s a pMason 0x12

end Sys2Proof.Machine
end

