-- ==== Sys2Proof/Machine/BoardRows.lean ====
section
/-! DEFINITION. PCI Express, patrol scrub, SPI, I2C, temperature, SMBus and the test access port (spec/16; spec/09
R293–R296). -/

namespace Sys2Proof.Machine

/-! ## PCI Express and memory (spec/09 R293–R296, spec/16 R480–R484) -/

/-- PCIE_INBOUND_REQUEST (spec/09 R293, R294). -/
def execPcieInboundRequest (port : Fin 2) (rid : BitVec 16) (addr : Word) (req : PcieReq) (s : State) :
    Host.Outcome State Fault Refusal :=
  devRow s (fun s => inboundOp s port rid addr req)

/-- MSI_WRITE: an inbound write in the MSI window (spec/08 R266). -/
def execMsiWrite (port : Fin 2) (rid : BitVec 16) (addr : Word) (data : List Byte) (s : State) :
    Host.Outcome State Fault Refusal :=
  devRow s (fun s => if inMsi s port addr.toNat then inboundOp s port rid addr (.write data) else s)

/-- PATROL_SCRUB_READ (spec/09 R295, R296). -/
def execPatrolScrubRead (ctl : Fin 9) (addr : BitVec 48) (found : Ecc) (s : State) : Host.Outcome State Fault Refusal :=
  devRow s (fun s => scrubOp s ctl addr found)

/-- PERST_WRITE (spec/16 Table 16-8). -/
def execPerstWrite (a : Agent) (p : Fin 2) (v : Word) (s : State) : Host.Outcome State Fault Refusal :=
  devRow s (fun s => rowWrite s a (pcieReg p 0x108) v)

/-- PCIE_LINK_DOWN. -/
def execPcieLinkDown (p : Fin 2) (k : Fin 4) (s : State) : Host.Outcome State Fault Refusal :=
  devRow s (fun s => subDown s p k)

/-- PCIE_LINK_UP. -/
def execPcieLinkUp (p : Fin 2) (k : Fin 4) (gen : BitVec 3) (width : BitVec 5) (s : State) :
    Host.Outcome State Fault Refusal :=
  devRow s (fun s => subLinkUp s p k gen width)

/-! ## SPI and I2C (spec/16 R486, R487, R497) -/

/-- SPI_GO: a write of the SPI control register with GO = 1. -/
def execSpiGo (a : Agent) (v : Word) (s : State) : Host.Outcome State Fault Refusal :=
  devRow s (fun s => rowWrite s a (ctl pDev 0x1C0) (setBit v 63 true))

/-- SPI_DONE. -/
def execSpiDone (data : List Byte) (s : State) : Host.Outcome State Fault Refusal := devRow s (fun s => spiDoneOp s data)

/-- I2C_GO: a write of the I2C control register with GO = 1. -/
def execI2cGo (a : Agent) (v : Word) (s : State) : Host.Outcome State Fault Refusal :=
  devRow s (fun s => rowWrite s a (ctl pPwr 0x180) (setBit v 63 true))

/-- I2C_DONE. -/
def execI2cDone (nack : Bool) (data : Word) (s : State) : Host.Outcome State Fault Refusal :=
  devRow s (fun s => i2cDoneOp s nack data)

/-- TEMPERATURE_SAMPLE (spec/16 R498). -/
def execTemperatureSample (tj : BitVec 16) (s : State) : Host.Outcome State Fault Refusal :=
  devRow s (fun s => temperatureOp s tj)

/-- RAIL_WARNING (spec/16 R496). -/
def execRailWarning (s : State) : Host.Outcome State Fault Refusal := devRow s railWarnOp

/-! ## SMBus target (spec/16 Table 16-12): it answers while V_STBY is in tolerance -/

/-- IDENT. -/
def execIdent (s : State) : Host.Outcome State Fault Refusal :=
  next (smbCmd s 1 true (fun s => smbReply s (beBytes 8 s.fuses.partid.toNat)))

/-- STATUS. -/
def execStatus (s : State) : Host.Outcome State Fault Refusal :=
  next (smbCmd s 2 true (fun s => smbReply s (beBytes 8 (statusWord s))))

/-- TEMP. -/
def execTemp (s : State) : Host.Outcome State Fault Refusal := next (smbCmd s 3 true (fun s => smbReply s (tempBytes s)))

/-- POWERON, in OFF. -/
def execPoweron (s : State) : Host.Outcome State Fault Refusal :=
  next (smbCmd s 4 (decide (powerState s = 0)) (fun s => { s with sby := { s.sby with pwrEn := true } }))

/-- POWEROFF, in RESET, RUN or TRIP: it holds the device in reset as RESET_n low does (Table 15-3), then drives PWR_EN low. -/
def execPoweroff (s : State) : Host.Outcome State Fault Refusal :=
  next (smbCmd s 5 (decide (powerState s ≠ 0)) (fun s =>
    let s := if s.sby.inReset then s else clearPages s
    { s with sby := { s.sby with inReset := true, pwrEn := false } }))

/-- DEVRESET of the SMBus target, in RUN. -/
def execSmbDevreset (s : State) : Host.Outcome State Fault Refusal :=
  next (smbCmd s 6 (decide (powerState s = 2)) clearDevice)

/-- LOGREAD. -/
def execLogread (s : State) : Host.Outcome State Fault Refusal := next (smbCmd s 7 true (fun s => smbReply s (logBytes s)))

/-- LOGPOP. -/
def execLogpop (s : State) : Host.Outcome State Fault Refusal :=
  next (smbCmd s 8 true (fun s => { s with sby := { s.sby with store := s.sby.store.drop 1 } }))

/-- A transfer that is no command of Table 16-12 to this target (spec/16 R488, R489). The Alert Response Address, 0Ch in SMBus,
is answered with the target's own address while SMB_ALERT_n is low; another address is not this target's; an undefined code is
NACKed at the command byte, and a command whose packet error code is wrong has no effect and NACKs its last byte. -/
def smbTransferOp (s : State) (x : SmbTransfer) : State :=
  if !s.sby.vstby then s
  else if x.addr = 0x0C then
    if smbAlert s then { s with sby := { s.sby with nacked := false, reply := beBytes 1 ((smbAddress s).toNat * 2) } } else s
  else if x.addr = smbAddress s ∧ (x.code = 0 ∨ 8 < x.code.toNat ∨ x.pecBad = true) then
    let s := (s.evCount pSmb 0x20 1).evCount pSmb 0x21 1
    { s with sby := { s.sby with nacked := true, reply := [] } }
  else s

/-- SMB_UNDEFINED_COMMAND. -/
def execSmbUndefinedCommand (x : SmbTransfer) (s : State) : Host.Outcome State Fault Refusal := next (smbTransferOp s x)

/-! ## Test access port (spec/16 R491, R492) -/

/-- EXTEST. -/
def execExtest (bsr : List (Signal × Bool)) (s : State) : Host.Outcome State Fault Refusal := next (tapScan s 0x00 bsr)

/-- IDCODE. -/
def execIdcode (s : State) : Host.Outcome State Fault Refusal :=
  next { tapSelect s 0x01 with reply := some (beBytes 4 (idcodeWord s)), replyEp := false }

/-- SAMPLE_PRELOAD. -/
def execSamplePreload (bsr : List (Signal × Bool)) (s : State) : Host.Outcome State Fault Refusal := next (tapScan s 0x02 bsr)

/-- CLAMP. -/
def execClamp (s : State) : Host.Outcome State Fault Refusal := next (tapSelect s 0x04)

/-- HIGHZ. -/
def execHighz (s : State) : Host.Outcome State Fault Refusal := next (tapSelect s 0x05)

/-- BYPASS. -/
def execBypass (s : State) : Host.Outcome State Fault Refusal := next (tapSelect s 0xFF)

/-- The access of CPACC and its status (spec/16 R492). -/
def cpaccOp (s : State) (addr : BitVec 48) (write : Bool) (data : Word) : State :=
  let fin (s : State) (st : Nat) (d : Word) : State :=
    { s with tap := { s.tap with ir := tapOf 0x80, cpStatus := BitVec.ofNat 8 st, cpData := d } }
  let a := addr.toNat / 8 * 8
  if s.fuses.dbgLock then fin s 1 data
  else if !inRange a 0x3F0000000000 0x3F00000FFFFF then fin s 2 data
  else if write then fin (ctlStore s .jtag (a - 0x3F0000000000) .b8 data) 0 data
  else
    let r := ctlLoad s .jtag (a - 0x3F0000000000) 8
    fin r.2 0 (BitVec.ofNat 64 (ofBytes r.1))

/-- CPACC: while the device runs. -/
def execCpacc (addr : BitVec 48) (write : Bool) (data : Word) (s : State) : Host.Outcome State Fault Refusal :=
  next (if s.live then settle (cpaccOp s addr write data) else tapSelect s 0x80)

end Sys2Proof.Machine
end

