-- ==== Sys2Proof/Machine/BootRows.lean ====
section
/-! DEFINITION. Resets, boot, training, reload, the calendar, clocks and PPS (spec/15). -/

namespace Sys2Proof.Machine

/-- COLD_RESET: POWER_GOOD rises with RESET_n released (spec/15 Table 15-3). -/
def execColdReset (s : State) : Host.Outcome State Fault Refusal := next (coldResetOp s)

/-- WARM_RESET: RESET_n low and released again while POWER_GOOD is high (spec/15 Table 15-3). -/
def execWarmReset (s : State) : Host.Outcome State Fault Refusal := next (if s.powered then clearDevice s else s)

/-- POWER_LOSS: POWER_GOOD falls (spec/15 R453). -/
def execPowerLoss (s : State) : Host.Outcome State Fault Refusal := next (powerLossOp s)

/-- STANDBY_RESET: V_STBY rises and the address straps are sampled (spec/15 Table 15-3, spec/16 R488). -/
def execStandbyReset (addr : StrapPair) (s : State) : Host.Outcome State Fault Refusal := next (standbyResetOp s addr)

/-- CALENDAR_RESET (spec/15 Table 15-3, R465). -/
def execCalendarReset (s : State) : Host.Outcome State Fault Refusal := next (calendarResetOp s)

/-- STANDBY_LOSS: V_STBY leaves tolerance (spec/15 R465, Table 15-4). -/
def execStandbyLoss (s : State) : Host.Outcome State Fault Refusal := next (standbyLossOp s)

/-- BOOT_ROM (spec/15 R457–R459, Sequence 15-5). -/
def execBootRom (density : Option Nat) (flash : List Byte) (readable : FlashReads) (s : State) :
    Host.Outcome State Fault Refusal :=
  devRow s (fun s => bootRomOp s density flash readable)

/-- DEV_START (spec/15 R460). -/
def execDevStart (a : Agent) (v : Word) (s : State) : Host.Outcome State Fault Refusal :=
  devRow s (fun s => rowWrite s a (ctl pDev 0x1B0) v)

/-- TIMEBASE_SEED: the CORE PLL locks, or SEED waits, at a calendar tick (spec/15 R468). -/
def execTimebaseSeed (s : State) : Host.Outcome State Fault Refusal := devRow s seedTb

/-- DDRC_HBMC_TRAIN (spec/15 Table 15-9, R461). -/
def execDdrcHbmcTrain (a : Agent) (ctl : Fin 9) (s : State) : Host.Outcome State Fault Refusal := cmdRow s a (ctlPage ctl) 1

/-- TRAIN_COMPLETE (spec/15 Table 15-9, R462). -/
def execTrainComplete (ctl : Fin 9) (d : Dimms) (s : State) : Host.Outcome State Fault Refusal :=
  devRow s (fun s => trainDone s ctl d)

/-- RELOAD (spec/15 R463). -/
def execReload (a : Agent) (c : CourseId) (s : State) : Host.Outcome State Fault Refusal := cmdRow s a (pCourse + c.val) 1

/-- RELOAD_VERIFY_DONE (spec/15 R463). -/
def execReloadVerifyDone (c : CourseId) (s : State) : Host.Outcome State Fault Refusal :=
  devRow s (fun s => reloadDone s c)

/-- SET of the CAL page (spec/15 R467). -/
def execSet (a : Agent) (s : State) : Host.Outcome State Fault Refusal := cmdRow s a pCal 1

/-- SEED of the CLK page (spec/15 R468). -/
def execSeed (a : Agent) (s : State) : Host.Outcome State Fault Refusal := cmdRow s a pClk 1

/-- DEVRESET of the PWR page (spec/15 Table 15-9). -/
def execDevreset (a : Agent) (s : State) : Host.Outcome State Fault Refusal := cmdRow s a pPwr 1

/-- CALENDAR_TICK: it counts on V_STBY or VBAT, whatever the rest of the device does (spec/15 R465–R468). -/
def execCalendarTick (s : State) : Host.Outcome State Fault Refusal := next (calTickOp s)

/-- OSC_STOP (spec/15 R465). -/
def execOscStop (s : State) : Host.Outcome State Fault Refusal := next (oscStopOp s)

/-- VBAT_SAMPLE, once a second while V_STBY is present (spec/15 R465). -/
def execVbatSample (low : Bool) (s : State) : Host.Outcome State Fault Refusal :=
  next (if s.sby.vstby && low then s.raise pCal 0 else s)

/-- PPS_EDGE (spec/15 R470). -/
def execPpsEdge (falling : Bool) (s : State) : Host.Outcome State Fault Refusal := devRow s (fun s => ppsEdgeOp s falling)

/-- PPS_LOST (spec/15 R470). -/
def execPpsLost (s : State) : Host.Outcome State Fault Refusal := devRow s ppsLostOp

/-- PLL_UNLOCK (spec/16 R493, spec/01 R31). -/
def execPllUnlock (p : Pll) (stops : Bool) (s : State) : Host.Outcome State Fault Refusal :=
  devRow s (fun s => pllUnlockOp s p stops)

end Sys2Proof.Machine
end

