-- ==== Sys2Proof/Machine/BranchRows.lean ====
section
/-! DEFINITION. Branches, jumps, MFBB and the return stack of a keystone tile (spec/02 "Branches and jumps", Map 2-6;
spec/03 R85, R108–R110). -/

namespace Sys2Proof.Machine

/-- Push a return address on a keystone tile; a push to a full stack overwrites the oldest entry (spec/03 R108). -/
def rpush (t : TileId) (a : Word) (x : Tile) : Tile :=
  if isKeyst t then { x with rstack := (a :: x.rstack).take 8 } else x

/-- A return on a keystone tile pops the stack; the prediction is counted (spec/03 R108, R109). -/
def rpop (s : State) (t : TileId) (target : Word) : State :=
  if isKeyst t then
    let l := (s.tile t).lvl
    match (s.tile t).rstack with
    | [] => tCount s t l 0x43 1
    | a :: r => (tCount s t l (if a = target then 0x41 else 0x42) 1).modTile t (fun x => { x with rstack := r })
  else s

/-- The target of a B-format branch: the branch plus 4 × the sign-extended offset (spec/02 R70). -/
def bTarget (pc : Word) (off : BitVec 18) : Word := pc + off.signExtend 64 * 4

/-- BR. -/
def execBr (t : TileId) (g : Guard) (off : BitVec 18) (s : State) : Host.Outcome State Fault Refusal :=
  next (tileOp s t { g := g, branch := true } (fun s => .ok (.to (bTarget (s.tile t).pc off)) s))

/-- BL: g31 := the address of the next instruction. -/
def execBl (t : TileId) (g : Guard) (off : BitVec 18) (s : State) : Host.Outcome State Fault Refusal :=
  next (tileOp s t { g := g, branch := true } (fun s =>
    let pc := (s.tile t).pc
    .ok (.to (bTarget pc off)) (s.modTile t (fun x => rpush t (pc + 4) (x.setG 31 (pc + 4))))))

/-- A target that is not word-aligned raises ALIGN 02h, with the branch not taken (spec/02; spec/03 R85). -/
def jumpTo (a : Word) (s : State) (k : State → State) : R Flow :=
  if a.toNat % 4 ≠ 0 then .exc { code := 4, sub := 2, faddr := a } s else .ok (.to a) (k s)

/-- JMP; through g31 it is a return (spec/03 R108). -/
def execJmp (t : TileId) (g : Guard) (ra : BitVec 5) (s : State) : Host.Outcome State Fault Refusal :=
  next (tileOp s t { g := g, branch := true } (fun s =>
    let a := (s.tile t).g ra
    jumpTo a s (fun s => if ra = 31 then rpop s t a else s)))

/-- JL: rd := the address of the next instruction. -/
def execJl (t : TileId) (g : Guard) (rd ra : BitVec 5) (s : State) : Host.Outcome State Fault Refusal :=
  next (tileOp s t { g := g, branch := true } (fun s =>
    let x := s.tile t
    jumpTo (x.g ra) s (fun s => s.modTile t (fun y =>
      let y := y.setG rd (x.pc + 4)
      if rd = 31 then rpush t (x.pc + 4) y else y))))

/-- bbk as MFBB reads it: FRAME is 0 at Ledger level (spec/02 Map 2-6). -/
def bbRead (x : Tile) (k : Fin 4) : Word :=
  let w := x.bb.get k
  if x.lvl = .ledger then w &&& 0xC000000000000000#64 else w

/-- MFBB. -/
def execMfbb (t : TileId) (g : Guard) (rd : BitVec 5) (k : Fin 4) (s : State) : Host.Outcome State Fault Refusal :=
  tileFn s t { g := g, present := !isKeyst t } (fun x => x.setG rd (bbRead x k))

end Sys2Proof.Machine
end

