-- ==== Sys2Proof/Machine/DecRows.lean ====
section
/-! DEFINITION. Decimal instructions of the tile (spec/04). -/

namespace Sys2Proof.Machine

/-! ## Results -/

/-- Decimal overflow: DOVF, and with DOVT the decimal arithmetic exception with nothing written (spec/04 R131). -/
def decOver (t : TileId) (ov : Bool) (finfo : Word) (k : State → R Flow) (s : State) : R Flow :=
  if ov then
    let s := s.modTile t (fun x => x.orD dDOVF)
    if (s.tile t).dovt then .exc (exc 0x0D 1 finfo) s else k s
  else k s

/-- `finish` into a register (spec/04, finish). -/
def finishD (t : TileId) (dd : BitVec 4) (v : Dec) (s : State) : R Flow :=
  let r := finishDec (s.tile t).keepz v decLimit
  decOver t r.2 0 (put t (fun x => x.setD dd (decReg r.1.neg r.1.mag))) s

/-- Write a pair. -/
def Tile.setPair (x : Tile) (dp : BitVec 4) (v : BitVec 128 × BitVec 128) : Tile := (x.setD dp v.1).setD (dp + 1) v.2

/-- The value of a pair. -/
def Tile.pair (x : Tile) (dp : BitVec 4) : Dec := wideVal (x.d dp) (x.d (dp + 1))

/-- `finish` into a pair. -/
def finishW (t : TileId) (dp : BitVec 4) (v : Dec) (s : State) : R Flow :=
  let r := finishDec (s.tile t).keepz v wideLimit
  decOver t r.2 0 (put t (fun x => x.setPair dp (widePack r.1.neg r.1.mag))) s

/-- A register instruction whose result is a function of its operands. -/
def decReg2 (s : State) (t : TileId) (g : Guard) (dd : BitVec 4) (f : Tile → Dec) : Host.Outcome State Fault Refusal :=
  next (tileOp s t { g := g } (fun s => finishD t dd (f (s.tile t)) s))

/-! ## Register arithmetic (spec/04 R138) -/

/-- DADD, DADD.FT. -/
def execDadd (t : TileId) (g : Guard) (_ft : Bool) (dd da db : BitVec 4) (s : State) : Host.Outcome State Fault Refusal :=
  decReg2 s t g dd (fun x => (decVal (x.d da)).add (decVal (x.d db)))

/-- DSUB, DSUB.FT. -/
def execDsub (t : TileId) (g : Guard) (_ft : Bool) (dd da db : BitVec 4) (s : State) : Host.Outcome State Fault Refusal :=
  decReg2 s t g dd (fun x => (decVal (x.d da)).add (decVal (x.d db)).opp)

/-- DMUL, DMUL.FT. -/
def execDmul (t : TileId) (g : Guard) (_ft : Bool) (dd da db : BitVec 4) (s : State) : Host.Outcome State Fault Refusal :=
  decReg2 s t g dd (fun x => (decVal (x.d da)).mul (decVal (x.d db)))

/-- DMULW, DMULW.FT. -/
def execDmulw (t : TileId) (g : Guard) (_ft : Bool) (dp da db : BitVec 4) (s : State) : Host.Outcome State Fault Refusal :=
  next (tileOp s t { g := g, legal := dPair dp } (fun s =>
    let x := s.tile t
    finishW t dp ((decVal (x.d da)).mul (decVal (x.d db))) s))

/-- DADDW. -/
def execDaddw (t : TileId) (g : Guard) (dp dpa dpb : BitVec 4) (s : State) : Host.Outcome State Fault Refusal :=
  next (tileOp s t { g := g, legal := dPair dp && dPair dpa && dPair dpb } (fun s =>
    let x := s.tile t
    finishW t dp ((x.pair dpa).add (x.pair dpb)) s))

/-- DSUBW. -/
def execDsubw (t : TileId) (g : Guard) (dp dpa dpb : BitVec 4) (s : State) : Host.Outcome State Fault Refusal :=
  next (tileOp s t { g := g, legal := dPair dp && dPair dpa && dPair dpb } (fun s =>
    let x := s.tile t
    finishW t dp ((x.pair dpa).add (x.pair dpb).opp) s))

/-- DNARW. -/
def execDnarw (t : TileId) (g : Guard) (dd dpa : BitVec 4) (s : State) : Host.Outcome State Fault Refusal :=
  next (tileOp s t { g := g, legal := dPair dpa } (fun s => finishD t dd ((s.tile t).pair dpa) s))

/-- DMOV. -/
def execDmov (t : TileId) (g : Guard) (dd da : BitVec 4) (s : State) : Host.Outcome State Fault Refusal :=
  decReg2 s t g dd (fun x => decVal (x.d da))

/-- DNEG. -/
def execDneg (t : TileId) (g : Guard) (dd da : BitVec 4) (s : State) : Host.Outcome State Fault Refusal :=
  decReg2 s t g dd (fun x => (decVal (x.d da)).opp)

/-- DABS. -/
def execDabs (t : TileId) (g : Guard) (dd da : BitVec 4) (s : State) : Host.Outcome State Fault Refusal :=
  decReg2 s t g dd (fun x => { decVal (x.d da) with neg := false })

/-! ## Division and compare (spec/04 R139, R141) -/

/-- The quotient and remainder of DDIVS as they are packed (spec/04, DDIVS). -/
def ddivsWrite (keepz : Bool) (dq dp : BitVec 4) (w v : Dec) (x : Tile) : Tile :=
  let q := (finishDec keepz { neg := w.neg != v.neg, mag := w.mag / v.mag } decLimit).1
  let r := (finishDec keepz { neg := w.neg, mag := w.mag % v.mag } decLimit).1
  (x.setPair dp (decZero, decReg r.neg r.mag)).setD dq (decReg q.neg q.mag)

/-- DDIVS (spec/04 R139): nothing is written on a zero divisor and on quotient overflow. -/
def ddivsBody (t : TileId) (dq dp dv : BitVec 4) (s : State) : R Flow :=
  let x := s.tile t
  let w := x.pair dp
  let v := decVal (x.d dv)
  if v.mag = 0 then
    let s := s.modTile t (fun x => x.orD dDZ)
    if x.dzt then .exc (exc 0x0D 2) s else .ok .next s
  else decOver t (decide (decLimit ≤ w.mag / v.mag)) 0
    (fun s => if decLimit ≤ w.mag / v.mag then .ok .next s else put t (ddivsWrite x.keepz dq dp w v) s) s

/-- DDIVS, DDIVS.FT. -/
def execDdivs (t : TileId) (g : Guard) (_ft : Bool) (dq dp dv : BitVec 4) (s : State) : Host.Outcome State Fault Refusal :=
  next (tileOp s t { g := g, legal := dPair dp } (ddivsBody t dq dp dv))

/-- DCMP, DCMP.FT (spec/04 R141). -/
def execDcmp (t : TileId) (g : Guard) (_ft : Bool) (c : DecCond) (pd : BitVec 3) (da db : BitVec 4) (s : State) :
    Host.Outcome State Fault Refusal :=
  tileFn s t { g := g } (fun x => x.setP pd (DecCond.holds c (decVal (x.d da)) (decVal (x.d db))))

/-! ## Shift, round and conversions (spec/04 R142–R145) -/

/-- DINX where a nonzero digit was discarded (spec/04 R132). -/
def orInx (s : State) (t : TileId) (inx : Bool) : State := if inx then s.modTile t (fun x => x.orD dDINX) else s

/-- DSHR. -/
def dshrBody (t : TileId) (rm : RndSel) (dd da : BitVec 4) (n : BitVec 5) (s : State) : R Flow :=
  let x := s.tile t
  let a := decVal (x.d da)
  let q := roundDec (rndOf rm x.cur.dctl) a.mag n.toNat
  finishD t dd { a with mag := q.1 } (orInx s t q.2)

/-- DSHR, DSHR.FT. -/
def execDshr (t : TileId) (g : Guard) (_ft : Bool) (rm : RndSel) (dd da : BitVec 4) (n : BitVec 5) (s : State) :
    Host.Outcome State Fault Refusal :=
  next (tileOp s t { g := g } (dshrBody t rm dd da n))

/-- DSHL, DSHL.FT. -/
def execDshl (t : TileId) (g : Guard) (_ft : Bool) (_rm : RndSel) (dd da : BitVec 4) (n : BitVec 5) (s : State) :
    Host.Outcome State Fault Refusal :=
  decReg2 s t g dd (fun x => let a := decVal (x.d da); { a with mag := a.mag * 10 ^ n.toNat })

/-- CVBD. -/
def execCvbd (t : TileId) (g : Guard) (dd : BitVec 4) (ga : BitVec 5) (n : BitVec 5) (s : State) :
    Host.Outcome State Fault Refusal :=
  decReg2 s t g dd (fun x =>
    let v := (x.g ga).toInt
    { neg := decide (v < 0), mag := v.natAbs * 10 ^ n.toNat })

/-- CVDB (spec/04 R144): the wrapped result goes to gd, or to FINFO. -/
def cvdbBody (t : TileId) (gd : BitVec 5) (da : BitVec 4) (n : BitVec 5) (s : State) : R Flow :=
  let x := s.tile t
  let a := decVal (x.d da)
  let q := roundDec (dctlRnd x.cur.dctl) a.mag n.toNat
  let v := ({ a with mag := q.1 } : Dec).int
  let w := BitVec.ofInt 64 v
  decOver t (!fits64 v) w (put t (fun x => x.setG gd w)) (orInx s t q.2)

/-- CVDB. -/
def execCvdb (t : TileId) (g : Guard) (gd : BitVec 5) (da : BitVec 4) (n : BitVec 5) (s : State) :
    Host.Outcome State Fault Refusal :=
  next (tileOp s t { g := g } (cvdbBody t gd da n))

/-- DMFR. -/
def execDmfr (t : TileId) (g : Guard) (gd : BitVec 5) (da : BitVec 4) (low : Bool) (s : State) :
    Host.Outcome State Fault Refusal :=
  tileFn s t { g := g } (fun x => x.setG gd (decHalf (x.d da) low))

/-- DMTR (spec/04 R145): KIND 01b of Layout 4-9. -/
def dmtrBody (t : TileId) (dd : BitVec 4) (ga gb : BitVec 5) (s : State) : R Flow :=
  let x := s.tile t
  let v : BitVec 128 := x.g ga ++ x.g gb
  match badNibble (beBytes 16 v.toNat) with
  | some p => .exc (exc 0x0C (0x40 + p)) s
  | none => finishD t dd (decVal v) s

/-- DMTR. -/
def execDmtr (t : TileId) (g : Guard) (dd : BitVec 4) (ga gb : BitVec 5) (s : State) : Host.Outcome State Fault Refusal :=
  next (tileOp s t { g := g } (dmtrBody t dd ga gb))

/-! ## Loads, stores and DADDM (spec/04 R146–R149) -/

/-- Length codes of DLD and DST (spec/04 Table 4-13). -/
def dldLen (c : BitVec 3) : Nat := [1, 2, 3, 4, 5, 6, 8, 16].getD c.toNat 16

/-- Length codes of DADDM. -/
def daddmLen (c : BitVec 2) : Nat := [4, 6, 8, 16].getD c.toNat 16

/-- Read a packed field of `n` bytes at `a`; an invalid nibble is the decimal data fault. -/
def packedRead (s : State) (t : TileId) (a : Addr) (n : Nat) : R Dec :=
  (unitRead s t a n).bind (fun bs s =>
    match badNibble bs with
    | some p => .exc (packedFault a p) s
    | none => .ok (fieldVal bs) s)

/-- Load a packed field (spec/04 R146). -/
def packedLoad (t : TileId) (dd : BitVec 4) (a : Addr) (n : Nat) (s : State) : R Flow :=
  (packedRead s t a n).bind (fun v s => finishD t dd v s)

/-- Store a register as a packed field of `n` bytes (spec/04 R146, R131). -/
def packedStore (t : TileId) (ds : BitVec 4) (a : Addr) (n : Nat) (put_ : List (Addr × Xl × Nat) → List Byte → State → State)
    (s : State) : R Flow :=
  (unitPlace s t .unitStore a n).bind (fun l s =>
    let x := s.tile t
    let r := finishDec x.keepz (decVal (x.d ds)) (10 ^ (2 * n - 1))
    decOver t r.2 0 (fun s => .ok .next (put_ l (beBytes n (packDec (2 * n - 1) r.1.neg r.1.mag)) s)) s)

/-- DLD. -/
def execDld (t : TileId) (g : Guard) (len : BitVec 3) (dd : BitVec 4) (base : BitVec 4) (disp : BitVec 12) (s : State) :
    Host.Outcome State Fault Refusal :=
  next (tileOp s t { g := g } (fun s => packedLoad t dd (refAddr (s.tile t) (.mform base disp)) (dldLen len) s))

/-- DST: an entry of the store buffer for each line. -/
def execDst (t : TileId) (g : Guard) (len : BitVec 3) (ds : BitVec 4) (base : BitVec 4) (disp : BitVec 12) (s : State) :
    Host.Outcome State Fault Refusal :=
  next (tileOp s t { g := g } (fun s =>
    packedStore t ds (refAddr (s.tile t) (.mform base disp)) (dldLen len) (writeAll (pushLines t)) s))

/-- DADDM with its place (spec/04 R148, R149). The write set takes the line whether or not the field is written (spec/11
R348); a trap leaves no effect but DOVF (spec/03 R92). -/
def daddmAt (t : TileId) (dd : BitVec 4) (a : Addr) (n : Nat) (xl : Xl) (s : State) : R Flow :=
  (readAt (drainTile s t) t a xl n).bind (fun bs s =>
    match badNibble bs with
    | some p => .exc (packedFault a p) s
    | none =>
      let x := s.tile t
      let old := fieldVal bs
      let r := finishDec x.keepz (old.add (decVal (x.d dd))) (10 ^ (2 * n - 1))
      let o := (finishDec x.keepz old decLimit).1
      let load (s : State) : R Flow := put t (fun x => x.setD dd (decReg o.neg o.mag)) s
      if r.2 then
        decOver t true 0 (fun s => load (if xl.ty = .brick then brickWrite s x.tk xl.pa n else s)) s
      else load (storeNow s t xl (beBytes n (packDec (2 * n - 1) r.1.neg r.1.mag))))

/-- DADDM: brick checks, then the line, then translation (spec/04 R136, R149). -/
def daddmBody (t : TileId) (dd : BitVec 4) (a : Addr) (n : Nat) (s : State) : R Flow :=
  let crosses (p : Nat) : Bool := decide (128 < p % 128 + n)
  let align : Exc := { code := 4, sub := 1, faddr := a.fa }
  match a with
  | .brick k off =>
    (brickXl s t .atomic k off n).bind (fun x s => if crosses x.pa then .exc align s else daddmAt t dd a n x s)
  | .virt va =>
    if crosses va.toNat then .exc align s
    else (translate s t .data (dataCtx s t) .atomic va n).bind (fun x s => daddmAt t dd a n x s)

/-- DADDM. -/
def execDaddm (t : TileId) (g : Guard) (len : BitVec 2) (dd : BitVec 4) (base : BitVec 4) (disp : BitVec 12) (s : State) :
    Host.Outcome State Fault Refusal :=
  next (tileOp s t { g := g } (fun s => daddmBody t dd (refAddr (s.tile t) (.mform base disp)) (daddmLen len) s))

/-! ## Character and zoned fields (spec/04 R150–R157) -/

/-- The fields of a descriptor (spec/04 Map 4-14). -/
structure XDesc where
  prog : Bool
  neg : Bool
  rsvd : Bool
  base : Nat
  fmt : Nat
  len : Nat

/-- A descriptor. -/
def xDesc (w : Word) : XDesc :=
  { prog := w.getLsbD 63, neg := w.getLsbD 62, rsvd := decide (bitsNat w 61 56 ≠ 0 ∨ bitsNat w 47 7 ≠ 0),
    base := bitsNat w 55 52, fmt := bitsNat w 51 48, len := bitsNat w 6 0 }

/-- A separate sign stands at one end of the field (formats 2h to 4h). -/
def XDesc.signed (d : XDesc) : Bool := decide (2 ≤ d.fmt ∧ d.fmt ≤ 4)

/-- LEN at the start is within Table 4-15. -/
def XDesc.lenOk (d : XDesc) : Bool :=
  if d.fmt = 0 then inRange d.len 1 16 else if d.signed then inRange d.len 2 64 else inRange d.len 1 64

/-- An invalid descriptor (spec/04 R151). -/
def XDesc.invalid (d : XDesc) (ga gb : BitVec 5) : Bool :=
  d.rsvd || !baseOk d.base || decide (6 ≤ d.fmt) || (!d.prog && !d.lenOk) || (d.prog && decide (d.len = 0 ∨ d.fmt = 0)) ||
    decide (ga = 0 ∨ ga = gb)

/-- ga and gb after a unit (spec/04 R154, R156). -/
def xAdvance (ga gb : BitVec 5) (n : Nat) (left : Nat) (neg : Bool) (x : Tile) : Tile :=
  let w := x.g gb
  let w := setBits (setBit (setBit w 63 (decide (left ≠ 0))) 62 (neg && decide (left ≠ 0))) 0 7 left
  (x.setG ga (x.g ga + BitVec.ofNat 64 n)).setG gb w

/-- How a unit ends. -/
def xFlow (gb : BitVec 5) (left : Nat) : Flow := if left = 0 then .last else .unit gb

/-- The checks of every unit, and what follows with the descriptor and the field's address (spec/04 R151, R152). -/
def xStart (t : TileId) (write : Bool) (ga gb : BitVec 5) (k : XDesc → Addr → State → R Flow) (s : State) : R Flow :=
  let x := s.tile t
  let d := xDesc (x.g gb)
  if d.invalid ga gb then .exc (exc 3 2) s
  else longStart s t gb (fun s =>
    let a := baseAddr d.base (x.g ga)
    match a with
    | .brick slot off => (brickXl s t (if write then .unitStore else .unitLoad) slot off d.len).bind (fun _ s => k d a s)
    | .virt _ => k d a s)

/-- Bytes of a unit (spec/04 R153). -/
def xUnit (d : XDesc) (a : Addr) : Nat := min d.len (16 - a.fa.toNat % 16)

/-- One byte of a field: a digit, a sign (minus), a digit with the sign, or nothing of these. -/
inductive XByte where
  | digit (n : Nat)
  | sign (minus : Bool)
  | both (n : Nat) (minus : Bool)
  | bad
  deriving DecidableEq

/-- A character digit. -/
def chDigit (b : Nat) : XByte := if inRange b 0x30 0x39 then .digit (b - 0x30) else .bad

/-- A sign character of a format (spec/04 Table 4-15). -/
def chSign (fmt b : Nat) : XByte :=
  let c := if fmt = 4 then (0x43, 0x44) else (0x2B, 0x2D)
  if b = c.1 then .sign false else if b = c.2 then .sign true else .bad

/-- What a byte of a field is; `first` and `last` say where it stands. -/
def xByte (fmt : Nat) (first last : Bool) (b : Nat) : XByte :=
  match fmt with
  | 1 => chDigit b
  | 2 | 4 => if first then chSign fmt b else chDigit b
  | 3 => if last then chSign fmt b else chDigit b
  | _ =>
    let z := b / 16
    let n := b % 16
    if 9 < n then .bad
    else if !last then (if z = 3 ∨ z = 0xF then .digit n else .bad)
    else if z = 0xB ∨ z = 0xD then .both n true
    else if z = 0xA ∨ z = 0xC ∨ z = 0xE ∨ z = 0xF ∨ z = 3 then .both n false
    else .bad

/-- Digits and sign read so far, or the offset of the first invalid byte. -/
def xScan (fmt : Nat) (start : Bool) (len : Nat) : Nat → List Byte → Nat → Bool → Sum Nat (Nat × Bool)
  | _, [], acc, neg => .inr (acc, neg)
  | i, b :: r, acc, neg =>
    match xByte fmt (start && decide (i = 0)) (decide (i + 1 = len)) b.toNat with
    | .digit n => xScan fmt start len (i + 1) r (acc * 10 + n) neg
    | .sign m => xScan fmt start len (i + 1) r acc m
    | .both n m => xScan fmt start len (i + 1) r (acc * 10 + n) m
    | .bad => .inl i

/-- One unit of DLDX (spec/04 R150–R157). NEG of a first unit is not looked at (log entry 109). -/
def dldxUnit (t : TileId) (dd : BitVec 4) (ga gb : BitVec 5) (d : XDesc) (a : Addr) (s : State) : R Flow :=
  let n := xUnit d a
  let left := d.len - n
  (unitRead s t a n).bind (fun bs s =>
    let x := s.tile t
    let acc := if d.prog then (decVal (x.d dd)).mag else 0
    match xScan d.fmt (!d.prog) d.len 0 bs acc (d.prog && d.neg) with
    | .inl i => .exc (decData a (0x80 + i) i) s
    | .inr (m, neg) =>
      decOver t (decide (decLimit ≤ m)) 0 (fun s =>
        let r := (finishDec x.keepz { neg := neg, mag := m } decLimit).1
        let v := if left = 0 then decReg r.neg r.mag else decReg false (m % decLimit)
        .ok (xFlow gb left) (s.modTile t (fun x => xAdvance ga gb n left neg (x.setD dd v)))) s)

/-- A whole packed field as one unit (FMT 0h). -/
def xPacked (t : TileId) (ga gb : BitVec 5) (d : XDesc) (r : R Flow) : R Flow :=
  r.bind (fun _ s => .ok .last (s.modTile t (xAdvance ga gb d.len 0 false)))

/-- DLDX. -/
def dldxBody (t : TileId) (dd : BitVec 4) (ga gb : BitVec 5) (s : State) : R Flow :=
  xStart t false ga gb (fun d a s =>
    if d.fmt = 0 then xPacked t ga gb d (packedLoad t dd a d.len s) else dldxUnit t dd ga gb d a s) s

/-- DLDX. -/
def execDldx (t : TileId) (g : Guard) (dd : BitVec 4) (ga gb : BitVec 5) (s : State) : Host.Outcome State Fault Refusal :=
  next (tileOp s t { g := g, long := true } (dldxBody t dd ga gb))

/-- The byte of a field that has `k` bytes from it to the field's end (spec/04 Table 4-15). -/
def xPutByte (fmt : Nat) (first : Bool) (neg : Bool) (mag k : Nat) : Byte :=
  let dig (p : Nat) : Nat := mag / 10 ^ p % 10
  BitVec.ofNat 8 (match fmt with
    | 2 => if first then (if neg then 0x2D else 0x2B) else 0x30 + dig (k - 1)
    | 4 => if first then (if neg then 0x44 else 0x43) else 0x30 + dig (k - 1)
    | 3 => if k = 1 then (if neg then 0x2D else 0x2B) else 0x30 + dig (k - 2)
    | 5 => if k = 1 then (if neg then 0xD0 else 0xC0) + dig 0 else 0x30 + dig (k - 1)
    | _ => 0x30 + dig (k - 1))

/-- One unit of DSTX (spec/04 R157): the whole value is checked in the first unit. A later unit cannot tell the field's
digit positions, so the value itself gives its sign there. -/
def dstxUnit (t : TileId) (ds : BitVec 4) (ga gb : BitVec 5) (d : XDesc) (a : Addr) (s : State) : R Flow :=
  let n := xUnit d a
  let left := d.len - n
  (unitPlace s t .unitStore a n).bind (fun l s =>
    let x := s.tile t
    let v := decVal (x.d ds)
    let lim := 10 ^ (if d.signed then d.len - 1 else d.len)
    let ovf := !d.prog && (decide (lim ≤ v.mag) || (decide (d.fmt = 1 ∧ v.mag ≠ 0) && v.neg))
    let neg := v.neg && (x.keepz || decide ((if d.prog then v.mag else v.mag % lim) ≠ 0))
    decOver t ovf 0 (fun s =>
      let bs := (List.range n).map (fun i => xPutByte d.fmt (!d.prog && decide (i = 0)) neg v.mag (d.len - i))
      .ok (xFlow gb left) ((unitWrite t l bs s).modTile t (xAdvance ga gb n left false))) s)

/-- DSTX. -/
def dstxBody (t : TileId) (ds : BitVec 4) (ga gb : BitVec 5) (s : State) : R Flow :=
  xStart t true ga gb (fun d a s =>
    if d.fmt = 0 then xPacked t ga gb d (packedStore t ds a d.len (unitWrite t) s) else dstxUnit t ds ga gb d a s) s

/-- DSTX. -/
def execDstx (t : TileId) (g : Guard) (ds : BitVec 4) (ga gb : BitVec 5) (s : State) : Host.Outcome State Fault Refusal :=
  next (tileOp s t { g := g, long := true } (dstxBody t ds ga gb))

end Sys2Proof.Machine
end

