-- ==== Sys2Proof/Machine/FpRows.lean ====
section
/-! DEFINITION. FP32 instructions of the tile (spec/07 R222–R239). -/

namespace Sys2Proof.Machine

/-- The FP32 value of a register (spec/07 R224). -/
def Tile.f (x : Tile) (r : BitVec 5) : BitVec 32 := (x.g r).extractLsb' 0 32

/-- The end of an FP32 instruction: FSTAT, then the FP exception with the result in FINFO, or the result (spec/07 R232). -/
def finishF (t : TileId) (c : BitVec 5) (res : Word) (put_ : Tile → Tile) (s : State) : R Flow :=
  let sub := firstFp c (s.tile t).fen
  let s := s.modTile t (fun x => x.orF c)
  if sub ≠ 0 then .exc (exc 0x0E sub res) s else put t put_ s

/-- An FP32 instruction with an FP32 result in rd. -/
def fpRow (s : State) (t : TileId) (g : Guard) (rd : BitVec 5) (f : Tile → FRes) : Host.Outcome State Fault Refusal :=
  next (tileOp s t { g := g } (fun s =>
    let r := f (s.tile t)
    finishF t r.2 (r.1.setWidth 64) (fun x => x.setG rd (r.1.setWidth 64)) s))

/-- FADD, FSUB, FMUL. -/
def fArith (f : FArith) (frm : Nat) (a b : BitVec 32) : FRes :=
  match f with
  | .fadd => addF frm false a b
  | .fsub => subF frm false a b
  | .fmul => mulF frm false a b

/-- FADD_FSUB_FMUL. -/
def execFaddFsubFmul (t : TileId) (g : Guard) (f : FArith) (rd ra rb : BitVec 5) (s : State) :
    Host.Outcome State Fault Refusal :=
  fpRow s t g rd (fun x => fArith f x.frm (x.f ra) (x.f rb))

/-- FMIN_FMAX. -/
def execFminFmax (t : TileId) (g : Guard) (max : Bool) (rd ra rb : BitVec 5) (s : State) :
    Host.Outcome State Fault Refusal :=
  fpRow s t g rd (fun x => minMaxF max false (x.f ra) (x.f rb))

/-- FNEG_FABS: no FSTAT bit and no exception (spec/07 R229). -/
def execFnegFabs (t : TileId) (g : Guard) (abs : Bool) (rd ra : BitVec 5) (s : State) :
    Host.Outcome State Fault Refusal :=
  tileFn s t { g := g } (fun x => x.setG rd ((if abs then absF (x.f ra) else negF (x.f ra)).setWidth 64))

/-- Conversions: the register's new value and the conditions (spec/07 Table 7-3, R235). -/
def fCvt (f : FCvtFn) (frm : Nat) (a : Word) : Word × BitVec 5 :=
  let lo : BitVec 32 := a.extractLsb' 0 32
  match f with
  | .ws => let r := toIntF frm false 32 lo; (BitVec.ofInt 64 r.1, r.2)
  | .ls => let r := toIntF frm false 64 lo; (BitVec.ofInt 64 r.1, r.2)
  | .sw => let r := ofIntF frm lo.toInt; (r.1.setWidth 64, r.2)
  | .sl => let r := ofIntF frm a.toInt; (r.1.setWidth 64, r.2)

/-- FINFO of a conversion: 64 bits for FCVT.LS, the low 32 for the others (spec/07 R232). -/
def fCvtInfo (f : FCvtFn) (v : Word) : Word :=
  match f with
  | .ls => v
  | _ => v &&& 0xFFFFFFFF#64

/-- FCVT. -/
def execFcvt (t : TileId) (g : Guard) (f : FCvtFn) (rd ra : BitVec 5) (s : State) :
    Host.Outcome State Fault Refusal :=
  next (tileOp s t { g := g } (fun s =>
    let x := s.tile t
    let r := fCvt f x.frm (x.g ra)
    finishF t r.2 (fCvtInfo f r.1) (fun x => x.setG rd r.1) s))

/-- FCMP (spec/07 R234). -/
def execFcmp (t : TileId) (g : Guard) (f : FCmpFn) (pd : BitVec 3) (ra rb : BitVec 5) (s : State) :
    Host.Outcome State Fault Refusal :=
  next (tileOp s t { g := g } (fun s =>
    let x := s.tile t
    let r := cmpF f false (x.f ra) (x.f rb)
    finishF t r.2 (BitVec.ofNat 64 (b2n r.1)) (fun x => x.setP pd r.1) s))

/-- FMA: ra × rb + rd. -/
def execFma (t : TileId) (g : Guard) (rd ra rb : BitVec 5) (s : State) : Host.Outcome State Fault Refusal :=
  fpRow s t g rd (fun x => fmaF x.frm false (x.f ra) (x.f rb) (x.f rd))

/-- FDIVS. -/
def execFdivs (t : TileId) (g : Guard) (rd ra rb : BitVec 5) (s : State) : Host.Outcome State Fault Refusal :=
  tileFn s t { g := g, legal := gPair rd } (fun x =>
    let r := fdivsF (x.f ra) (x.f rb)
    (x.setG rd r.1).setG (rd + 1) r.2)

/-- FDSTEP (spec/07 R237). A divisor that is no finite nonzero value has no significand: the quotient bits and the
remainder are free values (log entry 5). -/
def fdstepBody (t : TileId) (rd rb : BitVec 5) (s : State) : R Flow :=
  let x := s.tile t
  let q := x.g rd
  if !q.getLsbD 63 && !fdstepOk (x.f rb) then
    let v := s.freeVal 28
    let w := s.drew.freeVal 64
    put t (fun x => (x.setG rd (setBits q 0 28 v.toNat)).setG (rd + 1) w) s.drew.drew
  else
    let r := fdstepF q (x.g (rd + 1)) (x.f rb)
    put t (fun x => (x.setG rd r.1).setG (rd + 1) r.2) s

/-- FDSTEP. -/
def execFdstep (t : TileId) (g : Guard) (rd rb : BitVec 5) (s : State) : Host.Outcome State Fault Refusal :=
  next (tileOp s t { g := g, legal := gPair rd } (fdstepBody t rd rb))

/-- FDFIN (spec/07 R237). The amount below one unit of Q is a free value where Q alone does not fix the rounding. -/
def fdfinBody (t : TileId) (rd : BitVec 5) (s : State) : R Flow :=
  let x := s.tile t
  let r := fdfinF x.frm (x.g rd) (x.g (rd + 1)) (s.freeVal 32)
  finishF t r.2 (r.1.setWidth 64) (fun x => (x.setG rd (r.1.setWidth 64)).setG (rd + 1) 0) s.drew

/-- FDFIN. -/
def execFdfin (t : TileId) (g : Guard) (rd : BitVec 5) (s : State) : Host.Outcome State Fault Refusal :=
  next (tileOp s t { g := g, legal := gPair rd } (fdfinBody t rd))

/-- FSYNC: on a ledger tile it waits as VSYNC does (spec/07 R239). -/
def execFsync (t : TileId) (g : Guard) (s : State) : Host.Outcome State Fault Refusal :=
  next (tileOp s t { g := g } (fun s => kilnWait s t (.ok .next)))

end Sys2Proof.Machine
end

