-- ==== Sys2Proof/Machine/IntRows.lean ====
section
/-! DEFINITION. Integer, logical, multiply, compare and division-step instructions (spec/02 R74–R76, Tables 2-15 and
2-16; spec/03 R111–R116). -/

namespace Sys2Proof.Machine

/-- Leading zeros of a doubleword. -/
def clz64 (a : Word) : Nat := if a = 0 then 64 else 63 - Nat.log2 a.toNat

/-- 1 bits of a doubleword. -/
def popc64 (a : Word) : Nat := (List.range 64).countP (fun i => a.getLsbD i)

/-- Functions of major 00h that raise nothing (spec/02 Table 2-15). -/
def intFn (f : IntFn) (a b : Word) (p : BitVec 3 → Bool) : Word :=
  let n := bitsNat b 5 0
  match f with
  | .add => a + b
  | .sub => a - b
  | .and => a &&& b
  | .or => a ||| b
  | .xor => a ^^^ b
  | .andn => a &&& ~~~b
  | .shl => a <<< n
  | .shr => a >>> n
  | .sar => a.sshiftRight n
  | .rot => a.rotateRight n
  | .mul => a * b
  | .mulhu => BitVec.ofNat 64 (a.toNat * b.toNat / 2 ^ 64)
  | .mulhs => BitVec.ofInt 64 (a.toInt * b.toInt / 2 ^ 64)
  | .clz => BitVec.ofNat 64 (clz64 a)
  | .popc => BitVec.ofNat 64 (popc64 a)
  | .sextb => (a.extractLsb' 0 8).signExtend 64
  | .sexth => (a.extractLsb' 0 16).signExtend 64
  | .sextw => (a.extractLsb' 0 32).signExtend 64
  | .sel n => if p n then a else b

/-- Functions without rb: the field is RSVD. -/
def intUnary : IntFn → Bool
  | .clz | .popc | .sextb | .sexth | .sextw => true
  | _ => false

/-- INTEGER_OP. -/
def execIntegerOp (t : TileId) (g : Guard) (f : IntFn) (rd ra rb : BitVec 5) (s : State) :
    Host.Outcome State Fault Refusal :=
  tileFn s t { g := g, legal := !intUnary f || decide (rb = 0) } (fun x => x.setG rd (intFn f (x.g ra) (x.g rb) x.p))

/-- ADDV, SUBV, MULV (spec/02 R74). -/
def ovBody (t : TileId) (f : OvFn) (rd ra rb : BitVec 5) (s : State) : R Flow :=
  let x := s.tile t
  let r := OvFn.run f (x.g ra) (x.g rb)
  if r.2 then
    let s := s.modTile t (fun x => x.orI iIOVF)
    if x.cur.istat.getLsbD 16 then .exc (exc 0x0B 1 r.1) s else .ok .next (s.modTile t (fun x => x.setG rd r.1))
  else .ok .next (s.modTile t (fun x => x.setG rd r.1))

/-- ADDV_SUBV_MULV. -/
def execAddvSubvMulv (t : TileId) (g : Guard) (f : OvFn) (rd ra rb : BitVec 5) (s : State) :
    Host.Outcome State Fault Refusal :=
  next (tileOp s t { g := g } (ovBody t f rd ra rb))

/-- The immediate forms: ADDI to XORI with the sign-extended imm11, SHLI to ROTI with a count in imm11[5:0]. -/
def immFn (f : ImmFn) (a : Word) (imm : BitVec 11) : Word :=
  let b := imm.signExtend 64
  let none (_ : BitVec 3) : Bool := false
  match f with
  | .addi => intFn .add a b none
  | .andi => intFn .and a b none
  | .ori => intFn .or a b none
  | .xori => intFn .xor a b none
  | .shli => intFn .shl a b none
  | .shri => intFn .shr a b none
  | .sari => intFn .sar a b none
  | .roti => intFn .rot a b none

/-- Shift forms: imm11[10:6] is RSVD. -/
def immShift : ImmFn → Bool
  | .shli | .shri | .sari | .roti => true
  | _ => false

/-- IMMEDIATE_OP. -/
def execImmediateOp (t : TileId) (g : Guard) (f : ImmFn) (rd ra : BitVec 5) (imm : BitVec 11) (s : State) :
    Host.Outcome State Fault Refusal :=
  tileFn s t { g := g, legal := !immShift f || decide (imm.toNat < 64) } (fun x => x.setG rd (immFn f (x.g ra) imm))

/-- MOVZ. -/
def execMovz (t : TileId) (g : Guard) (k : BitVec 2) (rd : BitVec 5) (imm : BitVec 16) (s : State) :
    Host.Outcome State Fault Refusal :=
  tileFn s t { g := g } (fun x => x.setG rd (imm.setWidth 64 <<< (16 * k.toNat)))

/-- MOVK. -/
def execMovk (t : TileId) (g : Guard) (k : BitVec 2) (rd : BitVec 5) (imm : BitVec 16) (s : State) :
    Host.Outcome State Fault Refusal :=
  tileFn s t { g := g } (fun x => x.setG rd (setBits (x.g rd) (16 * k.toNat) 16 imm.toNat))

/-- Register compare conditions (spec/02 Table 2-16). -/
def cmpFn (f : CmpFn) (a b : Word) : Bool :=
  match f with
  | .eq => decide (a = b)
  | .ne => decide (a ≠ b)
  | .lt => decide (a.toInt < b.toInt)
  | .le => decide (a.toInt ≤ b.toInt)
  | .ltu => decide (a.toNat < b.toNat)
  | .leu => decide (a.toNat ≤ b.toNat)

/-- CMP. -/
def execCmp (t : TileId) (g : Guard) (f : CmpFn) (pd : BitVec 3) (ra rb : BitVec 5) (s : State) :
    Host.Outcome State Fault Refusal :=
  tileFn s t { g := g } (fun x => x.setP pd (cmpFn f (x.g ra) (x.g rb)))

/-- Immediate compare conditions (spec/02 Table 2-16). -/
def cmpiFn (f : CmpiFn) (a : Word) (imm : BitVec 11) : Bool :=
  let b := imm.signExtend 64
  match f with
  | .eq => cmpFn .eq a b
  | .ne => cmpFn .ne a b
  | .lt => cmpFn .lt a b
  | .le => cmpFn .le a b
  | .ltu => cmpFn .ltu a b
  | .leu => cmpFn .leu a b
  | .gt => decide (b.toInt < a.toInt)
  | .gtu => decide (b.toNat < a.toNat)

/-- CMPI. -/
def execCmpi (t : TileId) (g : Guard) (f : CmpiFn) (pd : BitVec 3) (ra : BitVec 5) (imm : BitVec 11) (s : State) :
    Host.Outcome State Fault Refusal :=
  tileFn s t { g := g } (fun x => x.setP pd (cmpiFn f (x.g ra) imm))

/-- PLOG: pd := tt[2 × pa + pb]. -/
def execPlog (t : TileId) (g : Guard) (pd pa pb : BitVec 3) (tt : BitVec 4) (s : State) :
    Host.Outcome State Fault Refusal :=
  tileFn s t { g := g } (fun x => x.setP pd (tt.getLsbD (2 * b2n (x.p pa) + b2n (x.p pb))))

/-- |a| as an unsigned number, up to 2^63. -/
def absNat (a : Word) : Nat := a.toInt.natAbs

/-- DIVSU_DIVSS. -/
def execDivsuDivss (t : TileId) (g : Guard) (sgn : Bool) (rd ra : BitVec 5) (s : State) :
    Host.Outcome State Fault Refusal :=
  tileFn s t { g := g, legal := gPair rd } (fun x =>
    (x.setG rd (if sgn then BitVec.ofNat 64 (absNat (x.g ra)) else x.g ra)).setG (rd + 1) 0)

/-- One division step on quotient, remainder and divisor (spec/03 R112). -/
def dstepFn (q r : Word) (d : Nat) : Word × Word :=
  let x := 4 * r.toNat + bitsNat q 63 62
  let k := if 3 * d ≤ x then 3 else if 2 * d ≤ x then 2 else if d ≤ x then 1 else 0
  (BitVec.ofNat 64 (bitsNat q 61 0 * 4 + k), BitVec.ofNat 64 (x - k * d))

/-- DSTEP. -/
def execDstep (t : TileId) (g : Guard) (sgn : Bool) (rd rb : BitVec 5) (s : State) : Host.Outcome State Fault Refusal :=
  tileFn s t { g := g, legal := gPair rd } (fun x =>
    let d := if sgn then absNat (x.g rb) else (x.g rb).toNat
    let z := dstepFn (x.g rd) (x.g (rd + 1)) d
    (x.setG rd z.1).setG (rd + 1) z.2)

/-- DIVFIN's result and its event: 3 zero divisor, 2 overflow, 0 none (spec/03 R112, R113, R115). -/
def divfinFn (sgn : Bool) (q r a b : Word) : Word × Word × Nat :=
  if b = 0 then (a, 0, 3)
  else if sgn ∧ a = 0x8000000000000000#64 ∧ b = BitVec.allOnes 64 then (a, 0, 2)
  else
    (if sgn ∧ a.getLsbD 63 ≠ b.getLsbD 63 then -q else q, if sgn ∧ a.getLsbD 63 then -r else r, 0)

/-- DIVFIN (spec/03 R112–R114). -/
def divfinBody (t : TileId) (sgn : Bool) (rd ra rb : BitVec 5) (s : State) : R Flow :=
  let x := s.tile t
  let z := divfinFn sgn (x.g rd) (x.g (rd + 1)) (x.g ra) (x.g rb)
  let s := if z.2.2 = 3 then s.modTile t (fun x => x.orI iDZ)
    else if z.2.2 = 2 then s.modTile t (fun x => x.orI iDOVF) else s
  if (z.2.2 = 3 ∧ x.cur.istat.getLsbD 18) ∨ (z.2.2 = 2 ∧ x.cur.istat.getLsbD 17) then .exc (exc 0x0B z.2.2 z.1) s
  else .ok .next (s.modTile t (fun x => (x.setG rd z.1).setG (rd + 1) z.2.1))

/-- DIVFIN. -/
def execDivfin (t : TileId) (g : Guard) (sgn : Bool) (rd ra rb : BitVec 5) (s : State) :
    Host.Outcome State Fault Refusal :=
  next (tileOp s t { g := g, legal := gPair rd } (divfinBody t sgn rd ra rb))

end Sys2Proof.Machine
end

