-- ==== Sys2Proof/Machine/JournalRows.lean ====
section
/-! DEFINITION. POST, JSYNC, the ring, and the commands of the HWJ page (spec/11). -/

namespace Sys2Proof.Machine

/-- JOURNAL (spec/11 R347). -/
def excJournal (sub : Nat) : Exc := exc 0x11 sub

/-- POST (spec/11 R347, R351): the wait of VSYNC, the store buffer, then step 2. A replayed POST is compared with its
record (spec/14 R446). -/
def postBody2 (t : TileId) (s : State) : R Flow :=
  let x := s.tile t
  if x.lvl ≠ .ledger then .exc excPriv s
  else if !x.ticket then .exc (excJournal 1) s
  else if !replayTile s t && hwjState s == 0 then .exc (excJournal 2) s
  else kilnWait s t (fun s =>
    let s := drainTile s t
    if replayTile s t then .halt (settle (replayFinish s t 0))
    else if ringsStalls s t 96 then .halt s
    else match (s.tile t).tk with
      | some n => .halt (settle (postStep2 s t n))
      | none => .exc (excJournal 1) s)

/-- POST. -/
def execPost (t : TileId) (g : Guard) (s : State) : Host.Outcome State Fault Refusal :=
  next (tileOp s t { g := g } (postBody2 t))

/-- JSYNC (spec/11 R358): HEADPOS as it stands at X; then the store buffer; then the wait. -/
def jsyncBody (t : TileId) (s : State) : R Flow :=
  let pos := (s.reg (hwjReg 0x108)).toNat
  let s := drainTile s t
  if jsyncOk s pos then .ok .next s
  else if replayTile s t then .halt s
  else .halt (s.modTile t (fun x => { x with run := .jsyncWait pos }))

/-- JSYNC. -/
def execJsync (t : TileId) (g : Guard) (s : State) : Host.Outcome State Fault Refusal :=
  next (tileOp s t { g := g } (jsyncBody t))

/-- RECORD_DURABLE (spec/11 R363). -/
def execRecordDurable (s : State) : Host.Outcome State Fault Refusal := devRow s durableStep

/-- RING_FULL_TIMEOUT: the tile's POST has waited FULLTO (spec/11 R364). -/
def execRingFullTimeout (t : TileId) (s : State) : Host.Outcome State Fault Refusal := devRow s (fun s => ringFull s t)

/-- MIRROR_TIMEOUT: MIRTO has passed (spec/11 R370). -/
def execMirrorTimeout (s : State) : Host.Outcome State Fault Refusal := devRow s mirrorTimeout

/-- DRAINPOS_WRITE (spec/11 R365). -/
def execDrainposWrite (a : Agent) (v : Word) (s : State) : Host.Outcome State Fault Refusal :=
  devRow s (fun s => rowWrite s a (hwjReg 0x118) v)

/-- SEQUENCE_SNAPSHOT (spec/11 R366). -/
def execSequenceSnapshot (s : State) : Host.Outcome State Fault Refusal := devRow s snapshotDue

/-- HEARTBEAT_INSTANT (spec/11 R376, R377, R379). -/
def execHeartbeatInstant (s : State) : Host.Outcome State Fault Refusal := devRow s heartbeat

/-- RESYNC_COMPLETE (spec/11 R372). -/
def execResyncComplete (s : State) : Host.Outcome State Fault Refusal := devRow s resyncDone

/-! ## Commands of the HWJ page (spec/11 Table 11-12) -/

/-- RINGINIT. -/
def execRinginit (a : Agent) (s : State) : Host.Outcome State Fault Refusal := cmdRow s a pHwj 1
/-- RINGOPEN. -/
def execRingopen (a : Agent) (s : State) : Host.Outcome State Fault Refusal := cmdRow s a pHwj 2
/-- PAIR. -/
def execPair (a : Agent) (s : State) : Host.Outcome State Fault Refusal := cmdRow s a pHwj 3
/-- UNPAIR. -/
def execUnpair (a : Agent) (s : State) : Host.Outcome State Fault Refusal := cmdRow s a pHwj 4
/-- TAKEOVER. -/
def execTakeover (a : Agent) (s : State) : Host.Outcome State Fault Refusal := cmdRow s a pHwj 5
/-- FENCE of the HWJ page. -/
def execFenceCommand (a : Agent) (s : State) : Host.Outcome State Fault Refusal := cmdRow s a pHwj 6
/-- RELEASE. -/
def execRelease (a : Agent) (s : State) : Host.Outcome State Fault Refusal := cmdRow s a pHwj 7

end Sys2Proof.Machine
end

