-- ==== Sys2Proof/Machine/KilnRows.lean ====
section
/-! DEFINITION. Kiln instructions at the tile, the rows of the Kiln's queue, and the waits (spec/06). -/

namespace Sys2Proof.Machine

/-! ## At the tile (spec/06 R189, R190, R201, R207) -/

/-- The g register that an instruction reads at issue. -/
def kGReg : KOp → BitVec 5
  | .ld _ ga _ | .st _ ga _ | .ldk _ _ ga _ _ | .stk _ _ ga _ _ | .ldx _ _ ga _ _ | .stx _ _ ga _ _ | .ldm _ ga | .stm _ ga => ga
  | .msetn _ ga | .brdB _ _ ga _ | .mts ga | .mtc ga => ga
  | _ => 0

/-- The d register that an instruction reads at issue. -/
def kDReg : KOp → BitVec 4
  | .brdD _ _ da _ => da
  | _ => 0

/-- Extent and alignment of an access (spec/06 Table 6-8; R201, check 5). -/
def kExtent : KOp → Nat × Nat
  | .ld .. | .st .. => (512, 1)
  | .ldk k _ _ w _ | .stk k _ _ w _ => (k.toNat * 512, 2 * 2 ^ w.toNat)
  | .ldm .. | .stm .. => (64, 1)
  | _ => (0, 1)

/-- The checks of the vector address word (spec/06 R201). -/
def kAddrCheck (s : State) (t : TileId) (op : KOp) (w : Word) : Option Exc :=
  let base := bitsNat w 63 60
  let a := bitsNat w 47 0
  let e := kExtent op
  let acc : Acc := if kStores op then .unitStore else .unitLoad
  if !baseOk base ∨ bitsNat w 59 48 ≠ 0 then some (exc 3 4)
  else
    let addr : Addr := if 4 ≤ base then .brick (Fin.ofNat 4 (base - 4)) a else .virt (BitVec.ofNat 64 a)
    let b := match addr with
      | .brick k off =>
        match brickXl s t acc k (if kIndexed op then 0 else off) e.1 with
        | .exc z _ => some { z with faddr := BitVec.ofNat 64 a }
        | _ => none
      | .virt _ => none
    b.or (if a % e.2 ≠ 0 then some { code := 4, sub := 0, faddr := addr.fa } else none)

/-- A pending Kiln fault is raised in place of the instruction (spec/06 R211). -/
def orKilnFault (s : State) (t : TileId) (k : State → R Flow) : R Flow :=
  match kilnDeliver s t with
  | some (e, s) => .exc e s
  | none => k s

/-- Entries of a Kiln queue (spec/06 R189). -/
def kilnSlots : Nat := 16

/-- A fault with one more discarded instruction (spec/06 Layout 6-9, DISC). -/
def KFault.drop (f : KFault) : KFault :=
  { f with finfo := setBits f.finfo 48 8 (min 255 (bitsNat f.finfo 55 48 + 1)) }

/-- The instruction enters the queue; a full queue first completes its oldest entry. While a machine check of the Kiln pends, and
in replay a fault that its record has still to deliver, what enters is discarded (spec/06 R210; spec/13 R431; spec/14 R445). -/
def kilnEnter (t : TileId) (op : KOp) (s : State) : R Flow :=
  let full := decide (kilnSlots ≤ (s.tile t).kiln.queue.length)
  match (if full then kilnHeadDone s t else some s) with
  | none => .halt (recHold s t)
  | some s =>
    if (s.tile t).mcPend.isSome || (replayTile s t && (s.tile t).kiln.fault.isSome) then
      put t (fun x => { x with kcnt := x.kcnt + 1, kiln := { x.kiln with fault := x.kiln.fault.map KFault.drop } }) (kCount s t 0x24 1)
    else orKilnFault s t (fun s => put t (fun x =>
      let e : KEntry :=
        { op := op, gval := x.g (kGReg op), dval := x.d (kDReg op), bb := x.bb, lvl := x.lvl, ast := BitVec.ofNat 16 (dataCtx s t).ast,
          krr := (dataCtx s t).krr, iaddr := x.pc, kcnt := x.kcnt, plan := none }
      { x with kcnt := x.kcnt + 1, kiln := { x.kiln with queue := x.kiln.queue ++ [e] } }) s)

/-- A Kiln instruction in X. A machine check of the Kiln that pends is delivered before a fault (spec/13 R431), and in replay a
fault is delivered where its record says (spec/14 R445). -/
def kilnBody (t : TileId) (op : KOp) (s : State) : R Flow :=
  (if replayTile s t || (s.tile t).mcPend.isSome then (fun f => f s) else orKilnFault s t) (fun s =>
    if kMem op then
      match kAddrCheck s t op ((s.tile t).g (kGReg op)) with
      | some e => .exc e s
      | none => kilnEnter t op (drainTile s t)
    else kilnEnter t op s)

/-- A Kiln instruction exists below Keystone level (spec/06 R190). -/
def kilnPresent (s : State) (t : TileId) : Bool := decide ((s.tile t).lvl ≠ .keystone)

/-- KILN_ENQUEUE. -/
def execKilnEnqueue (t : TileId) (g : Guard) (op : KOp) (s : State) : Host.Outcome State Fault Refusal :=
  next (tileOp s t { g := g, legal := kLegal op, present := kilnPresent s t } (kilnBody t op))

/-! ## In the queue (spec/06 R191) -/

/-- A row that issues from a queue. -/
def kilnIssue (s : State) (t : TileId) (kind : KOp → Bool) : Host.Outcome State Fault Refusal :=
  next (whenLive s (fun s => kilnRow s t kind))

/-- KILN_BINARY_OP. `ue`: the file has come to hold an uncorrectable error (log entry 114). -/
def execKilnBinaryOp (t : TileId) (ue : Bool) (s : State) : Host.Outcome State Fault Refusal :=
  next (whenLive s (fun s =>
    kilnRow (if ue then s.modKiln t (fun k => { k with ue := true }) else s) t (fun o => match o with | .bin .. => true | _ => false)))

/-- KILN_DECIMAL_OP. -/
def execKilnDecimalOp (t : TileId) (s : State) : Host.Outcome State Fault Refusal :=
  kilnIssue s t (fun o => match o with | .dec .. => true | _ => false)

/-- VDDOT. -/
def execVddot (t : TileId) (s : State) : Host.Outcome State Fault Refusal :=
  kilnIssue s t (fun o => match o with | .ddot .. => true | _ => false)

/-- VDMULW. -/
def execVdmulw (t : TileId) (s : State) : Host.Outcome State Fault Refusal :=
  kilnIssue s t (fun o => match o with | .dmulw .. => true | _ => false)

/-- VDSUM. -/
def execVdsum (t : TileId) (s : State) : Host.Outcome State Fault Refusal :=
  kilnIssue s t (fun o => match o with | .dsum .. => true | _ => false)

/-- VDWID. -/
def execVdwid (t : TileId) (s : State) : Host.Outcome State Fault Refusal :=
  kilnIssue s t (fun o => match o with | .dwid .. => true | _ => false)

/-- VDNAR. -/
def execVdnar (t : TileId) (s : State) : Host.Outcome State Fault Refusal :=
  kilnIssue s t (fun o => match o with | .dnar .. => true | _ => false)

/-- VDCMP. -/
def execVdcmp (t : TileId) (s : State) : Host.Outcome State Fault Refusal :=
  kilnIssue s t (fun o => match o with | .dcmp .. => true | _ => false)

/-- VDVAL. -/
def execVdval (t : TileId) (s : State) : Host.Outcome State Fault Refusal :=
  kilnIssue s t (fun o => match o with | .dval .. => true | _ => false)

/-- KILN_FP_OP. -/
def execKilnFpOp (t : TileId) (s : State) : Host.Outcome State Fault Refusal :=
  kilnIssue s t (fun o => match o with | .fp .. => true | _ => false)

/-- VLD_VST: the checks of R205; its accesses follow at completion. -/
def execVldVst (t : TileId) (s : State) : Host.Outcome State Fault Refusal :=
  kilnIssue s t (fun o => match o with | .ld .. | .st .. => true | _ => false)

/-- VLDK_VSTK. -/
def execVldkVstk (t : TileId) (s : State) : Host.Outcome State Fault Refusal :=
  kilnIssue s t (fun o => match o with | .ldk .. | .stk .. => true | _ => false)

/-- VLDX_VSTX. -/
def execVldxVstx (t : TileId) (s : State) : Host.Outcome State Fault Refusal :=
  kilnIssue s t (fun o => match o with | .ldx .. | .stx .. => true | _ => false)

/-- VLDM_VSTM. -/
def execVldmVstm (t : TileId) (s : State) : Host.Outcome State Fault Refusal :=
  kilnIssue s t (fun o => match o with | .ldm .. | .stm .. => true | _ => false)

/-- The head's accesses are performed, where it is a memory instruction that has issued (spec/06 R206). -/
def kilnComplete (s : State) (t : TileId) : State :=
  match kHead s t with
  | some e =>
    match e.plan with
    | some p => (kilnDone s t e p).getD (recHold s t)
    | none => s
  | none => s

/-- KILN_MEMORY_COMPLETE. -/
def execKilnMemoryComplete (t : TileId) (s : State) : Host.Outcome State Fault Refusal :=
  next (whenLive s (fun s => kilnComplete s t))

/-- VMSETN. -/
def execVmsetn (t : TileId) (s : State) : Host.Outcome State Fault Refusal :=
  kilnIssue s t (fun o => match o with | .msetn .. => true | _ => false)

/-- VBRD. -/
def execVbrd (t : TileId) (s : State) : Host.Outcome State Fault Refusal :=
  kilnIssue s t (fun o => match o with | .brdB .. | .brdD .. => true | _ => false)

/-- VMOV. -/
def execVmov (t : TileId) (s : State) : Host.Outcome State Fault Refusal :=
  kilnIssue s t (fun o => match o with | .mov .. => true | _ => false)

/-- VMTS. -/
def execVmts (t : TileId) (s : State) : Host.Outcome State Fault Refusal :=
  kilnIssue s t (fun o => match o with | .mts .. => true | _ => false)

/-- VMTC. -/
def execVmtc (t : TileId) (s : State) : Host.Outcome State Fault Refusal :=
  kilnIssue s t (fun o => match o with | .mtc .. => true | _ => false)

/-- MASK_LOGIC. -/
def execMaskLogic (t : TileId) (s : State) : Host.Outcome State Fault Refusal :=
  kilnIssue s t (fun o => match o with | .mlogic .. => true | _ => false)

/-! ## The waits (spec/06 R214, R215) -/

/-- An instruction that waits as VSYNC does, then reads the file. -/
def kilnRead (s : State) (t : TileId) (g : Guard) (f : Tile → Tile) : Host.Outcome State Fault Refusal :=
  next (tileOp s t { g := g, present := kilnPresent s t } (fun s => kilnWait s t (put t f)))

/-- One that reads VSTAT or VCTL meets an uncorrectable error of its file (spec/06 R188, R218). -/
def kilnReadReg (s : State) (t : TileId) (g : Guard) (f : Tile → Tile) : Host.Outcome State Fault Refusal :=
  next (tileOp s t { g := g, present := kilnPresent s t } (fun s => kilnWait s t (fun s =>
    if (s.tile t).kiln.ue then .halt (kilnBad s t) else put t f s)))

/-- VSYNC. -/
def execVsync (t : TileId) (g : Guard) (s : State) : Host.Outcome State Fault Refusal := kilnRead s t g id

/-- 1 bits of a mask. -/
def popMask (m : BitVec 512) : Nat := (List.range 512).countP (fun i => m.getLsbD i)

/-- VMPOP: the count of 1 bits of a mask (spec/06 Table 6-6). -/
def execVmpop (t : TileId) (g : Guard) (gd : BitVec 5) (ma : BitVec 3) (s : State) : Host.Outcome State Fault Refusal :=
  next (tileOp s t { g := g, present := kilnPresent s t } (fun s => kilnWait s t (fun s =>
    if (s.tile t).kiln.ue && ma != 0 then .halt (kilnBad s t)
    else put t (fun x => x.setG gd (BitVec.ofNat 64 (popMask (x.kiln.mr ma)))) s)))

/-- VMFS. -/
def execVmfs (t : TileId) (g : Guard) (gd : BitVec 5) (s : State) : Host.Outcome State Fault Refusal :=
  kilnReadReg s t g (fun x => x.setG gd x.kiln.vstat)

/-- VMFC. -/
def execVmfc (t : TileId) (g : Guard) (gd : BitVec 5) (s : State) : Host.Outcome State Fault Refusal :=
  kilnReadReg s t g (fun x => x.setG gd x.kiln.vctl)

end Sys2Proof.Machine
end

