-- ==== Sys2Proof/Machine/MemRows.lean ====
section
/-! DEFINITION. Scalar loads and stores, the load reservation station and the store buffer (spec/02 R77–R79; spec/03
R88, R94–R99; spec/07 R229). -/

namespace Sys2Proof.Machine

/-- Bytes of a load form. -/
def loadBytes : LoadFn → Nat
  | .ldb | .ldbu => 1
  | .ldh | .ldhu => 2
  | .ldw | .ldwu => 4
  | .ldd => 8

/-- The register value of loaded bytes: LDx sign-extends, LDxU zero-extends. -/
def loadValue (f : LoadFn) (bs : List Byte) : Word :=
  let v := ofBytes bs
  match f with
  | .ldb => (BitVec.ofNat 8 v).signExtend 64
  | .ldh => (BitVec.ofNat 16 v).signExtend 64
  | .ldw => (BitVec.ofNat 32 v).signExtend 64
  | _ => BitVec.ofNat 64 v

/-- What the store buffer does with a load: it forwards, or the load waits (spec/03 R99). -/
def forwards (q : List StoreEntry) (pa n : Nat) : Option Bool :=
  match lastOverlap q pa n with
  | some i => (q[i]?).map (fun e => decide (e.pa = pa ∧ e.bytes.length = n))
  | none => none

/-- Entries of the commit window (spec/03 R90) and of the LRS (spec/03 Table 3-4). -/
def windowSize : Nat := 8
def lrsSize : Nat := 4

/-- A load waits in I for a register of the window that it names, for room in the window and, on a miss, in the LRS (spec/03
R87, R89, R90). A register that is complete could be read by its tag: waiting for it changes no value (log entry 12). -/
def loadWaits (x : Tile) (rs : List (BitVec 5)) (hit : Bool) : Bool :=
  x.window.any (fun e => rs.contains e.rt) || decide (windowSize ≤ x.window.length) ||
    (!hit && decide (lrsSize ≤ x.lrs.length))

/-- The state in which a load executes: earlier loads are complete where it must wait for them (spec/03 R87–R90) or must be the
oldest instruction (R94). -/
def loadReady (s : State) (t : TileId) (rt : BitVec 5) (m : MemRef) (hit : Bool) : State :=
  let s := if loadWaits (s.tile t) (rt :: refRegs m) hit then completeLoads s t else s
  if (s.tile t).window.isEmpty || quickLoad s t (refAddr (s.tile t) m) then s else completeLoads s t

/-- Delivery of a load (spec/03 R88, R90, R91): the oldest instruction, complete, retires; any other waits in the commit window,
and one whose miss is outstanding in the LRS too, for which the loads before it complete where the LRS is full (R89). -/
def loadResult (s : State) (t : TileId) (rt : BitVec 5) (v : Word) (miss : Bool) : R Flow :=
  let s := if miss && decide (lrsSize ≤ (s.tile t).lrs.length) then completeLoads s t else s
  if (s.tile t).window.isEmpty && !miss then .ok .next (s.modTile t (fun x => x.setG rt v))
  else .ok .issued (s.modTile t (fun x => { x with window := x.window ++ [{ rt := rt, value := v, miss := miss, pc := x.pc }] }))

/-- A scalar load (spec/02 R77). `hit` says whether the line is in the L1D: lines of Heartwood never are (spec/01 R23), and
device memory is in no cache (spec/09 Table 9-8). A load of recorded memory, which is the oldest instruction (spec/03 R94), is
complete with its record (spec/14 R436); in replay it makes no access (R445). -/
def loadBody (t : TileId) (f : LoadFn) (rt : BitVec 5) (m : MemRef) (hit : Bool) (s : State) : R Flow :=
  let s := loadReady s t rt m hit
  let n := loadBytes f
  let a := refAddr (s.tile t) m
  (scalarXl s t .load a n).bind (fun x s =>
    let fw := if x.ty = .normal ∨ x.ty = .brick then forwards (s.tile t).sbuf x.pa n else none
    let hit := hit && decide (regionOf s x.pa ≠ .heartwood)
    let missed := !hit && !(decide (x.ty = .device) || decide (fw = some true) || (decide (x.ty = .recorded) && replayTile s t))
    let s := if fw = some false then tCount s t (s.tile t).lvl 0x28 1 else s
    (readAt s t a x n).bind (fun bs s =>
      loadResult (if missed then tCount s t (s.tile t).lvl 0x29 1 else s) t rt (loadValue f bs)
        (missed && decide (x.ty ≠ .recorded))))

/-- LOAD. -/
def execLoad (t : TileId) (g : Guard) (f : LoadFn) (rt : BitVec 5) (m : MemRef) (hit : Bool) (s : State) :
    Host.Outcome State Fault Refusal :=
  next (tileOp s t { g := g, load := true } (loadBody t f rt m hit))

/-- A scalar store of the low `n` bytes of a register (spec/02 R77, R78). -/
def storeBody (t : TileId) (n : Nat) (rt : BitVec 5) (m : MemRef) (s : State) : R Flow :=
  let x := s.tile t
  let a := refAddr x m
  (scalarXl s t .store a n).bind (fun xl s =>
    .ok .next (pushStore s t xl (beBytes n ((x.g rt).toNat % 256 ^ n))))

/-- STORE. -/
def execStore (t : TileId) (g : Guard) (sz : Size) (rt : BitVec 5) (m : MemRef) (s : State) :
    Host.Outcome State Fault Refusal :=
  next (tileOp s t { g := g } (storeBody t (Size.bytes sz) rt m))

/-- The load miss in LRS entry `i` broadcasts its result: it is complete in the window (spec/03 R88). -/
def missDone : List WinEntry → Nat → List WinEntry
  | [], _ => []
  | e :: r, i =>
    if !e.miss then e :: missDone r i
    else if i = 0 then { e with miss := false } :: r
    else e :: missDone r (i - 1)

/-- LRS entry `i` completes, and what is then complete at the head of the window retires (spec/03 R88, R90, R91). -/
def lrsDeliver (x : Tile) (i : Nat) : Tile := { x with window := missDone x.window i }.retireDone

/-- The loads that LRS entry `i` lets retire. -/
def lrsRetires (x : Tile) (i : Nat) : Nat := ((missDone x.window i).takeWhile (fun e => !e.miss)).length

/-- LOAD_MISS_COMPLETE. -/
def execLoadMissComplete (t : TileId) (i : Fin 4) (s : State) : Host.Outcome State Fault Refusal :=
  let x := s.tile t
  let s := if lrsRetires x i.val = 0 then s else tCount s t x.lvl 0x20 (lrsRetires x i.val)
  next (s.modTile t (fun x => lrsDeliver x i.val))

/-- STORE_BUFFER_DRAIN: the oldest entry is written (spec/03 R97). -/
def execStoreBufferDrain (t : TileId) (s : State) : Host.Outcome State Fault Refusal := next (whenLive s (fun s => drainOne s t))

/-- FLDS has every effect of LDWU (spec/07 R229). -/
def execFlds (t : TileId) (g : Guard) (rt : BitVec 5) (base : BitVec 4) (disp : BitVec 12) (hit : Bool) (s : State) :
    Host.Outcome State Fault Refusal :=
  next (tileOp s t { g := g, load := true } (loadBody t .ldwu rt (.mform base disp) hit))

/-- FSTS has every effect of STW (spec/07 R229). -/
def execFsts (t : TileId) (g : Guard) (rt : BitVec 5) (base : BitVec 4) (disp : BitVec 12) (s : State) :
    Host.Outcome State Fault Refusal :=
  next (tileOp s t { g := g } (storeBody t 4 rt (.mform base disp)))

end Sys2Proof.Machine
end

