-- ==== Sys2Proof/Machine/MemSysRows.lean ====
section
/-! DEFINITION. Atomics, fences, cache and TLB maintenance, key rights (spec/09 R279, R285–R292). -/

namespace Sys2Proof.Machine

/-! ## Atomics (spec/09 R290, R291) -/

/-- An atomic of `n` bytes on the word `w`: `f` gives the new value of the old one, if it writes; the old one goes to rd.
The line joins the write set whether or not it is written (spec/11 R348). -/
def atomicBody (t : TileId) (n : Nat) (rd ra : BitVec 5) (f : Tile → Nat → Option Nat) (s : State) : R Flow :=
  (wordXl s t .atomic ((s.tile t).g ra) n).bind (fun p s =>
    (readAt (drainTile s t) t p.1 p.2 n).bind (fun bs s =>
      let old := ofBytes bs
      let s := match f (s.tile t) old with
        | some v => storeNow s t p.2 (beBytes n v)
        | none => if p.2.ty = .brick then brickWrite s (s.tile t).tk p.2.pa n else s
      put t (fun x => x.setG rd (BitVec.ofNat 64 old)) s))

/-- Bytes of an atomic. -/
def atomicBytes (dbl : Bool) : Nat := if dbl then 8 else 4

/-- CASW_CASD. -/
def execCaswCasd (t : TileId) (g : Guard) (dbl : Bool) (rd ra rb : BitVec 5) (s : State) :
    Host.Outcome State Fault Refusal :=
  let n := atomicBytes dbl
  next (tileOp s t { g := g } (atomicBody t n rd ra (fun x old =>
    if old = (x.g rd).toNat % 256 ^ n then some ((x.g rb).toNat % 256 ^ n) else none)))

/-- FETADDW_FETADDD. -/
def execFetaddwFetaddd (t : TileId) (g : Guard) (dbl : Bool) (rd ra rb : BitVec 5) (s : State) :
    Host.Outcome State Fault Refusal :=
  let n := atomicBytes dbl
  next (tileOp s t { g := g } (atomicBody t n rd ra (fun x old => some ((old + (x.g rb).toNat) % 256 ^ n))))

/-! ## Fences and cache maintenance (spec/09 R286, R288) -/

/-- FENCE: the store buffer is written; earlier loads are complete. -/
def execFence (t : TileId) (g : Guard) (s : State) : Host.Outcome State Fault Refusal :=
  next (tileOp s t { g := g } (fun s => .ok .next (drainTile s t)))

/-- ICINV, DCCLN and DCFLS beside their effect on caches: the checks of a load without the A bit. Caches are coherent, so
memory reads the same before and after. -/
def cacheBody (t : TileId) (ra : BitVec 5) (s : State) : R Flow :=
  needSteward s t (fun s =>
    (translate s t .data (dataCtx s t) .clean ((s.tile t).g ra) 1).bind (fun _ s => .ok .next s))

/-- ICINV: it first waits for the tile's store buffer. -/
def execIcinv (t : TileId) (g : Guard) (ra : BitVec 5) (s : State) : Host.Outcome State Fault Refusal :=
  next (tileOp s t { g := g } (fun s => cacheBody t ra (if (s.tile t).lvl = .ledger then s else drainTile s t)))

/-- DCCLN. -/
def execDccln (t : TileId) (g : Guard) (ra : BitVec 5) (s : State) : Host.Outcome State Fault Refusal :=
  next (tileOp s t { g := g } (cacheBody t ra))

/-- DCFLS. -/
def execDcfls (t : TileId) (g : Guard) (ra : BitVec 5) (s : State) : Host.Outcome State Fault Refusal :=
  next (tileOp s t { g := g } (cacheBody t ra))

/-- DCZ: a store of 128 zeros to the line. -/
def dczBody (t : TileId) (ra : BitVec 5) (s : State) : R Flow :=
  needSteward s t (fun s =>
    (translate s t .data (dataCtx s t) .dcz ((s.tile t).g ra &&& ~~~(127#64)) 128).bind (fun x s =>
      .ok .next (pushStore s t x (List.replicate 128 0))))

/-- DCZ. -/
def execDcz (t : TileId) (g : Guard) (ra : BitVec 5) (s : State) : Host.Outcome State Fault Refusal :=
  next (tileOp s t { g := g } (dczBody t ra))

/-! ## TLB invalidation (spec/09 R285) -/

/-- The AST of a translation, 65536 where it is global. -/
def TlbEntry.tag (e : TlbEntry) : Nat := if entG e.w0 then 65536 else e.ast

/-- Entries for which `m` holds, by VPN and AST, leave a tile's TLBs. -/
def dropFrom (m : Nat → Nat → Bool) (l : List TlbEntry) : List TlbEntry := l.filter (fun e => !m e.vpn e.tag)

/-- The stores of a tile up to the youngest one translated through a dropped entry are performed. -/
def performStores (m : Nat → Nat → Bool) (s : State) (t : TileId) : State :=
  let q := (s.tile t).sbuf
  let hit (e : StoreEntry) : Bool := match e.via with
    | some v => m v.1 v.2
    | none => false
  match ((List.range q.length).filter (fun i => (q[i]?.map hit).getD false)).getLast? with
  | some i => drainN t (i + 1) s
  | none => s

/-- A Kiln memory instruction in progress that was translated completes. `none`: it waits for room in the record buffer. -/
def performKiln (s : State) (t : TileId) : Option State :=
  match kHead s t with
  | some e =>
    match e.plan with
    | some p => if p.all (fun r => r.brick) then some s else kilnDone s t e p
    | none => some s
  | none => some s

/-- An invalidation: every TLB, the DMA key caches, and the accesses translated through what is dropped. `none`: such an access
must wait, and the instruction with it. -/
def invalidate (m : Nat → Nat → Bool) (s : State) : Option State :=
  let s := { s with
    tiles := s.tiles.map (fun x => { x with itlb := dropFrom m x.itlb, dtlb := dropFrom m x.dtlb }),
    courses := s.courses.map (fun c => { c with ctlb := dropFrom m c.ctlb }),
    dmaKeys := Vector.replicate 2 [] }
  (List.finRange 100).foldl (fun s t => s.bind (fun s => performKiln (performStores m s t) t)) (some s)

/-- A TLB instruction at Steward or Keystone level. -/
def tlbRow (s : State) (t : TileId) (g : Guard) (m : Tile → Nat → Nat → Bool) : Host.Outcome State Fault Refusal :=
  next (tileOp s t { g := g } (fun s => needSteward s t (fun s =>
    match invalidate (m (s.tile t)) s with
    | some s => .ok .next s
    | none => .halt s)))

/-- TLBIA: one page of one AST, and global entries of the page. -/
def execTlbia (t : TileId) (g : Guard) (ra rb : BitVec 5) (s : State) : Host.Outcome State Fault Refusal :=
  tlbRow s t g (fun x vpn ast =>
    decide (vpn = bitsNat (x.g ra) 47 14) && decide (ast = 65536 ∨ ast = bitsNat (x.g rb) 15 0))

/-- TLBIT: every entry of one AST that is not global. -/
def execTlbit (t : TileId) (g : Guard) (ra : BitVec 5) (s : State) : Host.Outcome State Fault Refusal :=
  tlbRow s t g (fun x _ ast => decide (ast = bitsNat (x.g ra) 15 0))

/-- TLBIX: every entry. -/
def execTlbix (t : TileId) (g : Guard) (s : State) : Host.Outcome State Fault Refusal :=
  tlbRow s t g (fun _ _ _ => true)

/-! ## Key rights (spec/09 R279) -/

/-- MTKRR. -/
def execMtkrr (t : TileId) (g : Guard) (ra rb : BitVec 5) (s : State) : Host.Outcome State Fault Refusal :=
  next (tileOp s t { g := g } (fun s => needSteward s t
    (put t (fun x => let v : BitVec 128 := x.g ra ++ x.g rb; { x.modBank (fun b => { b with krr := v }) with rstack := [] }))))

/-- MFKRR. -/
def execMfkrr (t : TileId) (g : Guard) (rd : BitVec 5) (low : Bool) (s : State) : Host.Outcome State Fault Refusal :=
  next (tileOp s t { g := g } (fun s => needSteward s t (put t (fun x => x.setG rd (decHalf x.cur.krr low)))))

end Sys2Proof.Machine
end

