-- ==== Sys2Proof/Machine/MortRows.lean ====
section
/-! DEFINITION. Mortar: link training, units and messages received, canopy time, quenches, and the commands of the MORT
pages (spec/12; spec/11 R367–R380). -/

namespace Sys2Proof.Machine

/-! ## Links (spec/12 R390–R395, R410) -/

/-- LINK_TRAINING: the link leaves OFF when PLACE.SET is 1 and AUTO is set (spec/12 R390). -/
def execLinkTraining (k : LinkId) (s : State) : Host.Outcome State Fault Refusal := devRow s (fun s => autoTrain s k)

/-- TRAINING_LIMIT (spec/12 R392, R410). -/
def execTrainingLimit (k : LinkId) (step : TrainStep) (s : State) : Host.Outcome State Fault Refusal :=
  devRow s (fun s => trainLimit s k step)

/-- NOSIG_RETRY (spec/12 R392). -/
def execNosigRetry (k : LinkId) (s : State) : Host.Outcome State Fault Refusal := devRow s (fun s => nosigAgain s k)

/-- NEGO (spec/12 R391). -/
def execNego (k : LinkId) (n : BitVec 128) (s : State) : Host.Outcome State Fault Refusal :=
  devRow s (fun s => negoIn s k n)

/-- FLIT_RECEIVE (spec/12 R393–R396, R399). -/
def execFlitReceive (k : LinkId) (u : RxUnit) (s : State) : Host.Outcome State Fault Refusal :=
  devRow s (fun s => unitIn s k u)

/-- LANE_LOCK_LOSS (spec/12 R410). -/
def execLaneLockLoss (k : LinkId) (s : State) : Host.Outcome State Fault Refusal := devRow s (fun s => enterRetrain s k)

/-- LINK_UP (spec/12 R390). -/
def execLinkUp (k : LinkId) (s : State) : Host.Outcome State Fault Refusal := devRow s (fun s => linkUpOp s k)

/-! ## Messages received (spec/12 Table 12-9) -/

/-- A message for this device arrives whole on an UP link. -/
def msgIn (s : State) (k : LinkId) (ty : Nat) (src : BitVec 9) (arg : Nat) (ws : List Word) : State :=
  if linkState s k = 2 then
    receiveMsg s k { ty := BitVec.ofNat 8 ty, dst := s.devNo, src := src, via := none, arg := BitVec.ofNat 16 arg, payload := ws }
  else s

/-- HB. -/
def execHb (k : LinkId) (src : BitVec 9) (state : BitVec 3) (tb : Word) (seen : Vector Word 8) (s : State) :
    Host.Outcome State Fault Refusal :=
  devRow s (fun s => msgIn s k 0x01 src 0 ([BitVec.ofNat 64 (state.toNat * 2 ^ 61), tb] ++ seen.toList))

/-- BREAK. -/
def execBreak (k : LinkId) (src : BitVec 9) (s : State) : Host.Outcome State Fault Refusal :=
  devRow s (fun s => msgIn s k 0x02 src 0 [])

/-- FENCE_RECEIVED. -/
def execFenceReceived (k : LinkId) (src : BitVec 9) (s : State) : Host.Outcome State Fault Refusal :=
  devRow s (fun s => msgIn s k 0x03 src 0 [])

/-- TKOV. -/
def execTkov (k : LinkId) (src failed by_ : BitVec 9) (s : State) : Host.Outcome State Fault Refusal :=
  devRow s (fun s => msgIn s k 0x04 src 0 [BitVec.ofNat 64 (failed.toNat * 512 + by_.toNat)])

/-- TREQ. -/
def execTreq (k : LinkId) (src : BitVec 9) (t1 corr : Word) (s : State) : Host.Outcome State Fault Refusal :=
  devRow s (fun s => msgIn s k 0x05 src 0 [t1, corr])

/-- TRSP, with the stamp t4 of its arrival. -/
def execTrsp (k : LinkId) (src : BitVec 9) (t1 t2 t3 corrReq corrRsp t4 : Word) (s : State) :
    Host.Outcome State Fault Refusal :=
  devRow s (fun s =>
    if linkState s k = 2 ∧ linkFeat s k 6 then trspIn s k src t1 t2 t3 corrReq corrRsp t4
    else msgIn s k 0x06 src 0 [t1, t2, t3, corrReq, corrRsp])

/-- TANN. -/
def execTann (k : LinkId) (num : BitVec 48) (root : BitVec 9) (s : State) : Host.Outcome State Fault Refusal :=
  devRow s (fun s => msgIn s k 0x07 (linkPeer s.devNo k).1 0 [BitVec.ofNat 64 (num.toNat * 2 ^ 16 + root.toNat)])

/-- QUENCH. -/
def execQuench (k : LinkId) (src : BitVec 9) (arg : Word) (s : State) : Host.Outcome State Fault Refusal :=
  devRow s (fun s => msgIn s k 0x08 src 0 [arg])

/-- UNQUENCH. -/
def execUnquench (k : LinkId) (src : BitVec 9) (arg : Word) (s : State) : Host.Outcome State Fault Refusal :=
  devRow s (fun s => msgIn s k 0x09 src 0 [arg])

/-- TICKET_MESSAGE: in format T1 or T2 (spec/10 R322, spec/12 R403). -/
def execTicketMessage (k : LinkId) (src : BitVec 9) (fwd : BitVec 4) (form : TicketForm) (tk : Ticket) (s : State) :
    Host.Outcome State Fault Refusal :=
  devRow s (fun s => msgIn s k 0x10 src fwd.toNat (match form with
    | .t1 => (toT1 tk).getD (ticketWords tk)
    | .t2 w => ticketMsg tk w))

/-- CONT_MESSAGE (spec/10 R325). -/
def execContMessage (k : LinkId) (src : BitVec 9) (course : BitVec 4) (seq : BitVec 48) (tk : Ticket) (s : State) :
    Host.Outcome State Fault Refusal :=
  devRow s (fun s => msgIn s k 0x11 src 0 (ticketWords tk ++ seqWords src course.toNat seq.toNat))

/-- CACK (spec/11 R369). -/
def execCack (k : LinkId) (dest src : BitVec 9) (course : BitVec 4) (seq : BitVec 48) (s : State) :
    Host.Outcome State Fault Refusal :=
  devRow s (fun s => msgIn s k 0x12 src 0 (seqWords dest course.toNat seq.toNat))

/-- VOIDN (spec/11 R356). -/
def execVoidn (k : LinkId) (src : BitVec 9) (course : BitVec 4) (seq : BitVec 48) (s : State) :
    Host.Outcome State Fault Refusal :=
  devRow s (fun s => msgIn s k 0x13 src 0 (seqWords s.devNo course.toNat seq.toNat))

/-- BCMD (spec/10 R344). -/
def execBcmd (k : LinkId) (src : BitVec 9) (key : Word) (c : BrickCmd) (s : State) : Host.Outcome State Fault Refusal :=
  devRow s (fun s => msgIn s k 0x14 src 0 (bcmdWords key c))

/-- MIGC (spec/10 Sequence 10-12). -/
def execMigc (k : LinkId) (src : BitVec 9) (m : MigMsg) (s : State) : Host.Outcome State Fault Refusal :=
  devRow s (fun s => msgIn s k 0x15 src 0 (migWords m))

/-- ENDMK (spec/10 R332). -/
def execEndmk (k : LinkId) (src : BitVec 9) (key : Word) (s : State) : Host.Outcome State Fault Refusal :=
  devRow s (fun s => msgIn s k 0x16 src 0 [key])

/-- MREC (spec/11 R367). -/
def execMrec (k : LinkId) (src : BitVec 9) (rec : List Byte) (s : State) : Host.Outcome State Fault Refusal :=
  devRow s (fun s => msgIn s k 0x20 src 0 (wordsOf rec))

/-- MACK (spec/11 R353). -/
def execMack (k : LinkId) (src : BitVec 9) (pos : Word) (s : State) : Host.Outcome State Fault Refusal :=
  devRow s (fun s => msgIn s k 0x21 src 0 [pos])

/-- DREP (spec/11 R368). -/
def execDrep (k : LinkId) (src : BitVec 9) (bucket : BitVec 26) (idx : Fin 8) (entry : BitVec 128) (s : State) :
    Host.Outcome State Fault Refusal :=
  devRow s (fun s => msgIn s k 0x22 src 0
    [BitVec.ofNat 64 (bucket.toNat * 8 + idx.val), entry.extractLsb' 64 64, entry.extractLsb' 0 64])

/-- DACK (spec/11 R368). -/
def execDack (k : LinkId) (src : BitVec 9) (bucket : BitVec 26) (idx : Fin 8) (s : State) :
    Host.Outcome State Fault Refusal :=
  devRow s (fun s => msgIn s k 0x23 src 0 [BitVec.ofNat 64 (bucket.toNat * 8 + idx.val)])

/-- BCOPY (spec/10 Sequence 10-12, step 4). -/
def execBcopy (k : LinkId) (src : BitVec 9) (key : Word) (data : List Byte) (s : State) :
    Host.Outcome State Fault Refusal :=
  devRow s (fun s => msgIn s k 0x30 src 0 (key :: wordsOf data))

/-- RSYNC (spec/11 R372). -/
def execRsync (k : LinkId) (src : BitVec 9) (key : Word) (data : List Byte) (s : State) :
    Host.Outcome State Fault Refusal :=
  devRow s (fun s => msgIn s k 0x31 src 0 (key :: wordsOf data))

/-! ## Time and quenches -/

/-- TANN_SEND (spec/12 R404). -/
def execTannSend (s : State) : Host.Outcome State Fault Refusal := devRow s tannOut

/-- TREQ_SEND (spec/12 R406). -/
def execTreqSend (s : State) : Host.Outcome State Fault Refusal := devRow s treqOut

/-- TRSP_TIMEOUT (spec/12 R409). -/
def execTrspTimeout (s : State) : Host.Outcome State Fault Refusal := devRow s trspLost

/-- ROOT_LOST (spec/12 R409). -/
def execRootLost (s : State) : Host.Outcome State Fault Refusal := devRow s rootLost

/-- QUENCH_EXPIRY: an end-to-end quench of `src` ends, or the link's (spec/12 R400). -/
def execQuenchExpiry (k : LinkId) (src : Option (BitVec 9)) (s : State) : Host.Outcome State Fault Refusal :=
  devRow s (fun s => quenchEnd s k src)

/-! ## Commands of the MORT pages (spec/12 Table 12-15) -/

/-- TRAIN of a MORT page. -/
def execTrain (a : Agent) (k : LinkId) (s : State) : Host.Outcome State Fault Refusal := cmdRow s a (pMort + k.val) 1
/-- DOWN. -/
def execDown (a : Agent) (k : LinkId) (s : State) : Host.Outcome State Fault Refusal := cmdRow s a (pMort + k.val) 2
/-- RETRAIN. -/
def execRetrain (a : Agent) (k : LinkId) (s : State) : Host.Outcome State Fault Refusal := cmdRow s a (pMort + k.val) 3
/-- LOOP. -/
def execLoop (a : Agent) (k : LinkId) (s : State) : Host.Outcome State Fault Refusal := cmdRow s a (pMort + k.val) 4
/-- QUENCH of a MORT page. -/
def execQuenchCommand (a : Agent) (k : LinkId) (s : State) : Host.Outcome State Fault Refusal :=
  cmdRow s a (pMort + k.val) 5
/-- UNQUENCH of a MORT page. -/
def execUnquenchCommand (a : Agent) (k : LinkId) (s : State) : Host.Outcome State Fault Refusal :=
  cmdRow s a (pMort + k.val) 6

end Sys2Proof.Machine
end

