-- ==== Sys2Proof/Machine/RingsRows.lean ====
section
/-! DEFINITION. The recorders: what drains them, the brick map, and the commands of the RINGS pages (spec/14). -/

namespace Sys2Proof.Machine

/-- RECORD_BUFFER_ROOM (spec/14 R441, R442). -/
def execRecordBufferRoom (c : CourseId) (s : State) : Host.Outcome State Fault Refusal :=
  devRow s (fun s => ringsDrain s c)

/-- BRICK_MAP_SWEEP_DONE (spec/14 R439). -/
def execBrickMapSweepDone (c : CourseId) (s : State) : Host.Outcome State Fault Refusal :=
  devRow s (fun s => ringsSweepDone s c)

/-- STRCI_WRITE (spec/14 R440). -/
def execStrciWrite (a : Agent) (c : CourseId) (v : Word) (s : State) : Host.Outcome State Fault Refusal :=
  devRow s (fun s => rowWrite s a (ringsReg c 0x120) v)

/-- START of a RINGS page (spec/14 Table 14-5). -/
def execRingsStart (a : Agent) (c : CourseId) (s : State) : Host.Outcome State Fault Refusal := cmdRow s a (pRings + c.val) 1
/-- CKPT. -/
def execCkpt (a : Agent) (c : CourseId) (s : State) : Host.Outcome State Fault Refusal := cmdRow s a (pRings + c.val) 2
/-- MARK. -/
def execMark (a : Agent) (c : CourseId) (s : State) : Host.Outcome State Fault Refusal := cmdRow s a (pRings + c.val) 3
/-- STOP. -/
def execStop (a : Agent) (c : CourseId) (s : State) : Host.Outcome State Fault Refusal := cmdRow s a (pRings + c.val) 4
/-- REPLAY. -/
def execReplay (a : Agent) (c : CourseId) (s : State) : Host.Outcome State Fault Refusal := cmdRow s a (pRings + c.val) 5

end Sys2Proof.Machine
end

