-- ==== Sys2Proof/Machine/StrOps.lean ====
section
/-! DEFINITION. Control words of string instructions, their checks, and the byte accesses of one unit (spec/05 R160–R174). -/

namespace Sys2Proof.Machine

/-! ## The control word (spec/05 Map 5-3) -/

/-- A control word. -/
structure CW where
  prog : Bool
  ftu : Nat
  hit : Bool
  rsvd : Nat
  basea : Nat
  baseb : Nat
  fill : Nat
  sig : Bool
  half : Bool
  nz : Bool
  negf : Bool
  sgn : Bool
  run : Nat
  dfmt : Bool
  len : Nat

/-- The fields of a control word. -/
def cwOf (w : Word) : CW :=
  { prog := w.getLsbD 63, ftu := bitsNat w 62 59, hit := w.getLsbD 58, rsvd := bitsNat w 57 56, basea := bitsNat w 55 52,
    baseb := bitsNat w 51 48, fill := bitsNat w 47 40, sig := w.getLsbD 39, half := w.getLsbD 38, nz := w.getLsbD 37,
    negf := w.getLsbD 36, sgn := w.getLsbD 35, run := bitsNat w 34 33, dfmt := w.getLsbD 32, len := bitsNat w 31 0 }

/-- Kinds of instruction, for the ranges of Table 5-4 and the units of Table 5-5. -/
inductive SKind where
  | mv | cps | srch | trs | tts | edit | chkd | bmap
  deriving DecidableEq

/-- A string instruction: its kind and its registers; `useB` and `useX` as Table 5-2 marks rb and rx. -/
structure SIns where
  kind : SKind
  ft : Bool
  ra : BitVec 5
  rb : BitVec 5 := 0
  rl : BitVec 5
  rx : BitVec 5 := 0
  useB : Bool := false
  useX : Bool := false

/-- LEN is in its range while PROG is 0 (spec/05 Table 5-4). -/
def SKind.lenOk (k : SKind) (n : Nat) : Bool :=
  match k with
  | .edit => inRange n 1 256
  | .chkd | .bmap => inRange n 1 64
  | _ => true

/-- The greatest LEN of a .FT form (spec/05 Table 5-4). -/
def SKind.ftMax : SKind → Nat
  | .edit => 64 | .chkd => 19 | _ => 256

/-- Units of a .FT form (spec/05 Table 5-5). -/
def SKind.ftUnits : SKind → Nat
  | .edit => 8 | .chkd => 1 | _ => 4

/-- Operand A is written (spec/05 Table 5-4). -/
def SKind.writesA : SKind → Bool
  | .mv | .trs | .edit => true
  | _ => false

/-- The registers that an instruction uses. -/
def SIns.regs (i : SIns) : List (BitVec 5) :=
  [i.ra, i.rl] ++ (if i.useB then [i.rb] else []) ++ (if i.useX then [i.rx] else [])

/-- No two are equal. -/
def distinct (l : List (BitVec 5)) : Bool := decide (l.Nodup)

/-- The conditions of R161. -/
def SIns.bad (i : SIns) (c : CW) : Bool :=
  let edits := c.sig || c.half || c.nz || c.negf || c.sgn || decide (c.run ≠ 0)
  let stop := i.ft && decide (i.kind = .cps ∨ i.kind = .tts)
  decide (c.rsvd ≠ 0) ||
  !baseOk c.basea || !baseOk c.baseb || (!i.useB && decide (c.baseb ≠ 0)) ||
  (decide (i.kind ≠ .edit) && (edits || decide (c.fill ≠ 0))) || decide (c.run = 3) ||
  (c.dfmt && decide (i.kind ≠ .chkd)) ||
  (c.hit && !stop) ||
  (if i.ft then decide (i.kind.ftUnits ≤ c.ftu) else decide (c.ftu ≠ 0)) ||
  (!c.prog && (!i.kind.lenOk c.len || decide (c.ftu ≠ 0) || c.hit || edits)) ||
  (c.prog && (decide (i.kind = .chkd ∨ i.kind = .bmap) || (!i.ft && decide (c.len = 0)))) ||
  decide (i.ra = 0 ∨ i.rl = 0) || (i.useB && decide (i.rb = 0)) || !distinct i.regs

/-- The specification exception before any unit (spec/05 R161, R162). -/
def SIns.spec (i : SIns) (c : CW) : Option Exc :=
  if i.bad c then some (exc 3 3)
  else if i.ft ∧ i.kind.ftMax < c.len then some (exc 3 1)
  else none

/-- Addresses of the operands. -/
def SIns.addrA (i : SIns) (x : Tile) : Addr := baseAddr (cwOf (x.g i.rl)).basea (x.g i.ra)
def SIns.addrB (i : SIns) (x : Tile) : Addr := baseAddr (cwOf (x.g i.rl)).baseb (x.g i.rb)

/-- The checks of one brick-relative operand. -/
def brickCheck (s : State) (t : TileId) (k : Acc) (a : Addr) (n : Nat) : Option Exc :=
  match a with
  | .brick slot off =>
    match brickXl s t k slot off n with
    | .exc e _ => some e
    | _ => none
  | .virt _ => none

/-- The checks of R164: operand A, then operand B; a table where LEN is not 0; operand B of EDT is not checked here. -/
def SIns.bricks (i : SIns) (s : State) (t : TileId) (c : CW) : Option Exc :=
  let x := s.tile t
  let nA := if i.kind = .chkd ∧ c.dfmt then ceilDiv c.len 2 else c.len
  let b := match i.kind with
    | .mv | .cps => brickCheck s t .unitLoad (i.addrB x) c.len
    | .trs | .tts => if c.len = 0 then none else brickCheck s t .unitLoad (i.addrB x) 256
    | _ => none
  (brickCheck s t (if i.kind.writesA then .unitStore else .unitLoad) (i.addrA x) nA).or b

/-! ## The accesses of a unit -/

/-- What a unit has done so far: pages it has translated, bytes it has written (newest first), bytes of type recorded that
it has read of operand A and of operand B (newest first) with the address of the first, and in replay the bytes of the
records that it takes them from. -/
structure USt where
  pages : List (Bool × Nat × Xl) := []
  out : List (Xl × Byte) := []
  recA : List Byte := []
  recB : List Byte := []
  fromA : Nat := 0
  fromB : Nat := 0
  repA : Option (List Byte) := none
  repB : Option (List Byte) := none

/-- The result of a part of a unit. -/
inductive URes (α : Type) where
  | ok (a : α) (u : USt) (s : State)
  | exc (e : Exc) (u : USt) (s : State)
  | halt (s : State)

/-- A part of a unit. -/
abbrev UM (α : Type) := USt → State → URes α

/-- Sequence. -/
def UM.bind {α β : Type} (x : UM α) (f : α → UM β) : UM β := fun u s =>
  match x u s with
  | .ok a u s => f a u s
  | .exc e u s => .exc e u s
  | .halt s => .halt s

/-- A value. -/
def UM.ret {α : Type} (a : α) : UM α := fun u s => .ok a u s

/-- An exception. -/
def UM.raise {α : Type} (e : Exc) : UM α := fun u s => .exc e u s

/-- Where a byte lies. A page is translated once in a unit. FADDR of a PADDR is the byte's address as the instruction formed it
(spec/05 R168; log entry 94). -/
def uPlace (t : TileId) (k : Acc) (a : Addr) : UM Xl := fun u s =>
  match a with
  | .brick slot off =>
    match brickXl s t k slot off 1 with
    | .ok x s => .ok x u s
    | .exc e s => .exc e u s
    | .halt s => .halt s
  | .virt va =>
    let page := va.toNat / 0x4000
    match u.pages.find? (fun p => p.1 == k.writes && decide (p.2.1 = page)) with
    | some p => .ok { p.2.2 with pa := p.2.2.pa / 0x4000 * 0x4000 + va.toNat % 0x4000 } u s
    | none =>
      match translate s t .data (dataCtx s t) k va 1 with
      | .ok x s => .ok x { u with pages := (k.writes, page, x) :: u.pages } s
      | .exc e s => .exc (if e.code = 6 then { e with faddr := va } else e) u s
      | .halt s => .halt s

/-- The bytes of the tile's next record where it is an RLOAD of this point (spec/14 R445). -/
def nextRload (t : TileId) (s : State) : Option (List Byte) × State :=
  let c := courseOf t
  match takeRec s t 7 (atRec s t 0) with
  | (some q, s) => (some (s.bytes (ringsAddr s c (q + 32)) (bitsNat (recWord s c q 0) 63 57)), s)
  | (none, s) => (none, s)

/-- A byte of type recorded in replay. -/
def replayByte (t : TileId) (isA : Bool) : UM Byte := fun u s =>
  let cur := if isA then u.repA else u.repB
  let put (l : List Byte) : USt := if isA then { u with repA := some l } else { u with repB := some l }
  match cur with
  | some (b :: l) => .ok b (put l) s
  | some [] => .halt (replayEnd s (courseOf t) 2 (s.course (courseOf t)).rings.rPos)
  | none =>
    match nextRload t s with
    | (some (b :: l), s) => .ok b (put l) s
    | (some [], s) => .halt (replayEnd s (courseOf t) 2 (s.course (courseOf t)).rings.rPos)
    | (none, s) => .halt s

/-- Note a byte of type recorded that was read. -/
def USt.note (u : USt) (isA : Bool) (a : Addr) (b : Byte) : USt :=
  if isA then { u with recA := b :: u.recA, fromA := if u.recA.isEmpty then a.fa.toNat else u.fromA }
  else { u with recB := b :: u.recB, fromB := if u.recB.isEmpty then a.fa.toNat else u.fromB }

/-- In replay the tile's next record is an exception at this point: the unit met a device byte, and left no record of what it read
(spec/05 R165). -/
def faultNext (s : State) (t : TileId) : Bool :=
  match nextTileRec s t with
  | .found q => decide ((recHead s (courseOf t) q).1 = 0x0A) && atRec s t 0 q
  | _ => false

/-- The byte at a place, with what the unit has written. -/
def uByte (t : TileId) (isA : Bool) (a : Addr) (x : Xl) : UM Byte := fun u s =>
  if x.ty = .recorded ∧ !isKeyst t ∧ replayTile s t ∧ !faultNext s t then replayByte t isA u s
  else match u.out.find? (fun p => decide (p.1.pa = x.pa)) with
  | some p => .ok p.2 (if x.ty = .recorded ∧ !isKeyst t then u.note isA a p.2 else u) s
  | none =>
    match poisonExc s x.pa 1 with
    | some e => .exc e u s
    | none =>
      let b := s.byte x.pa
      .ok b (if x.ty = .recorded ∧ !isKeyst t then u.note isA a b else u) s

/-- Read a byte of operand A or B; `k` is the access that it is checked as. -/
def uRead (t : TileId) (k : Acc) (isA : Bool) (a : Addr) : UM (Xl × Byte) :=
  UM.bind (uPlace t k a) (fun x => UM.bind (uByte t isA a x) (fun b => UM.ret (x, b)))

/-- Write a byte at a place. -/
def uWrite (x : Xl) (b : Byte) : UM Unit := fun u s => .ok () { u with out := (x, b) :: u.out } s

/-- Bytes `i`, `i + 1`, …, until `f` stops. -/
def UM.scan {α : Type} (f : Nat → UM (Option α)) : Nat → Nat → UM (Option (Nat × α))
  | 0, _ => UM.ret none
  | n + 1, i => UM.bind (f i) (fun r =>
    match r with
    | some a => UM.ret (some (i, a))
    | none => UM.scan f n (i + 1))

/-- `f` for `n` indices from `i`, in order. -/
def UM.list {α : Type} (f : Nat → UM α) : Nat → Nat → UM (List α)
  | 0, _ => UM.ret []
  | n + 1, i => UM.bind (f i) (fun a => UM.bind (UM.list f n (i + 1)) (fun l => UM.ret (a :: l)))

/-- The records of the bytes of type recorded that a unit has read (spec/14 Table 14-2): per operand the bytes in the order in which
they were read, with the address of the first, also where a unit reads downward or at the addresses of a table (DESIGN CHOICE, log
entry 73). -/
def uRecords (s : State) (t : TileId) (u : USt) : State :=
  let s := if u.recA.isEmpty then s else ringsRload s t u.fromA u.recA.reverse
  if u.recB.isEmpty then s else ringsRload s t u.fromB u.recB.reverse

/-- The unit's records do not fit the record buffer (spec/14 R441). -/
def uStalls (s : State) (t : TileId) (u : USt) : Bool :=
  let n := u.recA.length + u.recB.length
  decide (n ≠ 0) && ringsStalls s t (n + 48)

/-- In replay, a record of the unit holds bytes that it did not read. -/
def uLeft (u : USt) : Bool := !((u.repA.getD []).isEmpty && (u.repB.getD []).isEmpty)

/-- What a unit leaves: the advance of ra and rb, LEN, whether the ordinary form is complete, whether at a stop byte, and
its other register results. -/
structure UOut where
  da : Nat := 0
  db : Nat := 0
  len : Nat
  done : Bool
  stop : Bool := false
  f : Tile → Tile := id

/-- The control word after a unit (spec/05 R167, R174). HIT marks a CPS or TTS that is complete before its last unit. Where
software has changed LEN so that a .FT form is not complete in its last unit, PROG and FTU become 0 and LEN keeps the rest
(DESIGN CHOICE, log entry 115). -/
def cwAfter (i : SIns) (c : CW) (o : UOut) (w : Word) : Word × Bool :=
  let last := if i.ft then decide (c.ftu + 1 = i.kind.ftUnits) else o.done
  let w := setBits w 0 32 o.len
  let w := setBit w 63 (!last)
  let w := setBits w 59 4 (if i.ft ∧ !last then c.ftu + 1 else 0)
  (setBit w 58 (i.ft && !last && (c.hit || o.stop || (o.done && decide (i.kind = .cps ∨ i.kind = .tts)))), last)

/-- The registers after a unit. CHKD and BMAP leave ra and rl unchanged. -/
def unitRegs (i : SIns) (c : CW) (o : UOut) (x : Tile) : Tile :=
  if i.kind = .chkd ∨ i.kind = .bmap then o.f x
  else
    let x := o.f x
    let x := x.setG i.ra (x.g i.ra + BitVec.ofNat 64 o.da)
    let x := if i.useB then x.setG i.rb (x.g i.rb + BitVec.ofNat 64 o.db) else x
    x.setG i.rl (cwAfter i c o (x.g i.rl)).1

/-- What a unit leaves that meets an exception: no A or D bit and no byte (spec/05 R168); the event counts of its walks, and the
records of the bytes that it has read, from which a replay raises the same exception (spec/14 R445, R446; log entry 113). At a
device byte it makes no access (R165). -/
def unitFault (t : TileId) (e : Exc) (u : USt) (s s' : State) : State :=
  let c := courseOf t
  let s := { s with regs := s'.regs }
  if e.code = 0x0A ∧ e.sub = 2 then s else uRecords (s.modRings c (fun _ => (s'.course c).rings)) t u

/-- One unit: performed whole, or without effect (spec/05 R167, R168). -/
def runUnit (t : TileId) (i : SIns) (c : CW) (m : UM UOut) (s : State) : R Flow :=
  match m {} s with
  | .halt s => .halt s
  | .exc e u s' => if uStalls s t u then .halt s else .exc e (unitFault t e u s s')
  | .ok o u s' =>
    if uStalls s t u then .halt s
    else if uLeft u then .halt (replayEnd s' (courseOf t) 2 (s'.course (courseOf t)).rings.rPos)
    else
      let s := uRecords s' t u
      let s := u.out.reverse.foldl (fun s p => storeNow s t p.1 [p.2]) s
      let last := (cwAfter i c o 0).2
      .ok (if last then .last else .unit i.rl) (s.modTile t (unitRegs i c o))

/-- A padding unit changes FTU alone (spec/05 R174). -/
def padUnit (t : TileId) (i : SIns) (c : CW) (s : State) : R Flow :=
  let last := decide (c.ftu + 1 = i.kind.ftUnits)
  .ok (if last then .last else .unit i.rl) (s.modTile t (fun x =>
    let w := x.g i.rl
    x.setG i.rl (if last then setBits w 58 6 0 else setBits w 59 4 (c.ftu + 1))))

/-- A string instruction: its checks, then one unit; `ending` gives the results of an operand processed to its end. -/
def strBody (t : TileId) (i : SIns) (ending : Tile → Tile) (unit : Tile → CW → UM UOut) (s : State) :
    R Flow :=
  let c := cwOf ((s.tile t).g i.rl)
  match i.spec c with
  | some e => .exc e s
  | none =>
    match i.bricks s t c with
    | some e => .exc e s
    | none =>
      if !i.ft && !c.prog && decide (c.len = 0) then .ok .next (s.modTile t ending)
      else longStart s t i.rl (fun s =>
        if i.ft ∧ (c.hit ∨ (c.len = 0 ∧ c.prog)) then padUnit t i c s
        else if c.len = 0 then runUnit t i c (UM.ret { len := 0, done := true, f := ending }) s
        else runUnit t i c (unit (s.tile t) c) s)

end Sys2Proof.Machine
end

