-- ==== Sys2Proof/Machine/StrRows.lean ====
section
/-! DEFINITION. Move, compare, search, translate, edit, check and bitmap instructions: their units (spec/05 R175–R187). -/

namespace Sys2Proof.Machine

/-- A long instruction of the S format. -/
def strRow (s : State) (t : TileId) (g : Guard) (i : SIns) (legal : Bool) (ending : Tile → Tile)
    (unit : Tile → CW → UM UOut) : Host.Outcome State Fault Refusal :=
  next (tileOp s t { g := g, len := 8, long := true, legal := legal } (strBody t i ending unit))

/-! ## Moving (spec/05 R175, R176) -/

/-- A unit that goes through its bytes to the end: ra, and rb where `db` is 1, advance. -/
def throughUnit (c : CW) (max : Nat) (dir : Nat) (db : Nat) (f : Nat → UM (Option Unit)) : UM UOut :=
  let b := min max c.len
  UM.bind (UM.scan f b 0) (fun _ =>
    UM.ret { da := dir * b, db := dir * db * b, len := c.len - b, done := decide (c.len = b) })

/-- Copy byte `i` of operand B to operand A. -/
def copyByte (t : TileId) (a b : Addr) (i : Nat) : UM (Option Unit) :=
  UM.bind (uRead t .unitLoad false (b.plus i)) (fun y =>
    UM.bind (uPlace t .unitStore (a.plus i)) (fun x =>
      UM.bind (uWrite x y.2) (fun _ => UM.ret none)))

/-- One unit of MVS. -/
def mvsUnit (t : TileId) (a b : Addr) (c : CW) : UM UOut := throughUnit c 64 1 1 (copyByte t a b)

/-- MVS, MVS.FT. -/
def execMvs (t : TileId) (g : Guard) (ft : Bool) (ra rb rl : BitVec 5) (s : State) : Host.Outcome State Fault Refusal :=
  let i : SIns := { kind := .mv, ft := ft, ra := ra, rb := rb, rl := rl, useB := true }
  strRow s t g i true id (fun x => mvsUnit t (i.addrA x) (i.addrB x))

/-- One unit of MVSR: from the right; ra and rb never change. -/
def mvsrUnit (t : TileId) (a b : Addr) (c : CW) : UM UOut :=
  throughUnit c 64 0 0 (fun j => copyByte t a b (c.len - 1 - j))

/-- MVSR, MVSR.FT. -/
def execMvsr (t : TileId) (g : Guard) (ft : Bool) (ra rb rl : BitVec 5) (s : State) : Host.Outcome State Fault Refusal :=
  let i : SIns := { kind := .mv, ft := ft, ra := ra, rb := rb, rl := rl, useB := true }
  strRow s t g i true id (fun x => mvsrUnit t (i.addrA x) (i.addrB x))

/-! ## Comparing and searching (spec/05 R177, R178) -/

/-- A unit that looks for a stop byte: at it, ra (and rb with `db` 1) point at it and LEN counts it in. -/
def stopUnit {α : Type} (c : CW) (db : Nat) (f : Nat → UM (Option α)) (hit : α → Tile → Tile) (ending : Tile → Tile) :
    UM UOut :=
  let b := min 64 c.len
  UM.bind (UM.scan f b 0) (fun r =>
    match r with
    | some (i, v) => UM.ret { da := i, db := db * i, len := c.len - i, done := true, stop := true, f := hit v }
    | none =>
      UM.ret { da := b, db := db * b, len := c.len - b, done := decide (c.len = b),
               f := if c.len = b then ending else id })

/-- The bytes of the operands differ: whether that of A is above. -/
def cmpByte (t : TileId) (a b : Addr) (i : Nat) : UM (Option Bool) :=
  UM.bind (uRead t .unitLoad true (a.plus i)) (fun x =>
    UM.bind (uRead t .unitLoad false (b.plus i)) (fun y =>
      UM.ret (if x.2 = y.2 then none else some (decide (y.2.toNat < x.2.toNat)))))

/-- The results of CPS at equal operands. -/
def cpsEnd (pd : BitVec 3) (rx : BitVec 5) (x : Tile) : Tile := (x.setG rx 0).setP pd true

/-- The results of CPS at unequal bytes. -/
def cpsHit (pd : BitVec 3) (rx : BitVec 5) (above : Bool) (x : Tile) : Tile :=
  (x.setG rx (if above then 1 else BitVec.allOnes 64)).setP pd false

/-- CPS, CPS.FT. -/
def execCps (t : TileId) (g : Guard) (ft : Bool) (pd : BitVec 3) (rx ra rb rl : BitVec 5) (s : State) :
    Host.Outcome State Fault Refusal :=
  let i : SIns := { kind := .cps, ft := ft, ra := ra, rb := rb, rl := rl, rx := rx, useB := true, useX := true }
  strRow s t g i true (cpsEnd pd rx) (fun x c =>
    stopUnit c 1 (cmpByte t (i.addrA x) (i.addrB x)) (cpsHit pd rx) (cpsEnd pd rx))

/-- A byte that SRCH looks for. -/
def srchByte (t : TileId) (a : Addr) (ne : Bool) (ch : Byte) (i : Nat) : UM (Option Unit) :=
  UM.bind (uRead t .unitLoad true (a.plus i)) (fun x => UM.ret (if (x.2 == ch) != ne then some () else none))

/-- SRCH.EQ, SRCH.NE. -/
def execSrch (t : TileId) (g : Guard) (ne : Bool) (pd : BitVec 3) (ra rl : BitVec 5) (c : Byte) (s : State) :
    Host.Outcome State Fault Refusal :=
  let i : SIns := { kind := .srch, ft := false, ra := ra, rl := rl }
  strRow s t g i true (fun x => x.setP pd false) (fun x w =>
    stopUnit w 0 (srchByte t (i.addrA x) ne c) (fun _ x => x.setP pd true) (fun x => x.setP pd false))

/-! ## Translating (spec/05 R179, R180) -/

/-- Translate byte `i` in place. -/
def trsByte (t : TileId) (a b : Addr) (i : Nat) : UM (Option Unit) :=
  UM.bind (uRead t .unitStore true (a.plus i)) (fun x =>
    UM.bind (uRead t .unitLoad false (b.plus x.2.toNat)) (fun y =>
      UM.bind (uWrite x.1 y.2) (fun _ => UM.ret none)))

/-- One unit of TRS: rb never changes. -/
def trsUnit (t : TileId) (a b : Addr) (c : CW) : UM UOut := throughUnit c 64 1 0 (trsByte t a b)

/-- TRS, TRS.FT. -/
def execTrs (t : TileId) (g : Guard) (ft : Bool) (ra rb rl : BitVec 5) (s : State) : Host.Outcome State Fault Refusal :=
  let i : SIns := { kind := .trs, ft := ft, ra := ra, rb := rb, rl := rl, useB := true }
  strRow s t g i true id (fun x => trsUnit t (i.addrA x) (i.addrB x))

/-- The table's entry for byte `i`, where it is not 0. -/
def ttsByte (t : TileId) (a b : Addr) (i : Nat) : UM (Option Byte) :=
  UM.bind (uRead t .unitLoad true (a.plus i)) (fun x =>
    UM.bind (uRead t .unitLoad false (b.plus x.2.toNat)) (fun y => UM.ret (if y.2 = 0 then none else some y.2)))

/-- The results of TTS without a stop byte. -/
def ttsEnd (pd : BitVec 3) (rx : BitVec 5) (x : Tile) : Tile := (x.setG rx 0).setP pd false

/-- TTS, TTS.FT. -/
def execTts (t : TileId) (g : Guard) (ft : Bool) (pd : BitVec 3) (rx ra rb rl : BitVec 5) (s : State) :
    Host.Outcome State Fault Refusal :=
  let i : SIns := { kind := .tts, ft := ft, ra := ra, rb := rb, rl := rl, rx := rx, useB := true, useX := true }
  strRow s t g i true (ttsEnd pd rx) (fun x c =>
    stopUnit c 0 (ttsByte t (i.addrA x) (i.addrB x))
      (fun v x => (x.setG rx (v.setWidth 64)).setP pd true) (ttsEnd pd rx))

/-! ## Editing (spec/05 R181–R184) -/

/-- The state of an edit within a unit: source bytes consumed, the flags of the control word, and gx of EDTM. -/
structure Ed where
  db : Nat
  sig : Bool
  half : Bool
  nz : Bool
  negf : Bool
  sgn : Bool
  run : Nat
  gx : Option Word

/-- A digit that has been taken from source byte `sb`: the new state, and the character or the fill (spec/05, EDT). -/
def edDigit (e : Ed) (forced : Bool) (fill : Nat) (sb : Nat) (here : Word) : Ed × Nat :=
  let dgt := if e.half then sb % 16 else sb / 16
  let prints := forced || e.sig || decide (dgt ≠ 0)
  let e1 := { e with
    run := 0, gx := if prints && !e.sig then some here else e.gx, sig := e.sig || prints, nz := e.nz || decide (dgt ≠ 0) }
  let e2 :=
    if e.half then { e1 with half := false, db := e.db + 1 }
    else if sb % 16 ≤ 9 then { e1 with half := true }
    else { e1 with db := e.db + 1, sgn := true, negf := signMinus (sb % 16) }
  (e2, if prints then 0x30 + dgt else fill)

/-- Any other pattern byte (spec/05 Table 5-7). -/
def edOther (e : Ed) (fill ch : Nat) : Ed × Nat :=
  match ch with
  | 0x12 => ({ e with sig := false, nz := false, negf := false, sgn := false, run := 0 }, fill)
  | 0x13 => ({ e with run := 0 }, fill)
  | 0x14 => ({ e with run := 1 }, fill)
  | 0x15 => ({ e with run := 2 }, fill)
  | _ =>
    let keep :=
      if e.run = 1 then e.sgn && e.negf
      else if e.run = 2 then e.sgn && !e.negf
      else e.sig
    (e, if keep then ch else fill)

/-- The pattern byte at `a`. -/
def edByte (t : TileId) (a b : Addr) (fill : Nat) (e : Ed) : UM Ed :=
  UM.bind (uRead t .unitStore true a) (fun x =>
    let ch := x.2.toNat
    if ch = 0x10 ∨ ch = 0x11 then
      UM.bind (uRead t .unitLoad false (b.plus e.db)) (fun y =>
        let sb := y.2.toNat
        if 9 < (if e.half then sb % 16 else sb / 16) then
          UM.raise (decData b ((2 * e.db + b2n e.half) % 64) e.db)
        else
          let r := edDigit e (decide (ch = 0x11)) fill sb a.fa
          UM.bind (uWrite x.1 (BitVec.ofNat 8 r.2)) (fun _ => UM.ret r.1))
    else
      let r := edOther e fill ch
      UM.bind (uWrite x.1 (BitVec.ofNat 8 r.2)) (fun _ => UM.ret r.1))

/-- `n` pattern bytes from byte `i`. -/
def edLoop (t : TileId) (a b : Addr) (fill : Nat) : Nat → Nat → Ed → UM Ed
  | 0, _, e => UM.ret e
  | n + 1, i, e => UM.bind (edByte t (a.plus i) b fill e) (fun e => edLoop t a b fill n (i + 1) e)

/-- The flags of an edit in a control word. -/
def edFlags (e : Ed) (done : Bool) (w : Word) : Word :=
  let w := setBit (setBit w 39 (e.sig && !done)) 38 (e.half && !done)
  let w := setBit (setBit (setBit w 37 e.nz) 36 e.negf) 35 e.sgn
  setBits w 33 2 (if done then 0 else e.run)

/-- gx of EDTM, where significance was turned on (spec/05 R184). -/
def edMark (mark : Option (BitVec 5)) (v : Option Word) (x : Tile) : Tile :=
  match mark, v with
  | some r, some v => x.setG r v
  | _, _ => x

/-- One unit of EDT or EDTM; `mark` is gx. -/
def edUnit (t : TileId) (a b : Addr) (rl : BitVec 5) (mark : Option (BitVec 5)) (c : CW) : UM UOut :=
  let n := min 8 c.len
  let e0 : Ed := { db := 0, sig := c.sig, half := c.half, nz := c.nz, negf := c.negf, sgn := c.sgn, run := c.run, gx := none }
  UM.bind (edLoop t a b c.fill n 0 e0) (fun e =>
    let done := decide (c.len = n)
    UM.ret { da := n, db := e.db, len := c.len - n, done := done,
             f := fun x => let x := edMark mark e.gx x; x.setG rl (edFlags e done (x.g rl)) })

/-- EDT, EDT.FT. -/
def execEdt (t : TileId) (g : Guard) (ft : Bool) (ra rb rl : BitVec 5) (s : State) : Host.Outcome State Fault Refusal :=
  let i : SIns := { kind := .edit, ft := ft, ra := ra, rb := rb, rl := rl, useB := true }
  strRow s t g i true id (fun x => edUnit t (i.addrA x) (i.addrB x) rl none)

/-- The fixed-time forms of EDTM and CHKD are present (spec/00 Table 0-3; spec/02 Map 2-13, FTEXT). -/
def ftext (s : State) : Bool := s.fuses.caps0.getLsbD 8

/-- EDTM, EDTM.FT. -/
def execEdtm (t : TileId) (g : Guard) (ft : Bool) (rx ra rb rl : BitVec 5) (s : State) :
    Host.Outcome State Fault Refusal :=
  let i : SIns := { kind := .edit, ft := ft, ra := ra, rb := rb, rl := rl, rx := rx, useB := true, useX := true }
  strRow s t g i (!ft || ftext s) id
    (fun x => edUnit t (i.addrA x) (i.addrB x) rl (some rx))

/-! ## Check digits (spec/05 R185, R186) -/

/-- A character digit of operand A. -/
def chkdChar (t : TileId) (a : Addr) (k : Nat) : UM (List Nat) :=
  UM.bind (uRead t .unitLoad true (a.plus k)) (fun x =>
    let ch := x.2.toNat
    if inRange ch 0x30 0x39 then UM.ret [ch - 0x30] else UM.raise (decData a (0x80 + k) k))

/-- The digits of byte `j` of a BCD field of `len` digits; the high nibble of the first byte is a pad where `len` is
odd. -/
def chkdBcd (t : TileId) (a : Addr) (len : Nat) (j : Nat) : UM (List Nat) :=
  UM.bind (uRead t .unitLoad true (a.plus j)) (fun x =>
    let hi := x.2.toNat / 16
    let lo := x.2.toNat % 16
    let pad := decide (j = 0 ∧ len % 2 = 1)
    if !pad && decide (9 < hi) then UM.raise (decData a (2 * j) j)
    else if 9 < lo then UM.raise (decData a (2 * j + 1) j)
    else UM.ret (if pad then [lo] else [hi, lo]))

/-- The sum of the Luhn formula; `g` is 1 for a number without its check digit (spec/05, CHKD). -/
def luhn (g : Nat) (digits : List Nat) : Nat :=
  let n := digits.length
  ((List.range n).map (fun k =>
    let d := digits.getD k 0
    if (n - 1 - k + g) % 2 = 1 then (if 9 < 2 * d then 2 * d - 9 else 2 * d) else d)).sum

/-- The one unit of CHKD. -/
def chkdUnit (t : TileId) (a : Addr) (g : Nat) (put_ : Nat → Tile → Tile) (c : CW) : UM UOut :=
  UM.bind (if c.dfmt then UM.list (chkdBcd t a c.len) (ceilDiv c.len 2) 0 else UM.list (chkdChar t a) c.len 0)
    (fun l => UM.ret { len := c.len, done := true, f := put_ (luhn g l.flatten % 10) })

/-- CHKD.V, CHKD.V.FT. -/
def execChkdV (t : TileId) (g : Guard) (ft : Bool) (pd : BitVec 3) (ra rl : BitVec 5) (s : State) :
    Host.Outcome State Fault Refusal :=
  let i : SIns := { kind := .chkd, ft := ft, ra := ra, rl := rl }
  strRow s t g i (!ft || ftext s) id (fun x => chkdUnit t (i.addrA x) 0 (fun m x => x.setP pd (decide (m = 0))))

/-- CHKD.G, CHKD.G.FT. -/
def execChkdG (t : TileId) (g : Guard) (ft : Bool) (rx ra rl : BitVec 5) (s : State) :
    Host.Outcome State Fault Refusal :=
  let i : SIns := { kind := .chkd, ft := ft, ra := ra, rl := rl, rx := rx, useX := true }
  strRow s t g i (!ft || ftext s) id
    (fun x => chkdUnit t (i.addrA x) 1 (fun m x => x.setG rx (BitVec.ofNat 64 ((10 - m) % 10))))

/-! ## Walking a bitmap (spec/05 R187) -/

/-- The least set bit above `k` in byte `j`, by its number from 1. -/
def bmapByte (t : TileId) (a : Addr) (k j : Nat) : UM (Option Nat) :=
  UM.bind (uRead t .unitLoad true (a.plus j)) (fun x =>
    UM.ret (((List.range 8).find? (fun i => x.2.getLsbD (7 - i) && decide (k < 8 * j + i + 1))).map (fun i => 8 * j + i + 1)))

/-- The one unit of BMAP. -/
def bmapUnit (t : TileId) (a : Addr) (pd : BitVec 3) (rx : BitVec 5) (k : Nat) (c : CW) : UM UOut :=
  let first := k / 8
  UM.bind (UM.scan (bmapByte t a k) (c.len - first) first) (fun r =>
    UM.ret { len := c.len, done := true, f := fun x =>
      match r with
      | some (_, m) => (x.setG rx (BitVec.ofNat 64 m)).setP pd true
      | none => (x.setG rx (BitVec.ofNat 64 (8 * c.len + 1))).setP pd false })

/-- BMAP. -/
def execBmap (t : TileId) (g : Guard) (pd : BitVec 3) (rx ra rl : BitVec 5) (s : State) :
    Host.Outcome State Fault Refusal :=
  let i : SIns := { kind := .bmap, ft := false, ra := ra, rl := rl, rx := rx, useX := true }
  strRow s t g i true id (fun x => bmapUnit t (i.addrA x) pd rx (x.g rx).toNat)

end Sys2Proof.Machine
end

