-- ==== Sys2Proof/Machine/Dispatch.lean ====
section
/-! DEFINITION. The dispatch of a command to its meaning, one arm per row of spec/opcode_table.json. -/

namespace Sys2Proof.Machine

def exec (i : Instr) (s : State) : Host.Outcome State Fault Refusal :=
  match i with
  | .registerWrite a ca sz v => Sys2Proof.Machine.execRegisterWrite a ca sz v s
  | .devPlaceWrite a v => Sys2Proof.Machine.execDevPlaceWrite a v s
  | .unassignedPageAccess a ca write sz => Sys2Proof.Machine.execUnassignedPageAccess a ca write sz s
  | .unclockedPageAccess a ca write sz => Sys2Proof.Machine.execUnclockedPageAccess a ca write sz s
  | .remoteWriteTakesEffect page => Sys2Proof.Machine.execRemoteWriteTakesEffect page s
  | .evsnapSnap a v => Sys2Proof.Machine.execEvsnapSnap a v s
  | .evsnapHold a v => Sys2Proof.Machine.execEvsnapHold a v s
  | .evsnapRelease a v => Sys2Proof.Machine.execEvsnapRelease a v s
  | .remoteSnapshotCapture page => Sys2Proof.Machine.execRemoteSnapshotCapture page s
  | .statSet a page v => Sys2Proof.Machine.execStatSet a page v s
  | .ienaWrite a page v => Sys2Proof.Machine.execIenaWrite a page v s
  | .undefinedCommand a page code => Sys2Proof.Machine.execUndefinedCommand a page code s
  | .mcQueuePop a v => Sys2Proof.Machine.execMcQueuePop a v s
  | .timerExpiry t => Sys2Proof.Machine.execTimerExpiry t s
  | .interruptAccept t => Sys2Proof.Machine.execInterruptAccept t s
  | .tileCheckstop t cond => Sys2Proof.Machine.execTileCheckstop t cond s
  | .efdataWrite t g ra => Sys2Proof.Machine.execEfdataWrite t g ra s
  | .dbellSet a target v => Sys2Proof.Machine.execDbellSet a target v s
  | .ipiSet a target v => Sys2Proof.Machine.execIpiSet a target v s
  | .integerOp t g f rd ra rb => Sys2Proof.Machine.execIntegerOp t g f rd ra rb s
  | .addvSubvMulv t g f rd ra rb => Sys2Proof.Machine.execAddvSubvMulv t g f rd ra rb s
  | .immediateOp t g f rd ra imm => Sys2Proof.Machine.execImmediateOp t g f rd ra imm s
  | .movz t g k rd imm => Sys2Proof.Machine.execMovz t g k rd imm s
  | .movk t g k rd imm => Sys2Proof.Machine.execMovk t g k rd imm s
  | .cmp t g f pd ra rb => Sys2Proof.Machine.execCmp t g f pd ra rb s
  | .cmpi t g f pd ra imm => Sys2Proof.Machine.execCmpi t g f pd ra imm s
  | .plog t g pd pa pb tt => Sys2Proof.Machine.execPlog t g pd pa pb tt s
  | .load t g f rt m hit => Sys2Proof.Machine.execLoad t g f rt m hit s
  | .store t g sz rt m => Sys2Proof.Machine.execStore t g sz rt m s
  | .loadMissComplete t n => Sys2Proof.Machine.execLoadMissComplete t n s
  | .storeBufferDrain t => Sys2Proof.Machine.execStoreBufferDrain t s
  | .br t g off => Sys2Proof.Machine.execBr t g off s
  | .bl t g off => Sys2Proof.Machine.execBl t g off s
  | .jmp t g ra => Sys2Proof.Machine.execJmp t g ra s
  | .jl t g rd ra => Sys2Proof.Machine.execJl t g rd ra s
  | .mfbb t g rd k => Sys2Proof.Machine.execMfbb t g rd k s
  | .mfsys t g rd num => Sys2Proof.Machine.execMfsys t g rd num s
  | .mtsys t g num ra => Sys2Proof.Machine.execMtsys t g num ra s
  | .bwdataAccess t g write r => Sys2Proof.Machine.execBwdataAccess t g write r s
  | .sws t g pd ra => Sys2Proof.Machine.execSws t g pd ra s
  | .yield t g => Sys2Proof.Machine.execYield t g s
  | .sessionFillDone c => Sys2Proof.Machine.execSessionFillDone c s
  | .trap t g n => Sys2Proof.Machine.execTrap t g n s
  | .kcall t g n => Sys2Proof.Machine.execKcall t g n s
  | .rete t g => Sys2Proof.Machine.execRete t g s
  | .ifence t g => Sys2Proof.Machine.execIfence t g s
  | .divsuDivss t g sgn rd ra => Sys2Proof.Machine.execDivsuDivss t g sgn rd ra s
  | .dstep t g sgn rd rb => Sys2Proof.Machine.execDstep t g sgn rd rb s
  | .divfin t g sgn rd ra rb => Sys2Proof.Machine.execDivfin t g sgn rd ra rb s
  | .dadd t g ft dd da db => Sys2Proof.Machine.execDadd t g ft dd da db s
  | .dsub t g ft dd da db => Sys2Proof.Machine.execDsub t g ft dd da db s
  | .dmul t g ft dd da db => Sys2Proof.Machine.execDmul t g ft dd da db s
  | .dmulw t g ft dp da db => Sys2Proof.Machine.execDmulw t g ft dp da db s
  | .ddivs t g ft dq dp dv => Sys2Proof.Machine.execDdivs t g ft dq dp dv s
  | .daddw t g dp dpa dpb => Sys2Proof.Machine.execDaddw t g dp dpa dpb s
  | .dsubw t g dp dpa dpb => Sys2Proof.Machine.execDsubw t g dp dpa dpb s
  | .dnarw t g dd dpa => Sys2Proof.Machine.execDnarw t g dd dpa s
  | .dmov t g dd da => Sys2Proof.Machine.execDmov t g dd da s
  | .dneg t g dd da => Sys2Proof.Machine.execDneg t g dd da s
  | .dabs t g dd da => Sys2Proof.Machine.execDabs t g dd da s
  | .dcmp t g ft c pd da db => Sys2Proof.Machine.execDcmp t g ft c pd da db s
  | .dshr t g ft rm dd da n => Sys2Proof.Machine.execDshr t g ft rm dd da n s
  | .dshl t g ft rm dd da n => Sys2Proof.Machine.execDshl t g ft rm dd da n s
  | .cvbd t g dd ga n => Sys2Proof.Machine.execCvbd t g dd ga n s
  | .cvdb t g gd da n => Sys2Proof.Machine.execCvdb t g gd da n s
  | .dmfr t g gd da low => Sys2Proof.Machine.execDmfr t g gd da low s
  | .dmtr t g dd ga gb => Sys2Proof.Machine.execDmtr t g dd ga gb s
  | .dld t g len dd base disp => Sys2Proof.Machine.execDld t g len dd base disp s
  | .dst t g len ds base disp => Sys2Proof.Machine.execDst t g len ds base disp s
  | .daddm t g len dd base disp => Sys2Proof.Machine.execDaddm t g len dd base disp s
  | .dldx t g dd ga gb => Sys2Proof.Machine.execDldx t g dd ga gb s
  | .dstx t g ds ga gb => Sys2Proof.Machine.execDstx t g ds ga gb s
  | .mvs t g ft ra rb rl => Sys2Proof.Machine.execMvs t g ft ra rb rl s
  | .mvsr t g ft ra rb rl => Sys2Proof.Machine.execMvsr t g ft ra rb rl s
  | .cps t g ft pd rx ra rb rl => Sys2Proof.Machine.execCps t g ft pd rx ra rb rl s
  | .srch t g ne pd ra rl c => Sys2Proof.Machine.execSrch t g ne pd ra rl c s
  | .trs t g ft ra rb rl => Sys2Proof.Machine.execTrs t g ft ra rb rl s
  | .tts t g ft pd rx ra rb rl => Sys2Proof.Machine.execTts t g ft pd rx ra rb rl s
  | .edt t g ft ra rb rl => Sys2Proof.Machine.execEdt t g ft ra rb rl s
  | .edtm t g ft rx ra rb rl => Sys2Proof.Machine.execEdtm t g ft rx ra rb rl s
  | .chkdV t g ft pd ra rl => Sys2Proof.Machine.execChkdV t g ft pd ra rl s
  | .chkdG t g ft rx ra rl => Sys2Proof.Machine.execChkdG t g ft rx ra rl s
  | .bmap t g pd rx ra rl => Sys2Proof.Machine.execBmap t g pd rx ra rl s
  | .kilnEnqueue t g op => Sys2Proof.Machine.execKilnEnqueue t g op s
  | .kilnBinaryOp t ue => Sys2Proof.Machine.execKilnBinaryOp t ue s
  | .kilnDecimalOp t => Sys2Proof.Machine.execKilnDecimalOp t s
  | .vddot t => Sys2Proof.Machine.execVddot t s
  | .vdmulw t => Sys2Proof.Machine.execVdmulw t s
  | .vdsum t => Sys2Proof.Machine.execVdsum t s
  | .vdwid t => Sys2Proof.Machine.execVdwid t s
  | .vdnar t => Sys2Proof.Machine.execVdnar t s
  | .vdcmp t => Sys2Proof.Machine.execVdcmp t s
  | .vdval t => Sys2Proof.Machine.execVdval t s
  | .kilnFpOp t => Sys2Proof.Machine.execKilnFpOp t s
  | .vldVst t => Sys2Proof.Machine.execVldVst t s
  | .vldkVstk t => Sys2Proof.Machine.execVldkVstk t s
  | .vldxVstx t => Sys2Proof.Machine.execVldxVstx t s
  | .vldmVstm t => Sys2Proof.Machine.execVldmVstm t s
  | .kilnMemoryComplete t => Sys2Proof.Machine.execKilnMemoryComplete t s
  | .vmsetn t => Sys2Proof.Machine.execVmsetn t s
  | .vbrd t => Sys2Proof.Machine.execVbrd t s
  | .vmov t => Sys2Proof.Machine.execVmov t s
  | .vmts t => Sys2Proof.Machine.execVmts t s
  | .vmtc t => Sys2Proof.Machine.execVmtc t s
  | .maskLogic t => Sys2Proof.Machine.execMaskLogic t s
  | .vsync t g => Sys2Proof.Machine.execVsync t g s
  | .vmpop t g gd ma => Sys2Proof.Machine.execVmpop t g gd ma s
  | .vmfs t g gd => Sys2Proof.Machine.execVmfs t g gd s
  | .vmfc t g gd => Sys2Proof.Machine.execVmfc t g gd s
  | .faddFsubFmul t g f rd ra rb => Sys2Proof.Machine.execFaddFsubFmul t g f rd ra rb s
  | .fminFmax t g max rd ra rb => Sys2Proof.Machine.execFminFmax t g max rd ra rb s
  | .fnegFabs t g abs rd ra => Sys2Proof.Machine.execFnegFabs t g abs rd ra s
  | .fcvt t g f rd ra => Sys2Proof.Machine.execFcvt t g f rd ra s
  | .fcmp t g f pd ra rb => Sys2Proof.Machine.execFcmp t g f pd ra rb s
  | .fma t g rd ra rb => Sys2Proof.Machine.execFma t g rd ra rb s
  | .fdivs t g rd ra rb => Sys2Proof.Machine.execFdivs t g rd ra rb s
  | .fdstep t g rd rb => Sys2Proof.Machine.execFdstep t g rd rb s
  | .fdfin t g rd => Sys2Proof.Machine.execFdfin t g rd s
  | .flds t g rt base disp hit => Sys2Proof.Machine.execFlds t g rt base disp hit s
  | .fsts t g rt base disp => Sys2Proof.Machine.execFsts t g rt base disp s
  | .fsync t g => Sys2Proof.Machine.execFsync t g s
  | .caswCasd t g dbl rd ra rb => Sys2Proof.Machine.execCaswCasd t g dbl rd ra rb s
  | .fetaddwFetaddd t g dbl rd ra rb => Sys2Proof.Machine.execFetaddwFetaddd t g dbl rd ra rb s
  | .fence t g => Sys2Proof.Machine.execFence t g s
  | .icinv t g ra => Sys2Proof.Machine.execIcinv t g ra s
  | .dccln t g ra => Sys2Proof.Machine.execDccln t g ra s
  | .dcfls t g ra => Sys2Proof.Machine.execDcfls t g ra s
  | .dcz t g ra => Sys2Proof.Machine.execDcz t g ra s
  | .tlbia t g ra rb => Sys2Proof.Machine.execTlbia t g ra rb s
  | .tlbit t g ra => Sys2Proof.Machine.execTlbit t g ra s
  | .tlbix t g => Sys2Proof.Machine.execTlbix t g s
  | .mtkrr t g ra rb => Sys2Proof.Machine.execMtkrr t g ra rb s
  | .mfkrr t g rd low => Sys2Proof.Machine.execMfkrr t g rd low s
  | .pcieInboundRequest port rid addr req => Sys2Proof.Machine.execPcieInboundRequest port rid addr req s
  | .msiWrite port rid addr data => Sys2Proof.Machine.execMsiWrite port rid addr data s
  | .patrolScrubRead ctl addr found => Sys2Proof.Machine.execPatrolScrubRead ctl addr found s
  | .ingressEntryRead r => Sys2Proof.Machine.execIngressEntryRead r s
  | .ticketAdmission arrival => Sys2Proof.Machine.execTicketAdmission arrival s
  | .take t g => Sys2Proof.Machine.execTake t g s
  | .cont t g pd ra => Sys2Proof.Machine.execCont t g pd ra s
  | .ccntWrite a r v => Sys2Proof.Machine.execCcntWrite a r v s
  | .ienWrite a r v => Sys2Proof.Machine.execIenWrite a r v s
  | .cenWrite a r v => Sys2Proof.Machine.execCenWrite a r v s
  | .continuationResend course dest seq => Sys2Proof.Machine.execContinuationResend course dest seq s
  | .tombstoneExpiry key => Sys2Proof.Machine.execTombstoneExpiry key s
  | .proposalLapse => Sys2Proof.Machine.execProposalLapse s
  | .start a => Sys2Proof.Machine.execStart a s
  | .quiesce a => Sys2Proof.Machine.execQuiesce a s
  | .resume a => Sys2Proof.Machine.execResume a s
  | .pmap a => Sys2Proof.Machine.execPmap a s
  | .pooldef a => Sys2Proof.Machine.execPooldef a s
  | .pooldel a => Sys2Proof.Machine.execPooldel a s
  | .sessinit a => Sys2Proof.Machine.execSessinit a s
  | .sessfree a => Sys2Proof.Machine.execSessfree a s
  | .spill a => Sys2Proof.Machine.execSpill a s
  | .pin a => Sys2Proof.Machine.execPin a s
  | .unpin a => Sys2Proof.Machine.execUnpin a s
  | .hint a => Sys2Proof.Machine.execHint a s
  | .lookup a => Sys2Proof.Machine.execLookup a s
  | .brickdel a => Sys2Proof.Machine.execBrickdel a s
  | .staticdef a => Sys2Proof.Machine.execStaticdef a s
  | .drainc a => Sys2Proof.Machine.execDrainc a s
  | .admitc a => Sys2Proof.Machine.execAdmitc a s
  | .migack a => Sys2Proof.Machine.execMigack a s
  | .post t g => Sys2Proof.Machine.execPost t g s
  | .jsync t g => Sys2Proof.Machine.execJsync t g s
  | .recordDurable => Sys2Proof.Machine.execRecordDurable s
  | .ringFullTimeout t => Sys2Proof.Machine.execRingFullTimeout t s
  | .mirrorTimeout => Sys2Proof.Machine.execMirrorTimeout s
  | .drainposWrite a v => Sys2Proof.Machine.execDrainposWrite a v s
  | .sequenceSnapshot => Sys2Proof.Machine.execSequenceSnapshot s
  | .heartbeatInstant => Sys2Proof.Machine.execHeartbeatInstant s
  | .resyncComplete => Sys2Proof.Machine.execResyncComplete s
  | .ringinit a => Sys2Proof.Machine.execRinginit a s
  | .ringopen a => Sys2Proof.Machine.execRingopen a s
  | .pair a => Sys2Proof.Machine.execPair a s
  | .unpair a => Sys2Proof.Machine.execUnpair a s
  | .takeover a => Sys2Proof.Machine.execTakeover a s
  | .fenceCommand a => Sys2Proof.Machine.execFenceCommand a s
  | .release a => Sys2Proof.Machine.execRelease a s
  | .linkTraining k => Sys2Proof.Machine.execLinkTraining k s
  | .trainingLimit k step => Sys2Proof.Machine.execTrainingLimit k step s
  | .nosigRetry k => Sys2Proof.Machine.execNosigRetry k s
  | .nego k n => Sys2Proof.Machine.execNego k n s
  | .flitReceive k u => Sys2Proof.Machine.execFlitReceive k u s
  | .laneLockLoss k => Sys2Proof.Machine.execLaneLockLoss k s
  | .hb k src state tb seen => Sys2Proof.Machine.execHb k src state tb seen s
  | .break_ k src => Sys2Proof.Machine.execBreak k src s
  | .tkov k src failed by_ => Sys2Proof.Machine.execTkov k src failed by_ s
  | .treq k src t1 corr => Sys2Proof.Machine.execTreq k src t1 corr s
  | .trsp k src t1 t2 t3 corrReq corrRsp t4 => Sys2Proof.Machine.execTrsp k src t1 t2 t3 corrReq corrRsp t4 s
  | .tann k num root => Sys2Proof.Machine.execTann k num root s
  | .tannSend => Sys2Proof.Machine.execTannSend s
  | .treqSend => Sys2Proof.Machine.execTreqSend s
  | .trspTimeout => Sys2Proof.Machine.execTrspTimeout s
  | .rootLost => Sys2Proof.Machine.execRootLost s
  | .quench k src arg => Sys2Proof.Machine.execQuench k src arg s
  | .unquench k src arg => Sys2Proof.Machine.execUnquench k src arg s
  | .quenchExpiry k src => Sys2Proof.Machine.execQuenchExpiry k src s
  | .ticketMessage k src fwd t1 tk => Sys2Proof.Machine.execTicketMessage k src fwd t1 tk s
  | .contMessage k src course seq tk => Sys2Proof.Machine.execContMessage k src course seq tk s
  | .cack k dest src course seq => Sys2Proof.Machine.execCack k dest src course seq s
  | .voidn k src course seq => Sys2Proof.Machine.execVoidn k src course seq s
  | .bcmd k src key c => Sys2Proof.Machine.execBcmd k src key c s
  | .migc k src m => Sys2Proof.Machine.execMigc k src m s
  | .endmk k src key => Sys2Proof.Machine.execEndmk k src key s
  | .mrec k src rec => Sys2Proof.Machine.execMrec k src rec s
  | .mack k src pos => Sys2Proof.Machine.execMack k src pos s
  | .drep k src bucket idx entry => Sys2Proof.Machine.execDrep k src bucket idx entry s
  | .dack k src bucket idx => Sys2Proof.Machine.execDack k src bucket idx s
  | .bcopy k src key data => Sys2Proof.Machine.execBcopy k src key data s
  | .rsync k src key data => Sys2Proof.Machine.execRsync k src key data s
  | .train a k => Sys2Proof.Machine.execTrain a k s
  | .down a k => Sys2Proof.Machine.execDown a k s
  | .retrain a k => Sys2Proof.Machine.execRetrain a k s
  | .loop a k => Sys2Proof.Machine.execLoop a k s
  | .quenchCommand a k => Sys2Proof.Machine.execQuenchCommand a k s
  | .unquenchCommand a k => Sys2Proof.Machine.execUnquenchCommand a k s
  | .recordBufferRoom c => Sys2Proof.Machine.execRecordBufferRoom c s
  | .brickMapSweepDone c => Sys2Proof.Machine.execBrickMapSweepDone c s
  | .strciWrite a c v => Sys2Proof.Machine.execStrciWrite a c v s
  | .ringsStart a c => Sys2Proof.Machine.execRingsStart a c s
  | .ckpt a c => Sys2Proof.Machine.execCkpt a c s
  | .mark a c => Sys2Proof.Machine.execMark a c s
  | .stop a c => Sys2Proof.Machine.execStop a c s
  | .replay a c => Sys2Proof.Machine.execReplay a c s
  | .coldReset => Sys2Proof.Machine.execColdReset s
  | .warmReset => Sys2Proof.Machine.execWarmReset s
  | .powerLoss => Sys2Proof.Machine.execPowerLoss s
  | .standbyReset addr => Sys2Proof.Machine.execStandbyReset addr s
  | .calendarReset => Sys2Proof.Machine.execCalendarReset s
  | .bootRom sfdp a b => Sys2Proof.Machine.execBootRom sfdp a b s
  | .devStart a v => Sys2Proof.Machine.execDevStart a v s
  | .timebaseSeed => Sys2Proof.Machine.execTimebaseSeed s
  | .ddrcHbmcTrain a ctl => Sys2Proof.Machine.execDdrcHbmcTrain a ctl s
  | .trainComplete ctl d => Sys2Proof.Machine.execTrainComplete ctl d s
  | .reload a c => Sys2Proof.Machine.execReload a c s
  | .reloadVerifyDone c => Sys2Proof.Machine.execReloadVerifyDone c s
  | .set a => Sys2Proof.Machine.execSet a s
  | .seed a => Sys2Proof.Machine.execSeed a s
  | .devreset a => Sys2Proof.Machine.execDevreset a s
  | .calendarTick => Sys2Proof.Machine.execCalendarTick s
  | .oscStop => Sys2Proof.Machine.execOscStop s
  | .vbatSample low => Sys2Proof.Machine.execVbatSample low s
  | .ppsEdge falling => Sys2Proof.Machine.execPpsEdge falling s
  | .ppsLost => Sys2Proof.Machine.execPpsLost s
  | .pllUnlock p stops => Sys2Proof.Machine.execPllUnlock p stops s
  | .perstWrite a p v => Sys2Proof.Machine.execPerstWrite a p v s
  | .pcieLinkDown p k => Sys2Proof.Machine.execPcieLinkDown p k s
  | .spiGo a v => Sys2Proof.Machine.execSpiGo a v s
  | .spiDone data => Sys2Proof.Machine.execSpiDone data s
  | .i2cGo a v => Sys2Proof.Machine.execI2cGo a v s
  | .i2cDone nack data => Sys2Proof.Machine.execI2cDone nack data s
  | .temperatureSample tj => Sys2Proof.Machine.execTemperatureSample tj s
  | .ident => Sys2Proof.Machine.execIdent s
  | .status => Sys2Proof.Machine.execStatus s
  | .temp => Sys2Proof.Machine.execTemp s
  | .poweron => Sys2Proof.Machine.execPoweron s
  | .poweroff => Sys2Proof.Machine.execPoweroff s
  | .smbDevreset => Sys2Proof.Machine.execSmbDevreset s
  | .logread => Sys2Proof.Machine.execLogread s
  | .logpop => Sys2Proof.Machine.execLogpop s
  | .smbUndefinedCommand code => Sys2Proof.Machine.execSmbUndefinedCommand code s
  | .extest bsr => Sys2Proof.Machine.execExtest bsr s
  | .idcode => Sys2Proof.Machine.execIdcode s
  | .samplePreload bsr => Sys2Proof.Machine.execSamplePreload bsr s
  | .clamp => Sys2Proof.Machine.execClamp s
  | .highz => Sys2Proof.Machine.execHighz s
  | .bypass => Sys2Proof.Machine.execBypass s
  | .cpacc addr write data => Sys2Proof.Machine.execCpacc addr write data s
  | .illegalInstruction t => Sys2Proof.Machine.execIllegalInstruction t s
  | .fenceReceived k src => Sys2Proof.Machine.execFenceReceived k src s
  | .linkUp k => Sys2Proof.Machine.execLinkUp k s
  | .pcieLinkUp p k gen width => Sys2Proof.Machine.execPcieLinkUp p k gen width s
  | .railWarning => Sys2Proof.Machine.execRailWarning s
  | .standbyLoss => Sys2Proof.Machine.execStandbyLoss s
  | .courseBalanceMove key course => Sys2Proof.Machine.execCourseBalanceMove key course s

end Sys2Proof.Machine
end

