-- ==== Sys2Proof/Safety.lean ====
section
/-! DEFINITION. What a safe step is, and the words in which statements speak of a step: a tile that runs, a step that
changes one tile, a step of the device that leads to what is due. -/

namespace Sys2Proof

/-- The step from `s` neither faults nor is refused. -/
def Safe (s : Machine.State) : Prop := ∃ s', Machine.step s = .next s'

end Sys2Proof

namespace Sys2Proof.Machine

/-- Register `a` is an event counter of page `p` or the register of their enables and overflow bits (spec/13 Map 13-8,
R425). -/
def isCounter (p a : Nat) : Bool :=
  decide (a = ctl p 0xA0) || decide (a = ctl p 0xA8) || decide (a = ctl p 0xB0) || decide (a = ctl p 0xB8) ||
    decide (a = ctl p 0xC0)

/-- `s'` is `s` but for event counters of page `p`. -/
structure CountsOnly (p : Nat) (s s' : State) : Prop where
  rest : s' = { s with regs := s'.regs }
  regs : ∀ a, isCounter p a = false → s'.reg a = s.reg a

/-- `s'` is `s` but for tile `t`, which is `x`, and the event counters of its page: no other tile, no byte of memory, no
other control register and nothing else of the device differs (`freeCtr` only numbers free values, log entry 5). -/
structure TileOnly (s s' : State) (t : TileId) (x : Tile) : Prop where
  tile : s'.tile t = x
  others : ∀ u, u ≠ t → s'.tile u = s.tile u
  regs : ∀ a, isCounter (tilePage t) a = false → s'.reg a = s.reg a
  bytes : ∀ a, s'.byte a = s.byte a
  rest : s' = { s with tiles := s'.tiles, regs := s'.regs, freeCtr := s'.freeCtr }

/-- `s'` is `s` but for tile `t`, which is `x`, event counters of its page, and the bytes `bs` stored at `pa`: every byte
outside them reads as before, and lines that they cover whole lose their poison (spec/09 R295). -/
structure TileStores (s s' : State) (t : TileId) (x : Tile) (pa : Nat) (bs : List Byte) : Prop where
  tile : s'.tile t = x
  others : ∀ u, u ≠ t → s'.tile u = s.tile u
  regs : ∀ a, isCounter (tilePage t) a = false → s'.reg a = s.reg a
  stored : ∀ i (h : i < bs.length), s'.byte (pa + i) = bs[i]
  kept : ∀ a, a < pa ∨ pa + bs.length ≤ a → s'.byte a = s.byte a
  poison : s'.poison = s.poison.filter (fun l => !decide (pa ≤ l * 128 ∧ l * 128 + 128 ≤ pa + bs.length))
  rest : s' = { s with tiles := s'.tiles, regs := s'.regs, freeCtr := s'.freeCtr, mem := s'.mem, poison := s'.poison }

/-- `s'` is `s` but for tile `t`, which is `x`, event counters of its page, and memory, where the store buffer entries `es` were
written in their order; lines that one of them covers whole lose their poison (spec/03 R97, spec/09 R295). -/
structure TileWrites (s s' : State) (t : TileId) (x : Tile) (es : List StoreEntry) : Prop where
  tile : s'.tile t = x
  others : ∀ u, u ≠ t → s'.tile u = s.tile u
  regs : ∀ a, isCounter (tilePage t) a = false → s'.reg a = s.reg a
  bytes : ∀ a, s'.byte a = (es.foldl (fun s e => s.setBytes e.pa e.bytes) s).byte a
  poison : s'.poison = es.foldl (fun l e => l.filter (fun n =>
    !decide (e.pa ≤ n * 128 ∧ n * 128 + 128 ≤ e.pa + e.bytes.length))) s.poison
  rest : s' = { s with tiles := s'.tiles, regs := s'.regs, freeCtr := s'.freeCtr, mem := s'.mem, poison := s'.poison }

/-- A physical address of memory: DDR5, HBM or the Heartwood store, or one that no block decodes; no control page and no
PCI Express window. -/
def plainPa (s : State) (pa : Nat) : Bool :=
  match regionOf s pa with
  | .control | .pcie _ => false
  | _ => true

/-- The tile executes instructions, none of its records waits for room or has to, since the records of one instruction and of its
exception take less than 2,048 bytes (spec/14 R441), no replay runs on its course, and no frame of an entry waits in its store
buffer: an entry writes it before the handler runs (spec/08 R252). -/
def Runs (s : State) (t : TileId) : Prop :=
  (s.tile t).run = .running ∧ (s.tile t).recWait = false ∧ ringsFull s t 2048 = false ∧ s.replaying t = false ∧
    (s.tile t).sbuf.any (fun e => e.frame) = false

/-- A tile as an instruction other than a load finds it: every load before it has delivered (spec/03 R88, R90), and it is
not the rest of a long instruction. -/
def Tile.ready (x : Tile) : Tile := { x.completeLrs with long := none, units := 0 }

/-- The loads in a tile's commit window are counted as they retire (spec/03 R90; spec/13 Table 13-11, source 20h). -/
def loadsCounted (s : State) (t : TileId) : State :=
  if (s.tile t).window.isEmpty then s else tCount s t (s.tile t).lvl 0x20 (s.tile t).window.length

/-- The state with the loads before an instruction of tile `t` counted, and the tile as `x`. -/
def State.ran (s : State) (t : TileId) (x : Tile) : State := (loadsCounted s t).setTile t x

/-- A tile after an instruction of `n` bytes retires (spec/02 R70; spec/14 Layout 14-1): the PC passes it, and ICNT counts
it at Ledger level. -/
def Tile.stepped (x : Tile) (l : Level) (pc : Word) : Tile :=
  { x with pc := pc, icnt := if l = .ledger then x.icnt + 1 else x.icnt, long := none, units := 0 }

/-- The command answers a next state in which tile `t` is `x`, everything else being as it was. -/
def Gives (c : Instr) (s : State) (t : TileId) (x : Tile) : Prop := ∃ s', exec c s = .next s' ∧ TileOnly s s' t x

end Sys2Proof.Machine
end

