-- ==== Sys2Proof/Certificates/Slice0/Obligations.lean ====
section
/-! DEFINITION. The statements about the model. `Says.…` are the results that the spec's rules give, written from the
rules over plain numbers; each `Obligations.…` says that the model's commands do what they say. -/

open Sys2Proof Sys2Proof.Machine

/-! ## The queue and idle steps -/

/-- The command at the front of the queue is what a step runs, on the state with the rest of the queue (spec/00_scope). -/
def Obligations.StepRunsFront : Prop :=
  ∀ (c : Instr) (s : State), step { s with pending := c :: s.pending } = exec c s

/-! ## Integer instructions -/

/-- The number of zero bits above the highest 1 bit. -/
def Says.clz (a : Word) : Nat := (List.range 64).countP (fun i => decide (a.toNat < 2 ^ i))

/-- The results of Table 2-15. -/
def Says.int (f : IntFn) (a b : Word) (p : BitVec 3 → Bool) : Word :=
  let n := b.toNat % 64
  match f with
  | .add => BitVec.ofNat 64 (a.toNat + b.toNat)
  | .sub => BitVec.ofInt 64 (a.toNat - b.toNat)
  | .and => a &&& b
  | .or => a ||| b
  | .xor => a ^^^ b
  | .andn => a &&& ~~~b
  | .shl => BitVec.ofNat 64 (a.toNat * 2 ^ n)
  | .shr => BitVec.ofNat 64 (a.toNat / 2 ^ n)
  | .sar => BitVec.ofInt 64 (a.toInt / 2 ^ n)
  | .rot => BitVec.ofNat 64 (a.toNat / 2 ^ n + a.toNat * 2 ^ (64 - n))
  | .mul => BitVec.ofInt 64 (a.toInt * b.toInt)
  | .mulhu => BitVec.ofNat 64 (a.toNat * b.toNat / 2 ^ 64)
  | .mulhs => BitVec.ofInt 64 (a.toInt * b.toInt / 2 ^ 64)
  | .clz => BitVec.ofNat 64 (Says.clz a)
  | .popc => BitVec.ofNat 64 ((List.range 64).countP (fun i => decide (a.toNat / 2 ^ i % 2 = 1)))
  | .sextb => BitVec.ofInt 64 ((a.toNat : Int).bmod (2 ^ 8))
  | .sexth => BitVec.ofInt 64 ((a.toNat : Int).bmod (2 ^ 16))
  | .sextw => BitVec.ofInt 64 ((a.toNat : Int).bmod (2 ^ 32))
  | .sel n => if p n then a else b

/-- The immediate forms: imm11 sign-extended, a shift count in its low 6 bits. -/
def Says.imm (f : ImmFn) (a : Word) (imm : BitVec 11) : Word :=
  let i : Int := imm.toInt
  let n := imm.toNat % 64
  match f with
  | .addi => BitVec.ofInt 64 (a.toInt + i)
  | .andi => a &&& BitVec.ofInt 64 i
  | .ori => a ||| BitVec.ofInt 64 i
  | .xori => a ^^^ BitVec.ofInt 64 i
  | .shli => BitVec.ofNat 64 (a.toNat * 2 ^ n)
  | .shri => BitVec.ofNat 64 (a.toNat / 2 ^ n)
  | .sari => BitVec.ofInt 64 (a.toInt / 2 ^ n)
  | .roti => BitVec.ofNat 64 (a.toNat / 2 ^ n + a.toNat * 2 ^ (64 - n))

/-- Table 2-16 over a first operand and a second one given signed and unsigned. -/
def Says.cmp (f : CmpFn) (a b : Word) : Bool :=
  match f with
  | .eq => decide (a.toNat = b.toNat)
  | .ne => decide (a.toNat ≠ b.toNat)
  | .lt => decide (a.toInt < b.toInt)
  | .le => decide (a.toInt ≤ b.toInt)
  | .ltu => decide (a.toNat < b.toNat)
  | .leu => decide (a.toNat ≤ b.toNat)

def Says.cmpi (f : CmpiFn) (a : Word) (imm : BitVec 11) : Bool :=
  let b : Word := BitVec.ofInt 64 imm.toInt
  match f with
  | .eq => Says.cmp .eq a b
  | .ne => Says.cmp .ne a b
  | .lt => Says.cmp .lt a b
  | .le => Says.cmp .le a b
  | .ltu => Says.cmp .ltu a b
  | .leu => Says.cmp .leu a b
  | .gt => Says.cmp .lt b a
  | .gtu => Says.cmp .ltu b a

/-- Bits [16k+15:16k] replaced by imm16. -/
def Says.movk (a : Word) (k : BitVec 2) (imm : BitVec 16) : Word :=
  let lo := 2 ^ (16 * k.toNat)
  BitVec.ofNat 64 (a.toNat / (lo * 2 ^ 16) * (lo * 2 ^ 16) + imm.toNat * lo + a.toNat % lo)

/-- An instruction of spec/02 that writes one register of its tile and raises nothing, and DIVSU, DIVSS and DSTEP of
spec/03 (R111, R112), which write the pair rd, rd + 1: its tile and guard, whether its fields are defined, and the tile
with the result written (a write to g0 or p0 is discarded). -/
def Says.register (c : Instr) (x : Tile) : Option (TileId × Guard × Bool × Tile) :=
  let even (rd : BitVec 5) : Bool := decide (rd.toNat % 2 = 0 ∧ 2 ≤ rd.toNat)
  let mag (sgn : Bool) (a : Word) : Nat := if sgn then a.toInt.natAbs else a.toNat
  match c with
  | .integerOp t g f rd ra rb =>
    let unary := f = .clz ∨ f = .popc ∨ f = .sextb ∨ f = .sexth ∨ f = .sextw
    some (t, g, decide (unary → rb = 0), x.setG rd (Says.int f (x.g ra) (x.g rb) x.p))
  | .immediateOp t g f rd ra imm =>
    let shift := f = .shli ∨ f = .shri ∨ f = .sari ∨ f = .roti
    some (t, g, decide (shift → imm.toNat < 64), x.setG rd (Says.imm f (x.g ra) imm))
  | .movz t g k rd imm => some (t, g, true, x.setG rd (BitVec.ofNat 64 (imm.toNat * 2 ^ (16 * k.toNat))))
  | .movk t g k rd imm => some (t, g, true, x.setG rd (Says.movk (x.g rd) k imm))
  | .cmp t g f pd ra rb => some (t, g, true, x.setP pd (Says.cmp f (x.g ra) (x.g rb)))
  | .cmpi t g f pd ra imm => some (t, g, true, x.setP pd (Says.cmpi f (x.g ra) imm))
  | .plog t g pd pa pb tt => some (t, g, true, x.setP pd (tt.getLsbD ((if x.p pa then 2 else 0) + (if x.p pb then 1 else 0))))
  | .mfbb t g rd k =>
    some (t, g, decide (t.val < 96),
      x.setG rd (if x.lvl = .ledger then (x.bb.get k >>> 62) <<< 62 else x.bb.get k))
  | .divsuDivss t g sgn rd ra =>
    some (t, g, even rd, (x.setG rd (BitVec.ofNat 64 (mag sgn (x.g ra)))).setG (rd + 1) 0)
  | .dstep t g sgn rd rb =>
    let d := mag sgn (x.g rb)
    let n := (x.g (rd + 1)).toNat * 4 + (x.g rd).toNat / 2 ^ 62
    let k := if 3 * d ≤ n then 3 else if 2 * d ≤ n then 2 else if d ≤ n then 1 else 0
    some (t, g, even rd,
      (x.setG rd (BitVec.ofNat 64 ((x.g rd).toNat * 4 + k))).setG (rd + 1) (BitVec.ofNat 64 (n - k * d)))
  | _ => none

/-- On a running tile whose guard holds, the instruction completes: the register holds the result, the PC passes the
instruction, and nothing else changes but event counters. -/
def Obligations.RegisterInstructionsComplete : Prop :=
  ∀ (c : Instr) (s : State) (t : TileId) (g : Guard) (x : Tile),
    Says.register c (s.tile t).ready = some (t, g, true, x) → Runs s t → (s.tile t).guard g = true →
    Gives c s t (x.stepped (s.tile t).lvl ((s.tile t).pc + 4))

/-- The exact result of an overflow-checking function. -/
def Says.exact (f : OvFn) (a b : Word) : Int :=
  match f with
  | .addv => a.toInt + b.toInt
  | .subv => a.toInt - b.toInt
  | .mulv => a.toInt * b.toInt

/-- ADDV, SUBV, MULV (R74): the wrapped result, and IOVF where the exact one does not fit, when the trap is not enabled
or there is no overflow; with IOVT = 1 an overflow raises code 0Bh, subcode 01h, with the wrapped result in FINFO, IOVF
set and rd not written. -/
def Obligations.OverflowChecks : Prop :=
  ∀ (t : TileId) (g : Guard) (f : OvFn) (rd ra rb : BitVec 5) (s : State),
    Runs s t → (s.tile t).guard g = true →
    let x := (s.tile t).ready
    let e := Says.exact f (x.g ra) (x.g rb)
    let ovf := e < -(2 ^ 63) ∨ 2 ^ 63 ≤ e
    let y := if ovf then x.modBank (fun b => { b with istat := b.istat ||| 1 }) else x
    (¬ (ovf ∧ x.cur.istat.getLsbD 16 = true) →
      Gives (.addvSubvMulv t g f rd ra rb) s t
        ((y.setG rd (BitVec.ofInt 64 e)).stepped (s.tile t).lvl ((s.tile t).pc + 4))) ∧
    (ovf ∧ x.cur.istat.getLsbD 16 = true →
      exec (.addvSubvMulv t g f rd ra rb) s =
        .next (stopCheck (enter (s.ran t y) t { code := 0x0B, sub := 1, finfo := BitVec.ofInt 64 e } false x.pc) t))

/-! ## Integer division -/

/-- DIVFIN (R112–R115): a zero divisor gives quotient a and remainder 0 and sets DZ; −2^63 divided by −1 gives −2^63 and
0 and sets DOVF; any other division gives the signs to quotient and remainder. Where the condition's trap is enabled it
raises code 0Bh, subcode 03h or 02h, with the quotient in FINFO and the pair not written. -/
def Obligations.DivisionFinishes : Prop :=
  ∀ (t : TileId) (g : Guard) (sgn : Bool) (rd ra rb : BitVec 5) (s : State),
    Runs s t → (s.tile t).guard g = true → rd.toNat % 2 = 0 → 2 ≤ rd.toNat →
    let x := (s.tile t).ready
    let a := x.g ra
    let b := x.g rb
    let zero := b = 0
    let ovf := sgn = true ∧ a.toInt = -(2 ^ 63) ∧ b.toInt = -1
    let y := if zero then x.modBank (fun k => { k with istat := k.istat ||| 4 })
      else if ovf then x.modBank (fun k => { k with istat := k.istat ||| 2 }) else x
    let q := if zero ∨ ovf then a
      else if sgn = true ∧ (a.toInt < 0 ↔ 0 ≤ b.toInt) then BitVec.ofInt 64 (-(x.g rd).toInt) else x.g rd
    let r := if zero ∨ ovf then 0
      else if sgn = true ∧ a.toInt < 0 then BitVec.ofInt 64 (-(x.g (rd + 1)).toInt) else x.g (rd + 1)
    let trap := (zero ∧ x.cur.istat.getLsbD 18 = true) ∨ (¬ zero ∧ ovf ∧ x.cur.istat.getLsbD 17 = true)
    (¬ trap → Gives (.divfin t g sgn rd ra rb) s t
      (((y.setG rd q).setG (rd + 1) r).stepped (s.tile t).lvl ((s.tile t).pc + 4))) ∧
    (trap → exec (.divfin t g sgn rd ra rb) s =
      .next (stopCheck (enter (s.ran t y) t { code := 0x0B, sub := if zero then 3 else 2, finfo := q } false x.pc) t))

/-- `n` division steps by `d`, each on what the one before left as quotient and remainder. -/
def Says.steps (n : Nat) (q r d : Nat) : Nat × Nat :=
  match n with
  | 0 => (q, r)
  | n + 1 =>
    let z := dstepFn (BitVec.ofNat 64 q) (BitVec.ofNat 64 r) d
    Says.steps n z.1.toNat z.2.toNat d

/-- 32 DSTEPs after DIVSU leave quotient and remainder: the sequence of R112 divides, for every dividend and every divisor
but 0. -/
def Obligations.ThirtyTwoStepsDivide : Prop :=
  ∀ (a d : Nat), a < 2 ^ 64 → 0 < d → d < 2 ^ 64 → Says.steps 32 a 0 d = (a / d, a % d)

/-! ## Guards, undefined encodings, branches -/

/-- An instruction of a tile: the tile, the guard, the bytes of the encoding, and whether it is a scalar load, before which
earlier load misses stay outstanding (R88, R90). -/
def Says.guarded (c : Instr) : Option (TileId × Guard × Nat × Bool) :=
  match c with
  | .efdataWrite t g _ => some (t, g, 4, false)
  | .integerOp t g _ _ _ _ => some (t, g, 4, false)
  | .addvSubvMulv t g _ _ _ _ => some (t, g, 4, false)
  | .immediateOp t g _ _ _ _ => some (t, g, 4, false)
  | .movz t g _ _ _ => some (t, g, 4, false)
  | .movk t g _ _ _ => some (t, g, 4, false)
  | .cmp t g _ _ _ _ => some (t, g, 4, false)
  | .cmpi t g _ _ _ _ => some (t, g, 4, false)
  | .plog t g _ _ _ _ => some (t, g, 4, false)
  | .load t g _ _ _ _ => some (t, g, 4, true)
  | .store t g _ _ _ => some (t, g, 4, false)
  | .br t g _ => some (t, g, 4, false)
  | .bl t g _ => some (t, g, 4, false)
  | .jmp t g _ => some (t, g, 4, false)
  | .jl t g _ _ => some (t, g, 4, false)
  | .mfbb t g _ _ => some (t, g, 4, false)
  | .mfsys t g _ _ => some (t, g, 4, false)
  | .mtsys t g _ _ => some (t, g, 4, false)
  | .bwdataAccess t g _ _ => some (t, g, 4, false)
  | .sws t g _ _ => some (t, g, 4, false)
  | .yield t g => some (t, g, 4, false)
  | .trap t g _ => some (t, g, 4, false)
  | .kcall t g _ => some (t, g, 4, false)
  | .rete t g => some (t, g, 4, false)
  | .ifence t g => some (t, g, 4, false)
  | .divsuDivss t g _ _ _ => some (t, g, 4, false)
  | .dstep t g _ _ _ => some (t, g, 4, false)
  | .divfin t g _ _ _ _ => some (t, g, 4, false)
  | .dadd t g _ _ _ _ => some (t, g, 4, false)
  | .dsub t g _ _ _ _ => some (t, g, 4, false)
  | .dmul t g _ _ _ _ => some (t, g, 4, false)
  | .dmulw t g _ _ _ _ => some (t, g, 4, false)
  | .ddivs t g _ _ _ _ => some (t, g, 4, false)
  | .daddw t g _ _ _ => some (t, g, 4, false)
  | .dsubw t g _ _ _ => some (t, g, 4, false)
  | .dnarw t g _ _ => some (t, g, 4, false)
  | .dmov t g _ _ => some (t, g, 4, false)
  | .dneg t g _ _ => some (t, g, 4, false)
  | .dabs t g _ _ => some (t, g, 4, false)
  | .dcmp t g _ _ _ _ _ => some (t, g, 4, false)
  | .dshr t g _ _ _ _ _ => some (t, g, 4, false)
  | .dshl t g _ _ _ _ _ => some (t, g, 4, false)
  | .cvbd t g _ _ _ => some (t, g, 4, false)
  | .cvdb t g _ _ _ => some (t, g, 4, false)
  | .dmfr t g _ _ _ => some (t, g, 4, false)
  | .dmtr t g _ _ _ => some (t, g, 4, false)
  | .dld t g _ _ _ _ => some (t, g, 4, false)
  | .dst t g _ _ _ _ => some (t, g, 4, false)
  | .daddm t g _ _ _ _ => some (t, g, 4, false)
  | .dldx t g _ _ _ => some (t, g, 4, false)
  | .dstx t g _ _ _ => some (t, g, 4, false)
  | .mvs t g _ _ _ _ => some (t, g, 8, false)
  | .mvsr t g _ _ _ _ => some (t, g, 8, false)
  | .cps t g _ _ _ _ _ _ => some (t, g, 8, false)
  | .srch t g _ _ _ _ _ => some (t, g, 8, false)
  | .trs t g _ _ _ _ => some (t, g, 8, false)
  | .tts t g _ _ _ _ _ _ => some (t, g, 8, false)
  | .edt t g _ _ _ _ => some (t, g, 8, false)
  | .edtm t g _ _ _ _ _ => some (t, g, 8, false)
  | .chkdV t g _ _ _ _ => some (t, g, 8, false)
  | .chkdG t g _ _ _ _ => some (t, g, 8, false)
  | .bmap t g _ _ _ _ => some (t, g, 8, false)
  | .kilnEnqueue t g _ => some (t, g, 4, false)
  | .vsync t g => some (t, g, 4, false)
  | .vmpop t g _ _ => some (t, g, 4, false)
  | .vmfs t g _ => some (t, g, 4, false)
  | .vmfc t g _ => some (t, g, 4, false)
  | .faddFsubFmul t g _ _ _ _ => some (t, g, 4, false)
  | .fminFmax t g _ _ _ _ => some (t, g, 4, false)
  | .fnegFabs t g _ _ _ => some (t, g, 4, false)
  | .fcvt t g _ _ _ => some (t, g, 4, false)
  | .fcmp t g _ _ _ _ => some (t, g, 4, false)
  | .fma t g _ _ _ => some (t, g, 4, false)
  | .fdivs t g _ _ _ => some (t, g, 4, false)
  | .fdstep t g _ _ => some (t, g, 4, false)
  | .fdfin t g _ => some (t, g, 4, false)
  | .flds t g _ _ _ _ => some (t, g, 4, true)
  | .fsts t g _ _ _ => some (t, g, 4, false)
  | .fsync t g => some (t, g, 4, false)
  | .caswCasd t g _ _ _ _ => some (t, g, 4, false)
  | .fetaddwFetaddd t g _ _ _ _ => some (t, g, 4, false)
  | .fence t g => some (t, g, 4, false)
  | .icinv t g _ => some (t, g, 4, false)
  | .dccln t g _ => some (t, g, 4, false)
  | .dcfls t g _ => some (t, g, 4, false)
  | .dcz t g _ => some (t, g, 4, false)
  | .tlbia t g _ _ => some (t, g, 4, false)
  | .tlbit t g _ => some (t, g, 4, false)
  | .tlbix t g => some (t, g, 4, false)
  | .mtkrr t g _ _ => some (t, g, 4, false)
  | .mfkrr t g _ _ => some (t, g, 4, false)
  | .take t g => some (t, g, 4, false)
  | .cont t g _ _ => some (t, g, 4, false)
  | .post t g => some (t, g, 4, false)
  | .jsync t g => some (t, g, 4, false)
  | _ => none

/-- The fixed-time forms that some parts lack (spec/00 Table 0-3). -/
def Says.optionalForm (c : Instr) : Bool :=
  match c with
  | .edtm _ _ ft _ _ _ _ => ft
  | .chkdV _ _ ft _ _ _ => ft
  | .chkdG _ _ ft _ _ _ => ft
  | _ => false

/-- R66: an instruction whose guard is false passes. It retires behind the loads before it (R90); the PC advances by its length;
registers, memory, status and all else stay, but for event counters. -/
def Obligations.GuardFalsePasses : Prop :=
  ∀ (c : Instr) (s : State) (t : TileId) (g : Guard) (n : Nat) (ld : Bool),
    Says.guarded c = some (t, g, n, ld) → c.wf = true → (Says.optionalForm c = true → s.fuses.caps0.getLsbD 8 = true) →
    Runs s t → (s.tile t).guard g = false →
    Gives c s t ((s.tile t).ready.stepped (s.tile t).lvl ((s.tile t).pc + BitVec.ofNat 64 n))

/-- R67: an undefined encoding raises ILLEGAL (code 01h, subcode 00h), whatever its guard holds; the tile enters the
exception at the instruction's own address. -/
def Obligations.UndefinedEncodingRaises : Prop :=
  ∀ (c : Instr) (s : State) (t : TileId), Runs s t →
    (c = .illegalInstruction t ∨ ∃ g n, Says.guarded c = some (t, g, n, false) ∧
      (c.wf = false ∨ (Says.optionalForm c = true ∧ s.fuses.caps0.getLsbD 8 = false))) →
    ∃ x, (x = (s.tile t).ready ∨ x = (s.tile t).completeLrs) ∧
      exec c s = .next (stopCheck (enter (s.ran t x) t { code := 1, sub := 0 } false (s.tile t).pc) t)

/-- The target of a branch, or the misaligned one of a jump, and the tile at it: return address and return stack. -/
def Says.branch (c : Instr) (x : Tile) : Option (TileId × Guard × Word × Tile) :=
  let link (t : TileId) (y : Tile) : Tile :=
    if 96 ≤ t.val then { y with rstack := ((x.pc + 4) :: y.rstack).take 8 } else y
  let disp (off : BitVec 18) : Word := BitVec.ofInt 64 ((x.pc.toNat : Int) + 4 * off.toInt)
  match c with
  | .br t g off => some (t, g, disp off, x)
  | .bl t g off => some (t, g, disp off, link t (x.setG 31 (x.pc + 4)))
  | .jmp t g ra => some (t, g, x.g ra, if ra = 31 ∧ 96 ≤ t.val then { x with rstack := x.rstack.drop 1 } else x)
  | .jl t g rd ra =>
    some (t, g, x.g ra, if rd = 31 then link t (x.setG rd (x.pc + 4)) else x.setG rd (x.pc + 4))
  | _ => none

/-- A taken branch or jump whose target is word-aligned goes there, with its return address written; a jump to any other
target raises ALIGN 02h with the target in FADDR and is not taken (R85, R108; spec/02). -/
def Obligations.BranchesGoToTarget : Prop :=
  ∀ (c : Instr) (s : State) (t : TileId) (g : Guard) (a : Word) (x : Tile),
    Says.branch c (s.tile t).ready = some (t, g, a, x) → Runs s t → (s.tile t).guard g = true →
    (s.tile t).pc.toNat % 4 = 0 →
    (a.toNat % 4 = 0 → Gives c s t (x.stepped (s.tile t).lvl a)) ∧
    (a.toNat % 4 ≠ 0 →
      exec c s = .next (stopCheck (enter (s.ran t (s.tile t).ready) t { code := 4, sub := 2, faddr := a } false
        (s.tile t).pc) t))

/-! ## Loads and stores -/

/-- LOAD and FLDS (R229: FLDS has every effect of LDWU). -/
def Says.loadForm (c : Instr) : Option (TileId × Guard × LoadFn × BitVec 5 × MemRef × Bool) :=
  match c with
  | .load t g f rt m hit => some (t, g, f, rt, m, hit)
  | .flds t g rt base disp hit => some (t, g, .ldwu, rt, .mform base disp, hit)
  | _ => none

/-- Width, and whether the value is sign-extended. -/
def Says.loadWidth : LoadFn → Nat × Bool
  | .ldb => (1, true) | .ldbu => (1, false) | .ldh => (2, true) | .ldhu => (2, false)
  | .ldw => (4, true) | .ldwu => (4, false) | .ldd => (8, false)

/-- The register value of loaded bytes. -/
def Says.loaded (f : LoadFn) (bs : List Byte) : Word :=
  let n := (Says.loadWidth f).1
  if (Says.loadWidth f).2 then BitVec.ofInt 64 ((ofBytes bs : Int).bmod (2 ^ (8 * n))) else BitVec.ofNat 64 (ofBytes bs)

/-- The state as a load finds it: one that waits for a register that it names, for room in the commit window or among four
misses, or that must be the oldest instruction, since it needs a walk or an A update (R94), finds every load before it
complete (R87–R90). -/
def Says.loadFound (s : State) (t : TileId) (rt : BitVec 5) (m : MemRef) (hit : Bool) : State :=
  let y : Tile := { s.tile t with long := none, units := 0 }
  let waits := y.window.any (fun e => (rt :: refRegs m).contains e.rt) = true ∨ 8 ≤ y.window.length ∨
    (hit = false ∧ 4 ≤ y.lrs.length)
  let done (s : State) : State := s.ran t (s.tile t).completeLrs
  let s1 := if waits then done (s.setTile t y) else s.setTile t y
  if (s1.tile t).window = [] ∨ quickLoad s1 t (refAddr (s1.tile t) m) = true then s1 else done s1

/-- The tile `y` after a load delivers `v`: the oldest instruction, complete, writes its register and retires; any other waits in
the commit window, where it retires later (R88, R90, R91). A fifth miss finds the four before it complete (R89). -/
def Says.delivered (y : Tile) (l : Level) (pc : Word) (rt : BitVec 5) (v : Word) (miss : Bool) : Tile :=
  let y := if miss = true ∧ 4 ≤ y.lrs.length then y.completeLrs else y
  if y.window = [] ∧ miss = false then (y.setG rt v).stepped l (pc + 4)
  else { y with window := y.window ++ [{ rt := rt, value := v, miss := miss, pc := y.pc }], pc := pc + 4, long := none, units := 0 }

/-- A load of cacheable memory completes (R77, R88–R91, R99). With `s1` the state once its address is translated to `xl`: it
takes the bytes of the youngest overlapping store buffer entry where that is the same place and length; where no entry overlaps,
those of memory; in any other case the entries up to the youngest overlapping one are first written. The oldest instruction
has its value in the register on an L1D hit or a forwarded store; any other load holds it in the commit window, behind the
loads before it, and on a miss in the LRS too. Lines of Heartwood are in no L1D (R23). That a load reads at issue, and that
PC moves on then while ICNT and event 20h count at retirement, is the model's choice (log entry 12). -/
def Says.LoadsDeliver : Prop :=
  ∀ (c : Instr) (s s1 : State) (t : TileId) (g : Guard) (f : LoadFn) (rt : BitVec 5) (m : MemRef) (hit : Bool) (xl : Xl),
    Says.loadForm c = some (t, g, f, rt, m, hit) → Runs s t → (s.tile t).guard g = true →
    let s0 := Says.loadFound s t rt m hit
    let n := (Says.loadWidth f).1
    scalarXl s0 t .load (refAddr (s0.tile t) m) n = .ok xl s1 → (xl.ty = .normal ∨ xl.ty = .brick) →
    (s1.tile t).sbuf.any (fun e => e.device) = false →
    let y := s1.tile t
    let miss := !hit || decide (regionOf s1 xl.pa = .heartwood)
    let done (y : Tile) (v : Word) (miss : Bool) : Tile := Says.delivered y (s.tile t).lvl (s.tile t).pc rt v miss
    (lastOverlap y.sbuf xl.pa n = none → s1.poisoned xl.pa n = false →
      ∃ s', exec c s = .next s' ∧ TileOnly s1 s' t
        (done y (Says.loaded f (s1.bytes xl.pa n)) miss)) ∧
    (∀ i e, lastOverlap y.sbuf xl.pa n = some i → y.sbuf[i]? = some e → e.pa = xl.pa → e.bytes.length = n →
      ∃ s', exec c s = .next s' ∧ TileOnly s1 s' t (done y (Says.loaded f e.bytes) false)) ∧
    (∀ i e, lastOverlap y.sbuf xl.pa n = some i → y.sbuf[i]? = some e → ¬ (e.pa = xl.pa ∧ e.bytes.length = n) →
      (∀ q ∈ y.sbuf.take (i + 1), plainPa s1 q.pa = true ∧ (q.brick = true → y.tk = none)) → s1.poisoned xl.pa n = false →
      let m := (y.sbuf.take (i + 1)).foldl (fun s q => s.setBytes q.pa q.bytes) s1
      ∃ s', exec c s = .next s' ∧ TileWrites s1 s' t
        (done { y with sbuf := y.sbuf.drop (i + 1) } (Says.loaded f (m.bytes xl.pa n)) miss) (y.sbuf.take (i + 1)))

/-- A load of memory of type device, and a ledger tile's load of memory of type recorded, with the store buffer empty (R94). In a
control page, other than CAL with its shadow copy and the counters that the access itself moves, it takes the bytes of the
registers there (R417); in a PCIe window with no sub-port to carry it, all ones, and
STAT.REFUSED is set (R481), else what the requester answers; in other memory, its bytes. A load of recorded memory of a course
in RECORD, with room, enters RLOAD with its address and bytes in the record buffer (R435). -/
def Says.DeviceAndRecordedLoads : Prop :=
  ∀ (c : Instr) (s s1 : State) (t : TileId) (g : Guard) (f : LoadFn) (rt : BitVec 5) (m : MemRef) (hit : Bool) (xl : Xl),
    Says.loadForm c = some (t, g, f, rt, m, hit) → Runs s t → (s.tile t).guard g = true →
    let s0 := Says.loadFound s t rt m hit
    let n := (Says.loadWidth f).1
    let a := refAddr (s0.tile t) m
    scalarXl s0 t .load a n = .ok xl s1 → (s1.tile t).sbuf = [] →
    let y := s1.tile t
    let done (y : Tile) (bs : List Byte) : Tile := Says.delivered y (s.tile t).lvl (s.tile t).pc rt (Says.loaded f bs) false
    (xl.ty = .device → regionOf s1 xl.pa = .control →
      let ca := xl.pa - 0x3F0000000000
      let page := ca / 4096
      pageKind page ≠ none → page ≠ 0xD0 → s1.stopped.contains page = false →
      (∀ w ∈ s1.posted, w.ca / 4096 ≠ page) → isCounter 0xFF (ca / 8 * 8) = false → ca % 4096 / 8 * 8 ≠ 0x128 →
      ∃ s', exec c s = .next s' ∧
        s'.tile t = done y (((beBytes 8 (regView s1 page (ca % 4096 / 8 * 8)).toNat).drop (ca % 8)).take n) ∧
        (∀ u, u ≠ t → s'.tile u = s1.tile u) ∧
        (∀ a, isCounter (tilePage t) a = false → isCounter 0xFF a = false → s'.reg a = s1.reg a) ∧
        s' = { s1 with tiles := s'.tiles, regs := s'.regs, freeCtr := s'.freeCtr }) ∧
    (∀ p : Fin 2, xl.ty = .device → regionOf s1 xl.pa = .pcie p →
      let w := windowPort s1 p (xl.pa - 0x100000000000 - p.val * 0x040000000000)
      ∃ s' bs, exec c s = .next s' ∧ bs.length = n ∧ s'.tile t = done y bs ∧ (∀ u, u ≠ t → s'.tile u = s1.tile u) ∧
        (w = none → bs = List.replicate n 0xFF ∧ (s'.reg (ctl (0xC0 + p.val) 0x18)).getLsbD 2 = true) ∧
        s' = { s1 with tiles := s'.tiles, regs := s'.regs, freeCtr := s'.freeCtr }) ∧
    (xl.ty = .device → plainPa s1 xl.pa = true → s1.poisoned xl.pa n = false →
      ∃ s', exec c s = .next s' ∧ TileOnly s1 s' t (done y (s1.bytes xl.pa n))) ∧
    (xl.ty = .recorded → t.val < 96 → s1.poisoned xl.pa n = false →
      let k : CourseId := courseOf t
      let r := (s1.course k).rings
      (recording s1 k = false → ∃ s', exec c s = .next s' ∧ TileOnly s1 s' t (done y (s1.bytes xl.pa n))) ∧
      (recording s1 k = true → r.stopping = false → r.late = [] → r.gapRecs = 0 → r.gapBytes = 0 → r.held + 48 ≤ 65536 →
        ∃ s' tc, exec c s = .next s' ∧ s'.tile t = done { y with tcc := tc } (s1.bytes xl.pa n) ∧
          (∀ u, u ≠ t → s'.tile u = s1.tile u) ∧
          (∀ j, j ≠ k → s'.course j = s1.course j) ∧
          s'.course k = { s1.course k with rings := { r with buf := r.buf ++ [beBytes 8 (7 * 2 ^ 56 + t.val % 8 * 2 ^ 53 + 3 * 2 ^ 41 + y.icnt % 2 ^ 40) ++
            beBytes 8 tc ++ beBytes 8 (n * 2 ^ 57 + (if y.lvl = .ledger then 0 else 2 ^ 56) + y.pc.toNat % 2 ^ 48) ++
            beBytes 8 a.fa.toNat ++ s1.bytes xl.pa n ++ List.replicate (16 - n) 0] } } ∧
          (∀ a, isCounter (tilePage t) a = false → s'.reg a = s1.reg a) ∧
          s' = { s1 with tiles := s'.tiles, courses := s'.courses, regs := s'.regs, freeCtr := s'.freeCtr }))

/-- Loads of every kind of memory. -/
def Obligations.LoadsDeliver : Prop := Says.LoadsDeliver ∧ Says.DeviceAndRecordedLoads

/-- STORE and FSTS (R229: FSTS has every effect of STW): tile, guard, bytes, register, address form. -/
def Says.storeForm (c : Instr) : Option (TileId × Guard × Nat × BitVec 5 × MemRef) :=
  match c with
  | .store t g sz rt m => some (t, g, (match sz with | .b1 => 1 | .b2 => 2 | .b4 => 4 | .b8 => 8), rt, m)
  | .fsts t g rt base disp => some (t, g, 4, rt, .mform base disp)
  | _ => none

/-- A store enters the store buffer behind the older ones with the low bytes of its register, at the address that its
operands translate to; no byte of memory changes yet. With eight entries before it, the oldest is first written
(R77, R97). -/
def Obligations.StoresEnterTheBuffer : Prop :=
  ∀ (c : Instr) (s s1 : State) (t : TileId) (g : Guard) (n : Nat) (rt : BitVec 5) (m : MemRef) (xl : Xl),
    Says.storeForm c = some (t, g, n, rt, m) → Runs s t → (s.tile t).guard g = true →
    let x := (s.tile t).ready
    scalarXl (s.ran t x) t .store (refAddr x m) n = .ok xl s1 →
    let s2 := if 8 ≤ (s1.tile t).sbuf.length then drainOne s1 t else s1
    s2.replaying t = false →
    let e : StoreEntry :=
      { pa := xl.pa, bytes := beBytes n ((x.g rt).toNat % 2 ^ (8 * n)), device := decide (xl.ty = .device),
        brick := decide (xl.ty = .brick), via := xl.via }
    ∃ s', exec c s = .next s' ∧
      TileOnly s2 s' t (({ (s2.tile t) with sbuf := (s2.tile t).sbuf ++ [e] } : Tile).stepped (s.tile t).lvl ((s.tile t).pc + 4))

/-- The oldest store of a tile's buffer is written: to memory, its bytes and no other byte; an empty buffer writes
nothing (R97; spec/09 R295). A store through a brick by a tile that runs no ticket has no write set to join. A load miss
that is answered is complete and leaves the LRS; the complete loads at the head of the commit window then retire in order,
each writing its register and counting in ICNT at Ledger level, the others wait behind the first that is not complete, and
nothing else changes (R88, R90, R91). -/
def Says.StoresAndMissesFinish : Prop :=
  ∀ (t : TileId) (s : State),
    ((s.tile t).sbuf = [] → exec (.storeBufferDrain t) s = .next s) ∧
    (∀ e r, s.live = true → (s.tile t).sbuf = e :: r → plainPa s e.pa = true → (e.brick = true → (s.tile t).tk = none) →
      ∃ s', exec (.storeBufferDrain t) s = .next s' ∧
        TileStores s s' t { (s.tile t) with sbuf := r } e.pa e.bytes) ∧
    (∀ (i : Fin 4) (done rest : List WinEntry),
      let w := (s.tile t).window
      let misses := (List.range w.length).filter (fun k => (w[k]?.map (fun e => e.miss)).getD false)
      (match misses[i.val]? with
        | some k => w.modify k (fun e => { e with miss := false })
        | none => w) = done ++ rest →
      (∀ e ∈ done, e.miss = false) → (∀ e, rest.head? = some e → e.miss = true) →
      ∃ s', exec (.loadMissComplete t i) s = .next s' ∧
        TileOnly s s' t { (done.foldl (fun y e => y.setG e.rt e.value) (s.tile t)) with
          window := rest
          icnt := (s.tile t).icnt + (if (s.tile t).lvl = .ledger then done.length else 0) })

/-- A store through a brick by a tile that runs ticket `k`, within one line of 128 bytes (spec/11 R348, R349; the place of a line
in its slot is log entry 24): its doublewords join the ticket's write set, and at the first write to the line, the line as it
stood is first copied into the ticket's before-image slot; then the bytes are stored. Every other ticket is as it was. -/
def Says.TicketedStores : Prop :=
  ∀ (t : TileId) (s : State) (e : StoreEntry) (r : List StoreEntry) (k : Nat) (q : TicketRec) (sl : Nat),
    s.live = true → (s.tile t).sbuf = e :: r → plainPa s e.pa = true → e.brick = true → (s.tile t).tk = some k → ticketOf s k = some q →
    q.slot = some sl → 0 < e.bytes.length → e.pa / 128 = (e.pa + e.bytes.length - 1) / 128 →
    let line := e.pa / 128
    let first := q.ws.any (fun w => decide (w.line = line)) = false
    let slot := (s.fld (ctl 0x91 0x148) 47 28 * 2 ^ 28 + (1040 * q.course.val + sl) * 0x4000) / 128
    ∃ (s' : State) (m : BitVec 16) (key : Fin 4), exec (.storeBufferDrain t) s = .next s' ∧
      (∀ j : Fin 16, m.getLsbD j.val =
        decide (line * 128 + 8 * j.val < e.pa + e.bytes.length ∧ e.pa < line * 128 + 8 * j.val + 8)) ∧
      s'.tile t = { s.tile t with sbuf := r } ∧ (∀ u, u ≠ t → s'.tile u = s.tile u) ∧
      (∀ i, ((q.frames.get i).getLsbD 63 = true ∧ (q.frames.get i).toNat / 4096 % 2 ^ 36 = line / 32) →
        (q.frames.get key).getLsbD 63 = true ∧ (q.frames.get key).toNat / 4096 % 2 ^ 36 = line / 32) ∧
      ticketOf s' k = some { q with ws := (if first then
          q.ws ++ [{ line := line, mask := m, key := key, place := key.val * 32 + line % 32 }]
        else q.ws.map (fun w => if w.line = line then { w with mask := w.mask ||| m } else w)) } ∧
      (∀ j, j ≠ k → ticketOf s' j = ticketOf s j) ∧
      (∀ a, s'.byte a = ((if first then s.setBytes ((slot + key.val * 32 + line % 32) * 128) (s.bytes (line * 128) 128) else s).setBytes
        e.pa e.bytes).byte a) ∧
      (∀ a, isCounter (0x70 + q.course.val) a = false → isCounter (tilePage t) a = false → s'.reg a = s.reg a) ∧
      (∀ l, l ≠ line → (first → l ≠ slot + key.val * 32 + line % 32) → (l ∈ s'.poison ↔ l ∈ s.poison)) ∧
      (first → slot + key.val * 32 + line % 32 ≠ line → (slot + key.val * 32 + line % 32 ∈ s'.poison ↔ line ∈ s.poison)) ∧
      s' = { s with tiles := s'.tiles, regs := s'.regs, freeCtr := s'.freeCtr, mem := s'.mem, poison := s'.poison,
                    mason := { s.mason with tickets := s'.mason.tickets } }

/-- Stores of the buffer, and load misses. -/
def Obligations.StoresAndMissesFinish : Prop := Says.StoresAndMissesFinish ∧ Says.TicketedStores

/-! ## Fences, caches, TLBs, key rights -/

/-- Entries of the store buffer that are written to memory with no write set. -/
def Says.plainBuffer (s : State) (t : TileId) : Bool :=
  (s.tile t).sbuf.all (fun e => plainPa s e.pa && (!e.brick || (s.tile t).tk.isNone))

/-- FENCE and IFENCE complete (R104, R288): every store before the instruction is then in memory, in its order, the store
buffer is empty, the PC passes it, and nothing but memory, its poison, the tile and event counters of its page changes. That a
tile's own stores are all that IFENCE waits for here is log entry 8. -/
def Obligations.FencesWriteTheBuffer : Prop :=
  ∀ (c : Instr) (s : State) (t : TileId) (g : Guard),
    (c = .fence t g ∨ c = .ifence t g) → Runs s t → (s.tile t).guard g = true → Says.plainBuffer s t = true →
    ∃ s', exec c s = .next s' ∧
      TileWrites s s' t (({ (s.tile t).ready with sbuf := [] } : Tile).stepped (s.tile t).lvl ((s.tile t).pc + 4)) (s.tile t).sbuf

/-- Instructions of spec/09 for Steward and Keystone level whose effect here is on the tile alone, with the state they
leave once their address is translated: cache maintenance moves no byte of memory (caches are coherent), DCZ stores 128
zeros to its line, MTKRR writes the key rights and empties the return stack (R110), MFKRR reads them. -/
def Says.stewardOnly (c : Instr) (s : State) (x : Tile) : Option (TileId × Guard × R Tile) :=
  let at_ (t : TileId) (k : Acc) (a : Word) (n : Nat) (f : Xl → Tile → Tile) : R Tile :=
    match translate s t .data (dataCtx s t) k a n with
    | .ok xl s1 => .ok (f xl (s1.tile t)) s1
    | .exc e s1 => .exc e s1
    | .halt s1 => .halt s1
  match c with
  | .dccln t g ra | .dcfls t g ra => some (t, g, at_ t .clean (x.g ra) 1 (fun _ y => y))
  | .icinv t g ra => if x.sbuf = [] then some (t, g, at_ t .clean (x.g ra) 1 (fun _ y => y)) else none
  | .dcz t g ra =>
    if x.sbuf.length < 8 then
      some (t, g, at_ t .dcz (BitVec.ofNat 64 ((x.g ra).toNat / 128 * 128)) 128 (fun xl y => { y with sbuf := y.sbuf ++
        [{ pa := xl.pa, bytes := List.replicate 128 0, device := decide (xl.ty = .device), brick := decide (xl.ty = .brick),
           via := xl.via }] }))
    else none
  | .mtkrr t g ra rb => some (t, g, .ok { x.modBank (fun b => { b with
      krr := BitVec.ofNat 128 ((x.g ra).toNat * 2 ^ 64 + (x.g rb).toNat) }) with rstack := [] } s)
  | .mfkrr t g rd low =>
    some (t, g, .ok (x.setG rd (BitVec.ofNat 64 (if low then x.cur.krr.toNat % 2 ^ 64 else x.cur.krr.toNat / 2 ^ 64))) s)
  | _ => none

/-- At Steward or Keystone level they complete, or raise what the translation of their address raises; at Ledger level
they raise PRIV 01h (spec/02 R46; spec/09 R279, R288). -/
def Says.MaintenanceInstructions : Prop :=
  ∀ (c : Instr) (s : State) (t : TileId) (g : Guard) (r : R Tile),
    let s0 := s.ran t (s.tile t).ready
    Says.stewardOnly c s0 (s.tile t).ready = some (t, g, r) → Runs s t → (s.tile t).guard g = true →
    ((s.tile t).lvl = .ledger →
      exec c s = .next (stopCheck (enter s0 t { code := 2, sub := 1 } false (s.tile t).pc) t)) ∧
    ((s.tile t).lvl ≠ .ledger →
      (∀ y s1, r = .ok y s1 → ∃ s', exec c s = .next s' ∧ TileOnly s1 s' t (y.stepped (s.tile t).lvl ((s.tile t).pc + 4))) ∧
      (∀ e s1, r = .exc e s1 → s1.replaying t = false → (s1.tile t).pc = (s.tile t).pc →
        exec c s = .next (stopCheck (enter s1 t e false (s.tile t).pc) t)))

/-- What an invalidation drops, by VPN and address space tag (`none`: global) (R285). -/
def Says.invalidates (c : Instr) (x : Tile) : Option (TileId × Guard × (Nat → Option Nat → Bool)) :=
  match c with
  | .tlbia t g ra rb => some (t, g, fun vpn ast =>
      decide (vpn = (x.g ra).toNat / 2 ^ 14 % 2 ^ 34 ∧ (ast = none ∨ ast = some ((x.g rb).toNat % 2 ^ 16))))
  | .tlbit t g ra => some (t, g, fun _ ast => decide (ast = some ((x.g ra).toNat % 2 ^ 16)))
  | .tlbix t g => some (t, g, fun _ _ => true)
  | _ => none

/-- An entry as R285 names it. -/
def Says.tlbKept (m : Nat → Option Nat → Bool) (e : TlbEntry) : Bool :=
  !m e.vpn (if e.w0.getLsbD 62 then none else some e.ast)

/-- TLBIA, TLBIT and TLBIX at Steward or Keystone level, with no store buffered and no Kiln instruction queued on any
tile: afterwards no TLB of the device holds an entry that the instruction names, every other entry stays, the DMA key
caches are empty, and memory and registers but the counters and the tile's PC are as before. At Ledger level PRIV. -/
def Says.TlbInvalidation : Prop :=
  ∀ (c : Instr) (s : State) (t : TileId) (g : Guard) (m : Nat → Option Nat → Bool),
    Says.invalidates c (s.tile t).ready = some (t, g, m) → Runs s t → (s.tile t).guard g = true →
    ((s.tile t).lvl = .ledger →
      exec c s = .next (stopCheck (enter (s.ran t (s.tile t).ready) t { code := 2, sub := 1 } false (s.tile t).pc) t)) ∧
    ((s.tile t).lvl ≠ .ledger → (∀ u, (s.tile u).sbuf = [] ∧ (s.tile u).kiln.queue = []) →
      (∀ u, ∀ e ∈ (s.tile u).itlb ++ (s.tile u).dtlb, e.ast < 2 ^ 16) → (∀ k, ∀ e ∈ (s.course k).ctlb, e.ast < 2 ^ 16) →
      ∃ s', exec c s = .next s' ∧
        (∀ u, (s'.tile u).itlb = (s.tile u).itlb.filter (Says.tlbKept m) ∧
          (s'.tile u).dtlb = (s.tile u).dtlb.filter (Says.tlbKept m)) ∧
        (∀ k, s'.course k = { s.course k with ctlb := (s.course k).ctlb.filter (Says.tlbKept m) }) ∧
        (∀ p, s'.dmaKeys.get p = []) ∧
        (∀ u, u ≠ t → s'.tile u = { s.tile u with itlb := (s'.tile u).itlb, dtlb := (s'.tile u).dtlb }) ∧
        s'.tile t = { (s.tile t).ready.stepped (s.tile t).lvl ((s.tile t).pc + 4) with
          itlb := (s'.tile t).itlb, dtlb := (s'.tile t).dtlb } ∧
        (∀ a, isCounter (tilePage t) a = false → s'.reg a = s.reg a) ∧
        s' = { s with tiles := s'.tiles, courses := s'.courses, dmaKeys := s'.dmaKeys, regs := s'.regs, freeCtr := s'.freeCtr })

/-! ## Atomics -/

/-- CASW, CASD, FETADDW, FETADDD: bytes, registers, and the new value of an old one, if it is stored (R290, R291). -/
def Says.atomic (c : Instr) (x : Tile) : Option (TileId × Guard × Nat × BitVec 5 × BitVec 5 × (Nat → Option Nat)) :=
  match c with
  | .caswCasd t g dbl rd ra rb =>
    let n := if dbl then 8 else 4
    some (t, g, n, rd, ra, fun old => if old = (x.g rd).toNat % 2 ^ (8 * n) then some ((x.g rb).toNat % 2 ^ (8 * n)) else none)
  | .fetaddwFetaddd t g dbl rd ra rb =>
    let n := if dbl then 8 else 4
    some (t, g, n, rd, ra, fun old => some ((old + (x.g rb).toNat) % 2 ^ (8 * n)))
  | _ => none

/-- An atomic on memory, its tile's store buffer empty: rd holds the old value, zero-extended; the new one is stored where
the instruction stores, and else no byte changes. -/
def Obligations.AtomicsReadAndStore : Prop :=
  ∀ (c : Instr) (s s1 : State) (t : TileId) (g : Guard) (n : Nat) (rd ra : BitVec 5) (f : Nat → Option Nat) (a : Addr) (xl : Xl),
    let x := (s.tile t).ready
    Says.atomic c x = some (t, g, n, rd, ra, f) → Runs s t → (s.tile t).guard g = true →
    wordXl (s.ran t x) t .atomic (x.g ra) n = .ok (a, xl) s1 → (s1.tile t).sbuf = [] →
    (xl.ty = .normal ∨ (xl.ty = .brick ∧ (s1.tile t).tk = none)) → plainPa s1 xl.pa = true → s1.poisoned xl.pa n = false →
    let old := ofBytes (s1.bytes xl.pa n)
    let y := ((s1.tile t).setG rd (BitVec.ofNat 64 old)).stepped (s.tile t).lvl ((s.tile t).pc + 4)
    (∀ v, f old = some v → ∃ s', exec c s = .next s' ∧ TileStores s1 s' t y xl.pa (beBytes n v)) ∧
    (f old = none → ∃ s', exec c s = .next s' ∧ TileOnly s1 s' t y)

/-- Cache and TLB maintenance. -/
def Obligations.CacheAndTlbMaintenance : Prop := Says.MaintenanceInstructions ∧ Says.TlbInvalidation

/-! ## System registers -/

/-- PRIV of spec/02 R46 and ILLEGAL of R16, R45. -/
def Says.priv : Exc := { code := 2, sub := 1 }
def Says.illegal : Exc := { code := 1, sub := 0 }
def Says.absent : Exc := { code := 1, sub := 1 }

/-- The bits of ISTAT, DSTAT, DCTL, FSTAT and FCTL that are not RSVD. -/
def Says.statusMask (n : Nat) : Nat :=
  if n = 1 then 0x70007 else if n = 3 then 0x87 else if n = 4 then 0x0F else if n = 5 then 0x1F else 0x7F

/-- Exception register `i` of Table 8-2. -/
def Says.exRead (r : ExRegs) (i : Nat) : Word := [r.entry, r.cause, r.faddr, r.finfo, r.sp, r.slim].getD i 0

/-- An exception register written: RSVD bits of ENTRY and CAUSE are ignored. -/
def Says.exWrite (r : ExRegs) (i : Nat) (v : Word) : ExRegs :=
  match i with
  | 0 => { r with entry := BitVec.ofNat 64 (v.toNat % 2 ^ 48 / 4 * 4) }
  | 1 => { r with cause := BitVec.ofNat 64 (v.toNat % 2 ^ 17) }
  | 2 => { r with faddr := v }
  | 3 => { r with finfo := v }
  | 4 => { r with sp := v }
  | _ => { r with slim := v }

/-- What MFSYS of number `n` gives, or the exception it raises (Table 2-7, Table 8-2); the timebase and BWDATA have
statements of their own. -/
def Says.mfsys (s : State) (t : TileId) (x : Tile) (n : Nat) : Sum Exc (Word × Tile) :=
  let key := decide (96 ≤ t.val)
  let steward (v : Word) : Sum Exc (Word × Tile) := if x.lvl = .ledger then .inl Says.priv else .inr (v, x)
  let keystone (v : Word) (y : Tile) : Sum Exc (Word × Tile) := if x.lvl = .keystone then .inr (v, y) else .inl Says.priv
  if n = 0 then
    .inr (BitVec.ofNat 64 (b2n key * 2 ^ 9 + b2n x.ticket * 2 ^ 8 + x.bank.val * 16 + b2n x.ie * 4 +
      (match x.lvl with | .ledger => 0 | .steward => 1 | .keystone => 2)), x)
  else if n = 1 then .inr (x.cur.istat, x)
  else if n = 2 then .inr (BitVec.ofNat 64 (x.cur.p.toNat / 2 * 2 + 1), x)
  else if n = 3 then .inr (BitVec.ofNat 64 x.cur.dstat.toNat, x)
  else if n = 4 then .inr (BitVec.ofNat 64 x.cur.dctl.toNat, x)
  else if n = 5 then .inr (BitVec.ofNat 64 x.cur.fstat.toNat, x)
  else if n = 6 then .inr (BitVec.ofNat 64 x.cur.fctl.toNat, x)
  else if n = 0x10 then
    (if key then .inl Says.absent else if x.lvl = .steward then .inr (x.bwin, x) else .inl Says.priv)
  else if n = 0x18 then
    .inr ((match x.cur.sess with | some k => BitVec.ofNat 64 k.toNat | none => BitVec.ofNat 64 (2 ^ 63)), x)
  else if n = 0x19 then .inr (0x0305, x)
  else if 0x20 ≤ n ∧ n ≤ 0x25 then steward (if key then 0 else Says.exRead x.exS (n - 0x20))
  else if n = 0x26 then steward x.tcmp
  else if n = 0x27 then
    steward (BitVec.ofNat 64 ((b2n (srcPending s t .timer) + 2 * b2n (srcPending s t .doorbell) +
      4 * b2n (srcPending s t .ipi) + 8 * b2n (srcPending s t .kiln) + 16 * b2n (srcPending s t .mcheck)) * 2 ^ 16 + 16 +
      x.iens.toNat))
  else if 0x28 ≤ n ∧ n ≤ 0x2D then keystone (Says.exRead x.exK (n - 0x28)) x
  else if n = 0x2E then keystone x.efwin x
  else if n = 0x2F then
    let i := x.efwin.toNat % 512
    keystone (x.ef.get (Fin.ofNat 512 i))
      (if x.efwin.getLsbD 9 then { x with efwin := BitVec.ofNat 64 (512 + (i + 1) % 512) } else x)
  else .inr (0, x)

/-- MFSYS of every number but BWDATA (011h) completes as Table 2-7 says or raises what its column names; a number that is
not in the table reads 0 (R51); 030h gives the timebase at every level (where the tile's course records nothing). -/
def Obligations.MfsysReads : Prop :=
  ∀ (t : TileId) (g : Guard) (rd : BitVec 5) (num : BitVec 11) (s : State),
    Runs s t → (s.tile t).guard g = true → num ≠ 0x11 →
    let s0 := s.ran t (s.tile t).ready
    (num = 0x30 → (t.val < 96 → recording s (courseOf t) = false) →
      Gives (.mfsys t g rd num) s t (((s.tile t).ready.setG rd s.clk.tb).stepped (s.tile t).lvl ((s.tile t).pc + 4))) ∧
    (num ≠ 0x30 →
    (∀ e, Says.mfsys s0 t (s.tile t).ready num.toNat = .inl e →
      exec (.mfsys t g rd num) s = .next (stopCheck (enter s0 t e false (s.tile t).pc) t)) ∧
    (∀ v y, Says.mfsys s0 t (s.tile t).ready num.toNat = .inr (v, y) →
      Gives (.mfsys t g rd num) s t ((y.setG rd v).stepped (s.tile t).lvl ((s.tile t).pc + 4))))

/-- What MTSYS of number `n` with value `v` does to its tile, or the exception it raises. -/
def Says.mtsys (t : TileId) (x : Tile) (n : Nat) (v : Word) : Sum Exc Tile :=
  let key := decide (96 ≤ t.val)
  let steward (y : Tile) : Sum Exc Tile := if x.lvl = .ledger then .inl Says.priv else .inr y
  let keystone (y : Tile) : Sum Exc Tile := if x.lvl = .keystone then .inr y else .inl Says.priv
  let st (n : Nat) : BitVec 8 := BitVec.ofNat 8 (v.toNat &&& Says.statusMask n)
  if n = 0 then
    (if x.lvl = .ledger then (if v.getLsbD 2 = x.ie then .inr x else .inl Says.priv)
     else .inr { x with ie := v.getLsbD 2, rstack := if key then [] else x.rstack })
  else if n = 1 then .inr (x.modBank (fun b => { b with istat := BitVec.ofNat 64 (v.toNat &&& Says.statusMask 1) }))
  else if n = 2 then .inr (x.modBank (fun b => { b with p := BitVec.ofNat 8 (v.toNat / 2 * 2) }))
  else if n = 3 then .inr (x.modBank (fun b => { b with dstat := st 3 }))
  else if n = 4 then
    .inr (x.modBank (fun b => { b with dctl :=
      if v.toNat % 4 = 3 then BitVec.ofNat 8 ((st 4).toNat / 4 * 4 + b.dctl.toNat % 4) else st 4 }))
  else if n = 5 then .inr (x.modBank (fun b => { b with fstat := st 5 }))
  else if n = 6 then .inr (x.modBank (fun b => { b with fctl := st 6 }))
  else if n = 0x10 then
    (if key then .inl Says.absent
     else if x.lvl = .steward then .inr { x with bwin := BitVec.ofNat 64 (v.toNat % 2 ^ 12) } else .inl Says.priv)
  else if 0x20 ≤ n ∧ n ≤ 0x25 then
    (if key then .inl Says.absent else steward { x with exS := Says.exWrite x.exS (n - 0x20) v })
  else if n = 0x26 then steward { x with tcmp := v }
  else if n = 0x27 then steward { x with iens := BitVec.ofNat 4 (if key then v.toNat % 8 else v.toNat % 16) }
  else if 0x28 ≤ n ∧ n ≤ 0x2D then keystone { x with exK := Says.exWrite x.exK (n - 0x28) v }
  else if n = 0x2E then keystone { x with efwin := BitVec.ofNat 64 (v.toNat % 2 ^ 10) }
  else if n = 0x2F then
    let i := x.efwin.toNat % 512
    let y : Tile :=
      if i < 16 then { x with ef := x.ef.set (Fin.ofNat 512 i) v }
      else if i = 16 ∧ v.getLsbD 63 then
        { x with ef := x.ef.set (Fin.ofNat 512 i) (BitVec.ofNat 64 ((x.ef.get (Fin.ofNat 512 i)).toNat % 2 ^ 63)) }
      else x
    keystone (if x.efwin.getLsbD 9 then { y with efwin := BitVec.ofNat 64 (512 + (i + 1) % 512) } else y)
  else .inl Says.illegal

/-- MTSYS and its row for EFDATA (02Fh). -/
def Says.mtsysForm (c : Instr) : Option (TileId × Guard × BitVec 11 × BitVec 5) :=
  match c with
  | .mtsys t g num ra => some (t, g, num, ra)
  | .efdataWrite t g ra => some (t, g, 0x2F, ra)
  | _ => none

/-- MTSYS of every number but BWDATA (011h) writes as Table 2-7 and Table 8-2 say, or raises what they name: a number
that has no MTSYS raises ILLEGAL and writes nothing (R51). -/
def Obligations.MtsysWrites : Prop :=
  ∀ (c : Instr) (t : TileId) (g : Guard) (num : BitVec 11) (ra : BitVec 5) (s : State),
    Says.mtsysForm c = some (t, g, num, ra) → Runs s t → (s.tile t).guard g = true → num ≠ 0x11 →
    let x := (s.tile t).ready
    (∀ e, Says.mtsys t x num.toNat (x.g ra) = .inl e →
      exec c s = .next (stopCheck (enter (s.ran t x) t e false (s.tile t).pc) t)) ∧
    (∀ y, Says.mtsys t x num.toNat (x.g ra) = .inr y → Gives c s t (y.stepped (s.tile t).lvl ((s.tile t).pc + 4)))

/-! ## The bank window -/

/-- A slot of a bank as Table 2-10 numbers it. -/
def Says.slotRead (k : Bank) (slot : Nat) : Word :=
  if slot = 0 then 0
  else if slot < 0x20 then k.g.get (Fin.ofNat 32 slot)
  else if slot < 0x40 then
    let d := k.d.get (Fin.ofNat 16 ((slot - 0x20) / 2))
    BitVec.ofNat 64 (if slot % 2 = 0 then d.toNat / 2 ^ 64 else d.toNat % 2 ^ 64)
  else if slot = 0x40 then BitVec.ofNat 64 (k.p.toNat / 2 * 2 + 1)
  else if slot = 0x41 then k.istat
  else if slot = 0x42 then BitVec.ofNat 64 k.dstat.toNat
  else if slot = 0x43 then BitVec.ofNat 64 k.dctl.toNat
  else if slot = 0x44 then BitVec.ofNat 64 k.fstat.toNat
  else if slot = 0x45 then BitVec.ofNat 64 k.fctl.toNat
  else if slot = 0x46 then BitVec.ofNat 64 (k.krr.toNat / 2 ^ 64)
  else if slot = 0x47 then BitVec.ofNat 64 (k.krr.toNat % 2 ^ 64)
  else 0

/-- BWIN after an access: with AUTO the slot steps, 127 to 0. -/
def Says.bwinAfter (w : Word) : Word :=
  if w.getLsbD 11 then BitVec.ofNat 64 (2 ^ 11 + (w.toNat / 16 % 128 + 1) % 128 * 16 + w.toNat % 16) else w

/-- A write of slot 00h to 7Fh of a bank as Table 2-10, R62 and R63 give it, or the number of the first nibble that is no digit, or
no sign, of the d register it would form. -/
def Says.slotWrite (k : Bank) (slot : Nat) (v : Word) : Sum Nat Bank :=
  let st (n : Nat) : BitVec 8 := BitVec.ofNat 8 (v.toNat &&& Says.statusMask n)
  if slot < 0x20 then .inr (k.setG (BitVec.ofNat 5 slot) v)
  else if slot < 0x40 then
    let n := Fin.ofNat 16 ((slot - 0x20) / 2)
    let old := (k.d.get n).toNat
    let new := if slot % 2 = 0 then v.toNat * 2 ^ 64 + old % 2 ^ 64 else old / 2 ^ 64 * 2 ^ 64 + v.toNat
    let nib (i : Nat) : Nat := new / 16 ^ (31 - i) % 16
    match (List.range 32).find? (fun i => if i = 31 then decide (nib i < 10) else decide (9 < nib i)) with
    | some i => .inl i
    | none => .inr { k with d := k.d.set n (BitVec.ofNat 128 (new / 16 * 16 + (if nib 31 = 0xB ∨ nib 31 = 0xD then 0xD else 0xC))) }
  else .inr (
    if slot = 0x40 then { k with p := BitVec.ofNat 8 (v.toNat / 2 * 2) }
    else if slot = 0x41 then { k with istat := BitVec.ofNat 64 (v.toNat &&& Says.statusMask 1) }
    else if slot = 0x42 then { k with dstat := st 3 }
    else if slot = 0x43 then
      { k with dctl := if v.toNat % 4 = 3 then BitVec.ofNat 8 ((st 4).toNat / 4 * 4 + k.dctl.toNat % 4) else st 4 }
    else if slot = 0x44 then { k with fstat := st 5 }
    else if slot = 0x45 then { k with fctl := st 6 }
    else if slot = 0x46 then { k with krr := BitVec.ofNat 128 (v.toNat * 2 ^ 64 + k.krr.toNat % 2 ^ 64) }
    else if slot = 0x47 then { k with krr := BitVec.ofNat 128 (k.krr.toNat / 2 ^ 64 * 2 ^ 64 + v.toNat) }
    else k)

/-- BWDATA at Steward level on a ledger tile, of a bank that the session mover does not work on (R62–R64): a read gives
the slot of the named bank; slot 48h its session; a bank of 1–15 without a session reads 0 and discards writes; BWIN
steps with AUTO. A write writes its slot; one that would leave an invalid nibble in a d register raises the decimal data
fault, with 40h plus the nibble's number as its subcode, and writes nothing. -/
def Obligations.BankWindow : Prop :=
  ∀ (t : TileId) (g : Guard) (r : BitVec 5) (s : State),
    Runs s t → (s.tile t).guard g = true → t.val < 96 → (s.tile t).lvl = .steward →
    bankMoves s t (Fin.ofNat 16 ((s.tile t).bwin.toNat % 16)) = false →
    let x := (s.tile t).ready
    let b : Fin 16 := Fin.ofNat 16 (x.bwin.toNat % 16)
    let slot := x.bwin.toNat / 16 % 128
    let k := x.banks.get b
    let live := b = 0 ∨ k.sess.isSome = true
    let y : Tile := { x with bwin := Says.bwinAfter x.bwin }
    let done (z : Tile) : Tile := z.stepped (s.tile t).lvl ((s.tile t).pc + 4)
    (∀ v, (slot = 0x48 → v = (match k.sess with | some n => BitVec.ofNat 64 n.toNat | none => BitVec.ofNat 64 (2 ^ 63))) →
      (slot ≠ 0x48 → ¬ live → v = 0) → (slot ≠ 0x48 → live → v = Says.slotRead k slot) →
      Gives (.bwdataAccess t g false r) s t (done (y.setG r v))) ∧
    (¬ live → Gives (.bwdataAccess t g true r) s t (done y)) ∧
    (∀ k', live → Says.slotWrite k slot (x.g r) = .inr k' →
      Gives (.bwdataAccess t g true r) s t (done (y.modBankAt b (fun _ => k')))) ∧
    (∀ i, live → Says.slotWrite k slot (x.g r) = .inl i →
      exec (.bwdataAccess t g true r) s =
        .next (stopCheck (enter (s.ran t x) t { code := 0x0C, sub := 0x40 + i } false (s.tile t).pc) t))

/-! ## Exceptions -/

/-- The level an entry is taken at (R243): Keystone on a keystone tile, from Keystone level, and for KCALL (19h),
STACKFAULT (20h) and machine checks (28h); else Steward. -/
def Says.entryLevel (t : TileId) (cur : Level) (code : Nat) : Level :=
  if 96 ≤ t.val ∨ cur = .keystone ∨ code = 0x19 ∨ code = 0x20 ∨ code = 0x28 then .keystone else .steward

/-- The exception registers of the level an entry is taken at. -/
def Says.exOf (x : Tile) (l : Level) : ExRegs := match l with | .keystone => x.exK | _ => x.exS

/-- The frame of an entry (Layout 8-4, Layout 8-5): PC, PSTATE, CAUSE, FADDR, FINFO; the words at PC, 0 where the fetch faults;
the control word register and the units of an incomplete long instruction at PC; g1–g4 of the bank that PSTATE names, which
are undefined when the fill of that bank failed (R249); zeros. -/
def Says.frame (s : State) (t : TileId) (e : Exc) (cause pc : Word) (f : List Word) : Prop :=
  let x := (s.tile t).ready
  let long := longAt (s.ran t (s.tile t).completeLrs) t pc
  let units := min 255 (s.tile t).units
  f.length = 16 ∧ f.take 5 = [pc, s.pstate t, cause, e.faddr, e.finfo] ∧
  f[5]? = some (match peekWord s t pc with
    | none => 0
    | some w => BitVec.ofNat 64 (w * 2 ^ 32 +
        (if 0x50 ≤ w / 2 ^ 21 % 128 ∧ w / 2 ^ 21 % 128 ≤ 0x5F then (peekWord s t (pc + 4)).getD 0 else 0))) ∧
  (∀ r, (s.tile t).long = some r → long = some r) ∧
  (∀ r, long = some r → f[6]? = some (x.g r) ∧ f[7]? = some (BitVec.ofNat 64 (2 ^ 63 + r.toNat * 256 + units))) ∧
  (long = none → f[6]? = some 0 ∧ f[7]? = some (BitVec.ofNat 64 units)) ∧
  (¬ (e.code = 0x12 ∧ e.sub = 1 ∧ x.bank ≠ 0 ∧ x.cur.sess = none) → (f.drop 8).take 4 = [x.g 1, x.g 2, x.g 3, x.g 4]) ∧
  f.drop 12 = [0, 0, 0, 0]

/-- The state in which the stack check of an entry is made: the loads before it have retired, and the entry is counted. -/
def Says.entering (s : State) (t : TileId) (code : Nat) : State :=
  let u := (s.ran t (s.tile t).ready).evCountQ (tilePage t) 0x2F (lvlQ (s.tile t).lvl) 1
  { u with freeCtr := if code = 0x12 then u.freeCtr + 5 else u.freeCtr }

/-- Taking an exception, trap or interrupt whose stack check passes (R251, Layout 8-4), on a tile whose course records
nothing: the tile is at the entry address of the entered level with IE = 0; CAUSE, FADDR and FINFO of that level say why;
SP has moved down by 128; the frame of 16 doublewords stands behind the tile's earlier stores; a mover fault makes bank 0
current (R57), and any other entry keeps the bank (R56); the registers of the banks, other tiles, memory and other registers
are unchanged. -/
def Says.ExceptionEntry : Prop :=
  ∀ (s s1 : State) (t : TileId) (e : Exc) (async : Bool) (pc : Word) (xl : Xl),
    (t.val < 96 → recording s (courseOf t) = false) → e.code < 256 → e.sub < 256 →
    let x := (s.tile t).ready
    let l := Says.entryLevel t x.lvl e.code
    let r := Says.exOf x l
    let cause : Word := BitVec.ofNat 64 ((if async then 2 ^ 16 else 0) + e.code * 256 + e.sub)
    stackCheck (Says.entering s t e.code) t l = .inr (xl, s1) →
    ∃ f : List Word, ∃ s', enter s t e async pc = s' ∧ Says.frame s t e cause pc f ∧
      TileOnly s1 s' t
        (let y := s1.tile t
         let r' : ExRegs := { r with sp := r.sp - 128, cause := cause, faddr := e.faddr, finfo := e.finfo }
         { y with
           exS := (match l with | .keystone => y.exS | _ => r'), exK := (match l with | .keystone => r' | _ => y.exK),
           lvl := l, ie := false, pc := r.entry, rstack := [],
           run := if y.run = .takeWait then .running else y.run, bank := if e.code = 0x12 then 0 else y.bank,
           sbuf := y.sbuf ++ [{ pa := xl.pa, bytes := (f.map (fun w => beBytes 8 w.toNat)).flatten, device := false,
                                brick := false, via := xl.via, frame := true }] })

/-- An entry whose stack check fails (R257, R258), on a tile whose course records nothing: where the emergency area is occupied the
tile enters checkstop with REASON 02h; else the frame and EFSTAT go to the emergency area, and where the Keystone stack takes
the frame, its CAUSE that of STACKFAULT, the tile is at KENTRY at Keystone level with the failing stack pointer in KFADDR and
the failed level and CAUSE in KFINFO (Layout 8-7); where that push fails too, checkstop with REASON 01h. -/
def Says.StackFault : Prop :=
  ∀ (s : State) (t : TileId) (e : Exc) (async : Bool) (pc : Word) (sub : Nat),
    (t.val < 96 → recording s (courseOf t) = false) → e.code < 256 → e.sub < 256 →
    let x := (s.tile t).ready
    let l := Says.entryLevel t x.lvl e.code
    let lv := match l with | .keystone => 2 | _ => 1
    let cause : Word := BitVec.ofNat 64 ((if async then 2 ^ 16 else 0) + e.code * 256 + e.sub)
    let cause' : Word := BitVec.ofNat 64 (0x20 * 256 + sub)
    let u := Says.entering s t e.code
    stackCheck u t l = .inl sub →
    ((x.ef.get 16).getLsbD 63 = true →
      let y := (enter s t e async pc).tile t
      y.run = .checkstop ∧ y.ef.get 32 = 2 ∧ y.banks = x.banks) ∧
    ((x.ef.get 16).getLsbD 63 = false →
      ∃ f : List Word, Says.frame s t e cause pc f ∧
        let ef : Vector Word 512 := Vector.ofFn (fun i =>
          if i.val < 16 then f.getD i.val 0
          else if i.val = 16 then BitVec.ofNat 64 (2 ^ 63 + lv * 256 + sub) else x.ef.get i)
        let v := u.setTile t { x with ef := ef }
        (∀ n, stackCheck v t .keystone = .inl n →
          let y := (enter s t e async pc).tile t
          y.run = .checkstop ∧ y.ef.get 32 = 1 ∧ (∀ i : Fin 512, i.val < 17 → y.ef.get i = ef.get i) ∧ y.banks = x.banks) ∧
        (∀ xl s1, stackCheck v t .keystone = .inr (xl, s1) →
          TileOnly s1 (enter s t e async pc) t
            (let y := s1.tile t
             let g := f.take 2 ++ [cause'] ++ f.drop 3
             { y with
               exK := { y.exK with sp := y.exK.sp - 128, cause := cause', faddr := (Says.exOf x l).sp,
                                   finfo := BitVec.ofNat 64 (lv * 2 ^ 18 + cause.toNat % 2 ^ 17) },
               lvl := .keystone, ie := false, pc := y.exK.entry, rstack := [],
               sbuf := y.sbuf ++ [{ pa := xl.pa, bytes := (g.map (fun w => beBytes 8 w.toNat)).flatten, device := false,
                                    brick := false, via := xl.via, frame := true }] })))

/-- Taking an exception. -/
def Obligations.ExceptionEntry : Prop := Says.ExceptionEntry ∧ Says.StackFault

/-- TRAP and KCALL retire and then take their exception: code 18h or 19h, their immediate in FINFO, the frame's PC after
the instruction (R244); TRAP at Keystone level is PRIV. -/
def Obligations.TrapsEnter : Prop :=
  ∀ (t : TileId) (g : Guard) (n : BitVec 12) (s : State), Runs s t → (s.tile t).guard g = true →
    let x := (s.tile t).ready
    let pc := (s.tile t).pc + 4
    let trapped (code : Nat) (o : Host.Outcome State Fault Refusal) : Prop :=
      ∃ s1, TileOnly s s1 t (x.stepped x.lvl pc) ∧
        o = .next (stopCheck (enter s1 t { code := code, sub := 0, finfo := BitVec.ofNat 64 n.toNat } false pc) t)
    trapped 0x19 (exec (.kcall t g n) s) ∧
    (x.lvl ≠ .keystone → trapped 0x18 (exec (.trap t g n) s)) ∧
    (x.lvl = .keystone →
      exec (.trap t g n) s = .next (stopCheck (enter (s.ran t x) t Says.priv false (s.tile t).pc) t))

/-- RETE at Steward or Keystone level, with its frame readable in one page of plain memory and naming a state that the
level may enter (R254, R255): PC, level, bank and IE come from the frame, g1–g4 of that bank are restored, and SP moves
up by 128. At Ledger level RETE is PRIV. A frame whose PSTATE is invalid raises PRIV 02h and changes nothing, whatever the
alignment of its PC (log entry 19). The bank is then the one most recently current (spec/02, SWS). -/
def Obligations.ReteRestores : Prop :=
  ∀ (t : TileId) (g : Guard) (s s1 : State) (xl : Xl), Runs s t → (s.tile t).guard g = true →
    let x := (s.tile t).ready
    let s0 := s.ran t x
    let r := Says.exOf x x.lvl
    let frame (i : Nat) : Word := BitVec.ofNat 64 (ofBytes (s1.bytes (xl.pa + 8 * i) 8))
    let ps := (frame 1).toNat
    let lv := ps % 4
    let bank := ps / 16 % 16
    let invalid := lv = 3 ∨ x.lvl.code < lv ∨ ps / 2 ^ 11 ≠ 0 ∨ ps / 8 % 2 = 1 ∨
      (if 96 ≤ t.val then lv ≠ 2 ∨ bank ≠ 0 else bank ≠ 0 ∧ (x.banks.get (Fin.ofNat 16 bank)).sess = none)
    (x.lvl = .ledger → exec (.rete t g) s = .next (stopCheck (enter s0 t Says.priv false (s.tile t).pc) t)) ∧
    (x.lvl ≠ .ledger → r.sp.toNat % 0x4000 + 128 ≤ 0x4000 → translate s0 t .data (dataCtx s0 t) .rete r.sp 128 = .ok xl s1 →
      xl.ty = .normal → x.sbuf = [] → s1.poisoned xl.pa 128 = false →
      (invalid → exec (.rete t g) s = .next (stopCheck (enter s1 t { code := 2, sub := 2 } false (s.tile t).pc) t)) ∧
      (¬ invalid → (frame 0).toNat % 4 = 0 → (lv = 0 → x.ticket = false ∨ recording s (courseOf t) = false ∨ 96 ≤ t.val) →
        ∃ s', exec (.rete t g) s = .next s' ∧
          TileOnly s1 s' t
            (let y := s1.tile t
             let r' : ExRegs := { r with sp := r.sp + 128 }
             let z : Tile := { y with
               pc := frame 0, ie := decide (ps / 4 % 2 = 1), bank := Fin.ofNat 16 bank, banks := y.usedNow (Fin.ofNat 16 bank), rstack := [], long := none, units := 0,
               lvl := (if lv = 0 then .ledger else if lv = 1 then .steward else .keystone),
               exS := (match x.lvl with | .keystone => y.exS | _ => r'), exK := (match x.lvl with | .keystone => r' | _ => y.exK) }
             (((z.setG 1 (frame 8)).setG 2 (frame 9)).setG 3 (frame 10)).setG 4 (frame 11))))

/-- The source that a tile accepts: machine check, Kiln fault, IPI, timer, doorbell, in that order of those pending,
enabled and allowed by level and IE (R261, R263, Table 8-12). -/
def Says.accepts (s : State) (t : TileId) : Option (Src × Nat) :=
  let x := s.tile t
  let rank (l : Level) : Nat := match l with | .ledger => 0 | .steward => 1 | .keystone => 2
  let ok (q : Src) (en : Bool) (lv : Nat) : Bool :=
    srcPending s t q && en && (if 96 ≤ t.val then x.ie else decide (rank x.lvl < lv) || (decide (rank x.lvl = lv) && x.ie))
  if ok .mcheck true 2 then some (.mcheck, 0x28)
  else if ok .kiln (x.iens.getLsbD 3) 1 then some (.kiln, 0x10)
  else if ok .ipi (x.iens.getLsbD 2) 1 then some (.ipi, 0x32)
  else if ok .timer (x.iens.getLsbD 0) 1 then some (.timer, 0x30)
  else if ok .doorbell (x.iens.getLsbD 1) 1 then some (.doorbell, 0x31)
  else none

/-- INTERRUPT_ACCEPT on a tile that executes, waits in TAKE or waits in JSYNC: it enters the first acceptable source's
exception, asynchronously, with the PC it had; where the record of the interrupt finds no room, the tile waits and issues
nothing (spec/14 R441); with none, or on a tile that is held, stopped, stalled in SWS or past step 2 of POST, nothing
happens (R261–R263). -/
def Obligations.InterruptAccepted : Prop :=
  ∀ (t : TileId) (s : State), s.replaying t = false →
    let x := s.tile t
    let point := x.run = .running ∨ x.run = .takeWait ∨ ∃ pos, x.run = .jsyncWait pos
    let stalls := x.lvl = .ledger ∧ ringsStalls s t 32 = true
    (∀ q, point → Says.accepts s t = some q → stalls →
      exec (.interruptAccept t) s = .next (stopCheck (s.setTile t { x with recWait := true }) t)) ∧
    (∀ q code, point → Says.accepts s t = some (q, code) → ¬ stalls →
      ∃ e s1, e.code = code ∧
        (code = 0x30 ∨ code = 0x31 ∨ code = 0x32 → TileOnly s s1 t { x with run := .running }) ∧
        (code = 0x31 → e.finfo = s.reg (ctl t.val 0x100)) ∧ (code = 0x32 → e.finfo = BitVec.ofNat 64 (s.fld (ctl t.val 0x110) 6 0)) ∧
        exec (.interruptAccept t) s = .next (stopCheck (enter s1 t e true x.pc) t)) ∧
    (¬ point ∨ Says.accepts s t = none → exec (.interruptAccept t) s = .next (stopCheck s t))

/-- TILE_CHECKSTOP (spec/08 R260; spec/13 R432, Table 13-15): a keystone tile that is not in checkstop stops: it executes
nothing, discards the loads in its commit window, its record in EFDATA names REASON 03h, the condition, the PC of the oldest
instruction that has not retired (spec/03 R92) and PSTATE, and a machine-check message is queued; a tile in checkstop is
not affected (log entry 78). Where DEV.MCTGT names the tile, it is given the lowest keystone tile that is not in checkstop; with
none left the device is FENCED (R434). -/
def Says.KeystoneCheckstops : Prop :=
  ∀ (t : TileId) (c : CsCond) (s : State), s.live = true →
    let sub := match c with | .bank => 0x81 | .tagArray => 0x82 | .controlStore => 0x83 | .emergency => 0x84
    ((s.tile t).run = .checkstop → exec (.tileCheckstop t c) s = .next s) ∧
    (96 ≤ t.val → (s.tile t).run ≠ .checkstop → (s.tile t).sbuf = [] → s.fld (ctl 0xFF 0x160) 1 0 ≠ t.val - 96 →
      (∀ k, s.fld (ctl 0xFF 0x160) 1 0 = k → ∃ u : TileId, u.val = 96 + k ∧ (s.tile u).run ≠ .checkstop) → s.mcq.length < 32 →
      ∃ s', exec (.tileCheckstop t c) s = .next s' ∧
        (s'.tile t).run = .checkstop ∧ (s'.tile t).window = [] ∧ (s'.tile t).kiln.queue = [] ∧
        (s'.tile t).ef.get 32 = BitVec.ofNat 64 (sub * 256 + 3) ∧
        (s'.tile t).ef.get 33 = (match (s.tile t).window with | [] => (s.tile t).pc | e :: _ => e.pc) ∧
        (s'.tile t).ef.get 34 = s.pstate t ∧
        s'.mcq = s.mcq ++ [(BitVec.ofNat 64 (2 ^ 56 + t.val * 2 ^ 48 + sub * 256 + 3), s.clk.tb)] ∧
        (∀ u, u ≠ t → s'.tile u = s.tile u) ∧ (∀ a, s'.byte a = s.byte a) ∧ (∀ a, s'.reg a = s.reg a)) ∧
    (96 ≤ t.val → (s.tile t).run ≠ .checkstop → (s.tile t).sbuf = [] → s.fld (ctl 0xFF 0x160) 1 0 = t.val - 96 →
      (∀ v : TileId, 96 ≤ v.val → v ≠ t → (s.tile v).run ≠ .checkstop →
        (∀ w : TileId, 96 ≤ w.val → w.val < v.val → w ≠ t → (s.tile w).run = .checkstop) →
        ∃ s', exec (.tileCheckstop t c) s = .next s' ∧ (s'.tile t).run = .checkstop ∧ s'.fld (ctl 0xFF 0x160) 1 0 = v.val - 96 ∧
          (∀ u, u ≠ t → s'.tile u = s.tile u) ∧ (∀ a, s'.byte a = s.byte a)) ∧
      ((∀ v : TileId, 96 ≤ v.val → v ≠ t → (s.tile v).run = .checkstop) →
        ∃ s', exec (.tileCheckstop t c) s = .next s' ∧ (s'.tile t).run = .checkstop ∧ s'.fld (ctl 0x91 0x100) 2 0 = 5 ∧
          (∀ u, u ≠ t → s'.tile u = s.tile u) ∧ (∀ a, s'.byte a = s.byte a)))

/-- A ledger tile that is not in checkstop stops in the same way and is retired (spec/11 R383, R384, Sequence 11-10): its bit leaves
MASON.CTILE, its bit of HWJ.RETIRED and STAT.TILERET are set, no ticket is bound to it or runs on it, a ticket bound to it
that had started waits YIELDed, one that had not waits queued, no bank but bank 0 holds a session. What the Mason then does
follows (settleDev). -/
def Says.LedgerCheckstops : Prop :=
  ∀ (t : TileId) (c : CsCond) (s : State), s.live = true → s.replaying t = false → t.val < 96 → (s.tile t).run ≠ .checkstop →
    (s.tile t).sbuf = [] → (s.reg (ctl 0x91 (0x188 + 8 * (t.val / 64)))).getLsbD (t.val % 64) = false →
    (∃ u : TileId, u.val / 8 = t.val / 8 ∧ u ≠ t ∧ (s.reg (ctl 0x91 (0x188 + 8 * (u.val / 64)))).getLsbD (u.val % 64) = false) →
    (∀ k ∈ s.mason.tickets, ∀ j ∈ s.mason.tickets, k.st = .running t → j.st = .running t → k.arrival = j.arrival) →
    ∃ u, exec (.tileCheckstop t c) s = .next (settleDev u) ∧
      (u.tile t).run = .checkstop ∧ (u.tile t).window = [] ∧ (u.tile t).kiln.queue = [] ∧
      (∀ b : Fin 16, b ≠ 0 → ((u.tile t).banks.get b).sess = none) ∧
      (u.reg (ctl 0x90 (0x208 + 16 * (t.val / 8)))).getLsbD (t.val % 8) = false ∧
      (u.reg (ctl 0x91 (0x188 + 8 * (t.val / 64)))).getLsbD (t.val % 64) = true ∧
      (u.reg (ctl 0x91 0x18)).getLsbD 7 = true ∧
      (∀ k ∈ u.mason.tickets, k.st ≠ .bound t ∧ k.st ≠ .running t) ∧
      ((∀ k ∈ s.mason.tickets, k.st ≠ .running t) → (∀ b : Fin 16, b ≠ 0 → ((s.tile t).banks.get b).sess = none) →
        u.mason.tickets = s.mason.tickets.map (fun k =>
          if k.st = .bound t then { k with st := if k.started then .yielded else .queued } else k))

/-- Checkstops. -/
def Obligations.TileCheckstops : Prop := Says.KeystoneCheckstops ∧ Says.LedgerCheckstops

/-! ## Sessions and tickets at a tile -/

/-- The tile's Kiln has nothing queued and no fault to deliver, so no instruction waits for it. -/
def Says.kilnIdle (x : Tile) : Prop := x.kiln.queue = [] ∧ x.kiln.fault = none

/-- The exception of an instruction at its own address, from the tile as the instruction found it. -/
def Says.raises (c : Instr) (s : State) (t : TileId) (e : Exc) : Prop :=
  exec c s = .next (stopCheck (enter (s.ran t (s.tile t).ready) t e false (s.tile t).pc) t)

/-- SWS at Steward level on a ledger tile (spec/02, SWS; R58): with a ticket it raises code 0Fh subcode 03h, for a number
above 18 bits subcode 01h; a session that an admitted ticket holds clears pd; a session in a bank of the tile becomes
current with pd set; any other makes the tile wait while the session mover is asked to bring it into the least recently
current of banks 1 to 15 that holds no queued session (where every one does, it is asked for later). -/
def Says.SessionSwitch : Prop :=
  ∀ (t : TileId) (g : Guard) (pd : BitVec 3) (ra : BitVec 5) (s : State),
    Runs s t → (s.tile t).guard g = true → t.val < 96 → (s.tile t).lvl = .steward → Says.kilnIdle (s.tile t) →
    let x := (s.tile t).ready
    let s0 := s.ran t x
    let a := (x.g ra).toNat
    let n : BitVec 18 := BitVec.ofNat 18 a
    let c : Instr := .sws t g pd ra
    let done (y : Tile) : Tile := y.stepped (s.tile t).lvl ((s.tile t).pc + 4)
    (x.ticket = true → Says.raises c s t { code := 0x0F, sub := 3 }) ∧
    (x.ticket = false → 2 ^ 18 ≤ a → Says.raises c s t { code := 0x0F, sub := 1 }) ∧
    (x.ticket = false → a < 2 ^ 18 → sessionHeld s n = true → Gives c s t (done (x.setP pd false))) ∧
    (x.ticket = false → a < 2 ^ 18 → sessionHeld s n = false → ∀ b, bankOn s0 t n = some b → bankMoves s0 t b = false →
      ∃ kf u, (b = x.bank → kf = x.kiln) ∧ (b ≠ x.bank → kf.vctl = 0 ∧ kf.vstat = 0) ∧ (∀ j, (x.banks.get j).used < u) ∧
        Gives c s t (done ((({ x with bank := b, kiln := kf } : Tile).modBank (fun k => { k with used := u })).setP pd true))) ∧
    (x.ticket = false → a < 2 ^ 18 → sessionHeld s n = false → bankOn s0 t n = none → (s.course (courseOf t)).mover = [] →
      let may (b : Fin 16) : Prop := b ≠ 0 ∧ ∀ k, (x.banks.get b).sess = some k → sessionHeld s k = false
      ∀ m : Option (Fin 16), (∀ b, m = some b → may b ∧ ∀ j, may j → (x.banks.get b).used ≤ (x.banks.get j).used ∧
          ((x.banks.get j).used = (x.banks.get b).used → b ≤ j)) → (m = none → ∀ b, ¬ may b) →
        ∃ s', exec c s = .next s' ∧ s'.tile t = { x with run := .swsWait pd n } ∧ (∀ u, u ≠ t → s'.tile u = s.tile u) ∧
          (s'.course (courseOf t)).mover =
            m.toList.map (fun b => { session := n, tile := t, bank := b, spill := false, why := .sws }) ∧
          (∀ a, isCounter (tilePage t) a = false → s'.reg a = s.reg a) ∧
          s' = { s with tiles := s'.tiles, courses := s'.courses, regs := s'.regs, freeCtr := s'.freeCtr })

/-- SESSION_FILL_DONE on a device out of reset (spec/10 R311; spec/02 R53, R58): with nothing for the mover to do nothing
happens but what is due. With the HBM controller READY: the fill that an SWS waits for, of a session that is in no bank, is
live and whose image is readable, into an empty bank, leaves the image's registers in that bank, makes it current with the
Kiln's VCTL and VSTAT 0 and sets pd, and the tile goes on after the SWS; a spill writes the bank's image to the session's slot
and leaves the bank empty, with the time at which it was last current its own. -/
def Says.SessionMover : Prop :=
  ∀ (c : CourseId) (s : State), s.live = true →
    ((s.course c).mover = [] → exec (.sessionFillDone c) s = .next (settle s)) ∧
    (∀ o rest pd bk, (s.course c).mover = o :: rest → o.spill = false → o.why = .sws → courseOf o.tile = c →
      s.fld (ctl pHbmc 0x120) 1 0 = 2 → (s.tile o.tile).run = .swsWait pd o.session → residentAt s o.session = none →
      ((s.tile o.tile).banks.get o.bank).sess = none → s.poisoned (sessAddr o.session) 512 = false →
      bankFromMem s (sessAddr o.session) o.session = some bk → sessLive s o.session = true →
      ∃ u, exec (.sessionFillDone c) s = .next (settle u) ∧
        (u.tile o.tile).run = .running ∧ (u.tile o.tile).pc = (s.tile o.tile).pc + 4 ∧ (u.tile o.tile).bank = o.bank ∧
        (u.tile o.tile).p pd = true ∧ (∀ r, (u.tile o.tile).g r = if r = 0 then 0 else bk.g.get r.toFin) ∧
        (u.tile o.tile).cur.d = bk.d ∧ (u.tile o.tile).cur.sess = some o.session ∧
        (u.tile o.tile).kiln.vctl = 0 ∧ (u.tile o.tile).kiln.vstat = 0 ∧
        (∀ b, b ≠ o.bank → (u.tile o.tile).cur.used > ((u.tile o.tile).banks.get b).used) ∧
        (∀ b, b ≠ o.bank → (u.tile o.tile).banks.get b = (s.tile o.tile).banks.get b) ∧
        (∀ t, t ≠ o.tile → u.tile t = s.tile t) ∧ (u.course c).mover = rest ∧ (∀ a, u.byte a = s.byte a)) ∧
    (∀ o rest n, (s.course c).mover = o :: rest → o.spill = true → ((s.tile o.tile).banks.get o.bank).sess = some n →
      s.fld (ctl pHbmc 0x120) 1 0 = 2 →
      ∃ u, exec (.sessionFillDone c) s = .next (settle u) ∧
        (u.tile o.tile).banks.get o.bank = { Bank.empty with used := ((s.tile o.tile).banks.get o.bank).used } ∧
        u.bytes (sessAddr n) 512 = ((s.tile o.tile).banks.get o.bank).image n (sessLive s n) ∧
        (∀ a, a < sessAddr n ∨ sessAddr n + 512 ≤ a → u.byte a = s.byte a) ∧
        (∀ t, t ≠ o.tile → u.tile t = s.tile t) ∧ (u.course c).mover = rest)

/-- TAKE at Steward level without a ticket (spec/10 R315, R317): with no ticket ready the tile waits; a ready one is
dispatched: the tile runs it at Ledger level in its session's bank, at its handler's entry or its resume address, with
its bricks in bb0–bb3 and its instruction counts at 0, and the ticket leaves the run queue (said where no slice line is
poisoned or no buddy mirrors: else the dispatch first repairs the lines of its keys, R345). Elsewhere TAKE is PRIV. -/
def Obligations.TakeDispatches : Prop :=
  ∀ (t : TileId) (g : Guard) (s : State),
    Runs s t → (s.tile t).guard g = true → t.val < 96 →
    let x := (s.tile t).ready
    let s0 := s.ran t x
    (x.lvl ≠ .steward ∨ x.ticket = true → Says.raises (.take t g) s t Says.priv) ∧
    (x.lvl = .steward → x.ticket = false → readyTicket s0 t = none →
      exec (.take t g) s = .next (s.ran t { x with run := .takeWait })) ∧
    (x.lvl = .steward → x.ticket = false → recording s (courseOf t) = false → (s.course (courseOf t)).fillErr = [] →
      (s.poison = [] ∨ mirroring s = false) → ∀ k b, readyTicket s0 t = some (k, b) →
        ∃ u, exec (.take t g) s = .next (settle u) ∧
          (∃ banks kf, u.tile t = { x with
            run := .running, lvl := .ledger, ie := true, ticket := true, tk := some k.arrival, bank := b,
            pc := k.resume.getD k.entry, bb := Vector.ofFn (fun i => bbOf s k i.val), icnt := 0, tcc := 0, kcnt := 0,
            banks := banks, kiln := kf } ∧ kf.vctl = 0 ∧ kf.vstat = 0 ∧ (banks.get b).g = (x.banks.get b).g ∧
            (banks.get b).d = (x.banks.get b).d) ∧
          (∀ w, w ≠ t → u.tile w = s.tile w) ∧ (∀ a, u.byte a = s.byte a) ∧
          k.arrival ∉ (u.course (courseOf t)).runHi ∧ k.arrival ∉ (u.course (courseOf t)).runLo ∧
          (∀ q ∈ u.mason.tickets, q.arrival = k.arrival → q.st = .running t ∧ q.started = true))

/-- YIELD (R60, R61): at Ledger level with a ticket, on a tile that has no other ticket bound, the store buffer empty and
nothing recorded, the ticket goes to the tail of its run queue with the next instruction's address as its resume
address, and the tile enters the idle code at Steward level in bank 0. At another level YIELD raises code 0Fh subcode
05h, without a ticket subcode 04h. -/
def Obligations.YieldGivesUpTile : Prop :=
  ∀ (t : TileId) (g : Guard) (s : State),
    Runs s t → (s.tile t).guard g = true → t.val < 96 →
    let x := (s.tile t).ready
    (x.lvl ≠ .ledger → Says.raises (.yield t g) s t { code := 0x0F, sub := 5 }) ∧
    (x.lvl = .ledger → x.ticket = false → Says.raises (.yield t g) s t { code := 0x0F, sub := 4 }) ∧
    (x.lvl = .ledger → x.ticket = true → Says.kilnIdle x → x.sbuf = [] → recording s (courseOf t) = false →
      ∀ n k, x.tk = some n → ticketOf s n = some k → boundTo s t = [] → k.st = .running t →
        (∀ q ∈ s.mason.tickets, q.arrival = n → q = k) → k.course = courseOf t →
        ∃ u, exec (.yield t g) s = .next (settle u) ∧
          u.tile t = { x with run := .running, lvl := .steward, ie := true, ticket := false, bank := 0, tk := none,
                              bb := Vector.replicate 4 0, pc := BitVec.ofNat 64 (s.fld (ctl 0x90 0x120) 47 2 * 4) } ∧
          (∀ w, w ≠ t → u.tile w = s.tile w) ∧ (∀ a, u.byte a = s.byte a) ∧
          (∀ q ∈ u.mason.tickets, q.arrival = n → q = { k with st := .yielded, resume := some ((s.tile t).pc + 4) }) ∧
          (u.course k.course).runHi = (s.course k.course).runHi ++ (if k.prio then [n] else []) ∧
          (u.course k.course).runLo = (s.course k.course).runLo ++ (if k.prio then [] else [n]))

/-- A ticket's 64 bytes that CONT may stage for a tile (spec/10 R323, R297), by the fields of Layout 10-2: the tile runs a ticket
that holds fewer than 4 staged continuations; RSVD, REPLY and PH are 0; NKEYS and ALEN are in range and fit the body; WMASK names
only keys that are there; no key is 0 and no two are equal; SDEV is a device of the partition map, one taken over (R381), or a
static home; and the body behind the arguments is 0. -/
def Says.mayStage (s : State) (t : TileId) (bs : List Byte) : Prop :=
  let w (i : Nat) : Nat := ofBytes ((bs.drop (8 * i)).take 8)
  let f (hi lo : Nat) : Nat := w 0 / 2 ^ lo % 2 ^ (hi + 1 - lo)
  let sdev : BitVec 9 := BitVec.ofNat 9 (f 26 18)
  (∃ n k, (s.tile t).ticket = true ∧ (s.tile t).tk = some n ∧ ticketOf s n = some k ∧ k.conts.length < 4) ∧
  f 31 31 = 0 ∧ f 46 46 = 0 ∧ f 47 47 = 0 ∧ f 44 42 ≤ 4 ∧ f 37 32 ≤ 32 ∧ 8 * f 44 42 + f 37 32 ≤ 48 ∧
  (∀ j, f 44 42 ≤ j → f 41 38 / 2 ^ j % 2 = 0) ∧
  (∀ i, i < f 44 42 → w (2 + i) ≠ 0 ∧ ∀ j, j < i → w (2 + j) ≠ w (2 + i)) ∧
  ((∃ p, s.mason.pmap.get p = sdev) ∨ (∃ q ∈ s.mason.aliases, q.1 = sdev) ∨ staticHome s sdev = true) ∧
  (∀ i, 16 + 8 * f 44 42 + f 37 32 ≤ i → bs.getD i 0 = 0)

/-- CONT below Keystone level, its 64 bytes readable in plain memory and the store buffer empty (spec/10 R323): pd is set
and the ticket's bytes are staged behind the running ticket's earlier continuations where the ticket may stage them;
else pd is cleared and nothing is staged. At Keystone level CONT is PRIV. -/
def Obligations.ContStages : Prop :=
  ∀ (t : TileId) (g : Guard) (pd : BitVec 3) (ra : BitVec 5) (s s1 : State) (a : Addr) (xl : Xl),
    Runs s t → (s.tile t).guard g = true → t.val < 96 →
    let x := (s.tile t).ready
    let s0 := s.ran t x
    (x.lvl = .keystone → Says.raises (.cont t g pd ra) s t Says.priv) ∧
    (x.lvl ≠ .keystone → wordXl s0 t .unitLoad (x.g ra) 64 = .ok (a, xl) s1 → (xl.ty = .normal ∨ xl.ty = .brick) →
      (s1.tile t).sbuf = [] → s1.poisoned xl.pa 64 = false →
      let bs := s1.bytes xl.pa 64
      let done (b : Bool) : Tile := ((s1.tile t).setP pd b).stepped (s.tile t).lvl ((s.tile t).pc + 4)
      (¬ Says.mayStage s1 t bs → ∃ s', exec (.cont t g pd ra) s = .next s' ∧ TileOnly s1 s' t (done false)) ∧
      (∀ n, Says.mayStage s1 t bs → x.tk = some n → ∃ s', exec (.cont t g pd ra) s = .next s' ∧
        TileOnly { s1 with mason := s'.mason } s' t (done true) ∧
        s'.mason = { s1.mason with tickets := s1.mason.tickets.map (fun k =>
          if k.arrival = n then { k with conts := k.conts ++ [BitVec.ofNat 512 (ofBytes bs)] } else k) }))

/-! ## POST and JSYNC -/

/-- POST (spec/11 R347, R351): at another level than Ledger it is PRIV; without a ticket JOURNAL 01h; with the ring not
opened JOURNAL 02h; on a keystone tile, whose level is Keystone, it is PRIV too (R347). A ticket that has written nothing, staged nothing and came with no receipt commits at once, with no
record (R352): it has no outcome to wait for and is gone. Any other whose record may be written, with room in the ring and
no record waiting before it, gets its record at the next position: the record is in flight, not durable yet, HEADPOS is
past it, and the tile waits for the outcome. That an empty POST commits in state FENCED too is log entry 31. -/
def Obligations.PostCommits : Prop :=
  ∀ (t : TileId) (g : Guard) (s : State),
    Runs s t → (s.tile t).guard g = true →
    let x := (s.tile t).ready
    let c : Instr := .post t g
    (x.lvl ≠ .ledger → Says.raises c s t Says.priv) ∧
    (x.lvl = .ledger → x.ticket = false → Says.raises c s t { code := 0x11, sub := 1 }) ∧
    (x.lvl = .ledger → x.ticket = true → hwjState s = 0 → Says.raises c s t { code := 0x11, sub := 2 }) ∧
    (x.lvl = .ledger → x.ticket = true → hwjState s ≠ 0 → t.val < 96 → Says.kilnIdle x → x.sbuf = [] →
      recording s (courseOf t) = false → ∀ n k, x.tk = some n → ticketOf s n = some k →
        (k.ws = [] → k.conts = [] → k.receipt = none →
          ∃ u, exec c s = .next (settle u) ∧ (∀ q ∈ u.mason.tickets, q.arrival ≠ n) ∧
            u.hwj.inflight = s.hwj.inflight ∧ u.reg (ctl 0x91 0x108) = s.reg (ctl 0x91 0x108)) ∧
        (¬ (k.ws = [] ∧ k.conts = [] ∧ k.receipt = none) → s.hwj.waiting = [] → postVerdict s k = 0 → seqRoom s k = true →
          (∀ q ∈ s.mason.tickets, q.arrival = n → q = k) → spaceFor s (postLen s k) ≤ ringFree s → headPos s < 2 ^ 63 →
          ∃ u r, exec c s = .next (settle u) ∧ u.hwj.inflight = s.hwj.inflight ++ [r] ∧ r.ticket = some n ∧
            r.pos = nextPos s (postLen s k) ∧ r.len = postLen s k ∧ r.durable = false ∧
            u.reg (ctl 0x91 0x108) = BitVec.ofNat 64 (nextPos s (postLen s k) + postLen s k) ∧
            (u.tile t).run = .postWait n ∧ (u.tile t).pc = (s.tile t).pc))

/-- JSYNC with the store buffer empty (spec/11 R358): where every record below HEADPOS is durable and acknowledged it
completes; else the tile waits in it for that position. -/
def Obligations.JsyncWaits : Prop :=
  ∀ (t : TileId) (g : Guard) (s : State),
    Runs s t → (s.tile t).guard g = true → (s.tile t).sbuf = [] →
    let x := (s.tile t).ready
    let pos := (s.reg (ctl 0x91 0x108)).toNat
    let ready := pos ≤ (s.reg (ctl 0x91 0x110)).toNat ∧
      ∀ r ∈ s.hwj.inflight, r.pos < pos → r.needAck = true → r.acked = true
    (ready → Gives (.jsync t g) s t (x.stepped (s.tile t).lvl ((s.tile t).pc + 4))) ∧
    (¬ ready → exec (.jsync t g) s = .next (s.ran t { x with run := .jsyncWait pos }))

/-- SWS, and the session mover. -/
def Obligations.SessionsMove : Prop := Says.SessionSwitch ∧ Says.SessionMover

/-! ## Packed decimal -/

/-- A sum: its sign and magnitude; a zero sum is minus where both addends are (Table 4-7). -/
def Says.sum (a b : Dec) : Bool × Nat :=
  let e := a.int + b.int
  (if e = 0 then a.neg && b.neg else decide (e < 0), e.natAbs)

/-- A magnitude divided by 10^n and rounded (Table 4-8): to the nearest, ties away from 0 or to the even digit, or
truncated. -/
def Says.round (m : Rnd) (mag n : Nat) : Nat :=
  let p := 10 ^ n
  match m with
  | .halfUp => (2 * mag + p) / (2 * p)
  | .halfEven => if 2 * (mag % p) = p ∧ mag / p % 2 = 0 then mag / p else (2 * mag + p) / (2 * p)
  | .truncate => mag / p

/-- The rounding mode that DCTL.RMODE or DSHR's field names. -/
def Says.rmode (r : RndSel) (dctl : BitVec 8) : Rnd :=
  match r with
  | .halfUp => .halfUp
  | .halfEven => .halfEven
  | .truncate => .truncate
  | .dctl => if dctl.toNat % 4 = 1 then .halfEven else if dctl.toNat % 4 = 2 then .truncate else .halfUp

/-- Nibble `i` of a 128-bit value, from the most significant. -/
def Says.nibble (v : BitVec 128) (i : Nat) : Nat := v.toNat / 16 ^ (31 - i) % 16

/-- The first nibble that is no digit, or no sign in the last place (R125). -/
def Says.firstBad (v : BitVec 128) : Option Nat :=
  (List.range 32).find? (fun i => if i = 31 then decide (Says.nibble v i < 10) else decide (9 < Says.nibble v i))

/-- Where a result goes: one register, or a pair. -/
inductive Says.DecTo where
  | reg (r : BitVec 4)
  | pair (r : BitVec 4)

/-- A decimal instruction whose result is rounded to its destination by `finish`: whether its fields are defined, its
destination, the exact result (sign, magnitude), and whether a nonzero digit was discarded (R138, R142, R143, R145). -/
def Says.decimal (c : Instr) (x : Tile) : Option (TileId × Guard × Bool × Says.DecTo × Bool × Nat × Bool) :=
  let v (r : BitVec 4) : Dec := decVal (x.d r)
  let w (r : BitVec 4) : Dec := wideVal (x.d r) (x.d (r + 1))
  let ev (r : BitVec 4) : Bool := decide (r.toNat % 2 = 0)
  match c with
  | .dadd t g _ dd da db => let r := Says.sum (v da) (v db); some (t, g, true, .reg dd, r.1, r.2, false)
  | .dsub t g _ dd da db =>
    let r := Says.sum (v da) { v db with neg := !(v db).neg }; some (t, g, true, .reg dd, r.1, r.2, false)
  | .dmul t g _ dd da db => some (t, g, true, .reg dd, (v da).neg != (v db).neg, (v da).mag * (v db).mag, false)
  | .dmulw t g _ dp da db => some (t, g, ev dp, .pair dp, (v da).neg != (v db).neg, (v da).mag * (v db).mag, false)
  | .daddw t g dp da db =>
    let r := Says.sum (w da) (w db); some (t, g, ev dp && ev da && ev db, .pair dp, r.1, r.2, false)
  | .dsubw t g dp da db =>
    let r := Says.sum (w da) { w db with neg := !(w db).neg }
    some (t, g, ev dp && ev da && ev db, .pair dp, r.1, r.2, false)
  | .dnarw t g dd da => some (t, g, ev da, .reg dd, (w da).neg, (w da).mag, false)
  | .dmov t g dd da => some (t, g, true, .reg dd, (v da).neg, (v da).mag, false)
  | .dneg t g dd da => some (t, g, true, .reg dd, !(v da).neg, (v da).mag, false)
  | .dabs t g dd da => some (t, g, true, .reg dd, false, (v da).mag, false)
  | .dshr t g _ rm dd da n =>
    some (t, g, true, .reg dd, (v da).neg, Says.round (Says.rmode rm x.cur.dctl) (v da).mag n.toNat,
      decide ((v da).mag % 10 ^ n.toNat ≠ 0))
  | .dshl t g _ _ dd da n => some (t, g, true, .reg dd, (v da).neg, (v da).mag * 10 ^ n.toNat, false)
  | .cvbd t g dd ga n =>
    some (t, g, true, .reg dd, decide ((x.g ga).toInt < 0), (x.g ga).toInt.natAbs * 10 ^ n.toNat, false)
  | .dmtr t g dd ga gb =>
    let b : BitVec 128 := BitVec.ofNat 128 ((x.g ga).toNat * 2 ^ 64 + (x.g gb).toNat)
    some (t, g, (Says.firstBad b).isNone, .reg dd, (decVal b).neg, (decVal b).mag, false)
  | _ => none

/-- Decimal arithmetic completes (spec/04, finish; R126, R131, R132): the result's low 31 digits, or the pair's value
below 2 × 10^62, with its sign; a zero loses its minus unless KEEPZ is 1. A discarded digit sets DINX. A result that does
not fit sets DOVF, and with DOVT = 1 raises code 0Dh subcode 01h with nothing written. -/
def Obligations.DecimalArithmetic : Prop :=
  ∀ (c : Instr) (s : State) (t : TileId) (g : Guard) (dest : Says.DecTo) (neg : Bool) (mag : Nat) (inx : Bool),
    let x := (s.tile t).ready
    Says.decimal c x = some (t, g, true, dest, neg, mag, inx) → Runs s t → (s.tile t).guard g = true →
    let lim := match dest with | .reg _ => 10 ^ 31 | .pair _ => 2 * 10 ^ 62
    let n := neg && (x.cur.dstat.getLsbD 7 || decide (mag % lim ≠ 0))
    let sticky (m : BitVec 8) (b : Bool) (y : Tile) : Tile :=
      if b then y.modBank (fun k => { k with dstat := k.dstat ||| m }) else y
    let y := sticky 1 (decide (lim ≤ mag)) (sticky 4 inx x)
    let z := match dest with
      | .reg r => y.setD r (decReg n (mag % lim))
      | .pair r =>
        (y.setD r (decReg (decide (10 ^ 62 ≤ mag % lim)) (mag % lim % 10 ^ 62 / 10 ^ 31))).setD (r + 1)
          (decReg n (mag % lim % 10 ^ 31))
    (mag < lim ∨ x.cur.dctl.getLsbD 2 = false → Gives c s t (z.stepped (s.tile t).lvl ((s.tile t).pc + 4))) ∧
    (lim ≤ mag → x.cur.dctl.getLsbD 2 = true →
      exec c s = .next (stopCheck (enter (s.ran t y) t { code := 0x0D, sub := 1 } false (s.tile t).pc) t))

/-- DDIVS (R139): quotient truncated to dq, remainder with the dividend's sign to the low half of dp, its high half 0. A
zero divisor sets DZ, a quotient of more than 31 digits DOVF; then nothing is written, and with the trap enabled code
0Dh, subcode 02h or 01h, is raised. -/
def Says.DecimalDivision : Prop :=
  ∀ (t : TileId) (g : Guard) (ft : Bool) (dq dp dv : BitVec 4) (s : State),
    Runs s t → (s.tile t).guard g = true → dp.toNat % 2 = 0 →
    let x := (s.tile t).ready
    let w := wideVal (x.d dp) (x.d (dp + 1))
    let v := decVal (x.d dv)
    let q := w.mag / v.mag
    let r := w.mag % v.mag
    let c : Instr := .ddivs t g ft dq dp dv
    let flag (m : BitVec 8) : Tile := x.modBank (fun k => { k with dstat := k.dstat ||| m })
    let done (y : Tile) : Tile := y.stepped (s.tile t).lvl ((s.tile t).pc + 4)
    let sign (b : Bool) (m : Nat) : Bool := b && (x.cur.dstat.getLsbD 7 || decide (m ≠ 0))
    let raises (y : Tile) (sub : Nat) : Prop :=
      exec c s = .next (stopCheck (enter (s.ran t y) t { code := 0x0D, sub := sub } false (s.tile t).pc) t)
    (v.mag = 0 → x.cur.dctl.getLsbD 3 = false → Gives c s t (done (flag 2))) ∧
    (v.mag = 0 → x.cur.dctl.getLsbD 3 = true → raises (flag 2) 2) ∧
    (v.mag ≠ 0 → 10 ^ 31 ≤ q → x.cur.dctl.getLsbD 2 = false → Gives c s t (done (flag 1))) ∧
    (v.mag ≠ 0 → 10 ^ 31 ≤ q → x.cur.dctl.getLsbD 2 = true → raises (flag 1) 1) ∧
    (v.mag ≠ 0 → q < 10 ^ 31 → Gives c s t
      (done (((x.setD dp decZero).setD (dp + 1) (decReg (sign w.neg r) r)).setD dq (decReg (sign (w.neg != v.neg) q) q))))

/-- DCMP compares values (a zero equals a minus zero), DMFR moves half a register, CVDB rounds and converts (R141, R144,
R145): a value outside 64 bits sets DOVF and gives the low 64 bits, or with DOVT = 1 raises code 0Dh subcode 01h with them
in FINFO. DMTR of an invalid nibble raises code 0Ch, subcode 40h plus its position. -/
def Says.DecimalCompareConvert : Prop :=
  ∀ (t : TileId) (g : Guard) (s : State), Runs s t → (s.tile t).guard g = true →
    let x := (s.tile t).ready
    let done (y : Tile) : Tile := y.stepped (s.tile t).lvl ((s.tile t).pc + 4)
    (∀ ft cd pd da db,
      let a := (decVal (x.d da)).int
      let b := (decVal (x.d db)).int
      Gives (.dcmp t g ft cd pd da db) s t (done (x.setP pd (match cd with
        | .eq => decide (a = b) | .ne => decide (a ≠ b) | .lt => decide (a < b) | .le => decide (a ≤ b)
        | .gt => decide (b < a) | .ge => decide (b ≤ a))))) ∧
    (∀ gd da low, Gives (.dmfr t g gd da low) s t
      (done (x.setG gd (BitVec.ofNat 64 (if low then (x.d da).toNat % 2 ^ 64 else (x.d da).toNat / 2 ^ 64))))) ∧
    (∀ gd da n,
      let a := decVal (x.d da)
      let m := Says.round (Says.rmode .dctl x.cur.dctl) a.mag n.toNat
      let e : Int := if a.neg then -(m : Int) else m
      let fits := -(2 ^ 63) ≤ e ∧ e < 2 ^ 63
      let flag (k : BitVec 8) (b : Bool) (y : Tile) : Tile :=
        if b then y.modBank (fun q => { q with dstat := q.dstat ||| k }) else y
      let y := flag 1 (!decide fits) (flag 4 (decide (a.mag % 10 ^ n.toNat ≠ 0)) x)
      (fits ∨ x.cur.dctl.getLsbD 2 = false → Gives (.cvdb t g gd da n) s t (done (y.setG gd (BitVec.ofInt 64 e)))) ∧
      (¬ fits → x.cur.dctl.getLsbD 2 = true → exec (.cvdb t g gd da n) s =
        .next (stopCheck (enter (s.ran t y) t { code := 0x0D, sub := 1, finfo := BitVec.ofInt 64 e } false (s.tile t).pc) t))) ∧
    (∀ dd ga gb p, Says.firstBad (BitVec.ofNat 128 ((x.g ga).toNat * 2 ^ 64 + (x.g gb).toNat)) = some p →
      Says.raises (.dmtr t g dd ga gb) s t { code := 0x0C, sub := 0x40 + p })

/-! ## Packed fields in memory -/

/-- Lengths of DLD and DST, and of DADDM (Table 4-13). -/
def Says.fieldLen (n : Nat) : Nat := [1, 2, 3, 4, 5, 6, 8, 16].getD n 0
def Says.addLen (n : Nat) : Nat := [4, 6, 8, 16].getD n 0

/-- The nibbles of a field: a digit each, a sign in the last. -/
def Says.fieldBad (bs : List Byte) : Option Nat :=
  let ns := bs.flatMap (fun b => [b.toNat / 16, b.toNat % 16])
  (List.range ns.length).find? (fun i => if i + 1 = ns.length then decide (ns.getD i 0 < 10) else decide (9 < ns.getD i 0))

/-- The value that a field's nibbles spell, and its sign: minus for Bh and Dh (Table 4-2). -/
def Says.fieldValue (bs : List Byte) : Dec :=
  let ns := bs.flatMap (fun b => [b.toNat / 16, b.toNat % 16])
  { neg := decide (ns.getLastD 0 = 0xB ∨ ns.getLastD 0 = 0xD), mag := ns.dropLast.foldl (fun a d => a * 10 + d) 0 }

/-- A field of `n` bytes of a value: digits, then Ch or Dh. -/
def Says.fieldBytes (n : Nat) (neg : Bool) (mag : Nat) : List Byte :=
  (List.range n).map (fun i =>
    let dig (k : Nat) : Nat := mag / 10 ^ k % 10
    if i + 1 = n then BitVec.ofNat 8 (dig 0 * 16 + (if neg then 0xD else 0xC))
    else BitVec.ofNat 8 (dig (2 * (n - i) - 2) * 16 + dig (2 * (n - i) - 3)))

/-- DLD, DST and DADDM on a field within one page of plain memory, the store buffer empty (R146–R149). DLD loads the
field's value, or raises code 0Ch with the place of the first bad nibble. DST puts the register's low digits into the
store buffer, an entry for each line; DADDM, within one line, stores field plus register and loads the field's old value.
A result of more digits than the field sets DOVF: without DOVT, DST stores the low digits and DADDM stores nothing; with
DOVT, DADDM raises code 0Dh subcode 01h, and neither the field nor the write set is touched (spec/03 R92). -/
def Obligations.DecimalFields : Prop :=
  ∀ (t : TileId) (g : Guard) (r base : BitVec 4) (disp : BitVec 12) (s s1 : State) (xl : Xl),
    Runs s t → (s.tile t).guard g = true → (s.tile t).sbuf = [] →
    let x := (s.tile t).ready
    let s0 := s.ran t x
    let a := refAddr x (.mform base disp)
    let done (y : Tile) : Tile := y.stepped (s.tile t).lvl ((s.tile t).pc + 4)
    let keep (b : Bool) (m : Nat) : Bool := b && (x.cur.dstat.getLsbD 7 || decide (m ≠ 0))
    let ovf (b : Bool) (y : Tile) : Tile := if b then y.modBank (fun k => { k with dstat := k.dstat ||| 1 }) else y
    let y := s1.tile t
    (∀ len, let n := Says.fieldLen len.toNat
      pieces a n = [(a, n)] → place s0 t (dataCtx s0 t) .unitLoad a n = .ok xl s1 → (xl.ty = .normal ∨ xl.ty = .brick) →
      s1.poisoned xl.pa n = false →
      let bs := s1.bytes xl.pa n
      let v := Says.fieldValue bs
      (Says.fieldBad bs = none → ∃ s', exec (.dld t g len r base disp) s = .next s' ∧
        TileOnly s1 s' t (done (y.setD r (decReg (keep v.neg v.mag) v.mag)))) ∧
      (∀ p, Says.fieldBad bs = some p → Runs s1 t →
        ∃ e, e.code = 0x0C ∧ e.sub = p ∧ e.faddr = (a.plus (p / 2)).fa ∧
          exec (.dld t g len r base disp) s = .next (stopCheck (enter s1 t e false (s1.tile t).pc) t))) ∧
    (∀ len, let n := Says.fieldLen len.toNat
      pieces a n = [(a, n)] → place s0 t (dataCtx s0 t) .unitStore a n = .ok xl s1 → x.cur.dctl.getLsbD 2 = false →
      let v := decVal (x.d r)
      let m := v.mag % 10 ^ (2 * n - 1)
      let bs := Says.fieldBytes n (keep v.neg m) m
      let e (pa : Nat) (b : List Byte) : StoreEntry :=
        { pa := pa, bytes := b, device := decide (xl.ty = .device), brick := decide (xl.ty = .brick), via := xl.via }
      let k := 128 - xl.pa % 128
      let q := if n ≤ k then [e xl.pa bs] else [e xl.pa (bs.take k), e (xl.pa + k) (bs.drop k)]
      ∃ s', exec (.dst t g len r base disp) s = .next s' ∧
        TileOnly s1 s' t (done ({ ovf (decide (10 ^ (2 * n - 1) ≤ v.mag)) y with sbuf := q }))) ∧
    (∀ len, let n := Says.addLen len.toNat
      place s0 t (dataCtx s0 t) .atomic a n = .ok xl s1 →
      (match a with | .brick _ _ => xl.pa | .virt va => va.toNat) % 128 + n ≤ 128 → x.cur.dctl.getLsbD 2 = false →
      (xl.ty = .normal ∨ (xl.ty = .brick ∧ x.tk = none)) → plainPa s1 xl.pa = true → s1.poisoned xl.pa n = false →
      Says.fieldBad (s1.bytes xl.pa n) = none →
      let v := Says.fieldValue (s1.bytes xl.pa n)
      let w := Says.sum v (decVal (x.d r))
      let z (b : Bool) : Tile := done ((ovf b y).setD r (decReg (keep v.neg v.mag) v.mag))
      (w.2 < 10 ^ (2 * n - 1) → ∃ s', exec (.daddm t g len r base disp) s = .next s' ∧
        TileStores s1 s' t (z false) xl.pa (Says.fieldBytes n (keep w.1 w.2) w.2)) ∧
      (10 ^ (2 * n - 1) ≤ w.2 → ∃ s', exec (.daddm t g len r base disp) s = .next s' ∧ TileOnly s1 s' t (z true))) ∧
    (∀ len, let n := Says.addLen len.toNat
      place s0 t (dataCtx s0 t) .atomic a n = .ok xl s1 →
      (match a with | .brick _ _ => xl.pa | .virt va => va.toNat) % 128 + n ≤ 128 → x.cur.dctl.getLsbD 2 = true →
      (xl.ty = .normal ∨ xl.ty = .brick) → s1.poisoned xl.pa n = false → Says.fieldBad (s1.bytes xl.pa n) = none →
      10 ^ (2 * n - 1) ≤ (Says.sum (Says.fieldValue (s1.bytes xl.pa n)) (decVal (x.d r))).2 → Runs s1 t →
      exec (.daddm t g len r base disp) s =
        .next (stopCheck (enter (s1.setTile t (ovf true y)) t { code := 0x0D, sub := 1 } false y.pc) t))

/-! ## Character and zoned fields -/

/-- The control word after a unit of a field: PROG while bytes remain, NEG as read while they do, LEN what remains. -/
def Says.xWord (w : Word) (left : Nat) (neg : Bool) : Word :=
  setBits (setBit (setBit w 63 (decide (left ≠ 0))) 62 (neg && decide (left ≠ 0))) 0 7 left

/-- A byte of a character or zoned field (Table 4-15), at its first or last place: the digits it gives and the signs, minus
`true`; `none` where it is invalid. -/
def Says.zByte (fmt : Nat) (first last : Bool) (b : Nat) : Option (List Nat × List Bool) :=
  let signs := if fmt = 4 then (0x43, 0x44) else (0x2B, 0x2D)
  if fmt = 5 then
    if 9 < b % 16 then none
    else if last then
      (if b / 16 ∈ [0xA, 0xC, 0xE, 0xF, 3] then some ([b % 16], [false])
       else if b / 16 ∈ [0xB, 0xD] then some ([b % 16], [true]) else none)
    else if b / 16 ∈ [3, 0xF] then some ([b % 16], []) else none
  else if ((fmt = 2 ∨ fmt = 4) ∧ first = true) ∨ (fmt = 3 ∧ last = true) then
    (if b = signs.1 then some ([], [false]) else if b = signs.2 then some ([], [true]) else none)
  else if 0x30 ≤ b ∧ b ≤ 0x39 then some ([b - 0x30], []) else none

/-- The byte of a field that DSTX writes where `k` bytes remain from it on (Table 4-15): the sign's, or that of the digit which
stands so far from the field's end. -/
def Says.zPut (fmt : Nat) (first neg : Bool) (mag k : Nat) : Byte :=
  let digit (p : Nat) : Nat := mag / 10 ^ p % 10
  BitVec.ofNat 8 (
    if fmt = 5 then (if k = 1 then (if neg then 0xD0 else 0xC0) else 0x30) + digit (k - 1)
    else if ((fmt = 2 ∨ fmt = 4) ∧ first = true) ∨ (fmt = 3 ∧ k = 1) then
      (if fmt = 4 then (if neg then 0x44 else 0x43) else if neg then 0x2D else 0x2B)
    else 0x30 + digit (if fmt = 3 then k - 2 else k - 1))

/-- One unit of DLDX and of DSTX, of every format, its bytes within one page of plain memory, with the store buffer empty: the
instruction completes (spec/04 R150–R157). A packed field (FMT 0h) is one unit; of any other format a unit has as many bytes
as reach the next multiple of 16. ga passes them and gb's LEN loses them. DLDX loads the packed field, or appends the unit's
digits to the magnitude (with the sign at the field's end); DSTX stores the unit's digits and sign. A value that does not
fit sets DOVF, where DCTL.DOVT does not trap it, and its low digits are kept or stored (R157). When LEN is 0 the PC passes
the instruction; until then the PC stays and the unit is counted. The first invalid byte of a unit of DLDX raises code 0Ch with
KIND 10b and its place, at its address, and the unit has no effect (R155). What NEG says in a first unit is not looked at (log
entry 109). -/
def Obligations.ZonedFieldUnits : Prop :=
  ∀ (t : TileId) (g : Guard) (r : BitVec 4) (ga gb : BitVec 5) (s s1 : State) (xl : Xl),
    Runs s t → (s.tile t).guard g = true → (s.tile t).sbuf = [] →
    let x := (s.tile t).completeLrs
    let s0 := s.ran t (if (x.g gb).getLsbD 63 then { x with long := some gb } else x)
    let d := xDesc (x.g gb)
    let a := baseAddr d.base (x.g ga)
    let n := if d.fmt = 0 then d.len else min d.len (16 - a.fa.toNat % 16)
    let left := d.len - n
    d.invalid ga gb = false →
    (∀ k off, a = .brick k off → ∀ wr : Bool, ∃ p q, brickXl s0 t (if wr then .unitStore else .unitLoad) k off d.len = .ok p q) →
    pieces a n = [(a, n)] →
    let after (y : Tile) (neg : Bool) : Tile := (y.setG ga (y.g ga + BitVec.ofNat 64 n)).setG gb (Says.xWord (x.g gb) left neg)
    let done (y : Tile) : Tile :=
      if left = 0 then y.stepped x.lvl (x.pc + 4) else { y with long := some gb, units := y.units + 1 }
    let keep (b : Bool) (m : Nat) : Bool := b && (x.cur.dstat.getLsbD 7 || decide (m ≠ 0))
    let ovf (b : Bool) (z : Tile) : Tile := if b then z.modBank (fun k => { k with dstat := k.dstat ||| 1 }) else z
    let free := x.cur.dctl.getLsbD 2 = false
    let y := s1.tile t
    (place s0 t (dataCtx s0 t) .unitLoad a n = .ok xl s1 → (xl.ty = .normal ∨ xl.ty = .brick) → s1.poisoned xl.pa n = false →
      let bs := s1.bytes xl.pa n
      let v := Says.fieldValue bs
      (d.fmt = 0 → Says.fieldBad bs = none → ∃ s', exec (.dldx t g r ga gb) s = .next s' ∧
        TileOnly s1 s' t (done (after (y.setD r (decReg (keep v.neg v.mag) v.mag)) false))) ∧
      let z (i : Nat) := Says.zByte d.fmt (!d.prog && decide (i = 0)) (decide (i + 1 = d.len)) (bs.getD i 0).toNat
      let zs := (List.range n).map z
      (d.fmt ≠ 0 → (∀ i, i < n → (z i).isSome = true) →
        let m := (zs.flatMap (fun q => (q.getD ([], [])).1)).foldl (fun v k => v * 10 + k)
          (if d.prog then (decVal (x.d r)).mag else 0)
        let neg := (zs.flatMap (fun q => (q.getD ([], [])).2)).getLastD (d.prog && d.neg)
        let w := m % 10 ^ 31
        (m < 10 ^ 31 ∨ free) →
        ∃ s', exec (.dldx t g r ga gb) s = .next s' ∧
          TileOnly s1 s' t (done (after ((ovf (decide (10 ^ 31 ≤ m)) y).setD r
            (decReg (decide (left = 0) && keep neg w) w)) neg))) ∧
      (d.fmt ≠ 0 → Runs s1 t → ∀ i, i < n → z i = none → (∀ j, j < i → (z j).isSome = true) →
        ∃ e, e.code = 0x0C ∧ e.sub = 0x80 + i ∧ e.faddr = (a.plus i).fa ∧
          exec (.dldx t g r ga gb) s = .next (stopCheck (enter s1 t e false (s1.tile t).pc) t))) ∧
    (place s0 t (dataCtx s0 t) .unitStore a n = .ok xl s1 → (xl.ty = .normal ∨ (xl.ty = .brick ∧ x.tk = none)) →
      plainPa s1 xl.pa = true →
      let v := decVal (x.d r)
      let lim := 10 ^ (if d.fmt = 0 then 2 * d.len - 1 else if d.fmt ≤ 4 ∧ 2 ≤ d.fmt then d.len - 1 else d.len)
      let big := d.prog = false ∧ (lim ≤ v.mag ∨ (d.fmt = 1 ∧ v.mag ≠ 0 ∧ v.neg = true))
      (¬ big ∨ free) →
      let m := if d.prog then v.mag else v.mag % lim
      ∃ s', exec (.dstx t g r ga gb) s = .next s' ∧
        TileStores s1 s' t (done (after (ovf (decide big) y) false)) xl.pa
          (if d.fmt = 0 then Says.fieldBytes n (keep v.neg m) m
           else (List.range n).map (fun i => Says.zPut d.fmt (!d.prog && decide (i = 0)) (keep v.neg m) v.mag (d.len - i))))

/-- Decimal division, comparison and conversion. -/
def Obligations.DecimalDivideCompareConvert : Prop := Says.DecimalDivision ∧ Says.DecimalCompareConvert

/-! ## Strings -/

/-- Memory as a function, and a byte put into it. -/
def Says.put (m : Nat → Byte) (pa : Nat) (b : Byte) : Nat → Byte := fun p => if p = pa then b else m p

/-- The bytes `a`, …, `a + n − 1` are readable (writable, as `k` says) plain memory at the physical addresses `pa`, their
translation at hand in the TLB; a page of virtual addresses is a page of physical ones. -/
def Says.at_ (s : State) (t : TileId) (k : Acc) (pa : Addr → Nat) (a : Addr) (n : Nat) : Prop :=
  (∀ i, i < n → plainPa s (pa (a.plus i)) = true ∧ s.poisoned (pa (a.plus i)) 1 = false ∧ ∃ x, x.pa = pa (a.plus i) ∧
    match a.plus i with
    | .brick slot off => brickXl s t k slot off 1 = .ok x s ∧ (s.tile t).tk = none
    | .virt va => translate s t .data (dataCtx s t) k va 1 = .ok x s ∧ x.ty = .normal) ∧
  (∀ v w : Word, pa (.virt v) % 0x4000 = v.toNat % 0x4000 ∧
    (v.toNat / 0x4000 = w.toNat / 0x4000 → pa (.virt v) / 0x4000 = pa (.virt w) / 0x4000))

/-- A string instruction: its tile, guard and registers (Table 5-2). -/
def Says.string (c : Instr) : Option (TileId × Guard × SIns) :=
  match c with
  | .mvs t g ft ra rb rl => some (t, g, { kind := .mv, ft := ft, ra := ra, rb := rb, rl := rl, useB := true })
  | .mvsr t g ft ra rb rl => some (t, g, { kind := .mv, ft := ft, ra := ra, rb := rb, rl := rl, useB := true })
  | .cps t g ft _ rx ra rb rl => some (t, g, { kind := .cps, ft := ft, ra := ra, rb := rb, rl := rl, rx := rx, useB := true, useX := true })
  | .srch t g _ _ ra rl _ => some (t, g, { kind := .srch, ft := false, ra := ra, rl := rl })
  | .trs t g ft ra rb rl => some (t, g, { kind := .trs, ft := ft, ra := ra, rb := rb, rl := rl, useB := true })
  | .tts t g ft _ rx ra rb rl => some (t, g, { kind := .tts, ft := ft, ra := ra, rb := rb, rl := rl, rx := rx, useB := true, useX := true })
  | .edt t g ft ra rb rl => some (t, g, { kind := .edit, ft := ft, ra := ra, rb := rb, rl := rl, useB := true })
  | .edtm t g ft rx ra rb rl => some (t, g, { kind := .edit, ft := ft, ra := ra, rb := rb, rl := rl, rx := rx, useB := true, useX := true })
  | .chkdV t g ft _ ra rl => some (t, g, { kind := .chkd, ft := ft, ra := ra, rl := rl })
  | .chkdG t g ft rx ra rl => some (t, g, { kind := .chkd, ft := ft, ra := ra, rl := rl, rx := rx, useX := true })
  | .bmap t g _ rx ra rl => some (t, g, { kind := .bmap, ft := false, ra := ra, rl := rl, rx := rx, useX := true })
  | _ => none

/-- A string instruction about to perform a unit (R161–R168): its tile runs and its guard holds, its control word and
operands pass the checks before every unit, nothing is in the store buffer, and the unit is not one that only pads. -/
def Says.unitStarts (c : Instr) (s s0 : State) (t : TileId) (i : SIns) : Prop :=
  (∃ g, Says.string c = some (t, g, i) ∧ (s.tile t).guard g = true) ∧ Runs s t ∧ (s.tile t).sbuf = [] ∧
  (Says.optionalForm c = true → s.fuses.caps0.getLsbD 8 = true) ∧
  let x := (s.tile t).completeLrs
  let w := cwOf (x.g i.rl)
  s0 = s.ran t (if w.prog then { x with long := some i.rl } else x) ∧ i.spec w = none ∧ i.bricks s0 t w = none ∧
  (i.ft = true → w.hit = false ∧ (w.len = 0 → w.prog = false)) ∧ (i.ft = false → w.len = 0 → w.prog = true)

/-- The tile after a unit that leaves `left` bytes (R167, R174): the ordinary form is complete when nothing is left or at
a stop byte, a fixed-time form after its full number of units; till then PROG is 1, FTU counts, HIT remembers that CPS or TTS
is complete, and the instruction is still the next one to execute. -/
def Says.unitDone (i : SIns) (x y : Tile) (left : Nat) (stop : Bool) : Tile :=
  let w := cwOf (x.g i.rl)
  let last := if i.ft then decide (w.ftu + 1 = i.kind.ftUnits) else decide (left = 0) || stop
  let v := setBits (setBit (setBits (y.g i.rl) 0 32 left) 63 (!last)) 59 4 (if i.ft && !last then w.ftu + 1 else 0)
  let z := y.setG i.rl (setBit v 58 (i.ft && !last &&
    (w.hit || stop || (decide (left = 0) && decide (i.kind = .cps ∨ i.kind = .tts)))))
  if last then z.stepped x.lvl (x.pc + 8) else { z with long := some i.rl, units := z.units + 1 }

/-- `s'` is `s` but for tile `t`, its page's event counters, and memory, which reads as `m`. -/
def Says.leaves (s s' : State) (t : TileId) (x : Tile) (m : Nat → Byte) : Prop :=
  s'.tile t = x ∧ (∀ u, u ≠ t → s'.tile u = s.tile u) ∧
  (∀ a, isCounter (tilePage t) a = false → s'.reg a = s.reg a) ∧ (∀ a, s'.byte a = m a) ∧
  s' = { s with tiles := s'.tiles, regs := s'.regs, mem := s'.mem, freeCtr := s'.freeCtr }

/-- One unit of MVS, MVSR and TRS (R175, R176, R179): of at most 64 bytes, one after the other, so a byte that the unit
has written is read as written. MVS moves ra and rb past the unit, TRS moves ra, MVSR goes from the right and moves
neither. -/
def Obligations.StringsMove : Prop :=
  ∀ (c : Instr) (s s0 : State) (t : TileId) (i : SIns) (pa : Addr → Nat),
    Says.unitStarts c s s0 t i →
    let x := s0.tile t
    let len := (cwOf (x.g i.rl)).len
    let n := min 64 len
    let a := i.addrA x
    let b := i.addrB x
    let copy (m : Nat → Byte) (j : Nat) : Nat → Byte := Says.put m (pa (a.plus j)) (m (pa (b.plus j)))
    let moved (da db : Nat) : Tile := Says.unitDone i x ((x.setG i.ra (x.g i.ra + BitVec.ofNat 64 da)).setG i.rb
      (x.g i.rb + BitVec.ofNat 64 db)) (len - n) false
    (∀ g ft ra rb rl, c = .mvs t g ft ra rb rl → Says.at_ s0 t .unitStore pa a n → Says.at_ s0 t .unitLoad pa b n →
      ∃ s', exec c s = .next s' ∧ Says.leaves s s' t (moved n n) ((List.range n).foldl copy s.byte)) ∧
    (∀ g ft ra rb rl, c = .mvsr t g ft ra rb rl → Says.at_ s0 t .unitStore pa a len → Says.at_ s0 t .unitLoad pa b len →
      ∃ s', exec c s = .next s' ∧
        Says.leaves s s' t (moved 0 0) ((List.range n).foldl (fun m j => copy m (len - 1 - j)) s.byte)) ∧
    (∀ g ft ra rb rl, c = .trs t g ft ra rb rl → Says.at_ s0 t .unitStore pa a n → Says.at_ s0 t .unitLoad pa b 256 →
      ∃ s', exec c s = .next s' ∧ Says.leaves s s' t (moved n 0) ((List.range n).foldl (fun m j =>
        Says.put m (pa (a.plus j)) (m (pa (b.plus (m (pa (a.plus j))).toNat)))) s.byte))

/-- One unit of CPS, SRCH and TTS (R177, R178, R180): of at most 64 bytes; memory does not change. At the first stop
byte — a difference, a byte equal (or not) to the one sought, a nonzero table byte — ra (and rb of CPS) points at it and
the results say what was found; at the end of the operand they say that nothing was. -/
def Obligations.StringsScan : Prop :=
  ∀ (c : Instr) (s s0 : State) (t : TileId) (i : SIns) (pa : Addr → Nat),
    Says.unitStarts c s s0 t i →
    let x := s0.tile t
    let len := (cwOf (x.g i.rl)).len
    let n := min 64 len
    let A (j : Nat) : Byte := s.byte (pa ((i.addrA x).plus j))
    let B (j : Nat) : Byte := s.byte (pa ((i.addrB x).plus j))
    let step (db : Nat) (stop : Nat → Bool) (hit : Nat → Tile → Tile) (ending : Tile → Tile) : Tile :=
      let at_ (y : Tile) (k : Nat) : Tile :=
        let y := y.setG i.ra (y.g i.ra + BitVec.ofNat 64 k)
        if db = 1 then y.setG i.rb (y.g i.rb + BitVec.ofNat 64 k) else y
      match (List.range n).find? stop with
      | some j => Says.unitDone i x (at_ (hit j x) j) (len - j) true
      | none => Says.unitDone i x (at_ (if len = n then ending x else x) n) (len - n) false
    Says.at_ s0 t .unitLoad pa (i.addrA x) n →
    (∀ g ft pd rx ra rb rl, c = .cps t g ft pd rx ra rb rl → Says.at_ s0 t .unitLoad pa (i.addrB x) n →
      Gives c s t (step 1 (fun j => decide (A j ≠ B j))
        (fun j y => (y.setG rx (if (B j).toNat < (A j).toNat then 1 else BitVec.ofInt 64 (-1))).setP pd false)
        (fun y => (y.setG rx 0).setP pd true))) ∧
    (∀ g ne pd ra rl ch, c = .srch t g ne pd ra rl ch →
      Gives c s t (step 0 (fun j => if ne then decide (A j ≠ ch) else decide (A j = ch)) (fun _ y => y.setP pd true)
        (fun y => y.setP pd false))) ∧
    (∀ g ft pd rx ra rb rl, c = .tts t g ft pd rx ra rb rl → Says.at_ s0 t .unitLoad pa (i.addrB x) 256 →
      Gives c s t (step 0 (fun j => decide (B (A j).toNat ≠ 0))
        (fun j y => (y.setG rx (BitVec.ofNat 64 (B (A j).toNat).toNat)).setP pd true)
        (fun y => (y.setG rx 0).setP pd false)))

/-- An edit under way: source bytes consumed, the flags of Map 5-3, the address of the first significant position, and
memory. -/
structure Says.Ed where
  db : Nat
  sig : Bool
  half : Bool
  nz : Bool
  negf : Bool
  sgn : Bool
  run : Nat
  first : Option Word
  m : Nat → Byte

/-- One pattern byte (R181–R184, Table 5-7), or none where the source holds no digit: a digit place 10h, or 11h that turns
significance on; field separator 12h, 13h a fill, 14h and 15h a run that shows only for a minus or a plus; any other byte
stays where it shows and else is filled. -/
def Says.editByte (pa : Addr → Nat) (a b : Addr) (fill : Nat) (o : Option Says.Ed) (j : Nat) : Option Says.Ed :=
  o.bind (fun e =>
    let here := a.plus j
    let ch := (e.m (pa here)).toNat
    let set (e : Says.Ed) (v : Nat) : Says.Ed := { e with m := Says.put e.m (pa here) (BitVec.ofNat 8 v) }
    if ch = 0x10 ∨ ch = 0x11 then
      let src := (e.m (pa (b.plus e.db))).toNat
      let d := if e.half then src % 16 else src / 16
      if 9 < d then none
      else
        let shown := ch = 0x11 ∨ e.sig = true ∨ d ≠ 0
        let f := { e with run := 0, sig := decide shown, nz := e.nz || decide (d ≠ 0),
                          first := if shown ∧ e.sig = false then some here.fa else e.first }
        let f := if e.half then { f with half := false, db := e.db + 1 }
          else if src % 16 < 10 then { f with half := true }
          else { f with db := e.db + 1, sgn := true, negf := decide (src % 16 = 0xB ∨ src % 16 = 0xD) }
        some (set f (if shown then 0x30 + d else fill))
    else if ch = 0x12 then some (set { e with sig := false, nz := false, negf := false, sgn := false, run := 0 } fill)
    else if ch = 0x13 then some (set { e with run := 0 } fill)
    else if ch = 0x14 ∨ ch = 0x15 then some (set { e with run := ch - 0x13 } fill)
    else
      let shows := if e.run = 1 then e.sgn && e.negf else if e.run = 2 then e.sgn && !e.negf else e.sig
      some (set e (if shows then ch else fill)))

/-- One unit of EDT and EDTM: at most 8 pattern bytes, edited in order; ra passes them, rb the source bytes consumed, the
flags go into the control word, and gx of EDTM holds the address at which significance was turned on. -/
def Says.StringsEdit : Prop :=
  ∀ (c : Instr) (s s0 : State) (t : TileId) (i : SIns) (pa : Addr → Nat) (mark : Option (BitVec 5)),
    Says.unitStarts c s s0 t i →
    ((∃ g ft ra rb rl, c = .edt t g ft ra rb rl ∧ mark = none) ∨
      (∃ g ft rx ra rb rl, c = .edtm t g ft rx ra rb rl ∧ mark = some rx)) →
    let x := s0.tile t
    let w := cwOf (x.g i.rl)
    let n := min 8 w.len
    let a := i.addrA x
    let b := i.addrB x
    Says.at_ s0 t .unitStore pa a n → Says.at_ s0 t .unitLoad pa b 8 →
    let e0 : Says.Ed := { db := 0, sig := w.sig, half := w.half, nz := w.nz, negf := w.negf, sgn := w.sgn, run := w.run,
                          first := none, m := s.byte }
    ∀ e, (List.range n).foldl (Says.editByte pa a b w.fill) (some e0) = some e →
      let fin := w.len = n
      let y := match mark, e.first with
        | some r, some v => x.setG r v
        | _, _ => x
      let v := setBit (setBit (y.g i.rl) 39 (e.sig && !decide fin)) 38 (e.half && !decide fin)
      let v := setBits (setBit (setBit (setBit v 37 e.nz) 36 e.negf) 35 e.sgn) 33 2 (if fin then 0 else e.run)
      let y := ((y.setG i.rl v).setG i.ra (y.g i.ra + BitVec.ofNat 64 n)).setG i.rb (y.g i.rb + BitVec.ofNat 64 e.db)
      ∃ s', exec c s = .next s' ∧ Says.leaves s s' t (Says.unitDone i x y (w.len - n) false) e.m

/-- The Luhn sum of digits, the last of them at weight 1 or, where `g` is 1, at weight 2 (R185). -/
def Says.luhn (g : Nat) (ds : List Nat) : Nat :=
  (ds.reverse.zipIdx.map (fun p => if (p.2 + g) % 2 = 1 then 2 * p.1 / 10 + 2 * p.1 % 10 else p.1)).sum

/-- CHKD and BMAP complete in one unit and leave ra, rl and memory (R185–R187): CHKD.V sets pd where the number's check
digit is right, CHKD.G gives the check digit, of a field of character digits or of packed ones (DFMT); BMAP gives the
number of the first set bit above rx, or one past the last with pd 0. -/
def Says.StringsCheck : Prop :=
  ∀ (c : Instr) (s s0 : State) (t : TileId) (i : SIns) (pa : Addr → Nat),
    Says.unitStarts c s s0 t i →
    let x := s0.tile t
    let w := cwOf (x.g i.rl)
    let A (j : Nat) : Nat := (s.byte (pa ((i.addrA x).plus j))).toNat
    let bytes := if i.kind = .chkd ∧ w.dfmt = true then (w.len + 1) / 2 else w.len
    let nib (k : Nat) : Nat := if k % 2 = 0 then A (k / 2) / 16 else A (k / 2) % 16
    let digits : List Nat := if w.dfmt then (List.range w.len).map (fun k => nib (k + w.len % 2))
      else (List.range w.len).map (fun k => A k - 0x30)
    let good := ∀ k, k < w.len → if w.dfmt then nib (k + w.len % 2) ≤ 9 else 0x30 ≤ A k ∧ A k ≤ 0x39
    let done (y : Tile) : Tile := y.stepped x.lvl (x.pc + 8)
    Says.at_ s0 t .unitLoad pa (i.addrA x) bytes →
    (∀ g ft pd ra rl, c = .chkdV t g ft pd ra rl → good →
      Gives c s t (done (x.setP pd (decide (Says.luhn 0 digits % 10 = 0))))) ∧
    (∀ g ft rx ra rl, c = .chkdG t g ft rx ra rl → good →
      Gives c s t (done (x.setG rx (BitVec.ofNat 64 ((10 - Says.luhn 1 digits % 10) % 10))))) ∧
    (∀ g pd rx ra rl, c = .bmap t g pd rx ra rl →
      let bit (k : Nat) : Bool := decide (A (k / 8) / 2 ^ (7 - k % 8) % 2 = 1)
      Gives c s t (done (match (List.range (8 * w.len)).find? (fun k => decide ((x.g rx).toNat ≤ k) && bit k) with
        | some k => (x.setG rx (BitVec.ofNat 64 (k + 1))).setP pd true
        | none => (x.setG rx (BitVec.ofNat 64 (8 * w.len + 1))).setP pd false)))

/-- Editing and checking of strings. -/
def Obligations.StringsEditCheck : Prop := Says.StringsEdit ∧ Says.StringsCheck

/-! ## FP32 -/

/-- FSTAT bits that conditions set (Map 7-2): invalid, division by zero, overflow, underflow, inexact. -/
def Says.isNaN (a : BitVec 32) : Bool := decide (a.toNat / 2 ^ 23 % 256 = 255 ∧ a.toNat % 2 ^ 23 ≠ 0)
def Says.isSNaN (a : BitVec 32) : Bool := Says.isNaN a && !a.getLsbD 22
def Says.isFinite (a : BitVec 32) : Bool := decide (a.toNat / 2 ^ 23 % 256 ≠ 255)

/-- The value of a finite FP32 number. -/
def Says.value (a : BitVec 32) : Rat :=
  let e := a.toNat / 2 ^ 23 % 256
  let sig := if e = 0 then a.toNat % 2 ^ 23 else a.toNat % 2 ^ 23 + 2 ^ 23
  let m : Rat := (sig * 2 ^ (max e 1 - 1) : Nat) / (2 ^ 149 : Nat)
  if a.getLsbD 31 then -m else m

/-- The order of numbers that are no NaN, infinities outermost and −0 equal to +0. -/
def Says.order (a : BitVec 32) : Int := if a.getLsbD 31 then -((a.toNat % 2 ^ 31 : Nat) : Int) else (a.toNat % 2 ^ 31 : Nat)

def Says.magnitude (r : Rat) : Rat := if r < 0 then -r else r

/-- `r` is the finite FP32 number that `v` rounds to in mode FRM (R230, Map 7-1): nearest with ties to even, towards
zero, up, down. -/
def Says.rounds (frm : Nat) (v : Rat) (r : BitVec 32) : Prop :=
  let d (y : BitVec 32) : Rat := Says.magnitude (Says.value y - v)
  Says.isFinite r = true ∧ (r.getLsbD 31 = true ↔ v < 0) ∧
  (frm = 0 → ∀ y, Says.isFinite y = true → d r ≤ d y ∧ (d r = d y → Says.value y ≠ Says.value r → r.getLsbD 0 = false)) ∧
  (frm = 1 → Says.magnitude (Says.value r) ≤ Says.magnitude v ∧ ∀ y, Says.isFinite y = true →
    Says.magnitude (Says.value y) ≤ Says.magnitude v → Says.magnitude (Says.value y) ≤ Says.magnitude (Says.value r)) ∧
  (frm = 2 → v ≤ Says.value r ∧ ∀ y, Says.isFinite y = true → v ≤ Says.value y → Says.value r ≤ Says.value y) ∧
  (frm = 3 → Says.value r ≤ v ∧ ∀ y, Says.isFinite y = true → Says.value y ≤ v → Says.value y ≤ Says.value r)

/-- Seven FDSTEPs (R238). -/
def Says.fdsteps (n : Nat) (b : BitVec 32) (z : Word × Word) : Word × Word :=
  match n with
  | 0 => z
  | n + 1 => Says.fdsteps n b (fdstepF z.1 z.2 b)

/-- R230, R238: sums, differences, products, fused multiply-adds and quotients of finite numbers are the exact value,
rounded once, wherever it is not 0 and no larger than the largest finite number; inexact is set exactly where the result
differs from it, and neither invalid, division by zero nor overflow is. -/
def Obligations.FloatRounding : Prop :=
  ∀ (frm : Nat) (a b c : BitVec 32), frm < 4 → Says.isFinite a = true → Says.isFinite b = true → Says.isFinite c = true →
    let good (v : Rat) (z : BitVec 32 × BitVec 5) : Prop :=
      v ≠ 0 → Says.magnitude v ≤ Says.value 0x7F7FFFFF#32 →
        Says.rounds frm v z.1 ∧ (z.2.getLsbD 4 = true ↔ Says.value z.1 ≠ v) ∧ z.2.toNat % 8 = 0
    good (Says.value a + Says.value b) (addF frm false a b) ∧
    good (Says.value a - Says.value b) (subF frm false a b) ∧
    good (Says.value a * Says.value b) (mulF frm false a b) ∧
    good (Says.value a * Says.value b + Says.value c) (fmaF frm false a b c) ∧
    (Says.value b ≠ 0 → ∀ f, let z := Says.fdsteps 7 b (fdivsF a b)
      good (Says.value a / Says.value b) (fdfinF frm z.1 z.2 f))

/-- The minimum or maximum (R233): of a quiet NaN and a number the number; the canonical NaN where both are NaNs or one is
signalling; −0 below +0. -/
def Says.minMax (max : Bool) (a b : BitVec 32) : BitVec 32 :=
  if Says.isSNaN a || Says.isSNaN b || (Says.isNaN a && Says.isNaN b) then 0x7FC00000
  else if Says.isNaN a then b
  else if Says.isNaN b then a
  else
    let below := Says.order a < Says.order b ∨ (Says.order a = Says.order b ∧ a.getLsbD 31 = true)
    if max then (if below then b else a) else (if below then a else b)

/-- The compares of R234: result, and invalid. -/
def Says.fcmp (f : FCmpFn) (a b : BitVec 32) : Bool × Bool :=
  let nan := Says.isNaN a || Says.isNaN b
  let quiet := Says.isSNaN a || Says.isSNaN b
  match f with
  | .eq => (!nan && decide (Says.order a = Says.order b), quiet)
  | .un => (nan, quiet)
  | .lt => (!nan && decide (Says.order a < Says.order b), nan)
  | .le => (!nan && decide (Says.order a ≤ Says.order b), nan)

/-- An FP32 instruction of a tile that may set conditions: tile, guard, conditions, the result as FINFO would hold it, and
the tile with it written. -/
def Says.float (c : Instr) (x : Tile) : Option (TileId × Guard × BitVec 5 × Word × Tile) :=
  let f (r : BitVec 5) : BitVec 32 := BitVec.ofNat 32 (x.g r).toNat
  let frm := x.cur.fctl.toNat / 32 % 4
  let rd_ (t : TileId) (g : Guard) (rd : BitVec 5) (z : BitVec 32 × BitVec 5) : Option (TileId × Guard × BitVec 5 × Word × Tile) :=
    some (t, g, z.2, BitVec.ofNat 64 z.1.toNat, x.setG rd (BitVec.ofNat 64 z.1.toNat))
  match c with
  | .faddFsubFmul t g k rd ra rb => rd_ t g rd (match k with
    | .fadd => addF frm false (f ra) (f rb)
    | .fsub => subF frm false (f ra) (f rb)
    | .fmul => mulF frm false (f ra) (f rb))
  | .fma t g rd ra rb => rd_ t g rd (fmaF frm false (f ra) (f rb) (f rd))
  | .fminFmax t g max rd ra rb =>
    rd_ t g rd (Says.minMax max (f ra) (f rb), if Says.isSNaN (f ra) || Says.isSNaN (f rb) then 1 else 0)
  | .fnegFabs t g abs rd ra =>
    rd_ t g rd (if Says.isNaN (f ra) then 0x7FC00000
      else if abs then BitVec.ofNat 32 ((f ra).toNat % 2 ^ 31) else BitVec.ofNat 32 ((f ra).toNat + 2 ^ 31), 0)
  | .fcvt t g k rd ra =>
    (match k with
    | .ws => let z := toIntF frm false 32 (f ra)
             some (t, g, z.2, BitVec.ofNat 64 (BitVec.ofInt 32 z.1).toNat, x.setG rd (BitVec.ofInt 64 z.1))
    | .ls => let z := toIntF frm false 64 (f ra)
             some (t, g, z.2, BitVec.ofInt 64 z.1, x.setG rd (BitVec.ofInt 64 z.1))
    | .sw => rd_ t g rd (ofIntF frm (f ra).toInt)
    | .sl => rd_ t g rd (ofIntF frm (x.g ra).toInt))
  | .fcmp t g k pd ra rb =>
    let z := Says.fcmp k (f ra) (f rb)
    some (t, g, if z.2 then 1 else 0, if z.1 then 1 else 0, x.setP pd z.1)
  | _ => none

/-- The subcode of the first condition that FCTL enables (R232). -/
def Says.fpTrap (cond : BitVec 5) (fctl : BitVec 8) : Option Nat :=
  ((List.range 5).find? (fun i => cond.getLsbD i && fctl.getLsbD i)).map (· + 1)

/-- FP32 instructions complete (R229, R232): FSTAT collects every condition; where none of them is enabled the result is
written, else no register is and code 0Eh is raised with the first enabled condition's subcode and the result in FINFO. -/
def Obligations.FloatInstructions : Prop :=
  ∀ (c : Instr) (s : State) (t : TileId) (g : Guard) (cond : BitVec 5) (res : Word) (y : Tile),
    let x := (s.tile t).ready
    Says.float c x = some (t, g, cond, res, y) → Runs s t → (s.tile t).guard g = true →
    let sticky (z : Tile) : Tile := z.modBank (fun b => { b with fstat := b.fstat ||| BitVec.ofNat 8 cond.toNat })
    (Says.fpTrap cond x.cur.fctl = none → Gives c s t ((sticky y).stepped (s.tile t).lvl ((s.tile t).pc + 4))) ∧
    (∀ n, Says.fpTrap cond x.cur.fctl = some n →
      exec c s = .next (stopCheck (enter (s.ran t (sticky x)) t { code := 0x0E, sub := n, finfo := res } false
        (s.tile t).pc) t))

/-- Conversions to an integer (R235): a NaN gives 0, an infinity or a number out of range the nearest bound, both invalid;
any other the number rounded in the mode of FRM, inexact where that changes it. -/
def Says.FloatToInteger : Prop :=
  ∀ (frm w : Nat) (a : BitVec 32), frm < 4 → (w = 32 ∨ w = 64) →
    let z := toIntF frm false w a
    let lo : Int := -(2 ^ (w - 1))
    let hi : Int := 2 ^ (w - 1) - 1
    (Says.isNaN a = true → z = (0, 1)) ∧
    (Says.isNaN a = false → Says.isFinite a = false → z = (if a.getLsbD 31 then lo else hi, 1)) ∧
    (Says.isFinite a = true → ∃ n : Int,
      (frm = 0 → Says.magnitude (Says.value a - n) ≤ 1 / 2 ∧ (Says.magnitude (Says.value a - n) = 1 / 2 → n % 2 = 0)) ∧
      (frm = 1 → n = (Says.value a).num.tdiv (Says.value a).den) ∧
      (frm = 2 → Says.value a ≤ n ∧ (n : Rat) < Says.value a + 1) ∧ (frm = 3 → (n : Rat) ≤ Says.value a ∧ Says.value a < n + 1) ∧
      (lo ≤ n → n ≤ hi → z = (n, if (n : Rat) = Says.value a then 0 else 16)) ∧
      (n < lo → z = (lo, 1)) ∧ (hi < n → z = (hi, 1)))

/-- FDIVS, FDSTEP and FDFIN (R237) write the pair rd, rd + 1, rd even and not g0. FDIVS and FDSTEP raise nothing; of an
FDSTEP with a divisor that has no significand (0, infinite, NaN) the quotient bits and the remainder are whatever they are
(log entry 5). FDFIN raises or writes as R232, and clears rd + 1. -/
def Says.FloatDivision : Prop :=
  ∀ (t : TileId) (g : Guard) (rd ra rb : BitVec 5) (s : State),
    Runs s t → (s.tile t).guard g = true → rd.toNat % 2 = 0 → 2 ≤ rd.toNat →
    let x := (s.tile t).ready
    let f (r : BitVec 5) : BitVec 32 := BitVec.ofNat 32 (x.g r).toNat
    let done (y : Tile) : Tile := y.stepped (s.tile t).lvl ((s.tile t).pc + 4)
    let pair (v w : Word) : Tile := (x.setG rd v).setG (rd + 1) w
    let q := x.g rd
    let noSig := !Says.isFinite (f rb) || decide ((f rb).toNat % 2 ^ 31 = 0)
    let v := fdivsF (f ra) (f rb)
    Gives (.fdivs t g rd ra rb) s t (done (pair v.1 v.2)) ∧
    (q.getLsbD 63 = true ∨ noSig = false → let z := fdstepF q (x.g (rd + 1)) (f rb)
      Gives (.fdstep t g rd rb) s t (done (pair z.1 z.2))) ∧
    (q.getLsbD 63 = false → noSig = true →
      ∃ (k : BitVec 28) (w : Word), Gives (.fdstep t g rd rb) s t (done (pair (setBits q 0 28 k.toNat) w))) ∧
    (∃ k : BitVec 32, let z := fdfinF (x.cur.fctl.toNat / 32 % 4) q (x.g (rd + 1)) k
      let sticky (y : Tile) : Tile := y.modBank (fun b => { b with fstat := b.fstat ||| BitVec.ofNat 8 z.2.toNat })
      (Says.fpTrap z.2 x.cur.fctl = none →
        Gives (.fdfin t g rd) s t (done (sticky (pair (BitVec.ofNat 64 z.1.toNat) 0)))) ∧
      (∀ n, Says.fpTrap z.2 x.cur.fctl = some n → ∃ s1, TileOnly s s1 t (sticky x) ∧ exec (.fdfin t g rd) s =
        .next (stopCheck (enter s1 t { code := 0x0E, sub := n, finfo := BitVec.ofNat 64 z.1.toNat } false (s.tile t).pc) t)))

/-- Conversions of integers: the integer rounded once in the mode of FRM, inexact where that changes it, and no other condition
(Table 7-3, R230). -/
def Says.IntegerToFloat : Prop :=
  ∀ (frm : Nat) (v : Int), frm < 4 → -(2 ^ 63) ≤ v → v < 2 ^ 63 →
    let z := ofIntF frm v
    (v = 0 → z = (0, 0)) ∧
    (v ≠ 0 → Says.rounds frm v z.1 ∧ z.2 = if Says.value z.1 = (v : Rat) then 0 else 16)

/-- NaNs, infinities and zeros in sums, products and fused multiply-adds (R230, R231, R233): a NaN operand gives the canonical
NaN, invalid where one is signalling; so do ∞ − ∞ and 0 × ∞, invalid (0 × ∞ with a quiet NaN added too); else an infinity gives
an infinity; an exact zero sum is +0, −0 toward −∞, and two zeros of one sign keep it. -/
def Says.FloatSpecials : Prop :=
  ∀ (frm : Nat) (a b c : BitVec 32), frm < 4 →
    let nan := 0x7FC00000#32
    let inf (n : Bool) := if n then 0xFF800000#32 else 0x7F800000#32
    let zero (n : Bool) := if n then 0x80000000#32 else 0#32
    let isInf (x : BitVec 32) := !Says.isFinite x && !Says.isNaN x
    let isZero (x : BitVec 32) := decide (x.toNat % 2 ^ 31 = 0)
    let neg (x : BitVec 32) := x.getLsbD 31
    let sum (z : BitVec 32 × BitVec 5) (nb : Bool) : Prop :=
      (Says.isNaN a = true ∨ Says.isNaN b = true → z = (nan, if Says.isSNaN a || Says.isSNaN b then 1 else 0)) ∧
      (isInf a = true → isInf b = true → z = if neg a = nb then (a, 0) else (nan, 1)) ∧
      (isInf a = true → Says.isFinite b = true → z = (a, 0)) ∧ (Says.isFinite a = true → isInf b = true → z = (inf nb, 0)) ∧
      (isZero a = true → isZero b = true → z = (zero (if neg a = nb then nb else decide (frm = 3)), 0)) ∧
      (Says.isFinite a = true → Says.isFinite b = true → isZero a = false → Says.value a = (if nb = neg b then -1 else 1) * Says.value b →
        z = (zero (decide (frm = 3)), 0))
    let sign := neg a != neg b
    let zeroInf := (isInf a && isZero b) || (isZero a && isInf b)
    sum (addF frm false a b) (neg b) ∧ sum (subF frm false a b) (!neg b) ∧
    (Says.isNaN a = true ∨ Says.isNaN b = true → mulF frm false a b = (nan, if Says.isSNaN a || Says.isSNaN b then 1 else 0)) ∧
    (Says.isNaN a = false → Says.isNaN b = false →
      (zeroInf = true → mulF frm false a b = (nan, 1)) ∧
      (zeroInf = false → isInf a || isInf b → mulF frm false a b = (inf sign, 0)) ∧
      (zeroInf = false → isZero a || isZero b → mulF frm false a b = (zero sign, 0))) ∧
    (Says.isNaN a = true ∨ Says.isNaN b = true ∨ Says.isNaN c = true →
      fmaF frm false a b c = (nan, if Says.isSNaN a || Says.isSNaN b || Says.isSNaN c || zeroInf then 1 else 0)) ∧
    (Says.isNaN a = false → Says.isNaN b = false → Says.isNaN c = false →
      (zeroInf = true → fmaF frm false a b c = (nan, 1)) ∧
      (zeroInf = false → isInf a || isInf b →
        fmaF frm false a b c = if isInf c && neg c != sign then (nan, 1) else (inf sign, 0)) ∧
      (Says.isFinite a = true → Says.isFinite b = true → isInf c = true → fmaF frm false a b c = (c, 0)) ∧
      ((isZero a || isZero b) && isZero c → fmaF frm false a b c = (zero (if neg c = sign then sign else decide (frm = 3)), 0)))

/-- Overflow and underflow (R230, R231) of a sum, difference, product or fused multiply-add of finite numbers: a value that,
rounded as if the exponent were unbounded, exceeds the largest finite number gives an infinity, or the largest number where the
mode rounds inward, with overflow and inexact; one between that number and the bound gives it, inexact; underflow is set exactly
where the value so rounded is below 2^−126 and the result is inexact. -/
def Says.FloatRange : Prop :=
  ∀ (frm : Nat) (a b c : BitVec 32), frm < 4 → Says.isFinite a = true → Says.isFinite b = true → Says.isFinite c = true →
    let top : Rat := (2 ^ 128 : Nat)
    let max : Rat := Says.value 0x7F7FFFFF#32
    let low : Rat := Says.value 0x00800000#32
    let half : Rat := Says.value 0x00000001#32 / 4
    let good (v : Rat) (z : BitVec 32 × BitVec 5) : Prop :=
      let m := Says.magnitude v
      let n := decide (v < 0)
      let away : Prop := (frm = 2 ∧ n = false) ∨ (frm = 3 ∧ n = true)
      let big : Prop := (away ∧ max < m) ∨ (frm = 0 ∧ top - (2 ^ 103 : Nat) ≤ m) ∨ top ≤ m
      let tiny : Prop := (away ∧ m ≤ low - 2 * half) ∨ (frm = 0 ∧ m < low - half) ∨ (¬ away ∧ frm ≠ 0 ∧ m < low)
      (big → (away ∨ frm = 0 → z = (if n then 0xFF800000#32 else 0x7F800000#32, 20)) ∧
        (¬ away → frm ≠ 0 → z = (if n then 0xFF7FFFFF#32 else 0x7F7FFFFF#32, 20))) ∧
      (max < m → ¬ big → z = (if n then 0xFF7FFFFF#32 else 0x7F7FFFFF#32, 16)) ∧
      (v ≠ 0 → m ≤ max → (z.2.getLsbD 3 = true ↔ tiny ∧ Says.value z.1 ≠ v))
    good (Says.value a + Says.value b) (addF frm false a b) ∧ good (Says.value a - Says.value b) (subF frm false a b) ∧
    good (Says.value a * Says.value b) (mulF frm false a b) ∧
    good (Says.value a * Says.value b + Says.value c) (fmaF frm false a b c)

/-- Table 7-6 (R240), row by row, a result for each mode. -/
def Says.FloatEdges : Prop :=
  ∀ frm, frm < 4 →
    let S := 0x00000001#32
    let M := 0x7F7FFFFF#32
    let I := 0x7F800000#32
    let e4 (p q r z : BitVec 32) : BitVec 32 := [p, q, r, z].getD frm 0
    let div (a b : BitVec 32) := let z := Says.fdsteps 7 b (fdivsF a b); fdfinF frm z.1 z.2 0
    addF frm false S S = (2, 0) ∧ subF frm false S S = (e4 0 0 0 0x80000000, 0) ∧
    addF frm false M M = (e4 I M I M, 20) ∧ addF frm false M S = (e4 M M I M, if frm = 2 then 20 else 16) ∧
    subF frm false M S = (e4 M 0x7F7FFFFE M 0x7F7FFFFE, 16) ∧ mulF frm false S S = (e4 0 0 S 0, 24) ∧
    mulF frm false M M = (e4 I M I M, 20) ∧ mulF frm false S M = (0x34FFFFFF, 0) ∧
    fmaF frm false S S S = (e4 S S 2 S, 24) ∧ fmaF frm false M S 0xB4FFFFFF#32 = (e4 0 0 0 0x80000000, 0) ∧
    toIntF frm false 32 S = (if frm = 2 then 1 else 0, 16) ∧ toIntF frm false 32 M = (2 ^ 31 - 1, 1) ∧
    toIntF frm false 64 M = (2 ^ 63 - 1, 1) ∧ ofIntF frm (2 ^ 31 - 1) = (e4 0x4F000000 0x4EFFFFFF 0x4F000000 0x4EFFFFFF, 16) ∧
    div S M = (e4 0 0 S 0, 24) ∧ div M S = (e4 I M I M, 20) ∧ div M M = (0x3F800000, 0) ∧ div S 0 = (I, 2)

/-- Conversions, special operands, range, the edge cases and division. -/
def Obligations.FloatConvertDivide : Prop :=
  Says.FloatToInteger ∧ Says.IntegerToFloat ∧ Says.FloatSpecials ∧ Says.FloatRange ∧ Says.FloatEdges ∧ Says.FloatDivision

/-! ## The Kiln -/

/-- `s'` is `s` but for tile `t`, which is `x`, event counters of its course's KILN page, and the file that issues next. -/
def Says.kilnTileOnly (s s' : State) (t : TileId) (x : Tile) : Prop :=
  s'.tile t = x ∧ (∀ u, u ≠ t → s'.tile u = s.tile u) ∧
  (∀ a, isCounter (pKiln + (courseOf t).val) a = false → s'.reg a = s.reg a) ∧ (∀ a, s'.byte a = s.byte a) ∧
  (∀ c, s'.course c = { s.course c with kilnNext := (s'.course c).kilnNext }) ∧
  s' = { s with tiles := s'.tiles, regs := s'.regs, courses := s'.courses, freeCtr := s'.freeCtr }

/-- `s'` is `s` but for the Kiln file of tile `t`, which is `f`, event counters, and the next file of its Kiln, the one after `t`'s
(R219). -/
def Says.kilnOnly (s s' : State) (t : TileId) (f : KFile) : Prop :=
  Says.kilnTileOnly s s' t { s.tile t with kiln := f } ∧ (s'.course (courseOf t)).kilnNext.val = (t.val + 1) % 8

/-- KILN_ENQUEUE on a ledger tile below Keystone level with no Kiln fault pending and room in the queue (R189, R201, R207,
R211): the instruction enters the queue behind the others with its scalar operands, its bricks, level, address space,
key rights and address, counted in KCNT; a memory instruction whose address word passes the checks of R201 does so with
the tile's earlier stores written. While a machine check of the Kiln pends, it is counted and discarded instead, in DISC of a
fault that waits behind the check too (R210; spec/13 R431). At Keystone level the instruction is not present (R190): code 01h subcode 01h; with a
fault pending it raises code 10h with what the fault recorded. -/
def Obligations.KilnEnqueues : Prop :=
  ∀ (t : TileId) (g : Guard) (op : KOp) (s : State),
    Runs s t → (s.tile t).guard g = true → kLegal op = true →
    let x := (s.tile t).ready
    let c : Instr := .kilnEnqueue t g op
    let e : KEntry := { op := op, gval := x.g (kGReg op), dval := x.d (kDReg op), bb := x.bb, lvl := x.lvl,
                        ast := BitVec.ofNat 16 (dataCtx s t).ast, krr := (dataCtx s t).krr, iaddr := x.pc,
                        kcnt := x.kcnt, plan := none }
    (x.lvl = .keystone → Says.raises c s t Says.absent) ∧
    (x.lvl ≠ .keystone → x.kiln.fault = none → x.mcPend = none → x.kiln.queue.length < 16 →
      (kMem op = true → x.sbuf = [] ∧ kAddrCheck (s.ran t x) t op (x.g (kGReg op)) = none) →
      Gives c s t (({ x with kcnt := x.kcnt + 1, kiln := { x.kiln with queue := x.kiln.queue ++ [e] } } : Tile).stepped
        (s.tile t).lvl ((s.tile t).pc + 4))) ∧
    (x.lvl ≠ .keystone → x.mcPend.isSome = true → x.kiln.queue.length < 16 →
      (kMem op = true → x.sbuf = [] ∧ kAddrCheck (s.ran t x) t op (x.g (kGReg op)) = none) →
      ∃ s1 s', Says.kilnTileOnly s s1 t x ∧ exec c s = .next s' ∧
        TileOnly s1 s' t (({ x with kcnt := x.kcnt + 1, kiln := { x.kiln with fault := x.kiln.fault.map (fun f =>
          { f with finfo := setBits f.finfo 48 8 (min 255 (f.finfo.toNat / 2 ^ 48 % 256 + 1)) }) } } : Tile).stepped
            (s.tile t).lvl ((s.tile t).pc + 4))) ∧
    (∀ f, x.lvl ≠ .keystone → x.mcPend = none → x.kiln.fault = some f → ∃ s1 ex, (s1.tile t).kiln = { x.kiln with fault := none } ∧
      ex.code = 0x10 ∧ ex.sub = f.sub.toNat ∧ ex.faddr = f.faddr ∧ ex.finfo = f.finfo ∧
      exec c s = .next (stopCheck (enter s1 t ex false (s.tile t).pc) t))

/-- The waits, and what they put into a g register (Table 6-6; R214, R215, R239). -/
def Says.wait (c : Instr) (x : Tile) : Option (TileId × Guard × Bool × Tile) :=
  match c with
  | .vsync t g => some (t, g, true, x)
  | .fsync t g => some (t, g, false, x)
  | .vmfs t g gd => if x.kiln.ue then none else some (t, g, true, x.setG gd x.kiln.vstat)
  | .vmfc t g gd => if x.kiln.ue then none else some (t, g, true, x.setG gd x.kiln.vctl)
  | .vmpop t g gd ma =>
    if x.kiln.ue = true ∧ ma ≠ 0 then none
    else some (t, g, true, x.setG gd (BitVec.ofNat 64 ((List.range 512).countP (fun i =>
      decide (ma = 0) || (x.kiln.m.get ma.toFin).getLsbD i))))
  | _ => none

/-- VSYNC, VMPOP, VMFS, VMFC and FSYNC (R214, R215, R239): with the queue empty and no fault pending they complete with
what they read; with a fault pending they raise it, but behind a machine check of the Kiln that pends they wait. A VMPOP, VMFS
or VMFC that reads an uncorrectable error has no effect, and a machine check pends (R218; spec/13 Table 13-14, R431; when a file
comes to hold such an error is log entry 114). At Keystone level the Kiln's waits are not present, and on a keystone tile FSYNC
waits for no Kiln. -/
def Obligations.KilnWaits : Prop :=
  (∀ (c : Instr) (s : State) (t : TileId) (g : Guard) (gd : BitVec 5) (ma : BitVec 3),
    let x := (s.tile t).ready
    ((c = .vmpop t g gd ma ∧ ma ≠ 0) ∨ c = .vmfs t g gd ∨ c = .vmfc t g gd) → Runs s t → (s.tile t).guard g = true → x.lvl ≠ .keystone → t.val < 96 → Says.kilnIdle x → x.kiln.ue = true →
    ∃ s', exec c s = .next s' ∧
      Says.kilnTileOnly (s.ran t x) s' t { x with kiln := { x.kiln with ue := false }, mcPend := some (x.mcPend.getD (3, 0, 0)) }) ∧
  ∀ (c : Instr) (s : State) (t : TileId) (g : Guard) (kiln : Bool) (y : Tile),
    let x := (s.tile t).ready
    Says.wait c x = some (t, g, kiln, y) → Runs s t → (s.tile t).guard g = true →
    (kiln = true → x.lvl = .keystone → Says.raises c s t Says.absent) ∧
    ((kiln = true → x.lvl ≠ .keystone) → Says.kilnIdle x ∨ 96 ≤ t.val →
      Gives c s t (y.stepped (s.tile t).lvl ((s.tile t).pc + 4))) ∧
    (∀ f, (kiln = true → x.lvl ≠ .keystone) → t.val < 96 → x.kiln.queue = [] → x.kiln.fault = some f → x.mcPend.isSome = true →
      exec c s = .next (s.ran t x)) ∧
    (∀ f, (kiln = true → x.lvl ≠ .keystone) → t.val < 96 → x.kiln.queue = [] → x.kiln.fault = some f → x.mcPend = none →
      ∃ s1 ex, (s1.tile t).kiln = { x.kiln with fault := none } ∧
        ex.code = 0x10 ∧ ex.sub = f.sub.toNat ∧ ex.faddr = f.faddr ∧ ex.finfo = f.finfo ∧
        exec c s = .next (stopCheck (enter s1 t ex false (s.tile t).pc) t))

/-! ### Lanes -/

/-- Lane `i` of `w` bytes of a register: lane 0 lies in the most significant bytes (Layout 6-1). -/
def Says.lane (v : BitVec 4096) (w i : Nat) : Nat := v.toNat / 2 ^ (8 * (512 - w * (i + 1))) % 2 ^ (8 * w)

/-- A lane is active: the bit of its first byte in the mask; m0 is all ones (R193, R194). -/
def Says.active (x : KFile) (m : BitVec 2) (w i : Nat) : Bool := decide (m = 0) || (x.m.get (Fin.ofNat 8 m.toNat)).getLsbD (w * i)

/-- A mask register. -/
def Says.mask (x : KFile) (m : BitVec 3) (j : Nat) : Bool := decide (m = 0) || (x.m.get m.toFin).getLsbD j

/-- What an instruction writes: lanes of vector registers (`none`: the lane stays), the bits of a mask register, VSTAT
bits that it sets, and VSTAT or VCTL themselves. -/
structure Says.KEff where
  v : List (BitVec 5 × Nat × (Nat → Option Nat)) := []
  m : Option (BitVec 3 × (Nat → Bool)) := none
  set : Word := 0
  vstat : Option Word := none
  vctl : Option Word := none

/-- The lanes of one register, active under mask `m`. -/
def Says.lanes (x : KFile) (vd : BitVec 5) (w : Nat) (m : BitVec 2) (f : Nat → Nat) : Says.KEff :=
  { v := [(vd, w, fun i => if Says.active x m w i then some (f i) else none)] }

/-- The lanes of a pair: `w` bytes each, the first half in vd, active as the narrow lanes of the sources. -/
def Says.pair (x : KFile) (vd : BitVec 5) (w : Nat) (m : BitVec 2) (f : Nat → Nat) : Says.KEff :=
  let at_ (k : Nat) : Option Nat := if Says.active x m w k then some (f k) else none
  { v := [(vd, 2 * w, fun i => at_ i), (vd + 1, 2 * w, fun i => at_ (256 / w + i))] }

/-- A mask result: every bit of a lane that `f` accepts, where the lane is active. -/
def Says.maskLanes (x : KFile) (md : BitVec 3) (w : Nat) (m : BitVec 2) (f : Nat → Bool) : Says.KEff :=
  { m := some (md, fun j => Says.active x m w (j / w) && f (j / w)) }

/-- Table 6-5: binary lanes of `w` bytes, signed where the function is. -/
def Says.binLane (f : KBin) (w a b : Nat) : Int :=
  let n := 8 * w
  let sa : Int := (a : Int).bmod (2 ^ n)
  let sb : Int := (b : Int).bmod (2 ^ n)
  let k := b % n
  match f with
  | .add => a + b
  | .sub => (a : Int) - b
  | .mul => a * b
  | .and => (a &&& b : Nat)
  | .or => (a ||| b : Nat)
  | .xor => (a ^^^ b : Nat)
  | .shl => a * 2 ^ k
  | .shr => (a / 2 ^ k : Nat)
  | .sar => sa / 2 ^ k
  | .min => min sa sb
  | .max => max sa sb
  | _ => 0

/-- A number wrapped to a lane. -/
def Says.wrap (w : Nat) (v : Int) : Nat := (v % 2 ^ (8 * w)).toNat

/-- A packed lane: its first bad nibble, and its value. -/
def Says.laneBytes (w v : Nat) : List Byte := (List.range w).map (fun i => BitVec.ofNat 8 (v / 2 ^ (8 * (w - 1 - i))))
def Says.laneValue (w v : Nat) : Dec := Says.fieldValue (Says.laneBytes w v)

/-- Decimal lanes: none where a lane that is read is invalid, or where one overflows and VCTL.DOVT is 1 (R197, R199); the
packed results of lanes `ls`, and the VSTAT bits. `res` gives sign, magnitude, and whether a nonzero digit was lost. -/
def Says.decLanes (x : KFile) (reads : List (Nat × Nat)) (keep : Bool) (w : Nat) (ls : List Nat)
    (res : Nat → Bool × Nat × Bool) : Option ((Nat → Nat) × Word) :=
  let lim := 10 ^ (2 * w - 1)
  let ovf := ls.any (fun i => decide (lim ≤ (res i).2.1))
  if reads.any (fun r => (Says.fieldBad (Says.laneBytes r.1 r.2)).isSome) ∨ (ovf = true ∧ x.vctl.getLsbD 0 = true) then none
  else some (fun i =>
      let n := (res i).2.1 % lim
      ofBytes (Says.fieldBytes w ((res i).1 && (keep || decide (n ≠ 0))) n),
    (if ovf then 1 else 0) ||| (if ls.any (fun i => (res i).2.2) then 2 else 0))

/-- A decimal lane operation: sign, magnitude, a nonzero digit lost. -/
def Says.decLane (f : KDec) (a b : Dec) : Bool × Nat × Bool :=
  match f with
  | .add => let r := Says.sum a b; (r.1, r.2, false)
  | .sub => let r := Says.sum a { b with neg := !b.neg }; (r.1, r.2, false)
  | .mul => (a.neg != b.neg, a.mag * b.mag, false)
  | .shr r n => (a.neg, Says.round r a.mag n.toNat, decide (a.mag % 10 ^ n.toNat ≠ 0))
  | .shl n => (a.neg, a.mag * 10 ^ n.toNat, false)
  | .neg => (!a.neg, a.mag, false)
  | .abs => (false, a.mag, false)

/-- VSTAT bits of FP32 conditions, and the enabled ones of VCTL (Maps 6-2, 6-3). -/
def Says.vstat (c : BitVec 5) : Word := BitVec.ofNat 64 (c.toNat % 2 * 4 + c.toNat / 4 * 8)
def Says.fpEnabled (x : KFile) (c : BitVec 5) : Bool := Says.vstat c &&& x.vctl &&& 0x3C ≠ 0

/-- An FP32 lane (R200, R236): flushed as VCTL.FTZ says, rounded as VCTL.FRM says. -/
def Says.fpLane (x : KFile) (f : KFp) (a b d : BitVec 32) : BitVec 32 × BitVec 5 :=
  let frm := x.vctl.toNat / 2 ^ 8 % 4
  let ftz := x.vctl.getLsbD 6
  let cmp (g : FCmpFn) : BitVec 32 × BitVec 5 := ((if (cmpF g ftz a b).1 then 1 else 0), (cmpF g ftz a b).2)
  match f with
  | .add => addF frm ftz a b
  | .sub => subF frm ftz a b
  | .mul => mulF frm ftz a b
  | .fma => fmaF frm ftz a b d
  | .min => minMaxF false ftz a b
  | .max => minMaxF true ftz a b
  | .cvtws => (BitVec.ofInt 32 (toIntF frm ftz 32 a).1, (toIntF frm ftz 32 a).2)
  | .cvtsw => ofIntF frm a.toInt
  | .cmpeq => cmp .eq
  | .cmplt => cmp .lt
  | .cmple => cmp .le
  | .cmpun => cmp .un

/-- What the row's instruction at the head of a queue writes; none where it faults (Tables 6-5, 6-6; R196–R200). -/
def Says.kiln (row : Instr) (x : KFile) (e : KEntry) : Option Says.KEff :=
  let V (r : BitVec 5) (w i : Nat) : Nat := Says.lane (x.v.get r.toFin) w i
  let act (m : BitVec 2) (w : Nat) : List Nat := (List.range (512 / w)).filter (Says.active x m w)
  let keep := x.vctl.getLsbD 1
  let D (r : BitVec 5) (w i : Nat) : Dec := Says.laneValue w (V r w i)
  let reads (rs : List (BitVec 5)) (w : Nat) (ls : List Nat) : List (Nat × Nat) := rs.flatMap (fun r => ls.map (fun i => (w, V r w i)))
  let dw (d32 : Bool) : Nat := if d32 then 16 else 8
  match row, e.op with
  | .kilnBinaryOp _ _, .bin f el vd va vb m =>
    let w := elemBytes el
    let sg (r : BitVec 5) (i : Nat) : Int := (V r w i : Int).bmod (2 ^ (8 * w))
    some (match f with
      | .cmpeq => Says.maskLanes x (vd.setWidth 3) w m (fun i => decide (V va w i = V vb w i))
      | .cmplt => Says.maskLanes x (vd.setWidth 3) w m (fun i => decide (sg va i < sg vb i))
      | .cmpltu => Says.maskLanes x (vd.setWidth 3) w m (fun i => decide (V va w i < V vb w i))
      | .mulw => Says.pair x vd w m (fun i => Says.wrap (2 * w) (sg va i * sg vb i))
      | .dot => { v := [(vd, 4 * w, fun j => some (Says.wrap (4 * w) ((V vd (4 * w) j : Int) +
          (((List.range 4).filter (fun k => Says.active x m w (4 * j + k))).map (fun k => sg va (4 * j + k) * sg vb (4 * j + k))).sum)))] }
      | f => Says.lanes x vd w m (fun i => Says.wrap w (Says.binLane f w (V va w i) (V vb w i))))
  | .kilnDecimalOp _, .dec f d32 vd va vb m =>
    let w := dw d32
    let two := f = .add ∨ f = .sub ∨ f = .mul
    (Says.decLanes x (reads (if two then [va, vb] else [va]) w (act m w)) keep w (act m w)
      (fun i => Says.decLane f (D va w i) (D vb w i))).map (fun r => { Says.lanes x vd w m r.1 with set := r.2 })
  | .vddot _, .ddot vd va vb m =>
    (Says.decLanes x (reads [va, vb] 8 (act m 8) ++ reads [vd] 16 (List.range 16)) false 16 (List.range 16) (fun j =>
      let v : Int := (D vd 16 j).int + (((List.range 4).filter (fun k => Says.active x m 8 (4 * j + k))).map (fun k =>
        (D va 8 (4 * j + k)).int * (D vb 8 (4 * j + k)).int)).sum
      (decide (v < 0), v.natAbs, false))).map
      (fun r => { v := [(vd, 16, fun j => if j < 16 then some (r.1 j) else none)], set := r.2 })
  | .vdmulw _, .dmulw vd va vb m =>
    (Says.decLanes x (reads [va, vb] 8 (act m 8)) keep 16 (act m 8) (fun i =>
      ((D va 8 i).neg != (D vb 8 i).neg, (D va 8 i).mag * (D vb 8 i).mag, false))).map (fun r => Says.pair x vd 8 m r.1)
  | .vdsum _, .dsum vd va m =>
    (Says.decLanes x (reads [va] 16 (act m 16)) false 16 [0] (fun _ =>
      let v : Int := ((act m 16).map (fun i => (D va 16 i).int)).sum
      (decide (v < 0), v.natAbs, false))).map
      (fun r => { v := [(vd, 16, fun j => if j = 0 then some (r.1 0) else none)], set := r.2 })
  | .vdwid _, .dwid vd va m =>
    (Says.decLanes x (reads [va] 8 (act m 8)) keep 16 (act m 8) (fun i => ((D va 8 i).neg, (D va 8 i).mag, false))).map
      (fun r => Says.pair x vd 8 m r.1)
  | .vdnar _, .dnar vd va m =>
    let src (k : Nat) : Nat := if k < 32 then V va 16 k else V (va + 1) 16 (k - 32)
    (Says.decLanes x ((act m 8).map (fun k => (16, src k))) keep 8 (act m 8) (fun k =>
      ((Says.laneValue 16 (src k)).neg, (Says.laneValue 16 (src k)).mag, false))).map
      (fun r => { Says.lanes x vd 8 m r.1 with set := r.2 })
  | .vdcmp _, .dcmp c d32 md va vb m =>
    let w := dw d32
    (Says.decLanes x (reads [va, vb] w (act m w)) keep w [] (fun _ => (false, 0, false))).map (fun _ =>
      Says.maskLanes x md w m (fun i =>
        let a := (D va w i).int
        let b := (D vb w i).int
        match c with | .eq => decide (a = b) | .lt => decide (a < b) | .le => decide (a ≤ b)))
  | .vdval _, .dval d32 md va m =>
    some (Says.maskLanes x md (dw d32) m (fun i => (Says.fieldBad (Says.laneBytes (dw d32) (V va (dw d32) i))).isNone))
  | .kilnFpOp _, .fp f vd va vb m =>
    let r (i : Nat) : BitVec 32 × BitVec 5 :=
      Says.fpLane x f (BitVec.ofNat 32 (V va 4 i)) (BitVec.ofNat 32 (V vb 4 i)) (BitVec.ofNat 32 (V vd 4 i))
    let c := (act m 4).foldl (fun c i => c ||| (r i).2) 0
    if Says.fpEnabled x c then none
    else some { (if f = .cmpeq ∨ f = .cmplt ∨ f = .cmple ∨ f = .cmpun then
        Says.maskLanes x (vd.setWidth 3) 4 m (fun i => (r i).1.getLsbD 0)
      else Says.lanes x vd 4 m (fun i => (r i).1.toNat)) with set := Says.vstat c }
  | .vmsetn _, .msetn md _ => some { m := some (md, fun j => decide (j < e.gval.toNat)) }
  | .vbrd _, .brdB el vd _ m => some (Says.lanes x vd (elemBytes el) m (fun _ => e.gval.toNat % 2 ^ (8 * elemBytes el)))
  | .vbrd _, .brdD d32 vd _ m =>
    (Says.decLanes x [] keep (dw d32) (act m (dw d32)) (fun _ => ((decVal e.dval).neg, (decVal e.dval).mag, false))).map
      (fun r => { Says.lanes x vd (dw d32) m r.1 with set := r.2 })
  | .vmov _, .mov vd va m => some (Says.lanes x vd 1 m (V va 1))
  | .vmts _, .mts _ => some { vstat := some (BitVec.ofNat 64 (e.gval.toNat % 64)) }
  | .vmtc _, .mtc _ => some { vctl := some (BitVec.ofNat 64 (e.gval.toNat % 128 + e.gval.toNat / 256 % 4 * 256)) }
  | .maskLogic _, .mlogic f md ma mb => some { m := some (md, fun j =>
      let a := Says.mask x ma j
      let b := Says.mask x mb j
      match f with | .and => a && b | .or => a || b | .xor => a != b | .andn => a && !b) }
  | _, _ => none

/-- The tile of a row that issues from a queue. -/
def Says.kilnTile (row : Instr) : Option TileId :=
  match row with
  | .kilnBinaryOp t _ | .kilnDecimalOp t | .vddot t | .vdmulw t | .vdsum t | .vdwid t | .vdnar t
  | .vdcmp t | .vdval t | .kilnFpOp t | .vmov t | .maskLogic t | .vldVst t | .vldkVstk t | .vldxVstx t | .vldmVstm t
  | .vmsetn t | .vbrd t | .vmts t | .vmtc t => some t
  | _ => none

/-- The instruction is of the row's kind. -/
def Says.kilnKind (row : Instr) (op : KOp) : Bool :=
  match row, op with
  | .kilnBinaryOp .., .bin .. | .kilnDecimalOp .., .dec .. | .vddot .., .ddot .. | .vdmulw .., .dmulw .. | .vdsum .., .dsum ..
  | .vdwid .., .dwid .. | .vdnar .., .dnar .. | .vdcmp .., .dcmp .. | .vdval .., .dval .. | .kilnFpOp .., .fp ..
  | .vmsetn .., .msetn .. | .vbrd .., .brdB .. | .vbrd .., .brdD .. | .vmov .., .mov .. | .vmts .., .mts .. | .vmtc .., .mtc ..
  | .maskLogic .., .mlogic .. | .vldVst .., .ld .. | .vldVst .., .st .. | .vldkVstk .., .ldk .. | .vldkVstk .., .stk ..
  | .vldxVstx .., .ldx .. | .vldxVstx .., .stx .. | .vldmVstm .., .ldm .. | .vldmVstm .., .stm .. => true
  | _, _ => false

/-- The file after an instruction's writes: it has left the queue, where issued ones stay and count it, written lanes and masks hold the results, every
other register, lane and bit is as before; a write of m0 is discarded. -/
def Says.kilnAfter (x y : KFile) (f : Says.KEff) : Prop :=
  y.queue = (x.queue.filter (fun e => e.plan.isSome)).map (fun e => { e with ran := e.ran + 1 }) ++ (x.queue.filter (fun e => e.plan.isNone)).tail ∧
  y.fault = x.fault ∧ y.ue = x.ue ∧ y.vctl = f.vctl.getD x.vctl ∧ y.vstat = f.vstat.getD (x.vstat ||| f.set) ∧
  (∀ r : BitVec 5, (∀ p ∈ f.v, p.1 ≠ r) → y.v.get r.toFin = x.v.get r.toFin) ∧
  (∀ p ∈ f.v, ∀ i, i < 512 / p.2.1 →
    Says.lane (y.v.get p.1.toFin) p.2.1 i = (p.2.2 i).getD (Says.lane (x.v.get p.1.toFin) p.2.1 i)) ∧
  (∀ r : BitVec 3, (∀ p, f.m = some p → p.1 ≠ r ∨ r = 0) → y.m.get r.toFin = x.m.get r.toFin) ∧
  (∀ p, f.m = some p → p.1 ≠ 0 → ∀ j, j < 512 → (y.m.get p.1.toFin).getLsbD j = p.2 j)

/-- The round robin of R219: it is a file's turn where its candidate, the oldest unissued instruction of its queue, is ready, and
no file between the next one in the order and it has one that is sure to be: one that makes no access, or one that does while
the Kiln has none under way, since no row tells when the port is free again (log entry 68). A ready candidate reads and writes no
register that an instruction under way of its queue is still to write. -/
def Says.KilnRoundRobin : Prop :=
  ∀ (s : State) (t : TileId), t.val < 96 →
    let after (u : TileId) : Nat := (u.val + 8 - (s.course (courseOf t)).kilnNext.val) % 8
    let free : Prop := ∀ u : TileId, u.val / 8 = t.val / 8 → ∀ e ∈ (s.tile u).kiln.queue, e.plan = none
    (kTurn s t = true ↔ kReady s t = true ∧
      ∀ u : TileId, u.val / 8 = t.val / 8 → after u < after t →
        ¬ (kReady s u = true ∧ ∀ e, kCand s u = some e → kMem e.op = true → free)) ∧
    (kReady s t = true → ∃ e, kCand s t = some e ∧ ∀ o ∈ (s.tile t).kiln.queue, o.plan.isSome = true →
      ∀ r ∈ kWrites o.op, r ∉ kReads e.op ∧ r ∉ kWrites e.op)

/-- An instruction that reads a register of its file, m0 apart, which is no register (R193); a decimal broadcast reads VCTL. -/
def Says.readsFile (op : KOp) : Prop := (∃ r ∈ kReads op, r ≠ 32) ∨ ∃ d v a m, op = .brdD d v a m

/-- A Kiln row of an instruction that makes no memory access, on a device out of reset: it completes. Where the candidate of the
tile's queue is of the row's kind and it is the file's turn, the candidate has its whole effect on the tile's Kiln file, and
nothing else changes but the next file of the round robin; or its fault is recorded, with the instruction's address, and the
queue keeps what has issued (R210); or, where it reads a register and the file has, or with this row has come to have, an
uncorrectable error, it has no effect, the queue keeps what has issued, and a machine check pends (R218; spec/13 R431). Of
another kind, out of turn, or with nothing to issue, the row does nothing but that. -/
def Says.KilnRowsIssue : Prop :=
  ∀ (row : Instr) (s : State) (t : TileId), Says.kilnTile row = some t → s.live = true →
    let x := s.tile t
    let issued := x.kiln.queue.filter (fun e => e.plan.isSome)
    let bad : Prop := x.kiln.ue = true ∨ row = .kilnBinaryOp t true
    (∀ e, kCand s t = some e → Says.kilnKind row e.op = true → kTurn s t = true → ¬ (bad ∧ Says.readsFile e.op) → kMem e.op = false →
      kLegal e.op = true →
      (∀ f, Says.kiln row x.kiln e = some f →
        ∃ s' y, exec row s = .next s' ∧ Says.kilnAfter x.kiln y f ∧ Says.kilnOnly s s' t y) ∧
      (Says.kiln row x.kiln e = none →
        ∃ s' f, exec row s = .next s' ∧ (s'.tile t).kiln.fault = some f ∧ (s'.tile t).kiln.queue = issued ∧
          (s'.tile t).kiln.v = x.kiln.v ∧ (s'.tile t).kiln.m = x.kiln.m ∧
          s'.reg (ctl (pKiln + (courseOf t).val) (0x100 + 0x20 * (t.val % 8))) = BitVec.ofNat 64 (2 ^ 63 + e.iaddr.toNat % 2 ^ 48) ∧
          (∀ u, u ≠ t → s'.tile u = s.tile u) ∧ (∀ a, s'.byte a = s.byte a))) ∧
    (∀ e, kCand s t = some e → Says.kilnKind row e.op = true → kTurn s t = true → bad → Says.readsFile e.op →
      ∃ s', exec row s = .next s' ∧ Says.kilnTileOnly s s' t { x with
        kiln := { x.kiln with queue := issued, ue := false }, mcPend := some (x.mcPend.getD (3, 0, 0)) }) ∧
    ((∀ e, kCand s t = some e → ¬ (Says.kilnKind row e.op = true ∧ kTurn s t = true)) →
      exec row s = .next (if row = .kilnBinaryOp t true then s.modKiln t (fun k => { k with ue := true }) else s))

/-- The Kiln's files issue in turn (R219), and the instruction whose turn it is has its effect, records its fault, or meets an
uncorrectable error of its file (when a row finds one is log entry 114; the sign of a zero result of VDDOT and VDSUM is entry
70). -/
def Obligations.KilnRowsIssue : Prop := Says.KilnRoundRobin ∧ Says.KilnRowsIssue

/-! ### Kiln memory instructions -/

/-- The bytes that a memory instruction moves, in element order: the address or offset of each, the register above the
first that it names, and the byte of that register (Table 6-8; R202–R204). -/
def Says.kilnBytes (row : Instr) (x : KFile) (e : KEntry) : Option (List (Nat × Nat × Nat)) :=
  let a := e.gval.toNat % 2 ^ 48
  let act (m : BitVec 2) (w : Nat) : List Nat := (List.range (512 / w)).filter (Says.active x m w)
  let run (off reg pos w : Nat) : List (Nat × Nat × Nat) := (List.range w).map (fun j => (off + j, reg, pos + j))
  match row, e.op with
  | .vldVst _, .ld _ _ m | .vldVst _, .st _ _ m => some ((act m 1).map (fun j => (a + j, 0, j)))
  | .vldkVstk _, .ldk k _ _ c m | .vldkVstk _, .stk k _ _ c m =>
    let w := 2 * 2 ^ c.toNat
    some ((act m w).flatMap (fun i => (List.range k.toNat).flatMap (fun q => run (a + (k.toNat * i + q) * w) q (i * w) w)))
  | .vldxVstx _, .ldx c _ _ vb m | .vldxVstx _, .stx c _ _ vb m =>
    let w := 4 * 2 ^ c.toNat
    some ((act m w).flatMap (fun i => run (a + Says.lane (x.v.get vb.toFin) 4 i) 0 (i * w) w))
  | .vldmVstm _, .ldm _ _ | .vldmVstm _, .stm _ _ => some ((List.range 64).map (fun j => (a + j, 0, j)))
  | _, _ => none

/-- A memory row issues the tile's candidate, behind those that have issued, when it is the file's turn (R205, R219; that it waits
for what it would overwrite before a store under way is log entry 116). In the state in which the issue is counted: with its address in a brick (where an indexed lane must lie in the
brick and on a multiple of its width), or in virtual pages whose translation is at hand, it stays in its place in the queue
with its accesses settled, byte for byte those of its active elements, and the registers as a machine check of the access would restore them (R191, R210);
no register and no memory changes. -/
def Says.KilnMemoryIssues : Prop :=
  ∀ (row : Instr) (s : State) (t : TileId) (e : KEntry) (bs : List (Nat × Nat × Nat)) (fr : Nat → Nat),
    Says.kilnTile row = some t → s.live = true → kCand s t = some e → kTurn s t = true → kLegal e.op = true →
    ¬ ((s.tile t).kiln.ue = true ∧ Says.readsFile e.op) →
    Says.kilnBytes row (s.tile t).kiln e = some bs →
    let base := e.gval.toNat / 2 ^ 60
    let x := (s.tile t).kiln
    let ctx : Ctx := if e.lvl = .steward then ⟨.steward, s.fld (ctl (tilePage t) 0x200) 15 0, s.reg (ctl (tilePage t) 0x208) ++ s.reg (ctl (tilePage t) 0x210)⟩
      else { lvl := e.lvl, ast := e.ast.toNat, krr := e.krr }
    let k : Acc := if kStores e.op then .unitStore else .unitLoad
    let at_ (off : Nat) : Nat := if 4 ≤ base then (e.bb.toList.getD (base - 4) 0).toNat / 2 ^ 12 % 2 ^ 36 * 4096 + off
      else fr (off / 0x4000) + off % 0x4000
    (kIndexed e.op = true → ∀ el ∈ kElems x e, el.off % el.n = 0 ∧ (4 ≤ base → el.off + el.n ≤ 4096)) →
    (base < 4 → ∀ p ∈ bs, ∃ xl, translate (kIssues s t) t .kiln ctx k (BitVec.ofNat 64 (p.1 / 0x4000 * 0x4000)) 1 =
      .ok xl (kIssues s t) ∧ xl.pa = fr (p.1 / 0x4000) ∧ xl.ty = .normal) → (base < 4 → ∀ i, fr i % 0x4000 = 0) →
    ∀ pre post, x.queue = pre ++ e :: post → (∀ o ∈ pre, o.plan.isSome = true) →
    ∃ s' plan, exec row s = .next s' ∧ Says.kilnOnly s s' t { x with queue := pre ++ { e with
        plan := some plan, undo := some { v := x.v, m := x.m, vctl := x.vctl, vstat := x.vstat } } :: post } ∧
      plan.flatMap (fun r => (List.range r.n).map (fun j => (r.pa + j, r.reg, r.pos + j))) =
        bs.map (fun p => (at_ p.1, p.2.1, p.2.2))

/-- KILN_MEMORY_COMPLETE (R206): the head's accesses are performed and it leaves the queue. A load of plain memory changes
the bytes of its registers that it names, to what memory holds, and nothing else; a store changes those bytes of memory,
in element order, to what its registers hold, and nothing else. Masks move in their form in memory (bit 8k + b is bit
7 − b of byte k). With no head that has issued, nothing happens. A load that meets poison writes nothing: the queue is discarded,
the registers are as they were at its issue, and a machine check pends (R210; spec/13 R431). That the accesses are performed at
this row is log entry 68. -/
def Says.KilnMemoryCompletes : Prop :=
  ∀ (t : TileId) (s : State), s.live = true →
    let x := (s.tile t).kiln
    ((∀ e, x.queue.head? = some e → e.plan = none) → exec (.kilnMemoryComplete t) s = .next s) ∧
    (∀ e plan, x.queue.head? = some e → e.plan = some plan → kStores e.op = false → kMem e.op = true →
      (∀ r ∈ plan, r.recorded = false) → (∃ r ∈ plan, s.poisoned r.pa r.n = true) →
      ∃ s', exec (.kilnMemoryComplete t) s = .next s' ∧ (s'.tile t).kiln.queue = [] ∧ (s'.tile t).mcPend.isSome = true ∧
        (∀ m, (s.tile t).mcPend = some m → (s'.tile t).mcPend = some m) ∧
        (∀ u, e.undo = some u → (s'.tile t).kiln = { x with queue := [], v := u.v, m := u.m, vctl := u.vctl, vstat := u.vstat }) ∧
        (∀ u, u ≠ t → s'.tile u = s.tile u) ∧ (∀ a, s'.byte a = s.byte a)) ∧
    (∀ e plan, x.queue.head? = some e → e.plan = some plan → (s.tile t).tk = none →
      (∀ r ∈ plan, r.recorded = false ∧ 1 ≤ r.n ∧ r.pos + r.n ≤ (if kMaskMem e.op then 64 else 512) ∧
        s.poisoned r.pa r.n = false) →
      let ps := plan.flatMap (fun r => (List.range r.n).map (fun j => (r.pa + j, r.reg, r.pos + j)))
      let vreg (q : Nat) : Fin 32 := ((kRegs e.op).1 + BitVec.ofNat 5 q).toFin
      let mreg : Fin 8 := Fin.ofNat 8 (kRegs e.op).1.toNat
      let maskByte (y : KFile) (j : Nat) : Byte := BitVec.ofNat 8 (((List.range 8).map (fun b =>
        if mreg = 0 ∨ (y.m.get mreg).getLsbD (8 * j + b) = true then 2 ^ (7 - b) else 0)).sum)
      let regByte (y : KFile) (q j : Nat) : Byte :=
        if kMaskMem e.op then maskByte y j else BitVec.ofNat 8 (Says.lane (y.v.get (vreg q)) 1 j)
      (kStores e.op = false → kMem e.op = true → ∃ s' y, exec (.kilnMemoryComplete t) s = .next s' ∧
        s' = { s with tiles := s'.tiles } ∧ (∀ u, u ≠ t → s'.tile u = s.tile u) ∧ s'.tile t = { s.tile t with kiln := y } ∧
        y.queue.map (fun o => { o with undo := none }) = x.queue.tail.map (fun o => { o with undo := none }) ∧ y.vctl = x.vctl ∧ y.vstat = x.vstat ∧ y.fault = x.fault ∧
        (kMaskMem e.op = false → y.m = x.m ∧ (∀ r, (∀ p ∈ ps, vreg p.2.1 ≠ r) → y.v.get r = x.v.get r)) ∧
        (kMaskMem e.op = true → y.v = x.v ∧ (∀ r, r ≠ mreg ∨ r = 0 → y.m.get r = x.m.get r)) ∧
        (∀ q j, q < 4 → j < 512 → ¬ (kMaskMem e.op = true ∧ (mreg = 0 ∨ 64 ≤ j ∨ q ≠ 0)) →
          (∀ p ∈ ps, ¬ (vreg p.2.1 = vreg q ∧ p.2.2 = j)) → regByte y q j = regByte x q j) ∧
        ((ps.map (fun p => (vreg p.2.1, p.2.2))).Nodup → ¬ (kMaskMem e.op = true ∧ mreg = 0) →
          ∀ p ∈ ps, regByte y p.2.1 p.2.2 = s.byte p.1)) ∧
      (kStores e.op = true → ∃ s', exec (.kilnMemoryComplete t) s = .next s' ∧
        s' = { s with tiles := s'.tiles, mem := s'.mem } ∧ (∀ u, u ≠ t → s'.tile u = s.tile u) ∧
        s'.tile t = { s.tile t with kiln := { x with queue := x.queue.tail } } ∧
        (∀ a, s'.byte a = (ps.foldl (fun m p => Says.put m p.1 (regByte x p.2.1 p.2.2)) s.byte) a)))

/-- Kiln memory instructions, from their issue to their completion. -/
def Obligations.KilnMemoryInstructions : Prop := Says.KilnMemoryIssues ∧ Says.KilnMemoryCompletes

/-! ## The control space -/

/-- SRC codes of agents (Layout 13-6). -/
def Says.agent : Agent → Nat
  | .tile t => t.val
  | .smbus => 0x80
  | .jtag => 0x81
  | .block => 0xFF

/-- The device is out of reset, and the boot ROM has not stopped it (spec/15 R459). -/
def Says.running (s : State) : Prop := s.sby.powerGood = true ∧ s.sby.inReset = false ∧ s.boot.stopped = false

/-- The device is out of reset, page `p` has a running clock, and no posted write of the page is on its way: a write of one
of its registers takes effect at once (spec/01 R27, R28, R31). -/
def Says.reaches (s : State) (p : Nat) : Prop :=
  Says.running s ∧ s.stopped.contains p = false ∧ ∀ w ∈ s.posted, w.ca / 4096 ≠ p

/-- What happens at once is `f`, after the access has been counted on the DEV page (Table 13-13, source 20h); what is due
then follows. -/
def Says.takes (c : Instr) (s : State) (f : State → State) : Prop :=
  ∃ s0, CountsOnly 0xFF s s0 ∧ exec c s = .next (settle (f s0))

/-- What happens at once is `u`, of which `P` holds. -/
def Says.leads (c : Instr) (s : State) (P : State → Prop) : Prop := ∃ u, exec c s = .next (settle u) ∧ P u

/-- An error log entry (R424, Layout 13-6): the first entry whose V is 0 gets the condition, its detail, the writer, the
timebase and the data; LOST counts where there is none; every register else, but the count, is as it was. -/
def Says.logged (s u : State) (page kind detail src : Nat) (data : Word) : Prop :=
  u = { s with regs := u.regs } ∧
  u.fld (ctl page 0xE8) 47 0 = min (2 ^ 48 - 1) (s.fld (ctl page 0xE8) 47 0 + 1) ∧
  (∀ n, n < 4 → (∀ m, m < n → (s.reg (ctl page (0x40 + 16 * m))).getLsbD 63 = true) →
    (s.reg (ctl page (0x40 + 16 * n))).getLsbD 63 = false →
    u.reg (ctl page (0x40 + 16 * n)) =
      BitVec.ofNat 64 (2 ^ 63 + kind % 64 * 2 ^ 57 + detail % 512 * 2 ^ 48 + src % 256 * 2 ^ 40 + s.clk.tb.toNat % 2 ^ 40) ∧
    u.reg (ctl page (0x48 + 16 * n)) = data ∧
    ∀ a, a ≠ ctl page 0xE8 → a ≠ ctl page (0x40 + 16 * n) → a ≠ ctl page (0x48 + 16 * n) → u.reg a = s.reg a) ∧
  ((∀ m, m < 4 → (s.reg (ctl page (0x40 + 16 * m))).getLsbD 63 = true) →
    u.fld (ctl page 0xE8) 63 48 = min (2 ^ 16 - 1) (s.fld (ctl page 0xE8) 63 48 + 1) ∧
    ∀ a, a ≠ ctl page 0xE8 → u.reg a = s.reg a)

/-- The pages whose blocks have commands, and the highest code (R422 and the blocks' tables). -/
def Says.lastCommand (p : Nat) : Option Nat :=
  if p = 0x90 then some 0x12
  else if p = 0x91 then some 7
  else if 0xB0 ≤ p ∧ p < 0xC0 then some 6
  else if 0xD8 ≤ p ∧ p < 0xE4 then some 5
  else if (0x70 ≤ p ∧ p < 0x7C) ∨ (0xA0 ≤ p ∧ p < 0xA9) ∨ p = 0xD0 ∨ p = 0xE8 ∨ p = 0xEB then some 1
  else none

/-- CMDSTAT after a CMD write of a code: the count of writes, the code, the status (R422). -/
def Says.cmdstat (s : State) (p code status : Nat) : Word :=
  BitVec.ofNat 64 ((s.fld (ctl p 0xF8) 31 16 + 1) % 65536 * 65536 + code * 256 + status)

/-- Writes of the control space that act through one register (spec/13 R415–R425; spec/08 Map 8-10; spec/01 R18, R20,
R27): a REGISTER_WRITE of 4 or 8 bytes of a core-domain page takes effect, one of a remote-domain page is posted, one of 1
or 2 bytes is logged; DBELL_SET sets the written bits; IPI_SET with bit 0 sets PEND and names the writer, without it has no
effect; the first write of DEV.PLACE (RW1, R12) sets it and begins links' training, a later one is ignored; an undefined command code
leaves 0Bh in CMDSTAT and a log entry of kind 04h, a CMD write while the block is busy one of kind 03h. A write of an event
counter of the DEV page is counted after it has taken effect, and so in the counter itself (R427), and an OVF bit of that page
that the count of the write itself sets stays set under its W1C (R12, R426). -/
def Says.ControlWrites : Prop :=
  (∀ (a : Agent) (t : TileId) (v : Word) (s : State), Says.reaches s t.val →
    Says.takes (.dbellSet a t v) s (fun s => s.setReg (ctl t.val 0x100) (s.reg (ctl t.val 0x100) ||| v)) ∧
    (v.getLsbD 0 = true → Says.takes (.ipiSet a t v) s (fun s =>
      s.setReg (ctl t.val 0x110) (BitVec.ofNat 64 (2 ^ 63 + (match a with | .tile u => u.val | _ => 0x7F))))) ∧
    (v.getLsbD 0 = false → Says.takes (.ipiSet a t v) s id)) ∧
  (∀ (a : Agent) (v : Word) (s : State), Says.reaches s 0xFF →
    (s.placeSet = true → Says.takes (.devPlaceWrite a v) s id) ∧
    (s.placeSet = false → Says.takes (.devPlaceWrite a v) s (fun s =>
      (List.finRange 16).foldl autoTrain (s.setReg (ctl 0xFF 0x108) (BitVec.ofNat 64 (2 ^ 15 + v.toNat % 512)))))) ∧
  (∀ (a : Agent) (page code : BitVec 8) (last : Nat) (s : State), Says.reaches s page.toNat →
    Says.lastCommand page.toNat = some last → page.toNat ≠ pCal → (code.toNat = 0 ∨ last < code.toNat) →
    (s.fld (ctl page.toNat 0xF8) 7 0 ≠ 1 →
      ∃ s0 u d, CountsOnly 0xFF s s0 ∧ exec (.undefinedCommand a page code) s = .next (settle u) ∧
        Says.logged (s0.setReg (ctl page.toNat 0xF8) (Says.cmdstat s page.toNat code.toNat 0x0B)) u page.toNat 4 0x1E
          (Says.agent a) d ∧ d.toNat % 256 = code.toNat) ∧
    (s.fld (ctl page.toNat 0xF8) 7 0 = 1 →
      ∃ s0 u d, CountsOnly 0xFF s s0 ∧ exec (.undefinedCommand a page code) s = .next (settle u) ∧
        Says.logged s0 u page.toNat 3 0x1E (Says.agent a) d ∧ d.toNat % 256 = code.toNat)) ∧
  (∀ (a : Agent) (ca : BitVec 20) (sz : Size) (v : Word) (s : State), Says.running s →
    (pageKind (ca.toNat / 4096)).isSome = true → s.stopped.contains (ca.toNat / 4096) = false →
    let n := match sz with | .b1 => 1 | .b2 => 2 | .b4 => 4 | .b8 => 8
    let at_ := ca.toNat / n * n
    let own := ca.toNat / 4096 = 0xFF ∧ 0xA0 ≤ at_ % 4096 ∧ at_ % 4096 < 0xC0
    let evctl := ca.toNat / 4096 = 0xFF ∧ 0xC0 ≤ at_ % 4096 ∧ at_ % 4096 < 0xC8
    (n < 4 → ¬ own → ¬ evctl → ∃ s0 u, CountsOnly 0xFF s s0 ∧ exec (.registerWrite a ca sz v) s = .next (settle u) ∧
      Says.logged s0 u (ca.toNat / 4096) 7 (at_ % 4096 / 8) (Says.agent a) (ctlPa at_)) ∧
    (4 ≤ n → remotePage (ca.toNat / 4096) = true → Says.takes (.registerWrite a ca sz v) s (fun s =>
      { s with posted := s.posted ++ [{ a := a, ca := at_, sz := sz, v := v }] })) ∧
    (4 ≤ n → own → exec (.registerWrite a ca sz v) s = .next (settle ((blockWrite s a (wreq at_ sz v)).evCount 0xFF 0x20 1))) ∧
    (4 ≤ n → remotePage (ca.toNat / 4096) = false → ¬ own → ¬ evctl → Says.takes (.registerWrite a ca sz v) s (fun s =>
      blockWrite s a (wreq at_ sz v))) ∧
    (4 ≤ n → evctl → ∃ s0, CountsOnly 0xFF s s0 ∧ s0.fld (ctl 0xFF 0xC0) 3 0 = s.fld (ctl 0xFF 0xC0) 3 0 ∧
      exec (.registerWrite a ca sz v) s = .next (settle (let u := blockWrite s0 a (wreq at_ sz v)
        u.setReg (ctl 0xFF 0xC0) (u.reg (ctl 0xFF 0xC0) ||| (s0.reg (ctl 0xFF 0xC0) ^^^ s.reg (ctl 0xFF 0xC0)))))) ∧
    (n = 8 → ca.toNat / 4096 < 0x60 → at_ % 4096 = 0x208 ∨ at_ % 4096 = 0x210 →
      Says.takes (.registerWrite a ca sz v) s (fun s => s.setReg at_ v)))

/-- STAT_SET and IENA_WRITE (R419–R421): each 1 written to a defined bit sets that STAT bit and adds 1 to its occurrence
count; the page's doorbell rings on its target tile where an enabled bit is set, and where IENA enables a bit that is set
already; STAT bits, counts and enables that the write does not name keep their values. On the CAL page these writes, and a
command code, wait for the second calendar tick (spec/01 R32; when a tick falls is log entry 57, and what reads of the page see
till then 108). -/
def Says.StatusBits : Prop :=
  (∀ (a : Agent) (v : Word) (code : BitVec 8) (s : State), Says.running s → s.stopped.contains pCal = false →
    (∀ w ∈ s.posted, w.ca / 4096 ≠ pCal) →
    let waits (c : Instr) (off : Nat) (v : Word) : Prop :=
      Says.takes c s (fun s => { s with posted := s.posted ++ [{ a := a, ca := ctl pCal off, sz := .b8, v := v }] })
    waits (.statSet a 0xE8 v) 0x20 v ∧ waits (.ienaWrite a 0xE8 v) 0x28 v ∧
      waits (.undefinedCommand a 0xE8 code) 0xF0 (BitVec.ofNat 64 code.toNat)) ∧
  ∀ (a : Agent) (page : BitVec 8) (v : Word) (k : Kind) (inst : Nat) (s : State), Says.reaches s page.toNat →
    pageKind page.toNat = some (k, inst) → page.toNat ≠ pCal →
    let p := page.toNat
    let named (i : Nat) : Prop := i < k.stats ∧ v.getLsbD i = true
    let bellAt := ctl (s.fld (ctl p 0x10) 63 57) 0x100
    let bell : Word := s.reg bellAt ||| BitVec.ofNat 64 (2 ^ s.fld (ctl p 0x10) 55 50)
    Says.leads (.statSet a page v) s (fun u =>
      (∀ i, named i → (u.reg (ctl p 0x18)).getLsbD i = true ∧
        u.fld (occurAt p i).1 ((occurAt p i).2 + 7) (occurAt p i).2 =
          (s.fld (occurAt p i).1 ((occurAt p i).2 + 7) (occurAt p i).2 + 1) % 256) ∧
      (∀ i, i < 16 → ¬ named i → (u.reg (ctl p 0x18)).getLsbD i = (s.reg (ctl p 0x18)).getLsbD i ∧
        u.fld (occurAt p i).1 ((occurAt p i).2 + 7) (occurAt p i).2 =
          s.fld (occurAt p i).1 ((occurAt p i).2 + 7) (occurAt p i).2) ∧
      ((∃ i, named i ∧ (s.reg (ctl p 0x28)).getLsbD i = true) → u.reg bellAt = bell) ∧
      (¬ (∃ i, named i ∧ (s.reg (ctl p 0x28)).getLsbD i = true) → u.reg bellAt = s.reg bellAt) ∧
      (∀ r, r ≠ ctl p 0x18 → r ≠ ctl p 0x30 → r ≠ ctl p 0x38 → r ≠ bellAt → isCounter p r = false → isCounter 0xFF r = false →
        u.reg r = s.reg r) ∧ u = { s with regs := u.regs }) ∧
    Says.leads (.ienaWrite a page v) s (fun u =>
      let new : Word := BitVec.ofNat 64 (v.toNat % 2 ^ k.stats)
      (0 < k.stats → u.reg (ctl p 0x28) = ((s.reg (ctl p 0x28)) &&& ~~~BitVec.ofNat 64 (2 ^ k.stats - 1)) ||| new) ∧
      ((∃ i, i < k.stats ∧ v.getLsbD i = true ∧ (s.reg (ctl p 0x28)).getLsbD i = false ∧
          (s.reg (ctl p 0x18)).getLsbD i = true) → u.reg bellAt = bell) ∧
      (¬ (∃ i, i < k.stats ∧ v.getLsbD i = true ∧ (s.reg (ctl p 0x28)).getLsbD i = false ∧
          (s.reg (ctl p 0x18)).getLsbD i = true) → u.reg bellAt = s.reg bellAt) ∧
      (∀ r, r ≠ ctl p 0x28 → r ≠ bellAt → isCounter 0xFF r = false → u.reg r = s.reg r) ∧ u = { s with regs := u.regs })

/-- Registers by their access codes and reserved encodings, through REGISTER_WRITE on a core-domain page (spec/00 R12–R14; spec/13
R417, Maps 13-1, 13-3 and 13-8, Layout 13-6): a 1 clears a bit of STAT, V of an error log entry, or an OVF bit of EVCTL, and a 0
leaves it; RSVD and RO bits keep their values; the reserved values 64h–7Fh of CTRL.ITGT, and those of EVSEL.SRC that no page
defines, leave the field as it was while the other fields of the write take effect, and the write is logged with kind 01h; the
fourth bit of QUAL is RSVD on the pages of tiles (Table 13-11); a store of 4 bytes acts on its half alone, and issues no command
in the upper half of CMD. -/
def Says.RegisterFields : Prop :=
  ∀ (a : Agent) (page : BitVec 8) (off : BitVec 12) (v : Word) (s : State), Says.running s → (pageKind page.toNat).isSome = true →
    remotePage page.toNat = false → s.stopped.contains page.toNat = false →
    let p := page.toNat
    let o := off.toNat
    let old : Word := s.reg (ctl p o)
    let wr (sz : Size) : Instr := .registerWrite a (BitVec.ofNat 20 (ctl p o)) sz v
    let becomes (w : Word) : Prop := Says.takes (wr .b8) s (fun s => s.setReg (ctl p o) w)
    let refused (w : Word) : Prop := ∃ s0 u, CountsOnly 0xFF s s0 ∧ exec (wr .b8) s = .next (settle u) ∧
      Says.logged (s0.setReg (ctl p o) w) u p 1 (o / 8) (Says.agent a) v
    let put (m : Word) : Word := (old &&& ~~~m) ||| (v &&& m)
    let src := v.toNat % 256
    let qual : Word := if p < 0x64 then 0x700 else 0xF00
    (o = 0x18 → becomes (old &&& ~~~(v &&& 0xFFFF))) ∧
    (∀ n, n < 4 → o = 0x40 + 16 * n → becomes (old &&& ~~~(v &&& 0x8000000000000000))) ∧
    (∀ n, n < 4 → o = 0x48 + 16 * n ∨ o = 0xC8 + 8 * n → becomes old) ∧
    (o = 0 ∨ o = 8 ∨ o = 0x30 ∨ o = 0x38 ∨ o = 0xE8 ∨ o = 0xF8 → becomes old) ∧
    (o = 0xC0 → p ≠ 0xFF → becomes (put 0xF &&& ~~~(v &&& 0xF0))) ∧
    (o = 0x10 → v.toNat / 2 ^ 57 ≤ 0x63 → becomes (put 0xFEFC000000000000)) ∧
    (o = 0x10 → 0x63 < v.toNat / 2 ^ 57 → refused (put 0x00FC000000000000)) ∧
    (∀ n, n < 4 → o = 0x80 + 8 * n → v.toNat / 256 % 16 = 0 ∨ p < 0x64 →
      (src ≤ 1 ∨ (0x10 ≤ src ∧ src ≤ 0x1F) → becomes (put (qual ||| 0xFF))) ∧
      ((2 ≤ src ∧ src < 0x10) ∨ 0x44 ≤ src → refused (put qual))) ∧
    (∀ n, n < 4 → o = 0x80 + 8 * n → 0 < v.toNat / 256 % 16 → v.toNat / 256 % 16 < 8 → 0x64 ≤ p →
      src ≤ 1 → refused (put 0xFF)) ∧
    (o = 0x18 → Says.takes (wr .b4) s (fun s => s.setReg (ctl p o) old)) ∧
    (o = 0x1C → Says.takes (wr .b4) s (fun s => s.setReg (ctl p 0x18) (s.reg (ctl p 0x18) &&& ~~~(v &&& 0xFFFF)))) ∧
    (o = 0xF0 → Says.takes (wr .b4) s id) ∧
    (p = 0xFF → o = 0x108 → (s.placeSet = true → Says.takes (wr .b8) s id) ∧
      (s.placeSet = false → Says.takes (wr .b8) s (fun s =>
        (List.finRange 16).foldl autoTrain (s.setReg (ctl p o) (BitVec.ofNat 64 (2 ^ 15 + v.toNat % 512))))))

/-- What follows a row of the device (`settle`), where nothing is due: no message that this device sent itself, no ticket, migration,
answer, completion record or quench that waits, no record that waits for the ring, no snapshot or resynchronisation to begin, no
tile that waits in SWS or JSYNC or has stores of an entry or a checkstop to write, no course that drains, no link command that
waits. Then nothing changes, but that a quiescing Mason is quiesced (spec/10 Table 10-15). -/
def Says.NothingDue : Prop :=
  ∀ s : State, s.loopq = [] → s.mason.tickets = [] → s.mason.migs = [] → s.mason.dels = [] → s.mason.commits = [] →
    s.mason.quenched = [] → s.mason.comps = [] → s.mason.stageFull = false → s.hwj.waiting = [] → s.hwj.snapFirst = false →
    s.hwj.resyncLeft = [] →
    (∀ c, (s.course c).runHi = [] ∧ (s.course c).runLo = [] ∧ s.fld (ctl 0x90 (0x200 + 0x10 * c.val)) 63 62 ≠ 1) →
    (∀ t, (∀ pd n, (s.tile t).run ≠ .swsWait pd n) ∧ (∀ p, (s.tile t).run ≠ .jsyncWait p) ∧
      (∀ e ∈ (s.tile t).sbuf, e.frame = false) ∧
      ((s.tile t).run = .checkstop → (s.tile t).sbuf = [] ∧
        (96 ≤ t.val ∨ (s.reg (ctl 0x91 (0x188 + 8 * (t.val / 64)))).getLsbD (t.val % 64) = true))) →
    (∀ k : LinkId, s.fld (ctl (0xB0 + k.val) 0xF8) 7 0 = 1 → linkState s k = 1 ∨ linkState s k = 3) →
    settle s = if s.fld (ctl 0x90 0x100) 2 0 = 2 then s.setFld (ctl 0x90 0x100) 2 0 3 else s

/-- Pages and snapshots (spec/01 R27–R33, R43; spec/13 R428, R429, R433): a read of an unassigned page gives zeros and a
log entry of kind 05h, of a page without a running clock ones and kind 06h, a write has no other effect; the oldest posted
write of a page takes effect, but on the CAL page, where a tick is awaited (R32); EVSNAP with SNAP copies the counters of
every core-domain page into its SNAP registers and leaves the remote pages to capture; HOLD and RELEASE set and clear HELD,
a page that has still to capture going on until it has, and both at once are a reserved encoding, logged as kind 01h (R14,
R429); SNAP while BUSY is logged as kind 08h; a page captures once; a pop drops the queue's oldest message; a timer that is waited
for brings the timebase to TCMP (that the row so moves the timebase is log entry 17, and what EVSNAP's rows write beside their
own bit is entry 16). -/
def Obligations.PagesAndSnapshots : Prop :=
  (∀ (a : Agent) (ca : BitVec 20) (write : Bool) (sz : Size) (s : State), Says.running s →
    let n := match sz with | .b1 => 1 | .b2 => 2 | .b4 => 4 | .b8 => 8
    let gives (c : Instr) (kind : Nat) (b : Byte) : Prop := ∃ at_, (write = false → at_ = ca.toNat / n * n) ∧
      ∃ s0 u1 u, CountsOnly 0xFF s s0 ∧ Says.logged s0 u1 0xFF kind (ca.toNat / 4096) (Says.agent a) (ctlPa at_) ∧
        CountsOnly 0xFF u1 { u with reply := u1.reply, replyEp := u1.replyEp } ∧
        exec c s = .next (settle u) ∧ u.reply = (if write then s.reply else some (List.replicate n b))
    (pageKind (ca.toNat / 4096) = none → gives (.unassignedPageAccess a ca write sz) 5 0) ∧
    ((pageKind (ca.toNat / 4096)).isSome = true → s.stopped.contains (ca.toNat / 4096) = true →
      gives (.unclockedPageAccess a ca write sz) 6 0xFF)) ∧
  (∀ (page : BitVec 8) (s : State), Says.running s →
    (∀ w, s.posted.find? (fun w => decide (w.ca / 4096 = page.toNat)) = some w → s.stopped.contains page.toNat = false →
      page.toNat ≠ pCal → exec (.remoteWriteTakesEffect page) s =
        .next (settle (blockWrite { s with posted := s.posted.erase w } w.a (wreq w.ca w.sz w.v)))) ∧
    (page.toNat = pCal → exec (.remoteWriteTakesEffect page) s = .next (settle s)) ∧
    (page.toNat ∈ s.capturing → page.toNat ∉ s.stopped →
      Says.leads (.remoteSnapshotCapture page) s (fun u =>
        (∀ n, n < 4 → u.reg (ctl page.toNat (0xC8 + 8 * n)) = s.reg (ctl page.toNat (0xA0 + 8 * n))) ∧
        u.capturing = s.capturing.filter (fun q => q ≠ page.toNat) ∧
        (u.capturing = [] → (u.reg (ctl 0xFF 0x148)).getLsbD 63 = false) ∧ u.tiles = s.tiles ∧ u.mem = s.mem)) ∧
    (page.toNat ∉ s.capturing → exec (.remoteSnapshotCapture page) s = .next (settle s))) ∧
  (∀ (a : Agent) (v : Word) (s : State), Says.reaches s 0xFF →
    let st := ctl 0xFF 0x148
    (v.getLsbD 1 = false → v.getLsbD 2 = false → (s.reg st).getLsbD 63 = false →
      ∃ s0 u, CountsOnly 0xFF s s0 ∧ exec (.evsnapSnap a v) s = .next (settle u) ∧
        (∀ p n, p < 256 → (pageKind p).isSome = true → remotePage p = false → n < 4 →
          u.reg (ctl p (0xC8 + 8 * n)) = s0.reg (ctl p (0xA0 + 8 * n))) ∧
        u.fld st 47 0 = (s.fld st 47 0 + 1) % 2 ^ 48 ∧ (u.reg st).getLsbD 63 = true ∧ u.reg (ctl 0xFF 0x150) = s.clk.tb ∧
        (∀ p, p ∈ u.capturing ↔ p < 256 ∧ remotePage p = true) ∧ u.tiles = s.tiles ∧ u.mem = s.mem) ∧
    (v.getLsbD 0 = false → v.getLsbD 2 = false → Says.takes (.evsnapHold a v) s (fun s =>
      { s.setReg st (s.reg st ||| BitVec.ofNat 64 (2 ^ 62)) with
        holdWait := if (s.reg st).getLsbD 62 then s.holdWait else s.capturing })) ∧
    (v.getLsbD 0 = false → v.getLsbD 2 = true → ∃ s0 u d, CountsOnly 0xFF s s0 ∧
      exec (.evsnapHold a v) s = .next (settle u) ∧ Says.logged s0 u 0xFF 1 0x28 (Says.agent a) d) ∧
    ((s.reg st).getLsbD 63 = true → ∃ s0 u d, CountsOnly 0xFF s s0 ∧
      exec (.evsnapSnap a v) s = .next (settle u) ∧ Says.logged s0 u 0xFF 8 0 (Says.agent a) d) ∧
    (v.getLsbD 0 = false → v.getLsbD 1 = false →
      Says.takes (.evsnapRelease a v) s (fun s =>
        { s.setReg st (s.reg st &&& ~~~BitVec.ofNat 64 (2 ^ 62)) with holdWait := [] })) ∧
    Says.takes (.mcQueuePop a v) s (fun s => { s with mcq := s.mcq.tail })) ∧
  (∀ (t : TileId) (s : State), Says.running s → s.clk.seeded = true → s.clk.tb < (s.tile t).tcmp →
    exec (.timerExpiry t) s = .next (settle { s with clk := { s.clk with tb := (s.tile t).tcmp } }))

/-- Writes of the control space, and what follows them where nothing is due. -/
def Obligations.ControlSpaceWrites : Prop := Says.ControlWrites ∧ Says.RegisterFields ∧ Says.StatusBits ∧ Says.NothingDue

/-! ## Rings of tickets, admission, bricks -/

/-- A register of ring pair `r` (Map 10-4). -/
def Says.ring (r : Fin 64) (off : Nat) : Nat := ctl 0x90 (0x800 + 0x20 * r.val + off)

/-- Entries of the ring whose size field stands in `w` (Map 10-4). -/
def Says.entries (w : Word) : Nat := 2 ^ (w.toNat / 2 ^ 48 % 16 + 4)

/-- Ring pairs (spec/10 R300–R303): the Mason, in RUN, reads the entry at ICI when its PH is the phase expected: ICI moves
on, the phase changes at the wrap, and a valid ticket of this device's own session whose handler is defined and is no guest handler joins the
Mason's queues with the next arrival number. An entry of the other phase is left. Enabling a ring puts its index back to 0
and its phase to 1, and a changed index is written to WBADDR where WBV is 1; CCNT takes a count that the ring allows, else
the write is logged and ignored. A record that waited while CEN was 0 is written when CEN becomes 1 (that it waits so long is log
entry 133). -/
def Says.TicketRings : Prop :=
  (∀ (r : Fin 64) (s : State), Says.running s →
    let reg := s.reg (Says.ring r 0)
    let ici := s.fld (Says.ring r 0x10) 15 0
    let pa := reg.toNat / 2 ^ 12 % 2 ^ 36 * 4096 + 64 * ici
    let raw : Ticket := BitVec.ofNat 512 (ofBytes (s.bytes pa 64))
    let bare : Ticket := raw &&& ~~~BitVec.ofNat 512 (2 ^ 495)
    let nxt := (ici + 1) % Says.entries reg
    let phase := (s.mason.rings.get r).iphase
    s.fld (ctl 0x90 0x100) 2 0 = 1 → s.fld (ctl 0x91 0x100) 2 0 ≠ 5 → reg.getLsbD 63 = true → reg.toNat / 2 ^ 48 % 16 ≤ 12 →
    s.mason.stageFull = false →
    (raw.getLsbD 495 ≠ phase → exec (.ingressEntryRead r) s = .next (settle s)) ∧
    (raw.getLsbD 495 = phase →
      Says.leads (.ingressEntryRead r) s (fun u =>
        u.fld (Says.ring r 0x10) 15 0 = nxt ∧
        (u.mason.rings.get r).iphase = (if nxt = 0 then !phase else phase)) ∧
      ((s.reg (Says.ring r 0x18)).getLsbD 63 = false → s.poisoned pa 64 = false → ticketValid s bare = true →
        (∀ w0 w1, handlerOf s bare = some (w0, w1) → w0.getLsbD 62 = false) → (handlerOf s bare).isSome = true →
        BitVec.ofNat 9 (raw.toNat / 2 ^ 466 % 512) = s.devNo →
        Says.leads (.ingressEntryRead r) s (fun u =>
          u.mason.nextArrival = s.mason.nextArrival + 1 ∧
          ∃ k, u.mason.tickets = s.mason.tickets ++ [k] ∧ k.arrival = s.mason.nextArrival ∧ k.raw = bare ∧
            k.ring = some r ∧ k.origin = s.devNo ∧ k.receipt = none ∧ k.st = .staged)))) ∧
  (∀ (a : Agent) (r : Fin 64) (v : Word) (s : State), Says.reaches s 0x90 → v.toNat / 2 ^ 48 % 16 ≤ 12 →
    v.getLsbD 63 = true →
    let wb := s.reg (Says.ring r 0x18)
    let back (moved : Prop) (s u : State) : Prop :=
      (¬ (wb.getLsbD 63 = true ∧ moved) → u.mem = s.mem) ∧
      (wb.getLsbD 63 = true → moved →
        u.dword (wb.toNat / 8 % 2 ^ 45 * 8) = u.reg (Says.ring r 0x10) ∧
        ∀ x, x / 8 ≠ wb.toNat / 8 % 2 ^ 45 → u.byte x = s.byte x)
    ((s.reg (Says.ring r 0)).getLsbD 63 = false → Says.leads (.ienWrite a r v) s (fun u =>
      (u.reg (Says.ring r 0)).getLsbD 63 = true ∧ u.fld (Says.ring r 0) 51 48 = v.toNat / 2 ^ 48 % 16 ∧
      u.fld (Says.ring r 0) 47 12 = v.toNat / 2 ^ 12 % 2 ^ 36 ∧ u.fld (Says.ring r 0x10) 15 0 = 0 ∧
      (u.mason.rings.get r).iphase = true ∧ back (s.fld (Says.ring r 0x10) 15 0 ≠ 0) s u ∧ u.tiles = s.tiles)) ∧
    (∀ q, (s.reg (Says.ring r 8)).getLsbD 63 = false → s.mason.comps.filter (fun q => decide (q.ring = r)) = [q] → q.tile = none →
      wb.getLsbD 63 = false → Says.leads (.cenWrite a r v) s (fun u =>
        u.dword (v.toNat / 2 ^ 12 % 2 ^ 36 * 4096) = q.cookie ∧ u.fld (Says.ring r 0x10) 31 16 = 1 ∧
        (u.mason.rings.get r).written = 1 ∧ u.mason.comps = s.mason.comps.erase q)) ∧
    ((s.reg (Says.ring r 8)).getLsbD 63 = false → (∀ q ∈ s.mason.comps, q.ring ≠ r) → Says.leads (.cenWrite a r v) s (fun u =>
      (u.reg (Says.ring r 8)).getLsbD 63 = true ∧ u.fld (Says.ring r 8) 51 48 = v.toNat / 2 ^ 48 % 16 ∧
      u.fld (Says.ring r 8) 47 12 = v.toNat / 2 ^ 12 % 2 ^ 36 ∧ u.fld (Says.ring r 0x10) 31 16 = 0 ∧
      u.fld (Says.ring r 0x10) 48 32 = 0 ∧ (u.mason.rings.get r).cphase = true ∧ (u.mason.rings.get r).written = 0 ∧
      back (s.fld (Says.ring r 0x10) 31 16 ≠ 0) s u ∧ u.tiles = s.tiles))) ∧
  (∀ (a : Agent) (r : Fin 64) (v : Word) (s : State), Says.reaches s 0x90 →
    let c := v.toNat / 2 ^ 32 % 2 ^ 17
    let open_ := ((s.mason.rings.get r).written + 2 ^ 17 - c) % 2 ^ 17
    (open_ ≤ Says.entries (s.reg (Says.ring r 8)) → (∀ q ∈ s.mason.comps, q.ring ≠ r) →
      Says.takes (.ccntWrite a r v) s (fun s => s.setFld (Says.ring r 0x10) 48 32 c)) ∧
    (Says.entries (s.reg (Says.ring r 8)) < open_ → ∃ s0 u, CountsOnly 0xFF s s0 ∧
      exec (.ccntWrite a r v) s = .next (settle u) ∧
      Says.logged s0 u 0x90 1 ((0x810 + 0x20 * r.val) / 8) (Says.agent a) v))

/-- Admission (spec/10 R307–R309), in state RUN (that none is admitted while the Mason quiesces is log entry 132): a ticket of this device's own session that no ticket stands before, with every brick homed
here and no migration or directory change under way, its session live and its handler defined, is admitted: to the home's
course of its first brick, or to the least occupied course, with the handler's entry address and priority. Memory is as it was
unless an entry has to leave the full directory cache for one of the ticket's (R320, R321), or a course records, whose brick
map then follows a brick that the ticket may write (spec/14 R437); no line of the Mason's working area is poisoned, where a
staged ticket may be lost (R345; log entry 131). -/
def Says.TicketAdmitted : Prop :=
  ∀ (n : Nat) (k : TicketRec) (w0 w1 : Word) (s : State), Says.running s → ticketOf s n = some k → k.st = .staged →
    firstInQueues s k = true → s.fld (ctl 0x90 0x100) 2 0 = 1 → s.fld (ctl 0x91 0x100) 2 0 ≠ 5 →
    (∃ c : CourseId, s.fld (ctl 0x90 (0x200 + 0x10 * c.val)) 63 62 = 0) →
    handlerOf s k.raw = some (w0, w1) → tSdev k.raw = s.devNo → sessLive s (tSession k.raw) = true →
    (∀ x ∈ tKeys k.raw, usable s x = true) →
    (∀ l ∈ s.poison, ¬ (0x040208000000 ≤ 128 * l ∧ 128 * l < 0x040240000000)) →
    let want : CourseId := match (tKeys k.raw).head?.bind (homeEntry s) with
      | some w => Fin.ofNat 12 (w.toNat / 2 ^ 47 % 16)
      | none => leastCourse s
    let c := if s.fld (ctl 0x90 (0x200 + 0x10 * want.val)) 63 62 = 0 then want else leastCourse s
    Says.leads (.ticketAdmission n) s (fun u =>
      u.mason.tickets = s.mason.tickets.map (fun q => if q.arrival = n then
        { q with st := .admitted, session := tSession k.raw, course := c, prio := w0.getLsbD 61,
                 entry := BitVec.ofNat 64 (w0.toNat % 2 ^ 48 / 4 * 4) } else q) ∧
      u.tiles = s.tiles ∧
      (s.mason.cached.length + s.mason.hints.length + 4 ≤ Config.dirCache → (∀ c, recording s c = false) → u.mem = s.mem))

/-- What time brings to tickets and bricks (spec/10 R324, R333, R334, R338, R339): a continuation of the pending store that
is not held is sent again, with its pair and sequence, and a void notice is not counted (spec/11 R356); a tombstone ends and its frame is free again; a proposal lapses; a
brick at rest moves to the course that balance asks for, in its slice first: here, or by a message to the slice device. That a
cleared bit of the pool's bitmap marks a free brick is log entry 21. -/
def Obligations.MasonTimes : Prop :=
  (∀ (c : CourseId) (dest : BitVec 9) (seq : BitVec 48) (p : Pend) (s : State), Says.running s →
    s.mason.pend.find? (fun p => decide (p.course.toNat = c.val ∧ p.dest = dest ∧ p.seq = seq) && !p.held) = some p →
    let s1 : State := { s with mason := { s.mason with pend := s.mason.pend.map (fun q =>
      if q.src = p.src ∧ q.dest = p.dest ∧ q.course = p.course ∧ q.seq = p.seq then { q with held := false, time := s.clk.tb } else q) } }
    let pair (d : BitVec 9) : List Word := [BitVec.ofNat 64 (d.toNat * 2 ^ 55 + p.course.toNat * 2 ^ 51 + p.seq.toNat), 0]
    let m (ty : BitVec 8) (ws : List Word) : Msg := { ty := ty, dst := p.dest, src := s.devNo, via := none, arg := 0, payload := ws }
    (p.void = false → exec (.continuationResend c dest seq) s =
      .next (settle ((routeMsg s1 (m 0x11 (ticketWords p.tk ++ pair p.src))).incSat (ctl 0x90 0x140) 48 1))) ∧
    (p.void = true → exec (.continuationResend c dest seq) s = .next (settle (routeMsg s1 (m 0x13 (pair p.dest)))))) ∧
  (∀ (key : Word) (t : Tomb) (s : State), Says.running s → tombOf s key = some t →
    Says.leads (.tombstoneExpiry key) s (fun u =>
      u.mason.tombs = s.mason.tombs.erase t ∧
      (let at_ := poolBit (poolOf s t.pool) t.frame
       (u.byte at_.1).getLsbD at_.2 = false ∧ ∀ a, a ≠ at_.1 → u.byte a = s.byte a) ∧ u.tiles = s.tiles)) ∧
  (∀ s : State, Says.running s →
    exec .proposalLapse s = .next (settle (s.setFld (ctl 0x90 0x188) 63 63 0))) ∧
  (∀ (key w : Word) (c : CourseId) (s : State), Says.running s → homeEntry s key = some w → w.getLsbD 60 = false →
    migOf s key = none → entryPending s key = false → (∀ k ∈ s.mason.tickets, key ∉ tKeys k.raw) →
    (∀ q, s.mason.resident.find? (fun q => decide (q.1 = key.toNat)) = some q →
      s.fld (ctl 0x90 0x130) 23 8 ≤ (s.clk.tb.toNat - q.2.toNat) / 1000) →
    let w' : Word := BitVec.ofNat 64 (w.toNat / 2 ^ 51 * 2 ^ 51 + c.val * 2 ^ 47 + w.toNat % 2 ^ 47)
    (∀ a, sliceDev s key = s.devNo → sliceFind s key = some a → mirroring s = false →
      s.mason.cached.length + s.mason.hints.length < Config.dirCache →
      Says.leads (.courseBalanceMove key c) s (fun u =>
        u.dword (a + 8) = w' ∧ (key.toNat, w') ∈ u.mason.cached ∧ (key.toNat, s.clk.tb) ∈ u.mason.resident ∧
        u.mason.tickets = s.mason.tickets ∧ u.tiles = s.tiles)) ∧
    (sliceDev s key ≠ s.devNo → Says.leads (.courseBalanceMove key c) s (fun u =>
      (∃ g, u.mason.migs = s.mason.migs ++ [g] ∧ g.key = key ∧ g.peer = sliceDev s key ∧ g.course.toNat = c.val) ∧
      (key.toNat, s.clk.tb) ∈ u.mason.resident ∧ u.mason.tickets = s.mason.tickets ∧ u.mason.cached = s.mason.cached ∧
      u.tiles = s.tiles)))

/-! ## Commands of the MASON page -/

/-- A command may be given: its page is reached and no command of it is in progress (R422). -/
def Says.mayCommand (s : State) (p : Nat) : Prop := Says.reaches s p ∧ s.fld (ctl p 0xF8) 7 0 ≠ 1

/-- The command is accepted and ends with `status` in CMDSTAT; in between its block does `f`. -/
def Says.completes (c : Instr) (s : State) (p code status : Nat) (f : State → State) : Prop :=
  Says.takes c s (fun s0 =>
    (f (s0.setReg (ctl p 0xF8) (BitVec.ofNat 64 ((s.fld (ctl p 0xF8) 31 16 + 1) % 65536 * 65536 + code * 256 + 1)))).setFld
      (ctl p 0xF8) 7 0 status)

/-- The command is accepted and ends with `status` in CMDSTAT, in a state of which `P` holds. -/
def Says.ends (c : Instr) (s : State) (p code status : Nat) (P : State → Prop) : Prop :=
  Says.leads c s (fun u => u.reg (ctl p 0xF8) = Says.cmdstat s p code status ∧ P u)

/-- The command is not allowed in the block's state: CMDSTAT 0Ah and a log entry of kind 02h (R422). -/
def Says.refuses (c : Instr) (a : Agent) (s : State) (p code st : Nat) : Prop :=
  ∃ s0 u, CountsOnly 0xFF s s0 ∧ exec c s = .next (settle u) ∧
    Says.logged (s0.setReg (ctl p 0xF8) (Says.cmdstat s p code 0x0A)) u p 2 0x1E (Says.agent a) (BitVec.ofNat 64 (st * 256 + code))

/-- Commands of the MASON page with codes of Table 10-14. -/
def Says.masonCommands (a : Agent) : List (Instr × Nat) :=
  [(.start a, 1), (.quiesce a, 2), (.resume a, 3), (.pmap a, 4), (.pooldef a, 5), (.pooldel a, 6), (.sessinit a, 7),
   (.sessfree a, 8), (.spill a, 9), (.pin a, 10), (.unpin a, 11), (.hint a, 12), (.lookup a, 13), (.brickdel a, 14),
   (.staticdef a, 15), (.drainc a, 16), (.admitc a, 17), (.migack a, 18)]

/-- States of Table 10-15 in which a command is allowed. -/
def Says.masonMay (st code : Nat) : Prop :=
  (st = 0 ∧ (code = 1 ∨ (4 ≤ code ∧ code ≤ 8))) ∨ (st = 1 ∧ (code = 2 ∨ 5 ≤ code)) ∨
    (st = 3 ∧ ((3 ≤ code ∧ code ≤ 9) ∨ code = 13))

/-- The commands of the MASON page (spec/10 R343, Tables 10-14 and 10-15): a state that does not allow one refuses it; START, QUIESCE,
RESUME and PMAP change STATE and the partition map; sessions are initialised, freed and spilled unless a ticket holds them;
ADMITC and DRAINC set CSTATE, and DRAINC is busy until its course is drained (R422); MIGACK answers a proposal, which a
pinned brick does not follow (R338); the brick commands go to the slice device as BCMD messages (their words are log entry 27),
but key 0, which no brick has (R319; log entry 107); POOLDEF defines a pool that R336 allows, its bitmap clear (a cleared bit
marks a free brick: log entry 21), and POOLDEL removes one with every brick free. When each command ends is log entry 35; that a
POOLDEF which R336 does not allow gives 0Bh, and a POOLDEL of no pool or a MIGACK with no proposal 0Ch, is entry 34. -/
def Obligations.MasonCommands : Prop :=
  ∀ (a : Agent) (s : State), Says.mayCommand s 0x90 →
    let st := s.fld (ctl 0x90 0x100) 2 0
    let a0 := s.reg (ctl 0x90 0x160)
    let a1 := s.reg (ctl 0x90 0x168)
    let a2 := s.reg (ctl 0x90 0x170)
    let f0 (hi lo : Nat) : Nat := a0.toNat / 2 ^ lo % 2 ^ (hi + 1 - lo)
    let ses : BitVec 18 := BitVec.ofNat 18 (f0 17 0)
    let at_ := 0x040200000000 + 512 * ses.toNat
    let brick (c : Instr) (code w : Nat) : Prop :=
      (a0 = 0 → Says.completes c s 0x90 code 0x0B id) ∧
      (a0 ≠ 0 → Says.takes c s (fun s0 => routeMsg
        { s0.setReg (ctl 0x90 0xF8) (Says.cmdstat s 0x90 code 1) with mason := { s.mason with cmdKey := some a0 } }
        { ty := 0x14, dst := sliceDev s a0, src := s.devNo, via := none, arg := 0, payload := [a0, BitVec.ofNat 64 w, 0] }))
    (∀ q ∈ Says.masonCommands a, ¬ Says.masonMay st q.2 → Says.refuses q.1 a s 0x90 q.2 st) ∧
    (st = 0 → ∀ ready, (ready ↔ s.placeSet = true ∧ s.fld (ctl 0x90 0x110) 16 0 ≠ 0 ∧ s.mason.pmapLoaded = true ∧
        s.hwj.bibaseSet = true) →
      (ready → Says.completes (.start a) s 0x90 1 2 (fun s => s.setFld (ctl 0x90 0x100) 2 0 1)) ∧
      (¬ ready → Says.completes (.start a) s 0x90 1 0x0B id)) ∧
    (st = 1 → Says.completes (.quiesce a) s 0x90 2 2 (fun s => s.setFld (ctl 0x90 0x100) 2 0 2)) ∧
    (st = 3 → Says.completes (.resume a) s 0x90 3 2 (fun s => s.setFld (ctl 0x90 0x100) 2 0 1)) ∧
    (st = 0 ∨ st = 3 →
      (4096 < f0 11 0 + f0 27 16 + 1 → Says.completes (.pmap a) s 0x90 4 0x0B id) ∧
      (f0 11 0 + f0 27 16 + 1 ≤ 4096 → Says.ends (.pmap a) s 0x90 4 2 (fun u => u.mason.pmapLoaded = true ∧
        (∀ i : Fin 4096, u.mason.pmap.get i =
          if f0 11 0 ≤ i.val ∧ i.val ≤ f0 11 0 + f0 27 16 then BitVec.ofNat 9 (f0 40 32) else s.mason.pmap.get i) ∧
        u.mem = s.mem ∧ u.tiles = s.tiles))) ∧
    (st = 0 ∨ st = 1 ∨ st = 3 →
      (sessionHeld s ses = true → Says.completes (.sessinit a) s 0x90 7 0x0E id ∧ Says.completes (.sessfree a) s 0x90 8 0x0E id) ∧
      (sessionHeld s ses = false →
        Says.ends (.sessinit a) s 0x90 7 2 (fun u =>
          u.memNat (at_ + 8) 16 = a1.toNat * 2 ^ 64 + a2.toNat ∧ (∀ i, i < 31 → u.dword (at_ + 0x18 + 8 * i) = 0) ∧
          u.memNat (at_ + 0x1F0) 4 = ses.toNat ∧ u.memNat (at_ + 0x1F4) 2 = f0 47 32 ∧ u.memNat (at_ + 0x1F6) 2 = 1 ∧
          (∀ x, x < at_ ∨ at_ + 512 ≤ x → u.byte x = s.byte x)) ∧
        Says.ends (.sessfree a) s 0x90 8 2 (fun u =>
          (u.memNat (at_ + 0x1F6) 2) % 2 = 0 ∧ (∀ x, x < at_ ∨ at_ + 512 ≤ x → u.byte x = s.byte x) ∧
          (residentAt s ses = none → u.tiles = s.tiles ∧ ∀ x, x ≠ at_ + 0x1F7 → u.byte x = s.byte x)))) ∧
    (st = 1 ∨ st = 3 →
      (sessionHeld s ses = true → Says.completes (.spill a) s 0x90 9 0x0E id) ∧
      (sessionHeld s ses = false → residentAt s ses = none → Says.completes (.spill a) s 0x90 9 2 id) ∧
      (∀ t b, sessionHeld s ses = false → residentAt s ses = some (t, b) → Says.ends (.spill a) s 0x90 9 2 (fun u =>
        ((u.tile t).banks.get b).sess = none ∧ u.bytes at_ 512 = ((s.tile t).banks.get b).image ses (sessLive s ses) ∧
        (∀ x, x < at_ ∨ at_ + 512 ≤ x → u.byte x = s.byte x) ∧ ∀ t', t' ≠ t → u.tile t' = s.tile t'))) ∧
    (st = 1 →
      brick (.pin a) 10 0 ∧ brick (.unpin a) 11 (2 ^ 56) ∧
      brick (.hint a) 12 (2 * 2 ^ 56 + a1.toNat / 2 ^ 16 % 16 * 2 ^ 16 + a1.toNat % 512) ∧
      brick (.brickdel a) 14 (4 * 2 ^ 56) ∧ brick (.staticdef a) 15 (5 * 2 ^ 56 + a1.toNat % 512)) ∧
    (st = 1 ∨ st = 3 → brick (.lookup a) 13 (3 * 2 ^ 56)) ∧
    (st = 1 → 12 ≤ f0 3 0 → Says.completes (.drainc a) s 0x90 16 0x0B id ∧ Says.completes (.admitc a) s 0x90 17 0x0B id) ∧
    (st = 1 → ∀ c : CourseId, f0 3 0 = c.val →
      Says.ends (.drainc a) s 0x90 16 1 (fun u => u.fld (ctl 0x90 (0x200 + 0x10 * c.val)) 63 62 = 1 ∧
        u.mason.drainCmd = some c ∧ (∀ k ∈ u.mason.tickets, k.course = c → k.started = false → k.st ≠ .queued ∧ ∀ t, k.st ≠ .bound t) ∧ u.tiles = s.tiles) ∧
      Says.completes (.admitc a) s 0x90 17 2 (fun s => s.setFld (ctl 0x90 (0x200 + 0x10 * c.val)) 63 62 0)) ∧
    (st = 1 → (s.reg (ctl 0x90 0x188)).getLsbD 63 = false → Says.completes (.migack a) s 0x90 18 0x0C id) ∧
    (st = 1 → (s.reg (ctl 0x90 0x188)).getLsbD 63 = true →
      (a0.getLsbD 0 = false → Says.completes (.migack a) s 0x90 18 2 (fun s => s.setFld (ctl 0x90 0x188) 63 63 0)) ∧
      (∀ w, homeEntry s (s.reg (ctl 0x90 0x180)) = some w → w.getLsbD 60 = true →
        Says.completes (.migack a) s 0x90 18 2 (fun s => s.setFld (ctl 0x90 0x188) 63 63 0)) ∧
      (∀ w, a0.getLsbD 0 = true → migOf s (s.reg (ctl 0x90 0x180)) = none → homeEntry s (s.reg (ctl 0x90 0x180)) = some w →
        w.getLsbD 60 = false → BitVec.ofNat 9 ((s.reg (ctl 0x90 0x188)).toNat / 16 % 512) ≠ s.devNo →
        Says.ends (.migack a) s 0x90 18 2 (fun u => (u.reg (ctl 0x90 0x188)).getLsbD 63 = false ∧
          ∃ g, u.mason.migs = s.mason.migs ++ [g] ∧ g.key = s.reg (ctl 0x90 0x180) ∧
            g.peer = BitVec.ofNat 9 ((s.reg (ctl 0x90 0x188)).toNat / 16 % 512) ∧ g.atHome = true ∧ g.step = 1))) ∧
    (st = 0 ∨ st = 1 ∨ st = 3 →
      let n := f0 4 0
      let p := poolOf s n
      let b := a1.toNat / 2 ^ 14 % 2 ^ 34 * 0x4000
      let e := a2.toNat / 2 ^ 14 % 2 ^ 34 * 0x4000
      let mode := f0 9 8
      let ok := (if n < 16 then mode < 2 else mode = 2) ∧ b ≤ e ∧ framesReserved s b (e + 0x4000 - b) = true ∧
        ∀ i, i < 32 → (poolOf s i).v = true → i ≠ n ∧ ¬ (b ≤ (poolOf s i).last ∧ (poolOf s i).base ≤ e)
      (¬ ok → Says.completes (.pooldef a) s 0x90 5 0x0B id) ∧
      (ok → Says.ends (.pooldef a) s 0x90 5 2 (fun u => (poolOf u n) = { v := true, mode := mode, degr := a0.getLsbD 12, base := b, last := e } ∧
        u.fld (ctl 0x90 (0x410 + 0x20 * n)) 28 0 = ((poolOf u n).bricks - (poolOf u n).reserved) % 2 ^ 29 ∧
        (mode ≠ 2 → ∀ i, i < (poolOf u n).bricks → (poolOf u n).reserved ≤ i →
          (u.byte (poolBit (poolOf u n) (b + 4096 * i)).1).getLsbD (poolBit (poolOf u n) (b + 4096 * i)).2 = false) ∧
        u.tiles = s.tiles)) ∧
      (p.v = false → Says.completes (.pooldel a) s 0x90 6 0x0C id) ∧
      (p.v = true → s.fld (ctl 0x90 (0x410 + 0x20 * n)) 28 0 ≠ p.bricks - p.reserved → Says.completes (.pooldel a) s 0x90 6 0x0E id) ∧
      (p.v = true → s.fld (ctl 0x90 (0x410 + 0x20 * n)) 28 0 = p.bricks - p.reserved →
        Says.ends (.pooldel a) s 0x90 6 2 (fun u => (poolOf u n).v = false ∧ u.fld (ctl 0x90 (0x410 + 0x20 * n)) 28 0 = 0 ∧
          u.mem = s.mem ∧ u.tiles = s.tiles)))

/-- Rings of tickets, and admission. -/
def Obligations.TicketsEnter : Prop := Says.TicketRings ∧ Says.TicketAdmitted

/-! ## The journal unit -/

/-- HWJ.STATE (Table 11-13): 0 INIT, 1 SINGLE, 2 RESYNC, 3 PAIRED, 4 DEGRADED, 5 FENCED. -/
def Says.hwj (s : State) : Nat := s.fld (ctl 0x91 0x100) 2 0

/-- Evidence of a slot of the grove is younger than 12 µs at time `tb` (R376, R377). -/
def Says.alive (s : State) (tb : Nat) (i : Fin 8) : Prop :=
  let young (e : Word) : Prop := e ≠ 0 ∧ tb < e.toNat + 12000
  young (s.hwj.seen.get i) ∨ ∃ j, young ((s.hwj.reported.get j).get i)

/-- Records and time in the journal unit (spec/11 R363–R366, R370, R372, R376–R379): the oldest record that is not durable
becomes durable and DURPOS moves past it; a record that waits for no acknowledgement then has its effect and is done with,
a ticket's POST commits, or fails where its write does (HWERR; log entry 92); a POST that waited FULLTO for ring space fails,
its tile in checkstop or not (R357), and a missing acknowledgement puts the unit into DEGRADED; DRAINPOS takes a position the unit allows
(while no snapshot is complete DRAINLIM does not pass DRAINPOS: log entry 127), else the write is logged; a sequence snapshot is 30 records; at a
heartbeat instant a device without any fresh evidence fences itself, and one whose buddy alone is silent declares it
failed; RESYNC ends in PAIRED when nothing is left to copy. -/
def Obligations.JournalTimes : Prop :=
  (∀ (r : JRec) (s : State), Says.running s → s.hwj.inflight.find? (fun x => !x.durable) = some r →
    let l := s.hwj.inflight.map (fun x => if x = r then { r with durable := true } else x)
    let dur : Word := BitVec.ofNat 64 (match l.find? (fun x => !x.durable) with
      | some x => x.pos
      | none => (s.reg (ctl 0x91 0x108)).toNat)
    let bad := r.ticket.isSome = true ∧ writeFails s = true
    let waits := r.needAck = true ∧ r.acked = false
    Says.leads .recordDurable s (fun u => u.reg (ctl 0x91 0x110) = dur ∧
      (r.mcopy = none → waits → ¬ bad → u.hwj.inflight = l ∧ u.mason = s.mason ∧ u.tiles = s.tiles) ∧
      (r.mcopy.isSome = true ∨ (¬ bad ∧ ¬ waits) → ∀ x ∈ u.hwj.inflight, x.pos ≠ r.pos) ∧
      (r.mcopy = none → bad → (u.reg (ctl 0x91 0x18)).getLsbD 6 = true) ∧
      (∀ n, r.mcopy = none → bad ∨ ¬ waits → r.ticket = some n → ∀ k ∈ u.mason.tickets, k.arrival ≠ n))) ∧
  (∀ s : State, Says.running s → s.hwj.inflight.find? (fun x => !x.durable) = none →
    exec .recordDurable s = .next (settle s)) ∧
  (∀ (t : TileId) (s : State), Says.running s →
    let waits := s.hwj.waiting.findSome? (fun w => match w with
      | .post n (some t') => if t' = t then some n else none
      | _ => none)
    (∀ (n : Nat) (k : TicketRec), ringShort s = true → waits = some n → ticketOf s n = some k →
      Says.leads (.ringFullTimeout t) s (fun u => (∀ q ∈ u.mason.tickets, q.arrival ≠ n) ∧ .post n (some t) ∉ u.hwj.waiting ∧
        (u.reg (ctl 0x91 0x18)).getLsbD 0 = true)) ∧
    (ringShort s = false ∨ waits = none → exec (.ringFullTimeout t) s = .next (settle s))) ∧
  (∀ s : State, Says.running s →
    let waits := (Says.hwj s = 2 ∨ Says.hwj s = 3) ∧ ∃ r ∈ s.hwj.inflight, r.needAck = true ∧ r.acked = false
    (waits → Says.leads .mirrorTimeout s (fun u => Says.hwj u = 4 ∧ (u.reg (ctl 0x91 0x18)).getLsbD 1 = true ∧ u.hwj.drepWait = [])) ∧
    (¬ waits → exec .mirrorTimeout s = .next (settle s))) ∧
  (∀ (a : Agent) (v : Word) (s : State), Says.reaches s 0x91 →
    let ok := Says.hwj s ≠ 0 ∧ (s.reg (ctl 0x91 0x118)).toNat ≤ v.toNat ∧ v.toNat ≤ drainLim s ∧
      isRecPos s v.toNat (2 ^ 23 + 1) (s.reg (ctl 0x91 0x118)).toNat = true
    (ok → Says.leads (.drainposWrite a v) s (fun u => u.reg (ctl 0x91 0x118) = v)) ∧
    (¬ ok → ∃ s0 u, CountsOnly 0xFF s s0 ∧ exec (.drainposWrite a v) s = .next (settle u) ∧
      Says.logged s0 u 0x91 1 (0x118 / 8) (Says.agent a) v)) ∧
  (∀ s : State, Says.running s →
    (Says.hwj s = 0 ∨ Says.hwj s = 5 → exec .sequenceSnapshot s = .next (settle s)) ∧
    (Says.hwj s ≠ 0 → Says.hwj s ≠ 5 → s.hwj.waiting = [] → 2 ^ 20 ≤ ringFree s → (s.reg (ctl 0x91 0x108)).toNat < 2 ^ 63 →
      Says.leads .sequenceSnapshot s (fun u =>
        let room := 2 ^ 29 - (s.reg (ctl 0x91 0x108)).toNat % 2 ^ 29
        u.hwj.snapDone = some ((s.reg (ctl 0x91 0x108)).toNat + (if room < 16512 then room else 0)) ∧
        u.hwj.inflight.length = s.hwj.inflight.length + 30 ∧ u.tiles = s.tiles ∧ u.mason = s.mason))) ∧
  (∀ s : State, Says.running s →
    let tb := if s.clk.seeded then (s.clk.tb.toNat / 4000 + 1) * 4000 % 2 ^ 64 else s.clk.tb.toNat
    let me : Fin 8 := Fin.ofNat 8 (s.fld (ctl 0xFF 0x108) 8 0)
    let him : Fin 8 := Fin.ofNat 8 (s.fld (ctl 0x91 0x128) 8 0)
    let has := (s.reg (ctl 0x91 0x128)).getLsbD 63 = true
    (Says.hwj s = 0 ∨ Says.hwj s = 5 → exec .heartbeatInstant s = .next (settle s)) ∧
    (Says.hwj s = 1 ∨ Says.hwj s = 4 → Says.leads .heartbeatInstant s (fun u => u.clk.tb.toNat = tb ∧ Says.hwj u = Says.hwj s)) ∧
    (Says.hwj s = 2 ∨ Says.hwj s = 3 →
      ((∀ i, i ≠ me → ¬ Says.alive s tb i) → Says.leads .heartbeatInstant s (fun u => u.clk.tb.toNat = tb ∧ Says.hwj u = 5)) ∧
      ((∃ i, i ≠ me ∧ Says.alive s tb i) → has → ¬ Says.alive s tb him →
        Says.leads .heartbeatInstant s (fun u => u.clk.tb.toNat = tb ∧ Says.hwj u = 4 ∧ (u.reg (ctl 0x91 0x18)).getLsbD 2 = true)) ∧
      (him ≠ me → has → Says.alive s tb him →
        Says.leads .heartbeatInstant s (fun u => u.clk.tb.toNat = tb ∧ Says.hwj u = Says.hwj s)))) ∧
  (∀ s : State, Says.running s →
    (Says.hwj s = 2 → s.hwj.resyncLeft = [] → Says.leads .resyncComplete s (fun u => Says.hwj u = 3 ∧
      (u.reg (ctl 0x91 0x18)).getLsbD 8 = true ∧ u.hwj.rCopied = [] ∧ u.tiles = s.tiles)) ∧
    (¬ (Says.hwj s = 2 ∧ s.hwj.resyncLeft = []) → exec .resyncComplete s = .next (settle s)))

/-- Commands of the HWJ page with codes of Table 11-12. -/
def Says.hwjCommands (a : Agent) : List (Instr × Nat) :=
  [(.ringinit a, 1), (.ringopen a, 2), (.pair a, 3), (.unpair a, 4), (.takeover a, 5), (.fenceCommand a, 6), (.release a, 7)]

/-- States of Table 11-13 in which a command is allowed. -/
def Says.hwjMay (st code : Nat) : Prop :=
  (st = 0 ∧ code ≤ 2) ∨ (st = 1 ∧ (code = 3 ∨ code = 6 ∨ code = 7)) ∨ ((st = 2 ∨ st = 3) ∧ (code = 4 ∨ code = 6 ∨ code = 7)) ∨
    (st = 4 ∧ 3 ≤ code)

/-- An own drain mark stands at ring address `m` (Layouts 11-3, 11-4). -/
def Says.drainMark (s : State) (m : Nat) : Prop :=
  0x080000000000 ≤ m ∧ m < 0x080020000000 ∧ m % 64 = 0 ∧ (s.dword m).toNat / 2 ^ 48 = 0x4A52 ∧
    (s.dword m).toNat / 2 ^ 44 % 16 = 5 ∧ (s.dword m).getLsbD 43 = false ∧
    0x080000000000 + (s.dword (m + 8)).toNat % 2 ^ 29 = m

/-- The commands of the HWJ page (spec/11 Tables 11-12 and 11-13, R375, R386): a state that does not allow one refuses it;
RINGINIT empties the ring and writes the first drain mark; RINGOPEN finds no drain mark (0Ch), or takes DRAINPOS from the
newest one and HEADPOS and DURPOS from the walk that starts there; UNPAIR forgets the buddy; TAKEOVER promotes for a declared buddy, 0Eh without one; FENCE fences;
RELEASE sends what RINGOPEN held; PAIR begins RESYNC with a grove peer that a third device bears witness of and whose link
has the feature, and is 0Bh with any other (whether the peer names this device in time, and its pools match, is a free value:
log entry 28; a device's heartbeats are received by both while each has evidence of it younger than 12 µs: log entry 134). -/
def Obligations.JournalCommands : Prop :=
  ∀ (a : Agent) (s : State), Says.mayCommand s 0x91 →
    let st := Says.hwj s
    let buddy := BitVec.ofNat 9 (s.fld (ctl 0x91 0x128) 8 0)
    let has := (s.reg (ctl 0x91 0x128)).getLsbD 63 = true
    (∀ q ∈ Says.hwjCommands a, ¬ Says.hwjMay st q.2 → Says.refuses q.1 a s 0x91 q.2 st) ∧
    (st = 0 → s.hwj.waiting = [] → Says.ends (.ringinit a) s 0x91 1 2 (fun u => Says.hwj u = 1 ∧
      u.reg (ctl 0x91 0x108) = 640 ∧ u.reg (ctl 0x91 0x110) = 0 ∧ u.reg (ctl 0x91 0x118) = 0 ∧
      Says.drainMark u 0x080000000000 ∧ u.dword 0x080000000040 = 0 ∧
      (∀ x, x < 0x080000000000 ∨ 0x080020000000 ≤ x → u.byte x = s.byte x) ∧
      (∀ x, 0x080000000280 ≤ x → x < 0x080020000000 → u.byte x = 0) ∧ u.tiles = s.tiles)) ∧
    (st = 0 → (∀ m, ¬ Says.drainMark s m) → Says.completes (.ringopen a) s 0x91 2 0x0C id) ∧
    (∀ m, st = 0 → Says.drainMark s m →
      (∀ m', m' ≠ m → Says.drainMark s m' → (s.dword (m' + 8)).toNat < (s.dword (m + 8)).toNat) →
      Says.ends (.ringopen a) s 0x91 2 2 (fun u => Says.hwj u = 1 ∧ u.reg (ctl 0x91 0x118) = s.dword (m + 64) ∧
        u.reg (ctl 0x91 0x108) = BitVec.ofNat 64
          (walkRing s (2 ^ 23) { pos := (s.dword (m + 64)).toNat, recs := [], chains := [], bad := none }).pos ∧
        u.reg (ctl 0x91 0x110) = u.reg (ctl 0x91 0x108) ∧ u.mem = s.mem ∧ u.tiles = s.tiles)) ∧
    (st = 1 ∨ st = 4 → s.fld (ctl 0x91 0x168) 8 0 / 8 ≠ s.fld (ctl 0xFF 0x108) 8 0 / 8 →
      Says.completes (.pair a) s 0x91 3 0x0B State.drew) ∧
    (st = 1 ∨ st = 4 →
      let b := s.fld (ctl 0x91 0x168) 8 0
      let me := s.fld (ctl 0xFF 0x108) 8 0
      let young (e : Word) : Prop := e ≠ 0 ∧ s.clk.tb.toNat < e.toNat + 12000
      let ok := b / 8 = me / 8 ∧ b ≠ me ∧ linkFeat s (groveLink (me % 8) (b % 8)) 0x20 = true ∧
        ∃ i : Fin 8, i.val ≠ b % 8 ∧ i.val ≠ me % 8 ∧ young (s.hwj.seen.get i) ∧ young ((s.hwj.reported.get (Fin.ofNat 8 b)).get i)
      (ok → (s.freeVal 1 : BitVec 1) ≠ 1 → Says.ends (.pair a) s 0x91 3 2 (fun u => Says.hwj u = 2 ∧
        u.reg (ctl 0x91 0x128) = BitVec.ofNat 64 (2 ^ 63 + b) ∧ u.hwj.promoted = false ∧ u.tiles = s.tiles)) ∧
      (¬ ok ∨ (s.freeVal 1 : BitVec 1) = 1 → Says.completes (.pair a) s 0x91 3 0x0B State.drew)) ∧
    (st = 2 ∨ st = 3 ∨ st = 4 → Says.ends (.unpair a) s 0x91 4 2 (fun u => Says.hwj u = 1 ∧ u.reg (ctl 0x91 0x128) = 0)) ∧
    (st = 4 → ¬ (has ∧ s.hwj.declared = true ∧ s.hwj.promoted = false) → Says.completes (.takeover a) s 0x91 5 0x0E id) ∧
    (st = 4 → has → s.hwj.declared = true → s.hwj.promoted = false →
      Says.ends (.takeover a) s 0x91 5 2 (fun u => Says.hwj u = 4 ∧ u.hwj.promoted = true ∧ u.hwj.declared = false ∧
        (buddy, s.devNo) ∈ u.mason.aliases ∧ u.hwj.rPend = [] ∧ (u.reg (ctl 0x91 0x18)).getLsbD 3 = true ∧ u.tiles = s.tiles)) ∧
    (1 ≤ st → st ≤ 4 → Says.ends (.fenceCommand a) s 0x91 6 2 (fun u => Says.hwj u = 5 ∧
      (u.reg (ctl 0x91 0x18)).getLsbD 4 = true)) ∧
    (1 ≤ st → st ≤ 4 → Says.ends (.release a) s 0x91 7 2 (fun u => u.tiles = s.tiles ∧ u.mem = s.mem ∧
      ∀ p ∈ u.mason.pend, p.held = true → ∃ r ∈ s.hwj.inflight, r.pos = p.pos ∧ r.ticket.isSome = true))

/-! ## Mortar links -/

/-- A register of a MORT page. -/
def Says.mort (k : LinkId) (off : Nat) : Nat := ctl (0xB0 + k.val) off

/-- LSTAT.STATE (Table 12-3): 0 OFF, 1 TRAIN, 2 UP, 3 RETRAIN, 4 FAILED, 5 LOOP. -/
def Says.link (s : State) (k : LinkId) : Nat := s.fld (Says.mort k 0x100) 2 0

/-- STAT bit `i` of a link's page. -/
def Says.lstat (s : State) (k : LinkId) (i : Nat) : Bool := (s.reg (Says.mort k 0x18)).getLsbD i

/-- The link begins to train with LCTL as it stands (Sequence 12-4, R413). -/
def Says.trains (s u : State) (k : LinkId) (again : Bool) : Prop :=
  let c := s.reg (Says.mort k 0x108)
  Says.link u k = 1 ∧ u.fld (Says.mort k 0x100) 11 8 = 0 ∧ (u.link k).step = .detect ∧ (u.link k).negoCount = 0 ∧
    (u.link k).allowM1 = c.getLsbD 62 ∧ (u.link k).foffer = BitVec.ofNat 6 (c.toNat / 2 ^ 8 % 2 ^ 6) ∧
    (u.link k).errThr = c.toNat % 2 ^ 8 ∧ (u.link k).retryFull = again

/-- The link has failed with a cause (R392, Map 12-12). -/
def Says.failed (u : State) (k : LinkId) (cause : Nat) : Prop :=
  Says.link u k = 4 ∧ u.fld (Says.mort k 0x100) 11 8 = cause ∧ Says.lstat u k 0 = true

/-- The link is in RETRAIN, which is counted (R410). -/
def Says.retrains (s u : State) (k : LinkId) : Prop :=
  Says.link u k = 3 ∧ Says.lstat u k 2 = true ∧ (u.link k).step = .nrz ∧
    (u.reg (Says.mort k 0x130)).toNat = min (2 ^ 48 - 1) ((s.reg (Says.mort k 0x130)).toNat + 1)

/-- Link states (spec/12 R390–R393, R395, R410, Table 12-3, Sequence 12-4): a link with AUTO trains once the device has its
place, and again after NOSIG; each training step fails with its cause at its limit, which says that the steps before it that
show nothing have ended (log entry 119), equalisation falls back to M1 where both sides allow it, verification is tried three times; the third
equal NEGO with LOCK set decides the peer, the cause of a failure, or M2, T2 and the features; a trained link enters UP with
full credits, in words on M2 and in blocks of 256 bytes on M1 (R396, R399); an idle flit brings credits and acknowledges the
oldest flits of the replay buffer; a lost lane lock, eight refused flits on end and more than ERRTHR in 1 ms retrain it. -/
def Says.LinkStates : Prop :=
  ∀ (k : LinkId) (s : State), Says.running s →
    let st := Says.link s k
    let auto := (s.reg (Says.mort k 0x108)).getLsbD 63 = true
    let l := s.link k
    (let go := st = 0 ∧ s.placeSet = true ∧ auto
     (go → Says.leads (.linkTraining k) s (fun u => Says.trains s u k false ∧ u.tiles = s.tiles ∧ u.mem = s.mem)) ∧
     (¬ go → exec (.linkTraining k) s = .next (settle s))) ∧
    (let go := st = 4 ∧ s.fld (Says.mort k 0x100) 11 8 = 1 ∧ auto
     (go → Says.leads (.nosigRetry k) s (fun u => Says.trains s u k false ∧ u.tiles = s.tiles ∧ u.mem = s.mem)) ∧
     (¬ go → exec (.nosigRetry k) s = .next (settle s))) ∧
    (st = 2 → Says.leads (.laneLockLoss k) s (fun u => Says.retrains s u k ∧ u.tiles = s.tiles ∧ u.mem = s.mem)) ∧
    (st ≠ 2 → exec (.laneLockLoss k) s = .next (settle s)) ∧
    (∀ step : TrainStep,
      (st = 3 → Says.leads (.trainingLimit k step) s (fun u => Says.trains s u k true ∧ Says.lstat u k 0 = true)) ∧
      let due := match step with
        | .detect => l.step = .detect
        | .nrz => l.step = .detect ∨ l.step = .nrz
        | .nego => l.step = .detect ∨ l.step = .nrz ∨ l.step = .nego
        | .eq => l.step = .eq
        | .verify => l.step = .eq ∨ l.step = .verify
      (st ≠ 3 → ¬ (st = 1 ∧ due) → exec (.trainingLimit k step) s = .next (settle s)) ∧
      (st = 1 → due → Says.leads (.trainingLimit k step) s (fun u =>
        match step with
        | .detect => Says.failed u k 1
        | .nrz => Says.failed u k 7
        | .nego => Says.failed u k 7
        | .eq => if l.allowM1 = true ∧ l.lastNego.getLsbD 72 = true then
            Says.link u k = 1 ∧ (u.reg (Says.mort k 0x100)).getLsbD 32 = false ∧ (u.link k).step = .verify ∧ Says.lstat u k 7 = true
          else Says.failed u k 5
        | .verify => if l.verifyTries < 2 then Says.link u k = 1 ∧ (u.link k).step = .verify ∧ (u.link k).verifyTries = l.verifyTries + 1
            else Says.failed u k 6))) ∧
    (let fresh := st = 1 ∧ (l.step = .eq ∨ l.step = .verify)
     (st = 3 ∨ fresh → Says.leads (.linkUp k) s (fun u => Says.link u k = 2 ∧ Says.lstat u k 1 = true)) ∧
     (fresh → l.tx = [] → (s.reg (Says.mort k 0x100)).getLsbD 41 = false ∨ canopyRoot s = none ∨ canopyRoot s = some s.devNo →
       Says.leads (.linkUp k) s (fun u => (u.link k).replay = [] ∧ (u.link k).nextSeq = 0 ∧
       (u.link k).rxSeq = 0 ∧ (u.link k).credit =
         (if (s.reg (Says.mort k 0x100)).getLsbD 32 then Vector.ofFn (fun i => [512, 2048, 4096, 4096].getD i.val 0)
          else Vector.replicate 4 1024))) ∧
     (¬ (st = 3 ∨ fresh) → exec (.linkUp k) s = .next (settle s))) ∧
    (∀ n : BitVec 128,
      let f (hi lo : Nat) : Nat := n.toNat / 2 ^ lo % 2 ^ (hi + 1 - lo)
      let good := f 127 112 = 0x4D4E ∧ crc32 ((beBytes 16 n.toNat).take 12) = BitVec.ofNat 32 (f 31 0)
      let cnt := if n.getLsbD 95 then (if l.lastNego = n then l.negoCount + 1 else 1) else 0
      let want := linkPeer s.devNo k
      let m1 := f 111 96 = 0x3100 ∨ l.allowM1 = true
      let m2 := (f 73 72) / 2 = 1
      (¬ (st = 1 ∧ good) → exec (.nego k n) s = .next (settle s)) ∧
      (st = 1 → good → l.step ≠ .eq → l.step ≠ .verify → Says.leads (.nego k n) s (fun u =>
        (u.reg (Says.mort k 0x100)).getLsbD 63 = true ∧ u.fld (Says.mort k 0x100) 57 49 = f 90 82 ∧
        u.fld (Says.mort k 0x100) 61 58 = f 94 91 ∧
        ((u.reg (Says.mort k 0x100)).getLsbD 62 = true ↔ f 111 96 = 0x3100) ∧ (u.link k).negoCount = cnt ∧
        (cnt < 3 → Says.link u k = 1 ∧ (u.link k).step = .nego) ∧
        (3 ≤ cnt → BitVec.ofNat 9 (f 90 82) = s.devNo → Says.failed u k 2) ∧
        (3 ≤ cnt → BitVec.ofNat 9 (f 90 82) ≠ s.devNo →
          (BitVec.ofNat 9 (f 90 82) ≠ want.1 ∨ (f 111 96 = 0x5200 ∧ f 94 91 ≠ want.2) → Says.failed u k 3) ∧
          (¬ (BitVec.ofNat 9 (f 90 82) ≠ want.1 ∨ (f 111 96 = 0x5200 ∧ f 94 91 ≠ want.2)) →
            let bad := (¬ m2 ∧ ¬ (m1 ∧ f 72 72 = 1)) ∨ f 65 64 = 0
            (bad → Says.failed u k 4) ∧
            (¬ bad → Says.link u k = 1 ∧ ((u.reg (Says.mort k 0x100)).getLsbD 32 = true ↔ m2) ∧
              ((u.reg (Says.mort k 0x100)).getLsbD 33 = true ↔ f 65 65 = 1) ∧
              u.fld (Says.mort k 0x100) 45 40 = l.foffer.toNat &&& f 57 52 ∧
              (u.link k).step = (if m2 then .eq else .verify))))))) ∧
    (∀ unit : RxUnit, st ≠ 2 → exec (.flitReceive k unit) s = .next (settle s)) ∧
    (∀ raw : BitVec 2048, st = 2 → (s.reg (Says.mort k 0x100)).getLsbD 32 = true →
      let bs := beBytes 256 raw.toNat
      let h := raw.toNat / 2 ^ 1984
      let good := crc32 (bs.take 4 ++ List.replicate 4 0 ++ bs.drop 8) = BitVec.ofNat 32 (h % 2 ^ 32)
      let vc : Fin 4 := Fin.ofNat 4 (h / 2 ^ 62)
      let cr : Fin 4 := Fin.ofNat 4 (h / 2 ^ 43)
      (¬ good → Says.leads (.flitReceive k (.flit raw)) s (fun u => Says.lstat u k 3 = true ∧ (u.link k).nakOwed = true ∧
        (u.link k).rxSeq = l.rxSeq ∧ (u.link k).refused = l.refused + 1 ∧
        Says.link u k = (if 8 ≤ l.refused + 1 ∨
          l.errThr < (l.crcTimes.filter (fun t => decide (s.clk.tb.toNat < t + 1000000))).length + 1 then 3 else 2))) ∧
      (good → h / 2 ^ 54 % 2 ^ 8 ≠ l.rxSeq.toNat → exec (.flitReceive k (.flit raw)) s = .next (settle s)) ∧
      (good → h / 2 ^ 54 % 2 ^ 8 = l.rxSeq.toNat → raw.toNat % 2 ^ 1984 = 0 → l.rx.get vc = [] → l.tx = [] → l.part = Vector.replicate 4 0 →
        Says.leads (.flitReceive k (.flit raw)) s (fun u => (u.link k).rxSeq = l.rxSeq + 1 ∧ (u.link k).refused = 0 ∧
          (u.link k).credit.get cr = l.credit.get cr + h / 2 ^ 32 % 2 ^ 11 ∧
          (u.link k).replay = l.replay.drop (match l.replay.head? with
            | some q =>
              let n := (h / 2 ^ 46 % 2 ^ 8 + 257 - q.seq.toNat) % 256
              if n ≤ l.replay.length then n else 0
            | none => 0) ∧
          u.tiles = s.tiles ∧ u.mem = s.mem))) ∧
    (∀ (vc cv : BitVec 2) (ws : List Word) (cc : Nat), st = 2 → (s.reg (Says.mort k 0x100)).getLsbD 32 = false →
      Says.leads (.flitReceive k (.frame false vc ws cv cc)) s (fun u => Says.lstat u k 3 = true ∧ (u.link k).nakOwed = true))

/-- Commands of a MORT page with codes of Table 12-15. -/
def Says.mortCommands (a : Agent) (k : LinkId) : List (Instr × Nat) :=
  [(.train a k, 1), (.down a k, 2), (.retrain a k, 3), (.loop a k, 4), (.quenchCommand a k, 5), (.unquenchCommand a k, 6)]

/-- The commands of a MORT page (spec/12 R400, R401, R410, R414, Table 12-15): a state that does not allow one refuses it
(TRAIN before DEV.PLACE is written too: 0Ah, log entry 40); TRAIN begins training and RETRAIN retrains, both busy until the link has left those states (R422), DOWN takes the link to OFF
with nothing waiting on it, LOOP enters LOOP; QUENCH and UNQUENCH send their word to the peer or, end to end, to a device of the partition map
or a static home, 0Bh where they name nothing. -/
def Says.LinkCommands : Prop :=
  ∀ (a : Agent) (k : LinkId) (s : State), Says.mayCommand s (0xB0 + k.val) →
    let p := 0xB0 + k.val
    let st := Says.link s k
    let may (code : Nat) : Prop :=
      if code = 1 then (st = 0 ∨ st = 4) ∧ s.placeSet = true else if code = 2 then st ≠ 0 else if code = 4 then st = 0 else st = 2
    (∀ q ∈ Says.mortCommands a k, ¬ may q.2 → Says.refuses q.1 a s p q.2 st) ∧
    (may 1 → Says.ends (.train a k) s p 1 1 (fun u => Says.trains s u k false ∧ u.tiles = s.tiles ∧ u.mem = s.mem)) ∧
    (may 2 → Says.ends (.down a k) s p 2 2 (fun u => Says.link u k = 0 ∧ (u.link k).tx = [] ∧ (u.link k).replay = [] ∧
      (st = 2 ∨ st = 3 → Says.lstat u k 0 = true) ∧ u.tiles = s.tiles ∧ u.mem = s.mem)) ∧
    (may 3 → Says.ends (.retrain a k) s p 3 1 (fun u => Says.retrains s u k ∧ u.tiles = s.tiles ∧ u.mem = s.mem)) ∧
    (may 4 → Says.ends (.loop a k) s p 4 2 (fun u => Says.link u k = 5 ∧ u.links = s.links ∧ u.tiles = s.tiles ∧ u.mem = s.mem)) ∧
    (st = 2 →
      let w := s.reg (Says.mort k 0x140)
      let tgt := BitVec.ofNat 9 (w.toNat / 2 ^ 32 % 512)
      let e2e := w.getLsbD 63
      let bad := w.toNat / 2 ^ 56 % 8 = 0 ∨ w.toNat % 2 ^ 16 = 0 ∨
        (e2e = true ∧ tgt ∉ s.mason.pmap.toList ∧ staticHome s tgt = false)
      let msg (ty : BitVec 8) : Msg :=
        { ty := ty, dst := (if e2e then tgt else (linkPeer s.devNo k).1), src := s.devNo, via := none, arg := 0,
          payload := [w] }
      (bad → Says.completes (.quenchCommand a k) s p 5 0x0B id ∧ Says.completes (.unquenchCommand a k) s p 6 0x0B id) ∧
      (¬ bad → Says.completes (.quenchCommand a k) s p 5 2 (fun s => routeMsg s (msg 8)) ∧
        Says.completes (.unquenchCommand a k) s p 6 2 (fun s => routeMsg s (msg 9))))

/-- The links: their states and their commands. -/
def Obligations.LinksWork : Prop := Says.LinkStates ∧ Says.LinkCommands

/-! ## Messages -/

/-- A message of a type for this device is heard (R394, R402, Tables 12-6, 12-9; spec/11 R380): it comes on a link that is
UP and has the type's feature, a forerunner's link carries VC0 and VC1 only, and its sender has not been taken over. -/
def Says.hears (s : State) (k : LinkId) (src : BitVec 9) (ty : Nat) (feat : Option Nat) : Prop :=
  Says.running s ∧ Says.link s k = 2 ∧
    (match feat with
     | some f => (s.reg (Says.mort k 0x100)).getLsbD (40 + f) = true
     | none => True) ∧
    (0x20 ≤ ty → (s.reg (Says.mort k 0x100)).getLsbD 62 = false) ∧ (0x10 ≤ ty → aliasOf s src = src)

/-- VC2 of a sender is open (R377, R379): it is the buddy, not closed, and the unit is neither in INIT nor FENCED. -/
def Says.vc2 (s : State) (src : BitVec 9) : Prop :=
  (s.reg (ctl 0x91 0x128)).getLsbD 63 = true ∧ BitVec.ofNat 9 (s.fld (ctl 0x91 0x128) 8 0) = src ∧ src ∉ s.hwj.closedFrom ∧
    Says.hwj s ≠ 0 ∧ Says.hwj s ≠ 5

/-- A message of this device. -/
def Says.msg (s : State) (ty : BitVec 8) (dst : BitVec 9) (payload : List Word) : Msg :=
  { ty := ty, dst := dst, src := s.devNo, via := none, arg := 0, payload := payload }

/-- The commands by which a message arrives on link `k`. -/
def Says.arrivesOn (k : LinkId) : Instr → Prop
  | .hb k' _ _ _ _ | .break_ k' _ | .fenceReceived k' _ | .tkov k' _ _ _ | .treq k' _ _ _ | .trsp k' _ _ _ _ _ _ _
  | .tann k' _ _ | .quench k' _ _ | .unquench k' _ _ | .ticketMessage k' _ _ _ _ | .contMessage k' _ _ _ _
  | .cack k' _ _ _ _ | .voidn k' _ _ _ | .bcmd k' _ _ _ | .migc k' _ _ | .endmk k' _ _ | .mrec k' _ _ | .mack k' _ _
  | .drep k' _ _ _ _ | .dack k' _ _ _ | .bcopy k' _ _ _ | .rsync k' _ _ _ => k' = k
  | _ => False

/-- Messages of VC0 and VC1 (Table 12-9; spec/10 R322, R325, R328–R332, R344; spec/11 R369, R370, R376, R379, R380): a
message on a link that is not UP has no effect (log entry 80); a heartbeat of a grove peer is evidence of it and of what it saw; BREAK
and FENCE of the buddy degrade and fence; TKOV names the device that stands for another; a ticket, in T2 or T1, and a
continuation not seen before join the Mason's queues, a ticket past its first hop with a free origin (log entry 99), and the
slice entry that came with it is kept (log entry 27); a
continuation seen before is acknowledged again; CACK takes a continuation out of the pending store, or out of the replica of
the buddy's, and where both hold one a free value tells which (log entry 39); while STAGEFULL shows a full staging area the
source of a VC1 message is quenched; VOIDN sets CREFUSE and is answered by a receipt with status 7Fh; LOOKUP is answered from
the slice (its words are log entry 27), PIN sets PIN there, and its answer waits; a migration without a frame is aborted; ENDMK makes this device the
home. -/
def Says.MessagesReceived : Prop :=
  ∀ (k : LinkId) (src : BitVec 9) (s : State),
    let bud := (s.reg (ctl 0x91 0x128)).getLsbD 63 = true ∧ BitVec.ofNat 9 (s.fld (ctl 0x91 0x128) 8 0) = src
    let open_ := s.fld (ctl 0x90 0x100) 2 0 = 1 ∧ Says.hwj s ≠ 5
    let mx (a b : Word) : Word := if a < b then b else a
    (∀ i, Says.arrivesOn k i → Says.running s → Says.link s k ≠ 2 → exec i s = .next (settle s)) ∧
    (∀ (st : BitVec 3) (tb : Word) (seen : Vector Word 8), Says.hears s k src 1 (some 0) →
      (src.toNat / 8 = s.devNo.toNat / 8 ∧ src ≠ s.devNo → Says.leads (.hb k src st tb seen) s (fun u =>
        (∀ i : Fin 8, u.hwj.seen.get i =
          (if i.val = src.toNat % 8 then mx (s.hwj.seen.get i) tb else s.hwj.seen.get i) ∧
          u.hwj.reported.get i = (if i.val = src.toNat % 8 then
            Vector.ofFn (fun j => mx ((s.hwj.reported.get i).get j) (seen.get j)) else s.hwj.reported.get i)) ∧ u.tiles = s.tiles ∧ u.mem = s.mem)) ∧
      (¬ (src.toNat / 8 = s.devNo.toNat / 8 ∧ src ≠ s.devNo) → exec (.hb k src st tb seen) s = .next (settle s))) ∧
    (Says.hears s k src 2 (some 0) →
      let hit := bud ∧ (Says.hwj s = 2 ∨ Says.hwj s = 3 ∨ Says.hwj s = 4)
      (hit → Says.leads (.break_ k src) s (fun u => Says.hwj u = 4 ∧ u.hwj.replicaValid = false)) ∧
      (¬ hit → exec (.break_ k src) s = .next (settle s))) ∧
    (Says.hears s k src 3 (some 0) →
      (bud → Says.hwj s ≠ 0 → Says.leads (.fenceReceived k src) s (fun u => Says.hwj u = 5)) ∧
      (¬ (bud ∧ Says.hwj s ≠ 0) → exec (.fenceReceived k src) s = .next (settle s))) ∧
    (∀ f b : BitVec 9, Says.hears s k src 4 (some 0) →
      (b = s.devNo → exec (.tkov k src f b) s = .next (settle s)) ∧
      (b ≠ s.devNo → Says.leads (.tkov k src f b) s (fun u =>
        u.mason.aliases = (s.mason.aliases.filter (fun q => decide (q.1 ≠ f))).map (fun q => if q.2 = f then (q.1, b) else q) ++
          [(f, b)] ∧ u.mason.pmap = s.mason.pmap.map (fun d => if d = f then b else d)))) ∧
    (∀ (fwd : BitVec 4) (form : TicketForm) (tk : Ticket), Says.hears s k src 0x10 none → open_ → ticketValid s tk = true →
      tk.getLsbD 495 = false → tSdev tk = s.devNo → (handlerOf s tk).isSome = true →
      (∀ w0 w1, handlerOf s tk = some (w0, w1) → w0.getLsbD 62 = false) →
      s.mason.cached.length + s.mason.hints.length < Config.dirCache →
      Says.leads (.ticketMessage k src fwd form tk) s (fun u =>
        (∀ (e : Word) (key : Word), form = .t2 e → e.toNat / 2 ^ 61 = 1 → eDev e = s.devNo → (tKeys tk).head? = some key →
          sliceDev s key ≠ s.devNo → homeEntry s key = none → migOf s key = none → tombOf s key = none → s.hwj.promoted = false →
          homeEntry u key = some e) ∧ ∃ r, u.mason.tickets = s.mason.tickets ++ [r] ∧
        r.arrival = s.mason.nextArrival ∧ r.raw = tk ∧ (fwd.toNat < 2 → r.origin = src) ∧ r.receipt = none ∧ r.fwd = fwd.toNat ∧
        r.fwdFrom = some src)) ∧
    (∀ (c : BitVec 4) (seq : BitVec 48) (tk : Ticket), Says.hears s k src 0x11 (some 3) → open_ →
      let e := recvEnt s s.devNo src c
      let seen := seq.toNat ≤ e.lw ∨ e.bm.getLsbD (seq.toNat - e.lw - 1) = true
      (¬ seen → contBusy s src c seq = false → seq.toNat ≤ e.lw + 256 →
        ticketValid s tk = true → tk.getLsbD 495 = false → tSdev tk = s.devNo → (handlerOf s tk).isSome = true →
        (∀ w0 w1, handlerOf s tk = some (w0, w1) → w0.getLsbD 62 = false) →
        Says.leads (.contMessage k src c seq tk) s (fun u => ∃ r, u.mason.tickets = s.mason.tickets ++ [r] ∧
          r.arrival = s.mason.nextArrival ∧ r.raw = tk ∧ r.origin = src ∧ r.receipt = some (src, c, seq))) ∧
      (seen → Says.leads (.contMessage k src c seq tk) s (fun u => u.mason.tickets = s.mason.tickets ∧
        (u.reg (ctl 0x90 0x148)).toNat = min (2 ^ 48 - 1) ((s.reg (ctl 0x90 0x148)).toNat + 1)))) ∧
    (∀ (dest : BitVec 9) (c : BitVec 4) (seq : BitVec 48), Says.hears s k src 0x12 (some 3) →
      let mine (p : Pend) : Bool := decide (p.src = s.devNo ∧ p.dest = dest ∧ p.course = c ∧ p.seq = seq)
      let is (p : Pend) : Bool := decide (p.dest = dest ∧ p.course = c ∧ p.seq = seq)
      let own := s.mason.pend.any mine = true
      let copy := s.hwj.rPend.any is = true
      let first := (s.freeVal 1 : BitVec 1) = 1
      Says.leads (.cack k dest src c seq) s (fun u =>
        (own → ¬ copy ∨ first → u.mason.pend = s.mason.pend.filter (fun p => !mine p) ∧ u.hwj.rPend = s.hwj.rPend) ∧
        (¬ own ∨ (copy ∧ ¬ first) → u.hwj.rPend = s.hwj.rPend.filter (fun p => !is p) ∧ u.mason.pend = s.mason.pend) ∧
        u.mason.tickets = s.mason.tickets ∧ u.tiles = s.tiles ∧ u.mem = s.mem) ∧
      (stageShown s = true → src ≠ s.devNo → (∀ q ∈ s.mason.quenched, q.1 = src → q.2.1.toNat + 10000 ≤ s.clk.tb.toNat) →
        Says.leads (.cack k dest src c seq) s (fun u => (src, s.clk.tb, true) ∈ u.mason.quenched))) ∧
    (∀ (c : BitVec 4) (seq : BitVec 48), Says.hears s k src 0x13 (some 3) →
      let e := recvEnt s s.devNo src c
      ¬ (seq.toNat ≤ e.lw ∨ e.bm.getLsbD (seq.toNat - e.lw - 1) = true) → contBusy s src c seq = false → seq.toNat ≤ e.lw + 256 →
      s.hwj.waiting = [] → 2 ^ 16 ≤ ringFree s → stageShown s = false → Says.leads (.voidn k src c seq) s (fun u =>
        ∃ r, u.hwj.inflight = s.hwj.inflight ++ [r] ∧ r.rcpt = some (src, c, seq, 0x7F) ∧ r.durable = false ∧
          (u.reg (ctl 0x90 0x18)).getLsbD 2 = true ∧ u.mason = s.mason ∧ u.tiles = s.tiles)) ∧
    (∀ key e0 : Word, Says.hears s k src 0x14 (some 4) → stageShown s = false → s.poison = [] →
      (∀ a, sliceDev s key = s.devNo → sliceFind s key = some a → mirroring s = false → entryPending s key = false →
        let w := (s.dword (a + 8)).toNat
        Says.leads (.bcmd k src key (.pin e0)) s (fun u =>
          u.dword (a + 8) = BitVec.ofNat 64 (w / 2 ^ 61 * 2 ^ 61 + 2 ^ 60 + w % 2 ^ 60) ∧
          u.mason.dels = s.mason.dels ++ [(key.toNat, src)] ∧ u.mason.tickets = s.mason.tickets ∧ u.tiles = s.tiles)) ∧
      exec (.bcmd k src key .lookup) s = .next (settle (routeMsg s (Says.msg s 0x14 src (match sliceFind s key with
        | some a => [key, BitVec.ofNat 64 (6 * 2 ^ 56 + 2), s.dword (a + 8)]
        | none => [key, BitVec.ofNat 64 (6 * 2 ^ 56 + 0x0C), 0]))))) ∧
    (∀ (key w : Word) (g : Mig), Says.hears s k src 0x15 (some 4) → migOf s key = some g → g.atHome = true →
      s.mason.cached.find? (fun q => decide (q.1 = key.toNat)) = some (key.toNat, w) →
      Says.leads (.migc k src (.noFrame key)) s (fun u => migOf u key = none ∧
        homeEntry u key = some (BitVec.ofNat 64 (2 ^ 61 + w.toNat % 2 ^ 61)) ∧ (u.reg (ctl 0x90 0x18)).getLsbD 4 = true ∧
        u.tiles = s.tiles ∧ u.mem = s.mem)) ∧
    (∀ (key : Word) (g : Mig), Says.hears s k src 0x16 (some 4) → migOf s key = some g → g.atHome = false →
      tombOf s key = none → g.cand < 2 ^ 14 → s.mason.cached.length + s.mason.hints.length < Config.dirCache →
      Says.leads (.endmk k src key) s (fun u => migOf u key = none ∧ (∃ w, homeEntry u key = some w ∧ eState w = 1 ∧
        eDev w = s.devNo ∧ eFrame w = g.frame / 4096 % 2 ^ 29 * 4096 ∧ ePin w = g.pinned.getD g.pull ∧ w.toNat % 2 ^ 14 = g.cand) ∧ u.tiles = s.tiles ∧ u.mem = s.mem))

/-- Messages of VC2 and VC3 (Table 12-9; spec/10 Sequence 10-12; spec/11 R353, R367, R368, R372): with VC2 open a mirror
record takes its place in the ring, a directory change is applied to the replica, and a RESYNC copy fills its replica;
with VC2 closed they, MACK and DACK have no effect. MACK acknowledges the record at its position, DACK lets the directory change take effect, and a
brick copy fills the frame taken for it. -/
def Says.MirrorMessages : Prop :=
  ∀ (k : LinkId) (src : BitVec 9) (s : State),
    (∀ rec : List Byte, Says.hears s k src 0x20 (some 2) →
      (¬ Says.vc2 s src → exec (.mrec k src rec) s = .next (settle s)) ∧
      (Says.vc2 s src → s.hwj.waiting = [] → rec.length % 64 = 0 → 0 < rec.length → rec.length ≤ 2 ^ 15 → 2 ^ 17 ≤ ringFree s →
        Says.leads (.mrec k src rec) s (fun u => ∃ r, u.hwj.inflight = s.hwj.inflight ++ [r] ∧
          r.mcopy = some (src, ofBytes ((rec.drop 8).take 8)) ∧ r.len = rec.length ∧ r.durable = false ∧
          u.bytes (ringAddr r.pos + 16) (rec.length - 16) = rec.drop 16 ∧ u.mason = s.mason ∧ u.tiles = s.tiles))) ∧
    (∀ (pos : Word) (r : JRec), Says.hears s k src 0x21 (some 2) →
      (¬ Says.vc2 s src → exec (.mack k src pos) s = .next (settle s)) ∧
      (Says.vc2 s src → s.hwj.inflight.find? (fun r => decide (r.pos = pos.toNat ∧ r.mcopy = none)) = some r → r.durable = false →
        Says.leads (.mack k src pos) s (fun u =>
          u.hwj.inflight = s.hwj.inflight.map (fun x => if x = r then { r with acked := true } else x) ∧
          u.mason = s.mason ∧ u.tiles = s.tiles ∧ u.mem = s.mem))) ∧
    (∀ (b : BitVec 26) (i : Fin 8) (e : BitVec 128), Says.hears s k src 0x22 (some 2) →
      let at_ := (s.reg (ctl 0x91 0x150)).toNat / 2 ^ 33 % 2 ^ 15 * 2 ^ 33 + 0x80 * b.toNat + 16 * i.val
      (¬ Says.vc2 s src → exec (.drep k src b i e) s = .next (settle s)) ∧
      (Says.vc2 s src → s.dword at_ ≠ 0 ∨ e.toNat / 2 ^ 64 = 0 → Says.leads (.drep k src b i e) s (fun u =>
        u.memNat at_ 16 = e.toNat ∧ (∀ a, a < at_ ∨ at_ + 16 ≤ a → u.byte a = s.byte a) ∧ u.mason = s.mason ∧ u.tiles = s.tiles))) ∧
    (∀ (b : BitVec 26) (i : Fin 8) (q : Nat × BitVec 128), Says.hears s k src 0x23 (some 2) →
      (¬ Says.vc2 s src → exec (.dack k src b i) s = .next (settle s)) ∧
      (Says.vc2 s src → s.hwj.drepWait.find? (fun q => decide (q.1 % 2 ^ 33 / 16 = b.toNat * 8 + i.val)) = some q →
        Says.leads (.dack k src b i) s (fun u => u.memNat q.1 16 = q.2.toNat ∧ u.hwj.drepWait = s.hwj.drepWait.erase q ∧
          (∀ a, a < q.1 ∨ q.1 + 16 ≤ a → u.byte a = s.byte a) ∧ u.tiles = s.tiles))) ∧
    (∀ (key : Word) (data : List Byte) (g : Mig), Says.hears s k src 0x30 (some 4) → data.length = 4096 →
      (∀ c, recording s c = false) → migOf s key = some g → g.atHome = false → g.step = 3 →
      Says.leads (.bcopy k src key data) s (fun u => u.bytes g.frame 4096 = data ∧
        (∀ a, a < g.frame ∨ g.frame + 4096 ≤ a → u.byte a = s.byte a) ∧ (∃ g', migOf u key = some g' ∧ g'.step = 4) ∧
        u.tiles = s.tiles)) ∧
    (∀ (key : Word) (data : List Byte), Says.hears s k src 0x31 (some 4) → data.length = 4096 →
      (¬ Says.vc2 s src → exec (.rsync k src key data) s = .next (settle s)) ∧
      (Says.vc2 s src → replicaFrame s src key = none → exec (.rsync k src key data) s = .next (settle s)) ∧
      (∀ fr, Says.vc2 s src → s.hwj.rApply = [] → replicaFrame s src key = some fr →
        Says.leads (.rsync k src key data) s (fun u => u.bytes fr 4096 = data ∧
          (∀ a, a < fr ∨ fr + 4096 ≤ a → u.byte a = s.byte a) ∧ fr ∈ u.hwj.rCopied ∧ u.mason = s.mason ∧ u.tiles = s.tiles)))

/-! ## Canopy time and quenches -/

/-- TSTAT (Map 12-13). -/
def Says.tstat (s : State) : Word := s.reg (ctl 0xFF 0x188)

/-- A ratio rounded to the nearest integer, halves away from 0 (the choice of the model: R407, R409 name no rounding). -/
def Says.rounded (n : Int) (d : Nat) : Int := if 0 ≤ n then (2 * n + d) / (2 * d) else -((-2 * n + d) / (2 * d))

/-- The device enters HOLDOVER (R409): the frequency term alone stands in TADJ. -/
def Says.holds (s u : State) : Prop :=
  (Says.tstat u).toNat / 2 ^ 18 % 4 = 3 ∧ (Says.tstat u).getLsbD 60 = true ∧
    u.reg (ctl 0xFF 0x198) = BitVec.ofNat 64 (BitVec.ofInt 32 (max (-200000) (min 200000 (Says.rounded s.clk.freq 8192)))).toNat

/-- Canopy time and quenches (spec/12 R400, R404–R409): TREQ is answered with TRSP; a TRSP of the time parent gives the
offset, steers the timebase and sets TSTATE, any other has no effect; an unseeded timebase stays (spec/15 R468); the root announces itself and misses no announcement, a child asks its parent;
no answer and no root lead to HOLDOVER; a quench is kept, end to end by its sender or in LQ, until it is taken back or expires. -/
def Obligations.TimeAndQuenches : Prop :=
  ∀ (k : LinkId) (src : BitVec 9) (s : State),
    (∀ t1 corr : Word, Says.hears s k src 5 (some 1) →
      exec (.treq k src t1 corr) s = .next (settle (routeMsg s (Says.msg s 6 src [t1, s.clk.tb, s.clk.tb, corr, 0])))) ∧
    (∀ t1 t2 t3 cq cr t4 : Word, Says.hears s k src 6 (some 1) →
      (timeParent s ≠ some src → exec (.trsp k src t1 t2 t3 cq cr t4) s = .next (settle s)) ∧
      (timeParent s = some src →
        let up : Int := (t2.toNat : Int) - t1.toNat - cq.toNat
        let dn : Int := (t4.toNat : Int) - t3.toNat - cr.toNat
        let twice := up - dn
        let freq := max (-(100000 * 8192)) (min (100000 * 8192) (s.clk.freq + twice * 1000000))
        let st := (Says.tstat s).toNat / 2 ^ 18 % 4
        Says.leads (.trsp k src t1 t2 t3 cq cr t4) s (fun u =>
          u.reg (ctl 0xFF 0x190) = BitVec.ofInt 64 (Int.tdiv twice 2) ∧ u.clk.freq = freq ∧
          u.reg (ctl 0xFF 0x198) = BitVec.ofNat 64 (BitVec.ofInt 32
            (max (-200000) (min 200000 (Says.rounded (freq + twice * 16000000) 8192)))).toNat ∧
          (twice.natAbs ≤ 20000 → u.clk.tb = s.clk.tb) ∧
          (20000 < twice → s.clk.seeded = true → u.clk.tb = BitVec.ofInt 64 ((s.clk.tb.toNat : Int) + Int.tdiv twice 2)) ∧
          (twice < -20000 → Says.hwj s ≠ 0 → u.clk.tb = s.clk.tb) ∧
          (s.clk.seeded = false → u.clk.tb = s.clk.tb) ∧
          (20 < twice.natAbs → u.clk.lockCount = 0) ∧
          (twice.natAbs ≤ 20 → u.clk.lockCount = min 8 (s.clk.lockCount + 1)) ∧
          (Says.tstat u).getLsbD 60 = false ∧
          (80 < twice.natAbs → (Says.tstat u).toNat / 2 ^ 18 % 4 = 1) ∧
          (twice.natAbs ≤ 20 → 7 ≤ s.clk.lockCount → (Says.tstat u).toNat / 2 ^ 18 % 4 = 2) ∧
          (twice.natAbs ≤ 80 → st = 2 → (Says.tstat u).toNat / 2 ^ 18 % 4 = 2) ∧ u.tiles = s.tiles ∧ u.mem = s.mem))) ∧
    (∀ (num : BitVec 48) (root : BitVec 9), Says.hears s k (linkPeer s.devNo k).1 7 (some 1) →
      (s.reg (ctl 0xFF 0x180)).getLsbD 63 = false → (Says.tstat s).getLsbD 63 = false →
      Says.leads (.tann k num root) s (fun u => (Says.tstat u).getLsbD 63 = true ∧ (Says.tstat u).toNat / 2 ^ 9 % 512 = root.toNat ∧
        (Says.tstat u).getLsbD 61 = false ∧ u.clk.lastTann = max s.clk.lastTann num.toNat)) ∧
    (Says.running s →
      let root := (s.reg (ctl 0xFF 0x180)).getLsbD 63 = true ∧ (Says.tstat s).getLsbD 62 = false
      (root → Says.leads .tannSend s (fun u => (Says.tstat u).getLsbD 63 = true ∧
        (Says.tstat u).toNat / 2 ^ 9 % 512 = s.devNo.toNat ∧ u.clk.lastTann = s.clk.lastTann + 1)) ∧
      (¬ root → exec .tannSend s = .next (settle s)) ∧
      (∀ p, timeParent s = some p → exec .treqSend s = .next (settle (routeMsg s (Says.msg s 5 p [s.clk.tb, 0])))) ∧
      (timeParent s = none → exec .treqSend s = .next (settle s) ∧ exec .trspTimeout s = .next (settle s)) ∧
      ((timeParent s).isSome = true → Says.leads .trspTimeout s (fun u => Says.holds s u ∧ u.tiles = s.tiles ∧ u.mem = s.mem)) ∧
      (root → exec .rootLost s = .next (settle s)) ∧
      (¬ root → Says.leads .rootLost s (fun u => (Says.tstat u).getLsbD 61 = true ∧ (isGroveRoot s = true → Says.holds s u) ∧
        (isGroveRoot s = false → u = s.setFld (ctl 0xFF 0x188) 61 61 1)))) ∧
    (∀ w : Word,
      let feat : Option Nat := if w.getLsbD 63 && !(s.reg (Says.mort k 0x100)).getLsbD 62 then some 5 else none
      (Says.hears s k src 8 feat → w.getLsbD 63 = true → exec (.quench k src w) s = .next (settle
        { s with e2e := s.e2e.filter (fun q => decide (q.1 ≠ src)) ++ [(src, BitVec.ofNat 3 (w.toNat / 2 ^ 56), w.toNat % 2 ^ 16)] })) ∧
      (Says.hears s k src 8 feat → w.getLsbD 63 = false → Says.leads (.quench k src w) s (fun u =>
        u.reg (Says.mort k 0x120) = BitVec.ofNat 64 (2 ^ 63 + w.toNat / 2 ^ 56 % 8 * 2 ^ 56 + w.toNat % 2 ^ 16) ∧
        Says.lstat u k 4 = true ∧ (u.link k).qEnd = s.clk.tb.toNat + 1000 * (w.toNat % 2 ^ 16) ∧ u.tiles = s.tiles ∧ u.mem = s.mem)) ∧
      (Says.hears s k src 9 feat → Says.leads (.unquench k src w) s (fun u =>
        (w.getLsbD 63 = true → u.e2e = s.e2e.filter (fun q => decide (q.1 ≠ src))) ∧
        (w.getLsbD 63 = false → u.reg (Says.mort k 0x120) = 0 ∧ u.e2e = s.e2e) ∧ u.tiles = s.tiles ∧ u.mem = s.mem))) ∧
    (Says.running s →
      Says.leads (.quenchExpiry k (some src)) s (fun u => u.e2e = s.e2e.filter (fun q => decide (q.1 ≠ src)) ∧ u.tiles = s.tiles) ∧
      Says.leads (.quenchExpiry k none) s (fun u => u.reg (Says.mort k 0x120) = 0 ∧ u.e2e = s.e2e ∧ u.tiles = s.tiles))

/-- Messages of every virtual channel. -/
def Obligations.MessagesHeard : Prop := Says.MessagesReceived ∧ Says.MirrorMessages

/-! ## Recording -/

/-- A register of a RINGS page. -/
def Says.rings (c : CourseId) (off : Nat) : Nat := ctl (0xD8 + c.val) off

/-- RINGS.STATE (Table 14-6): 0 IDLE, 1 RECORD, 2 FULL, 3 REPLAY, 4 the end of a replay. -/
def Says.recState (s : State) (c : CourseId) : Nat := s.fld (Says.rings c 0x100) 2 0

/-- Where position `p` of window `w` lies (R439). -/
def Says.window (s : State) (c : CourseId) (p : Nat) : Nat :=
  0x040300000000 + (s.reg (Says.rings c 0x108)).toNat % 4 * 2 ^ 30 + p % 2 ^ 30

/-- Tiles of a course that waited for room in its record buffer go on (R441). -/
def Says.goOn (s u : State) (c : CourseId) : Prop :=
  (∀ n : Fin 8, u.tile (courseTile c n) = { s.tile (courseTile c n) with recWait := false }) ∧
    ∀ t : TileId, (∀ n : Fin 8, t ≠ courseTile c n) → u.tile t = s.tile t

/-- Records leave the buffer (spec/14 R437, R439–R442): a record that fits is written at HEAD of the window with its number
and HEAD passes it, and tiles that waited for room go on; with WRAP = 1 a pad fills the end of the window before a record that does
not fit there, and the record begins the next round; with WRAP = 0 a full window ends the recording; a stream waits for the host's room; a write of STRCI takes a multiple of 16,
another value is logged; the sweep clears the brick map. -/
def Says.RecordsLeave : Prop :=
  ∀ (c : CourseId) (s : State), Says.running s →
    let r := (s.course c).rings
    let head := (s.reg (Says.rings c 0x128)).toNat
    let ctlr := s.reg (Says.rings c 0x108)
    let quiet := s.fld (Says.rings c 0xF8) 7 0 ≠ 1
    (r.buf = [] → r.late = [] → r.stopping = false → quiet → Says.leads (.recordBufferRoom c) s (fun u => u.regs = s.regs ∧
      u.mem = s.mem ∧ Says.goOn s u c ∧ (u.course c).rings.buf = [])) ∧
    (∀ rec : List Byte, r.buf = [rec] → r.late = [] → r.stopping = false → 16 ≤ rec.length → head < 2 ^ 63 → rec.length ≤ 2 ^ 16 →
      (ctlr.getLsbD 63 = false → ctlr.getLsbD 62 = true → head % 16 = 0 → 2 ^ 30 - head % 2 ^ 30 < rec.length →
        let room := 2 ^ 30 - head % 2 ^ 30
        Says.leads (.recordBufferRoom c) s (fun u =>
          u.dword (Says.window s c head) = BitVec.ofNat 64 (0x0F * 2 ^ 56 + room / 16 * 2 ^ 41) ∧
          u.bytes (Says.window s c 0) rec.length = rec.take 8 ++ beBytes 2 ((r.seq + 1) % 65536) ++ rec.drop 10 ∧
          (∀ a, (a < Says.window s c 0 ∨ Says.window s c 0 + rec.length ≤ a) → (a < Says.window s c head ∨
            Says.window s c 0 + 2 ^ 30 ≤ a) → u.byte a = s.byte a) ∧
          u.reg (Says.rings c 0x128) = BitVec.ofNat 64 (head + room + rec.length) ∧ (u.course c).rings.seq = r.seq + 2 ∧
          (u.reg (Says.rings c 0x18)).getLsbD 1 = true ∧ (u.course c).rings.buf = [] ∧ Says.goOn s u c)) ∧
      (ctlr.getLsbD 63 = false → rec.length ≤ 2 ^ 30 - head % 2 ^ 30 → ctlr.getLsbD 62 = true ∨ head + rec.length ≤ 2 ^ 30 →
        Says.leads (.recordBufferRoom c) s (fun u =>
          u.bytes (Says.window s c head) rec.length = rec.take 8 ++ beBytes 2 (r.seq % 65536) ++ rec.drop 10 ∧
          (∀ a, a < Says.window s c head ∨ Says.window s c head + rec.length ≤ a → u.byte a = s.byte a) ∧
          u.reg (Says.rings c 0x128) = BitVec.ofNat 64 (head + rec.length) ∧ (u.course c).rings.buf = [] ∧
          (u.course c).rings.seq = r.seq + 1 ∧
          ((rec.headD 0).toNat = 1 → u.reg (Says.rings c 0x138) = BitVec.ofNat 64 head) ∧ Says.goOn s u c)) ∧
      (ctlr.getLsbD 63 = false → ctlr.getLsbD 62 = false → 2 ^ 30 < head + rec.length →
        Says.leads (.recordBufferRoom c) s (fun u => Says.recState u c = 2 ∧ (u.course c).rings.buf = [] ∧
          (u.reg (Says.rings c 0x18)).getLsbD 0 = true ∧ u.mem = s.mem ∧ Says.goOn s u c)) ∧
      (ctlr.getLsbD 63 = true →
        let room := head + rec.length - (s.reg (Says.rings c 0x120)).toNat ≤ 2 ^ s.fld (Says.rings c 0x118) 5 0
        (room → Says.leads (.recordBufferRoom c) s (fun u => u.reg (Says.rings c 0x128) = BitVec.ofNat 64 (head + rec.length) ∧
          (u.course c).rings.buf = [] ∧ u.mem = s.mem ∧ Says.goOn s u c)) ∧
        (¬ room → quiet → Says.leads (.recordBufferRoom c) s (fun u => u.regs = s.regs ∧ (u.course c).rings.buf = [rec] ∧ u.mem = s.mem ∧
          (rec.length < 2 ^ 16 → Says.goOn s u c))))) ∧
    (r.sweeping = true → Says.leads (.brickMapSweepDone c) s (fun u =>
      let base := (s.reg (Says.rings c 0x110)).toNat / 2 ^ 26 % 2 ^ 22 * 2 ^ 26
      (∀ a, base ≤ a → a < base + 2 ^ 26 → u.byte a = 0) ∧ (∀ a, a < base ∨ base + 2 ^ 26 ≤ a → u.byte a = s.byte a) ∧
      (u.course c).rings.sweeping = false ∧ (u.reg (Says.rings c 0x18)).getLsbD 3 = true ∧ u.tiles = s.tiles)) ∧
    (r.sweeping = false → exec (.brickMapSweepDone c) s = .next (settle s)) ∧
    (∀ (a : Agent) (v : Word), Says.reaches s (0xD8 + c.val) → Says.recState s c ≠ 1 →
      (v.toNat % 16 = 0 → Says.takes (.strciWrite a c v) s (fun s => s.setReg (Says.rings c 0x120) v)) ∧
      (v.toNat % 16 ≠ 0 → ∃ s0 u, CountsOnly 0xFF s s0 ∧ exec (.strciWrite a c v) s = .next (settle u) ∧
        Says.logged (s0.setReg (Says.rings c 0x120) (s.reg (Says.rings c 0x120))) u (0xD8 + c.val) 1 (0x120 / 8)
          (Says.agent a) v))

/-- Commands of a RINGS page with codes of Table 14-5. -/
def Says.ringsCommands (a : Agent) (c : CourseId) : List (Instr × Nat) :=
  [(.ringsStart a c, 1), (.ckpt a c, 2), (.mark a c, 3), (.stop a c, 4), (.replay a c, 5)]

/-- The commands of a RINGS page (spec/14 R438, R440, R443–R445, Tables 14-5 and 14-6): a state that does not allow one refuses it;
START clears the counts, marks every bank fresh and buffers checkpoint 0, unless another course holds the window that it writes (0Eh; one
that streams takes none: log entry 122; a window is held in RECORD and REPLAY alone: entry 93), and no ticket has a TID of an
earlier recording; CKPT takes the next checkpoint; MARK buffers its value and the time; where their record finds the buffer
full they stay busy until it has entered with STALL = 1, and it is dropped with STALL = 0 (R441, R442); STOP writes what is
buffered and enters IDLE, or stays busy while the host has no room for it (that it waits is log entry 97); REPLAY takes its range, 0Eh for a course that is not drained or a window that is held, 0Bh for a range that is no recording. -/
def Says.RingsCommands : Prop :=
  ∀ (a : Agent) (c : CourseId) (s : State), Says.mayCommand s (0xD8 + c.val) →
    let p := 0xD8 + c.val
    let st := Says.recState s c
    let r := (s.course c).rings
    let ctlr := s.reg (Says.rings c 0x108)
    let may (code : Nat) : Prop :=
      (st = 0 ∧ (code = 5 ∨ (code = 1 ∧ (ctlr.getLsbD 63 = false ∨ s.fuses.caps0.getLsbD 10 = true)))) ∨
      (st = 1 ∧ 2 ≤ code ∧ code ≤ 4) ∨ (2 ≤ st ∧ code = 4)
    let held (w : Nat) : Prop := ∃ d : CourseId, d ≠ c ∧ ((Says.recState s d = 1 ∧ (s.reg (Says.rings d 0x108)).getLsbD 63 = false) ∨ Says.recState s d = 3) ∧
      (s.reg (Says.rings d 0x108)).toNat % 4 = w
    let freshen (u : State) : Prop := ∀ (n : Fin 8) (b : Fin 16), ((u.tile (courseTile c n)).banks.get b).fresh = true
    let stall := ctlr.getLsbD 61 = true
    let fits (n : Nat) : Prop := r.late = [] ∧ (r.buf.map List.length).sum + (if r.gapRecs = 0 then 0 else 32) + n ≤ 65536
    let room (n : Nat) : Prop := r.gapRecs = 0 ∧ r.stopping = false ∧ fits n
    (∀ q ∈ Says.ringsCommands a c, ¬ may q.2 → Says.refuses q.1 a s p q.2 st) ∧
    (may 1 → ctlr.getLsbD 63 = false → held (ctlr.toNat % 4) → Says.completes (.ringsStart a c) s p 1 0x0E id) ∧
    (may 1 → ctlr.getLsbD 63 = true ∨ ¬ held (ctlr.toNat % 4) → Says.ends (.ringsStart a c) s p 1 2 (fun u =>
      Says.recState u c = 1 ∧ (∀ o ∈ [0x128, 0x130, 0x158, 0x148, 0x150], u.reg (Says.rings c o) = 0) ∧ freshen u ∧
      (u.course c).rings.sweeping = true ∧ u.fld (Says.rings c 0x140) 31 0 = 0 ∧
      (∃ rec, (u.course c).rings.buf = [rec] ∧ rec.length = 80 ∧ rec.headD 0 = 1 ∧ (rec.drop 24).take 8 = beBytes 8 s.clk.tb.toNat) ∧
      (∀ k ∈ u.mason.tickets, k.course = c → k.tid = none) ∧ u.mem = s.mem)) ∧
    (may 2 → r.late = [] → r.stopping = true ∨ ¬ stall ∨ fits 80 → Says.ends (.ckpt a c) s p 2 2 (fun u => Says.recState u c = 1 ∧ freshen u ∧ (u.course c).rings.sweeping = true ∧
      u.fld (Says.rings c 0x140) 31 0 = (s.fld (Says.rings c 0x140) 31 0 + 1) % 2 ^ 32 ∧
      (room 80 → ∃ rec, (u.course c).rings.buf = r.buf ++ [rec] ∧ rec.length = 80 ∧ rec.headD 0 = 1) ∧ u.mem = s.mem)) ∧
    (may 2 → r.stopping = false → stall → ¬ fits 80 → Says.ends (.ckpt a c) s p 2 1 (fun u => freshen u ∧
      (u.course c).rings.sweeping = true ∧ (∃ rec, (u.course c).rings.late = r.late ++ [rec] ∧ rec.length = 80 ∧ rec.headD 0 = 1) ∧
      (u.course c).rings.buf = r.buf ∧ u.mem = s.mem)) ∧
    (may 3 → r.stopping = false → stall → ¬ fits 32 → Says.ends (.mark a c) s p 3 1 (fun u =>
      (∃ rec, (u.course c).rings.late = r.late ++ [rec] ∧ rec.headD 0 = 0x0E) ∧ (u.course c).rings.buf = r.buf ∧
      u.mem = s.mem ∧ u.tiles = s.tiles)) ∧
    (may 3 → r.stopping = false → ¬ stall → r.late = [] → ¬ fits 32 → Says.ends (.mark a c) s p 3 2 (fun u =>
      (u.course c).rings.gapRecs = r.gapRecs + 1 ∧ (u.course c).rings.gapBytes = r.gapBytes + 32 ∧ (u.course c).rings.buf = r.buf ∧
      (u.reg (Says.rings c 0x18)).getLsbD 2 = true ∧ u.mem = s.mem ∧ u.tiles = s.tiles)) ∧
    (may 3 → room 32 → Says.ends (.mark a c) s p 3 2 (fun u => (∃ rec, (u.course c).rings.buf = r.buf ++ [rec] ∧
      rec.headD 0 = 0x0E ∧ rec.drop 16 = beBytes 8 (s.reg (Says.rings c 0x160)).toNat ++ beBytes 8 s.clk.tb.toNat) ∧
      u.mem = s.mem ∧ u.tiles = s.tiles)) ∧
    (may 4 → st ≠ 1 ∨ ctlr.getLsbD 63 = false → Says.ends (.stop a c) s p 4 2 (fun u => Says.recState u c = 0 ∧
      (u.course c).rings.buf = [] ∧ (u.course c).rings.sweeping = false ∧ (r.rTile = none → st = 1 → Says.goOn s u c) ∧
      (r.rTile = none → st ≠ 1 → u.tiles = s.tiles) ∧ (st ≠ 1 → u.mem = s.mem))) ∧
    (may 4 → st = 1 → ctlr.getLsbD 63 = true → ∃ status, Says.ends (.stop a c) s p 4 status (fun u =>
      (status = 2 ∧ Says.recState u c = 0 ∧ (u.course c).rings.buf = []) ∨
      (status = 1 ∧ Says.recState u c = 1 ∧ ((u.course c).rings.buf ≠ [] ∨ (u.course c).rings.late ≠ []) ∧
        (u.course c).rings.stopping = true))) ∧
    (may 5 →
      let from_ := (s.reg (Says.rings c 0x160)).toNat
      let to_ := (s.reg (Says.rings c 0x168)).toNat
      let busy := s.fld (ctl 0x90 (0x200 + 0x10 * c.val)) 63 62 ≠ 2 ∨ held (ctlr.toNat % 4)
      let bad := to_ ≤ from_ ∨ 2 ^ 30 < to_ - from_ ∨ recOk s c from_ (from_ + 80) = false ∨ (recHead s c from_).1 ≠ 1 ∨
        (recHead s c from_).2.2.1 ≠ 80
      (busy → Says.completes (.replay a c) s p 5 0x0E id) ∧
      (¬ busy → bad → Says.completes (.replay a c) s p 5 0x0B id) ∧
      (¬ busy → ¬ bad → Says.ends (.replay a c) s p 5 2 (fun u => (Says.recState u c = 3 ∨ Says.recState u c = 4) ∧
        u.reg (Says.rings c 0x130) = BitVec.ofNat 64 from_ ∧ u.reg (Says.rings c 0x128) = BitVec.ofNat 64 to_)))

/-- The recorders: what leaves them, and their commands. -/
def Obligations.RecordersWork : Prop := Says.RecordsLeave ∧ Says.RingsCommands

/-! ## Resets, boot and training -/

/-- What a cold, warm or device reset clears (spec/15 R454, R455, Table 15-3): the device is as right after reset, but for
Heartwood, the standby domain, the calendar and the fuses, and the pages of the root ports. That memory outside Heartwood then
reads 0 is log entry 1, the values of registers and banks that the rules leave open are entry 2. -/
def Says.wiped (s u : State) : Prop :=
  u.tiles = Vector.replicate 100 Tile.reset ∧ u.courses = Vector.replicate 12 Course.reset ∧ u.mason = Mason.reset ∧
    u.hwj = Hwj.reset ∧ u.links = Vector.replicate 16 Link.reset ∧ u.poison = [] ∧ u.mcq = [] ∧ u.e2e = [] ∧
    u.posted = s.posted.filter (fun w => decide (w.ca / 4096 = 0xD0)) ∧ u.calShadow = s.calShadow ∧
    (∀ p, p ∈ u.stopped ↔ p ∈ s.stopped ∧ (p = 0xD0 ∨ p = 0xE9)) ∧
    u.clk.seeded = false ∧ u.clk.tb = 0 ∧ u.clk.calAcc = s.clk.calAcc ∧ u.fuses = s.fuses ∧ u.boot.romRan = false ∧
    u.boot.stopped = false ∧ u.boot.speed = none ∧ u.pending = s.pending ∧
    (∀ a, u.byte a = if 0x080000000000 ≤ a ∧ a ≤ 0x08001FFFFFFF then s.byte a else 0) ∧
    (∀ a, a / 4096 = 0xE9 ∨ a / 4096 = 0xD0 → u.reg a = s.reg a) ∧
    (∀ a, a / 4096 ≠ 0xE9 → a / 4096 ≠ 0xD0 → a / 4096 ≠ 0xC0 → a / 4096 ≠ 0xC1 → u.reg a = regReset a)

/-- Two strap lands as sampled (spec/16 R501): a land that is tied reads as it is tied; one left open is a free value. -/
def Says.strapped (q : StrapPair) (b : BitVec 2) : Prop :=
  (q.hi = .high → b.getLsbD 1 = true) ∧ (q.hi = .low → b.getLsbD 1 = false) ∧
    (q.lo = .high → b.getLsbD 0 = true) ∧ (q.lo = .low → b.getLsbD 0 = false)

/-- A cold, warm or device reset: what it clears; as it is released the straps of each root port are sampled, and 11b sets
BIFERR (spec/16 Table 16-6, R480, R501). -/
def Says.cleared (s u : State) : Prop :=
  Says.wiped s u ∧ ∀ p : Fin 2, Says.strapped (s.sby.bifPins.get p) (u.boot.bifVal.get p) ∧
    (u.boot.bifVal.get p = 3 → (u.reg (ctl (0xC0 + p.val) 0x18)).getLsbD 5 = true) ∧
    (u.boot.bifVal.get p ≠ 3 → ∀ a, a / 4096 = 0xC0 + p.val → u.reg a = regReset a)

/-- Every tile is held and the device is in reset. -/
def Says.frozen (s u : State) : Prop :=
  (∀ t, u.tile t = { s.tile t with run := .held }) ∧ u.sby.inReset = true ∧ u.mem = s.mem ∧ u.regs = s.regs

/-- Resets and power (spec/15 R451–R455, R460–R463, R468, Tables 15-3, 15-4, 15-9): COLD_RESET, WARM_RESET and DEVRESET clear the
device and keep Heartwood, the standby domain and the calendar with the writes on their way to it; POWER_LOSS holds every tile
and brings the signals to their levels in reset (spec/16 Table 16-6); the standby and calendar resets clear their own page; without V_STBY the SMB page has no clock (spec/01 R31); a reset's rows have no effect while the device is in reset or without
power. The levels that COLD_RESET and STANDBY_RESET leave on the pins are log entry 49; that memory outside Heartwood then reads 0 is
entry 1, and the values that the rules leave open are entry 2. -/
def Obligations.Resets : Prop :=
  ∀ s : State,
    (∃ u, exec .coldReset s = .next u ∧ Says.cleared s u ∧
      u.sby = { s.sby with powerGood := true, resetN := true, inReset := false, trip := false }) ∧
    (s.sby.powerGood = true ∧ s.sby.inReset = false → ∃ u, exec .warmReset s = .next u ∧ Says.cleared s u ∧ u.sby = s.sby) ∧
    (¬ (s.sby.powerGood = true ∧ s.sby.inReset = false) → exec .warmReset s = .next s) ∧
    (∀ a, Says.mayCommand s 0xEB → Says.leads (.devreset a) s (fun u => Says.cleared s u ∧ u.sby = s.sby)) ∧
    (∃ u, exec .powerLoss s = .next u ∧ Says.frozen s u ∧
      u.sby = { s.sby with powerGood := false, resetN := false, inReset := true } ∧
      (s.sby.vstby = true → (∀ p k, deviceLevel u (.perst p k) = some .low) ∧ deviceLevel u .spiCsN = some .high ∧
        ∀ c, deviceLevel u (.ddr c 154) = some .low)) ∧
    (∀ addr, ∃ u, exec (.standbyReset addr) s = .next u ∧ Says.strapped addr u.sby.addr ∧ u.sby.vstby = true ∧ u.sby.store = [] ∧
      u.sby.pwrEn = false ∧ 0xE9 ∉ u.stopped ∧ u.tiles = s.tiles ∧ u.mem = s.mem ∧
      (∀ a, u.reg a = if a / 4096 = 0xE9 then regReset a else s.reg a)) ∧
    (∃ u, exec .calendarReset s = .next u ∧ u.clk.calAcc = 0 ∧ u.calShadow = [] ∧
      (∀ w ∈ u.posted, w.ca / 4096 ≠ 0xD0) ∧ u.tiles = s.tiles ∧ u.mem = s.mem ∧
      (∀ a, u.reg a = if a / 4096 = 0xD0 then regReset a else s.reg a)) ∧
    exec .standbyLoss s = .next { s with
      sby := { s.sby with vstby := false, onVbat := true }, stopped := s.stopped.filter (fun p => decide (p ≠ 0xE9)) ++ [0xE9] }

/-- The result of a boot-flash slot (spec/15 Sequence 15-5, steps 3 to 5): the header's code, 07h where the image cannot be read,
06h where its signature fails, 01h accepted. -/
def Says.slotCode (s : State) (img : List Byte) (readable : Bool) : Nat :=
  if headerCode s img ≠ 1 then headerCode s img else if readable = false then 7 else if imageSigned img then 1 else 6

/-- An image's firmware is started on keystone tile 0 (spec/15 Sequence 15-5, steps 6 and 7). -/
def Says.bootsImage (s u : State) (img : List Byte) : Prop :=
  u.fld (ctl 0xFF 0x1A0) 31 0 = imgNat img 4 4 ∧ u.fld (ctl 0xFF 0x1A0) 63 32 = imgNat img 4 4 ∧
    (∀ c : CourseId, u.reg (ctl (0x70 + c.val) 0x108) = BitVec.ofNat 64 (imgNat img 4 4)) ∧
    u.tile 96 = { s.tile 96 with run := .running, pc := BitVec.ofNat 64 (imgNat img 0x28 8) } ∧
    (∀ t, t ≠ 96 → u.tile t = s.tile t) ∧
    u.bytes (imgNat img 0x20 8) (imgNat img 0x1C 4) = imgBytes img (imgNat img 0x18 4) (imgNat img 0x1C 4)

/-- A DIMM that R477 allows. -/
def Says.dimmAllowed (x : Spd) : Prop :=
  x.registered = true ∧ x.ecc = true ∧ x.x4 = true ∧ (x.capGiB = 32 ∨ x.capGiB = 64 ∨ x.capGiB = 128) ∧ 4800 ≤ x.speed

/-- A DIMM is installed on a channel. -/
def Says.installed (q : DimmPair) (x : Spd) : Prop := q.d0 = some x ∨ q.d1 = some x

/-- The DIMMs of a channel that TRAIN can bring to READY (R477): position 0 taken, each allowed, ranks equal. -/
def Says.channelOk (q : DimmPair) : Prop :=
  q.d0.isSome = true ∧ (∀ x, Says.installed q x → Says.dimmAllowed x) ∧ ∀ x y, q.d0 = some x → q.d1 = some y → x.ranks = y.ranks

/-- Boot, start, training and reload (spec/15 R457–R463, Sequence 15-5, Table 15-9; spec/16 R477, R478): the boot ROM runs once
after reset; a flash without SFDP is 02h for both slots (log entry 52); slot A, else slot B at half the density, is started on
keystone tile 0, and both bad stop the device, BOOTSTAT telling why; DEV.START releases the tiles of each bit that becomes 1 at
STARTPC; TRAIN begins, and a controller ends READY or FAILED by its DIMMs, the command done either way (log entry 53), at the
highest speed that all installed DIMMs support; RELOAD begins on a drained idle course and ends in the image running or a code
(07h: log entry 55; the code of another UABI is a free value, which may be any: entry 54); what the course reset keeps of a tile
is entry 56; a course whose reload nothing began stays as it is. -/
def Obligations.BootAndTraining : Prop :=
  (∀ (density : Option Nat) (flash : List Byte) (rd : FlashReads) (s : State), Says.running s →
    (s.boot.romRan = true → exec (.bootRom density flash rd) s = .next (settle s)) ∧
    (s.boot.romRan = false → density = none →
      Says.leads (.bootRom density flash rd) s (fun u => u.boot.romRan = true ∧ u.boot.stopped = true ∧
        u.reg (ctl 0xFF 0x1A8) = 0x0202 ∧ u.tiles = s.tiles ∧ u.mem = s.mem)) ∧
    (∀ d, s.boot.romRan = false → density = some d →
      let imgB := flash.drop (d / 2)
      let ca := Says.slotCode s flash rd.a
      let cb := Says.slotCode s imgB rd.b
      (ca = 1 → Says.leads (.bootRom density flash rd) s (fun u => u.boot.romRan = true ∧ u.boot.stopped = s.boot.stopped ∧
        u.reg (ctl 0xFF 0x1A8) = BitVec.ofNat 64 (2 ^ 63 + 1 * 65536 + 0x0100) ∧ Says.bootsImage s u flash)) ∧
      (ca ≠ 1 → cb = 1 → Says.leads (.bootRom density flash rd) s (fun u => u.boot.romRan = true ∧ u.boot.stopped = s.boot.stopped ∧
        u.reg (ctl 0xFF 0x1A8) = BitVec.ofNat 64 (2 ^ 63 + 2 * 65536 + ca * 256 + 1) ∧ Says.bootsImage s u imgB)) ∧
      (ca ≠ 1 → cb ≠ 1 → Says.leads (.bootRom density flash rd) s (fun u => u.boot.romRan = true ∧ u.boot.stopped = true ∧
        u.reg (ctl 0xFF 0x1A8) = BitVec.ofNat 64 (ca * 256 + cb) ∧ u.tiles = s.tiles ∧
        ∀ a, a < 0x2000000 ∨ 0x4000000 ≤ a → u.byte a = s.byte a)))) ∧
  (∀ (a : Agent) (v : Word) (s : State), Says.reaches s 0xFF →
    let old := s.reg (ctl 0xFF 0x1B0)
    Says.leads (.devStart a v) s (fun u =>
      u.reg (ctl 0xFF 0x1B0) = BitVec.ofNat 64 (old.toNat ||| (v.toNat &&& 0x1E)) ∧ u.mem = s.mem ∧
      ∀ t : TileId, u.tile t =
        (if (s.tile t).run = .held ∧ ((t.val < 96 ∧ v.getLsbD 4 = true ∧ old.getLsbD 4 = false) ∨
            (97 ≤ t.val ∧ v.getLsbD (t.val - 96) = true ∧ old.getLsbD (t.val - 96) = false)) then
          { s.tile t with run := .running, pc := BitVec.ofNat 64 (s.fld (ctl 0xFF 0x1B8) 47 2 * 4) } else s.tile t))) ∧
  (∀ (a : Agent) (c : Fin 9) (s : State),
    let p := 0xA0 + c.val
    let st := s.fld (ctl p 0x120) 1 0
    Says.mayCommand s p →
    (st = 0 ∨ st = 3 → Says.takes (.ddrcHbmcTrain a c) s (fun s0 =>
      (s0.setReg (ctl p 0xF8) (Says.cmdstat s p 1 1)).setFld (ctl p 0x120) 1 0 1)) ∧
    (st = 1 ∨ st = 2 → Says.refuses (.ddrcHbmcTrain a c) a s p 1 st)) ∧
  (∀ (c : Fin 9) (d : Dimms) (s : State), Says.running s →
    let p := 0xA0 + c.val
    let good := d.ok = true ∧ (∀ h : c.val < 8, Says.channelOk (d.chans.get ⟨c.val, h⟩))
    (s.fld (ctl p 0x120) 1 0 ≠ 1 → exec (.trainComplete c d) s = .next (settle s)) ∧
    (s.fld (ctl p 0x120) 1 0 = 1 → Says.leads (.trainComplete c d) s (fun u =>
      (good → u.fld (ctl p 0x120) 1 0 = 2) ∧ (¬ good → u.fld (ctl p 0x120) 1 0 = 3) ∧ u.fld (ctl p 0xF8) 7 0 = 2 ∧
      u.tiles = s.tiles ∧ u.mem = s.mem ∧
      (∀ v, s.boot.speed = some v → u.boot.speed = some v) ∧
      (good → c.val < 8 → s.boot.speed = none → ∃ v, u.boot.speed = some v ∧ (v = 4800 ∨ v = 5600 ∨ v = 6400) ∧
        ∀ w, w = 5600 ∨ w = 6400 → (w ≤ v ↔ ∀ i x, Says.installed (d.chans.get i) x → w ≤ x.speed)) ∧
      (∀ (h : c.val < 8) (x : Spd), good → let q := d.chans.get ⟨c.val, h⟩
        q.d0 = some x → (∀ y, q.d1 = some y → y.capGiB = x.capGiB) →
        (∀ i : Fin 8, i.val ≠ c.val → s.fld (ctl (0xA0 + i.val) 0x120) 1 0 = 2 ∧ s.boot.dimms.get i = some q) →
        u.fld (ctl 0xFF 0x130) 27 0 = 8 * (if q.d1.isSome then 2 else 1) * x.capGiB * 65536)))) ∧
  (∀ (a : Agent) (c : CourseId) (s : State),
    let p := 0x70 + c.val
    Says.mayCommand s p →
    let idle := s.isA0 = false ∧ s.fld (ctl p 0x100) 1 0 = 0 ∧ s.fld (ctl 0x90 (0x200 + 0x10 * c.val)) 63 62 = 2 ∧ Says.recState s c = 0
    (¬ idle → Says.refuses (.reload a c) a s p 1 (s.fld (ctl p 0x100) 1 0)) ∧
    (idle → (∀ d, (s.course d).reloading = none) → Says.leads (.reload a c) s (fun u =>
      u.reg (ctl p 0xF8) = Says.cmdstat s p 1 1 ∧ u.fld (ctl p 0x100) 1 0 = 1 ∧
      (u.course c).reloading = some (s.reg (ctl p 0x110)).toNat ∧ u.tiles = s.tiles ∧ u.mem = s.mem)) ∧
    (idle → (∃ d, (s.course d).reloading.isSome = true) → Says.completes (.reload a c) s p 1 0x0E id)) ∧
  (∀ (c : CourseId) (s : State), Says.running s →
    let p := 0x70 + c.val
    ((s.course c).reloading = none → exec (.reloadVerifyDone c) s = .next (settle s)) ∧
    (∀ pa, (s.course c).reloading = some pa →
      let ok := verifyAt s pa = 1 ∧ s.memNat (pa + 8) 2 = s.fld (ctl 0x60 0x300) 47 32 ∧ s.memNat (pa + 0xC) 4 ≠ 0
      let ver := s.memNat (pa + 4) 4
      (¬ ok → Says.leads (.reloadVerifyDone c) s (fun u => (u.course c).reloading = none ∧ u.fld (ctl p 0x100) 1 0 = 0 ∧
        u.fld (ctl p 0xF8) 7 0 = 0x0B ∧ u.reg (ctl p 0x118) = BitVec.ofNat 64 (verifyAt s pa) ∧ u.tiles = s.tiles ∧ u.mem = s.mem)) ∧
      (ok → Says.leads (.reloadVerifyDone c) s (fun u => (u.course c).reloading = none ∧ u.fld (ctl p 0x100) 1 0 = 0 ∧
        u.fld (ctl p 0xF8) 7 0 = 2 ∧ u.reg (ctl p 0x118) = 1 ∧ u.reg (ctl p 0x108) = BitVec.ofNat 64 ver ∧ u.mem = s.mem ∧
        (∀ t : TileId, t.val / 8 = c.val →
          let kept : Tile := { s.tile t with
            run := (if (s.tile t).run = .checkstop then .held else (s.tile t).run)
            ef := Vector.replicate 512 0
            kiln := { (s.tile t).kiln with fault := none, queue := [] }
            recWait := false }
          u.tile t = if (s.reg (ctl 0xFF 0x1B0)).getLsbD 4 ∧ kept.run = .held then
            { kept with run := .running, pc := BitVec.ofNat 64 (s.fld (ctl 0xFF 0x1B8) 47 2 * 4) } else kept) ∧
        (∀ t : TileId, t.val / 8 ≠ c.val → u.tile t = s.tile t)))))

/-- The calendar, the timebase and the clocks (spec/15 R465–R470; spec/16 R493): a tick of the crystal adds 2^17 to FRAC,
with its carry into SEC and the trim of that second, and what the page then holds is what is read until the next (spec/01
R32); a write of the page, SET too, takes effect at the second tick; a tick seeds a timebase that waits for it; a stopped
crystal clears VALID and leaves the page without a clock until the next tick (spec/01 R31); a PPS edge is captured with its error, and steers where the device is the root; lost PPS leaves the
frequency term; no edge moves a timebase that has no seed; an unlocked PLL is counted, and its pages have no clock where it stops. How the
trim of a second is spread is log entry 57, the multiple of a PPS edge midway entry 58, rounding entry 44, and what an unlocked CORE
PLL does entry 59. -/
def Obligations.CalendarAndClocks : Prop :=
  ∀ s : State,
    let sec := s.fld (ctl 0xD0 0x100) 47 0
    let frac := s.fld (ctl 0xD0 0x108) 31 0
    let trim : Int := (BitVec.ofNat 8 (s.fld (ctl 0xD0 0x10) 7 0)).toInt
    let acc := s.clk.calAcc + trim * 4295
    let waits := (s.clk.seeded = false ∧ s.clk.pllLocked = true) ∨ s.fld (ctl 0xE8 0xF8) 7 0 = 1
    let value (u : State) : Word :=
      BitVec.ofNat 64 (u.fld (ctl 0xD0 0x100) 47 0 * 10 ^ 9 + u.fld (ctl 0xD0 0x108) 31 0 * 10 ^ 9 / 2 ^ 32)
    let seeds (u : State) : Prop := (Says.running s ∧ waits → u.clk.tb = value u ∧ u.clk.seeded = true) ∧
      (¬ (Says.running s ∧ waits) → u.clk.tb = s.clk.tb ∧ u.clk.seeded = s.clk.seeded)
    let none_ : Prop := ∀ w ∈ s.posted, w.ca / 4096 ≠ 0xD0
    let shown (u : State) : Prop := 0xD0 ∉ u.stopped ∧ ∀ r, r ∈ u.calShadow ↔ r ∈ u.regs ∧ r.1 / 4096 = 0xD0
    (none_ → -(2 ^ 17) < s.clk.calAcc → frac + 2 ^ 17 < 2 ^ 32 → ∃ u, exec .calendarTick s = .next u ∧
      u.fld (ctl 0xD0 0x108) 31 0 = frac + 2 ^ 17 ∧ u.fld (ctl 0xD0 0x100) 47 0 = sec ∧ u.clk.calAcc = s.clk.calAcc ∧ seeds u ∧ shown u ∧
      u.tiles = s.tiles ∧ u.mem = s.mem) ∧
    (none_ → -(2 ^ 17) < s.clk.calAcc → 2 ^ 32 ≤ frac + 2 ^ 17 → acc < 2 ^ 17 → ∃ u, exec .calendarTick s = .next u ∧
      u.fld (ctl 0xD0 0x108) 31 0 = frac + 2 ^ 17 - 2 ^ 32 ∧ u.fld (ctl 0xD0 0x100) 47 0 = (sec + 1) % 2 ^ 48 ∧
      u.clk.calAcc = acc ∧ seeds u ∧ shown u ∧ u.tiles = s.tiles ∧ u.mem = s.mem) ∧
    (none_ → s.clk.calAcc ≤ -(2 ^ 17) → ∃ u, exec .calendarTick s = .next u ∧
      u.fld (ctl 0xD0 0x108) 31 0 = frac ∧ u.fld (ctl 0xD0 0x100) 47 0 = sec ∧ u.clk.calAcc = s.clk.calAcc + 2 ^ 17 ∧
      shown u ∧ u.tiles = s.tiles ∧ u.mem = s.mem) ∧
    (∀ w, s.posted = [w] → w.ca / 4096 = 0xD0 → w.ticks = 0 → ∃ u, exec .calendarTick s = .next u ∧
      u.posted = [{ w with ticks := 1 }] ∧ shown u ∧ u.tiles = s.tiles ∧ u.mem = s.mem) ∧
    (∀ a, s.posted = [{ a := a, ca := ctl 0xD0 0xF0, sz := .b8, v := 1, ticks := 1 }] → s.fld (ctl 0xD0 0xF8) 7 0 ≠ 1 →
      ∃ u, exec .calendarTick s = .next u ∧ u.posted = [] ∧ shown u ∧
      u.fld (ctl 0xD0 0x100) 47 0 = s.fld (ctl 0xD0 0x118) 47 0 ∧
      u.fld (ctl 0xD0 0x108) 31 0 = s.fld (ctl 0xD0 0x120) 31 17 * 2 ^ 17 ∧ u.reg (ctl 0xD0 0x110) = 1 ∧ u.clk.calAcc = 0 ∧
      u.fld (ctl 0xD0 0xF8) 7 0 = 2 ∧ (u.reg (ctl 0xD0 0x18)).getLsbD 2 = true ∧ u.tiles = s.tiles ∧ u.mem = s.mem) ∧
    (∃ u, exec .oscStop s = .next u ∧ (u.reg (ctl 0xD0 0x18)).getLsbD 1 = true ∧ u.reg (ctl 0xD0 0x110) = 0 ∧ 0xD0 ∈ u.stopped ∧ u.tiles = s.tiles ∧
      u.mem = s.mem) ∧
    (s.sby.vstby = true → ∃ u, exec (.vbatSample true) s = .next u ∧ (u.reg (ctl 0xD0 0x18)).getLsbD 0 = true ∧
      u.tiles = s.tiles ∧ u.mem = s.mem) ∧
    exec (.vbatSample false) s = .next s ∧
    (Says.running s → (¬ waits → exec .timebaseSeed s = .next (settle s)) ∧
      (waits → Says.leads .timebaseSeed s (fun u => u.clk.tb = value s ∧ u.clk.seeded = true ∧ u.tiles = s.tiles ∧ u.mem = s.mem))) ∧
    (∀ a, Says.running s → 0xD0 ∉ s.stopped → Says.takes (.set a) s (fun s =>
      { s with posted := s.posted ++ [{ a := a, ca := ctl 0xD0 0xF0, sz := .b8, v := 1 }] })) ∧
    (∀ a, Says.mayCommand s 0xE8 →
      (Says.hwj s = 0 → Says.takes (.seed a) s (fun s0 => s0.setReg (ctl 0xE8 0xF8) (Says.cmdstat s 0xE8 1 1))) ∧
      (Says.hwj s ≠ 0 → Says.refuses (.seed a) a s 0xE8 1 (Says.hwj s))) ∧
    (∀ falling, Says.running s →
      let r := s.reg (ctl 0xE8 0x100)
      let err : Int := (((s.clk.tb.toNat + 5 * 10 ^ 8) / 10 ^ 9 * 10 ^ 9 : Nat) : Int) - s.clk.tb.toNat
      let steers := (s.reg (ctl 0xFF 0x180)).getLsbD 63 = true ∧ r.getLsbD 61 = true
      let freq := max (-(100000 * 8192)) (min (100000 * 8192) (s.clk.freq + err * 512))
      let takes_ := r.getLsbD 63 = true ∧ r.getLsbD 62 = falling
      (¬ takes_ → exec (.ppsEdge falling) s = .next (settle s)) ∧
      (takes_ → Says.leads (.ppsEdge falling) s (fun u => u.reg (ctl 0xE8 0x108) = s.clk.tb ∧
        u.reg (ctl 0xE8 0x110) = BitVec.ofInt 64 err ∧ (u.reg (ctl 0xE8 0x18)).getLsbD 0 = true ∧
        (¬ steers → u.clk = s.clk) ∧
        (steers → u.clk.freq = freq ∧ u.reg (ctl 0xFF 0x198) = BitVec.ofNat 64 (BitVec.ofInt 32
          (max (-200000) (min 200000 (Says.rounded (freq + err * 4096) 8192)))).toNat ∧
          (10000 < err → s.clk.seeded = true → u.clk.tb = BitVec.ofInt 64 ((s.clk.tb.toNat : Int) + err)) ∧
          (s.clk.seeded = false → u.clk.tb = s.clk.tb) ∧ (-10000 ≤ err → err ≤ 10000 → u.clk.tb = s.clk.tb)) ∧ u.tiles = s.tiles ∧ u.mem = s.mem)) ∧
      Says.leads .ppsLost s (fun u => (u.reg (ctl 0xE8 0x18)).getLsbD 1 = true ∧
        (steers → u.reg (ctl 0xFF 0x198) = BitVec.ofNat 64 (BitVec.ofInt 32
          (max (-200000) (min 200000 (Says.rounded s.clk.freq 8192)))).toNat) ∧ u.clk = s.clk ∧ u.tiles = s.tiles ∧ u.mem = s.mem)) ∧
    (∀ (p : Pll) (stops : Bool), Says.running s → Says.leads (.pllUnlock p stops) s (fun u =>
      (u.reg (ctl 0xE8 0x18)).getLsbD 2 = true ∧ u.tiles = s.tiles ∧ u.mem = s.mem ∧ (stops = false → u.stopped = s.stopped) ∧
      (stops = true → ∀ q, q ∈ u.stopped ↔ q ∈ s.stopped ∨ (match p with
        | .core => False
        | .mem => 0xA0 ≤ q ∧ q < 0xA8
        | .hbm => q = 0xA8
        | .pcie => q = 0xC0 ∨ q = 0xC1
        | .mortar => 0xB0 ≤ q ∧ q < 0xC0))))

/-! ## Interfaces of the package -/

/-- A register of a PCIE page. -/
def Says.pcie (p : Fin 2) (off : Nat) : Nat := ctl (0xC0 + p.val) off

/-- STAT bit `i` of a PCIE page. -/
def Says.pstat (s : State) (p : Fin 2) (i : Nat) : Bool := (s.reg (Says.pcie p 0x18)).getLsbD i

/-- The sub-ports of a root port by its straps (Table 16-7), with the lanes of each. -/
def Says.subs (s : State) (p : Fin 2) : Nat × Nat :=
  let b := (s.boot.bifVal.get p).toNat
  if b = 0 then (1, 16) else if b = 1 then (2, 8) else if b = 2 then (4, 4) else (0, 4)

/-- The inbound request is refused: Unsupported Request, REFUSED and AERUNC set with the request's header, nothing written (R293,
Table 16-8). -/
def Says.turnedAway (s u : State) (p : Fin 2) (rid : BitVec 16) (addr : Word) (req : PcieReq) : Prop :=
  u.reply = none ∧ Says.pstat u p 2 = true ∧ Says.pstat u p 1 = true ∧ u.aer.get p = some (rid, addr, req) ∧ u.mem = s.mem ∧
    u.tiles = s.tiles ∧ u.poison = s.poison

/-- A sub-port whose link is UP and whose PERST# is released carries the requests of a requester: one whose SEC to SUB range holds
its bus, any where none does (R481, R484; log entry 135). -/
def Says.carries (s : State) (p : Fin 2) (rid : BitVec 16) : Prop :=
  let bus := rid.toNat / 256
  let has (k : Fin 4) : Prop := k.val < (Says.subs s p).1 ∧ s.fld (Says.pcie p (0x140 + 8 * k.val)) 15 8 ≤ bus ∧
    bus ≤ s.fld (Says.pcie p (0x140 + 8 * k.val)) 7 0
  ∃ k : Fin 4, k.val < (Says.subs s p).1 ∧ (has k ∨ ∀ j, ¬ has j) ∧ (s.reg (Says.pcie p (0x110 + 8 * k.val))).getLsbD 63 = true ∧
    (s.reg (Says.pcie p 0x108)).getLsbD k.val = false

/-- A requester's entry (Map 9-13): the first valid one with its ID; its first word and its key rights. -/
def Says.requester (s : State) (p : Fin 2) (rid : BitVec 16) (w : Word) (rights : BitVec 128) : Prop :=
  ∃ n, n < 64 ∧ w = s.reg (Says.pcie p (0x400 + 32 * n)) ∧ w.getLsbD 63 = true ∧ w.toNat % 2 ^ 16 = rid.toNat ∧
    rights = s.reg (Says.pcie p (0x410 + 32 * n)) ++ s.reg (Says.pcie p (0x418 + 32 * n)) ∧
    ∀ m, m < n → ¬ ((s.reg (Says.pcie p (0x400 + 32 * m))).getLsbD 63 = true ∧
      (s.reg (Says.pcie p (0x400 + 32 * m))).toNat % 2 ^ 16 = rid.toNat)

/-- PCI Express (spec/09 R293–R295; spec/16 R480–R484, Map 16-9, Table 16-8): a request that no
link carries is discarded; a requester without an entry is refused, as is an I/O, AtomicOp, ATS, PASID or page request; INTx is
discarded with REFUSED; a correctable error sets AERCOR; a wrong ECRC counts while ECRCCHK is 1 (log entry 136); a
write of frames whose key allows it changes those bytes alone, a read answers them, with the poisoned bit where a line is (log entry 62); a write of a message to the MSI
window rings the route's doorbell (the byte order of its data is log entry 30); a link that becomes active is shown with its speed and width, one that goes down stays
down until PERST# is cycled, and setting PERST takes its links down. -/
def Says.PcieRequests : Prop :=
  ∀ (p : Fin 2) (s : State), Says.running s →
    let msi (a : Word) : Prop := a.toNat / 4096 = (s.reg (Says.pcie p 0x130)).toNat / 2 ^ 12 % 2 ^ 36
    (∀ (rid : BitVec 16) (addr : Word) (req : PcieReq), ¬ Says.carries s p rid →
      exec (.pcieInboundRequest p rid addr req) s = .next (settle s)) ∧
    (∀ (rid : BitVec 16) (addr : Word) (data : List Byte), ¬ Says.carries s p rid →
      exec (.msiWrite p rid addr data) s = .next (settle s)) ∧
    (∀ (rid : BitVec 16) (addr : Word), Says.carries s p rid →
      (∀ req, (∃ data, req = .write data) ∨ (∃ n, req = .read n) → (∀ w r, ¬ Says.requester s p rid w r) →
        Says.leads (.pcieInboundRequest p rid addr req) s (fun u => Says.turnedAway s u p rid addr req)) ∧
      (∀ k, Says.leads (.pcieInboundRequest p rid addr (.other k)) s (fun u => Says.turnedAway s u p rid addr (.other k))) ∧
      Says.leads (.pcieInboundRequest p rid addr .intx) s (fun u => Says.pstat u p 2 = true ∧ u.reply = s.reply ∧ u.mem = s.mem ∧
        u.tiles = s.tiles) ∧
      Says.leads (.pcieInboundRequest p rid addr .correctable) s (fun u => Says.pstat u p 0 = true ∧ u.reply = s.reply ∧
        u.mem = s.mem ∧ u.tiles = s.tiles) ∧
      (∀ req, (s.reg (Says.pcie p 0x10)).getLsbD 1 = true → Says.leads (.pcieInboundRequest p rid addr (.badEcrc req)) s (fun u =>
        Says.pstat u p 1 = true ∧ u.aer.get p = some (rid, addr, .badEcrc req) ∧ u.mem = s.mem ∧ u.tiles = s.tiles)) ∧
      (∀ req, (s.reg (Says.pcie p 0x10)).getLsbD 1 = false →
        exec (.pcieInboundRequest p rid addr (.badEcrc req)) s = exec (.pcieInboundRequest p rid addr req) s)) ∧
    (∀ (rid : BitVec 16) (addr w : Word) (rights : BitVec 128) (data : List Byte) (key ty : Nat), Says.carries s p rid →
      Says.requester s p rid w rights →
      ¬ msi addr → regionOf s addr.toNat = .ddr → regionOf s (addr.toNat + max data.length 1 - 1) = .ddr →
      s.fld (ctl 0xFF 0x130) 27 0 ≠ 0 →
      addr.toNat % 0x4000 + data.length ≤ 0x4000 → (s.dmaKeys.get p).find? (fun q => decide (q.1 = addr.toNat / 0x4000)) =
        some (addr.toNat / 0x4000, ty * 64 + key) → key < 64 → ty < 4 →
      let may := ty ≠ 3 ∧ keyAD rights key = false ∧ keyWD rights key = false
      (may → Says.leads (.pcieInboundRequest p rid addr (.write data)) s (fun u =>
        u.bytes addr.toNat data.length = data ∧
        (∀ a, a < addr.toNat ∨ addr.toNat + data.length ≤ a → u.byte a = s.byte a) ∧ u.reply = some [] ∧
        u.poison = s.poison.filter (fun l => !decide (addr.toNat ≤ l * 128 ∧ l * 128 + 128 ≤ addr.toNat + data.length)) ∧
        u.tiles = s.tiles)) ∧
      (¬ may → Says.leads (.pcieInboundRequest p rid addr (.write data)) s (fun u => Says.turnedAway s u p rid addr (.write data))) ∧
      (ty ≠ 3 → keyAD rights key = false → Says.leads (.pcieInboundRequest p rid addr (.read data.length)) s (fun u =>
        u.reply = some (s.bytes addr.toNat data.length) ∧ u.replyEp = s.poisoned addr.toNat data.length ∧
        (s.poisoned addr.toNat data.length = true → Says.pstat u p 1 = true) ∧ u.mem = s.mem ∧ u.tiles = s.tiles))) ∧
    (∀ (rid : BitVec 16) (addr w : Word) (rights : BitVec 128) (v : Byte), Says.carries s p rid → Says.requester s p rid w rights → msi addr →
      let half := (s.reg (Says.pcie p (0xC00 + 8 * (v.toNat / 2)))).toNat / 2 ^ (if v.toNat % 2 = 0 then 32 else 0) % 2 ^ 32
      (half / 2 ^ 15 % 2 = 1 → Says.leads (.msiWrite p rid addr [0, 0, 0, v]) s (fun u =>
        u.reg (ctl (half / 2 ^ 8 % 128) 0x100) = s.reg (ctl (half / 2 ^ 8 % 128) 0x100) ||| BitVec.ofNat 64 (2 ^ (half % 64)) ∧
        u.reply = some [] ∧ u.mem = s.mem ∧ u.tiles = s.tiles)) ∧
      (half / 2 ^ 15 % 2 = 0 → Says.leads (.msiWrite p rid addr [0, 0, 0, v]) s (fun u =>
        Says.turnedAway s u p rid addr (.write [0, 0, 0, v])))) ∧
    (∀ (k : Fin 4) (gen : BitVec 3) (width : BitVec 5),
      let up (s : State) (k : Fin 4) : Bool := (s.reg (Says.pcie p (0x110 + 8 * k.val))).getLsbD 63
      let can := k.val < (Says.subs s p).1 ∧ (s.reg (Says.pcie p 0x108)).getLsbD k.val = false ∧ up s k = false ∧
        4 * p.val + k.val ∉ s.pcieDown ∧ 1 ≤ gen.toNat ∧ gen.toNat ≤ 5 ∧ 1 ≤ width.toNat ∧ width.toNat ≤ (Says.subs s p).2
      (can → Says.leads (.pcieLinkUp p k gen width) s (fun u => up u k = true ∧
        u.fld (Says.pcie p (0x110 + 8 * k.val)) 10 8 = gen.toNat ∧ u.fld (Says.pcie p (0x110 + 8 * k.val)) 4 0 = width.toNat ∧
        Says.pstat u p 4 = true ∧ u.tiles = s.tiles ∧ u.mem = s.mem)) ∧
      (¬ can → exec (.pcieLinkUp p k gen width) s = .next (settle s)) ∧
      (up s k = true → Says.leads (.pcieLinkDown p k) s (fun u => up u k = false ∧ 4 * p.val + k.val ∈ u.pcieDown ∧
        Says.pstat u p 3 = true ∧ u.tiles = s.tiles ∧ u.mem = s.mem)) ∧
      (up s k = false → exec (.pcieLinkDown p k) s = .next (settle s)) ∧
      (∀ (a : Agent) (v : Word), Says.reaches s (0xC0 + p.val) → Says.leads (.perstWrite a p v) s (fun u =>
        u.fld (Says.pcie p 0x108) 3 0 = v.toNat % 16 ∧ (v.getLsbD k.val = true → up u k = false) ∧
        (v.getLsbD k.val = false → up u k = up s k) ∧
        (v.getLsbD k.val = false → (s.reg (Says.pcie p 0x108)).getLsbD k.val = true → 4 * p.val + k.val ∉ u.pcieDown) ∧
        u.tiles = s.tiles ∧ u.mem = s.mem)))

/-- Scrub, SPI, I2C, temperature and rails (spec/09 R295, R296; spec/16 R487, R496–R498): a scrub read of a controller
that is READY, or a demand read while scrub is off, records what it finds (log entry 120), and a line already poisoned stays as it is (log entry 63); GO starts an SPI or I2C operation, a second GO is a reserved encoding, which for SPI has no
effect and for I2C leaves the other fields of the write theirs (R14), and the bytes read stand in the buffer as they are received, the operation ending with the last
(log entry 64); TJMAX
is what was sampled, throttling, which a STAT_SET alone does not bring (spec/13 R420), begins at its threshold and ends with
the hysteresis, and at 110 °C the part trips. -/
def Says.BoardEvents : Prop :=
  ∀ s : State, Says.running s →
    (∀ (c : Fin 9) (addr : BitVec 48) (e : Ecc),
      let p := 0xA0 + c.val
      let line := addr.toNat / 128
      let mine := if c.val = 8 then 0x040000000000 ≤ line * 128 ∧ line * 128 ≤ 0x0403FFFFFFFF
        else line * 128 < s.fld (ctl 0xFF 0x130) 27 0 * 16384 ∧ line / 2 % 8 = c.val
      let reads := s.fld (ctl p 0x120) 1 0 = 2 ∧ mine
      (¬ reads → exec (.patrolScrubRead c addr e) s = .next (settle s)) ∧
      (reads → line ∈ s.poison → Says.leads (.patrolScrubRead c addr e) s (fun u => u.poison = s.poison ∧ u.mem = s.mem ∧
        u.tiles = s.tiles)) ∧
      (reads → line ∉ s.poison → Says.leads (.patrolScrubRead c addr e) s (fun u => u.mem = s.mem ∧ u.tiles = s.tiles ∧
        match e with
        | .clean => u.poison = s.poison
        | .corrected => u.poison = s.poison ∧ (u.reg (ctl p 0x18)).getLsbD 0 = true ∧ u.reg (ctl p 0x108) = BitVec.ofNat 64 (line * 128)
        | .uncorrectable => (∀ l, l ∈ u.poison ↔ l = line ∨ l ∈ s.poison) ∧ (u.reg (ctl p 0x18)).getLsbD 1 = true ∧
            u.reg (ctl p 0x110) = BitVec.ofNat 64 (line * 128)))) ∧
    (∀ (a : Agent) (v : Word), Says.reaches s 0xFF →
      let at_ := ctl 0xFF 0x1C0
      ((s.reg at_).getLsbD 62 = false → v.toNat / 2 ^ 45 % 8 ≤ 2 → v.toNat % 2 ^ 9 ≤ 256 → Says.leads (.spiGo a v) s (fun u =>
        (u.reg at_).getLsbD 62 = true ∧ u.fld at_ 55 48 = v.toNat / 2 ^ 48 % 2 ^ 8 ∧ u.fld at_ 47 45 = v.toNat / 2 ^ 45 % 8 ∧
        u.fld at_ 44 36 = v.toNat / 2 ^ 36 % 2 ^ 9 ∧ u.fld at_ 8 0 = v.toNat % 2 ^ 9 ∧ u.boot.spiGot = 0 ∧ u.tiles = s.tiles ∧ u.mem = s.mem)) ∧
      ((s.reg at_).getLsbD 62 = true → ∃ s0 u, CountsOnly 0xFF s s0 ∧ exec (.spiGo a v) s = .next (settle u) ∧
        Says.logged s0 u 0xFF 1 0x38 (Says.agent a) (BitVec.ofNat 64 (v.toNat ||| 2 ^ 63)))) ∧
    (∀ data : List Byte,
      let r := s.reg (ctl 0xFF 0x1C0)
      (r.getLsbD 62 = false → exec (.spiDone data) s = .next (settle s)) ∧
      (r.getLsbD 62 = true → Says.leads (.spiDone data) s (fun u =>
        let got := s.boot.spiGot
        let n := min data.length (r.toNat % 2 ^ 9 - got)
        (r.getLsbD 42 = false → u.boot.spiGot = got + n ∧
          ((u.reg (ctl 0xFF 0x1C0)).getLsbD 62 = true ↔ got + n < r.toNat % 2 ^ 9) ∧
          ∀ i, i < n → got + i < 256 → BitVec.ofNat 8 ((u.reg (ctl 0xFF (0x400 + (got + i) / 8 * 8))).toNat /
            2 ^ (56 - 8 * ((got + i) % 8))) = data.getD i 0) ∧
        (r.getLsbD 42 = true → (u.reg (ctl 0xFF 0x1C0)).getLsbD 62 = false ∧ ∀ x, x ≠ ctl 0xFF 0x1C0 → u.reg x = s.reg x) ∧ u.tiles = s.tiles ∧ u.mem = s.mem))) ∧
    (∀ (a : Agent) (v : Word), Says.reaches s 0xEB →
      let at_ := ctl 0xEB 0x180
      ((s.reg at_).getLsbD 62 = false → 1 ≤ v.toNat % 16 → v.toNat % 16 ≤ 8 → Says.leads (.i2cGo a v) s (fun u =>
        (u.reg at_).getLsbD 62 = true ∧ u.fld at_ 54 48 = v.toNat / 2 ^ 48 % 2 ^ 7 ∧ u.fld at_ 47 40 = v.toNat / 2 ^ 40 % 2 ^ 8 ∧
        u.fld at_ 3 0 = v.toNat % 16 ∧ u.boot.i2cWaiting = spdOn s (v.toNat / 2 ^ 56 % 2) ∧ u.tiles = s.tiles ∧ u.mem = s.mem)) ∧
      ((s.reg at_).getLsbD 62 = true → 1 ≤ v.toNat % 16 → v.toNat % 16 ≤ 8 → ∃ s0 s1 u, CountsOnly 0xFF s s0 ∧
        s1 = s0.setReg at_ (s1.reg at_) ∧ (s1.reg at_).getLsbD 62 = true ∧ s1.fld at_ 54 48 = v.toNat / 2 ^ 48 % 2 ^ 7 ∧
        s1.fld at_ 47 40 = v.toNat / 2 ^ 40 % 2 ^ 8 ∧ s1.fld at_ 3 0 = v.toNat % 16 ∧ exec (.i2cGo a v) s = .next (settle u) ∧
        Says.logged s1 u 0xEB 1 0x30 (Says.agent a) (BitVec.ofNat 64 (v.toNat ||| 2 ^ 63)))) ∧
    (∀ (nack : Bool) (data : Word),
      let r := s.reg (ctl 0xEB 0x180)
      let runs := r.getLsbD 62 = true ∧ s.boot.i2cWaiting = false
      let n := min 8 (r.toNat % 16)
      (¬ runs → exec (.i2cDone nack data) s = .next (settle s)) ∧
      (runs → Says.leads (.i2cDone nack data) s (fun u => (u.reg (ctl 0xEB 0x180)).getLsbD 62 = false ∧
        (u.reg (ctl 0xEB 0x180)).getLsbD 61 = nack ∧
        (nack = true ∨ r.getLsbD 35 = true → u.reg (ctl 0xEB 0x188) = s.reg (ctl 0xEB 0x188)) ∧
        (nack = false → r.getLsbD 35 = false → 0 < n →
          (u.reg (ctl 0xEB 0x188)).toNat / 2 ^ (64 - 8 * n) = data.toNat / 2 ^ (64 - 8 * n)) ∧ u.tiles = s.tiles ∧ u.mem = s.mem))) ∧
    (∀ tj : BitVec 16,
      let thr : Int := s.fld (ctl 0xEB 0x108) 7 0 * 16
      let hyst : Int := s.fld (ctl 0xEB 0x108) 15 8 * 16
      let on := s.boot.throttling = true
      (tj.toInt < 1760 → Says.leads (.temperatureSample tj) s (fun u => u.reg (ctl 0xEB 0x100) = BitVec.ofNat 64 tj.toNat ∧
        (on → (u.boot.throttling = true ↔ thr - hyst < tj.toInt)) ∧ (¬ on → (u.boot.throttling = true ↔ thr ≤ tj.toInt)) ∧
        (u.reg (ctl 0xEB 0x18)).getLsbD 1 = (if u.boot.throttling = s.boot.throttling then (s.reg (ctl 0xEB 0x18)).getLsbD 1
          else u.boot.throttling) ∧ u.tiles = s.tiles ∧ u.mem = s.mem)) ∧
      (1760 ≤ tj.toInt → Says.leads (.temperatureSample tj) s (fun u => (u.reg (ctl 0xEB 0x18)).getLsbD 2 = true ∧
        u.sby.trip = true ∧ u.sby.inReset = true ∧ (∀ t, (u.tile t).run = .held) ∧ u.mem = s.mem))) ∧
    Says.leads .railWarning s (fun u => (u.reg (ctl 0xEB 0x18)).getLsbD 0 = true ∧ u.tiles = s.tiles ∧ u.mem = s.mem)

/-- The SMBus target executes a command (R488, R489, Table 16-12): it is counted, the reply is `reply`, the last error
is cleared, the rest is what `P` says. -/
def Says.smb (c : Instr) (s : State) (reply : List Byte) (P : State → Prop) : Prop :=
  ∃ u, exec c s = .next u ∧ u.sby.reply = reply ∧ u.sby.nacked = false ∧ u.sby.lastErr = 0 ∧ P u

/-- The SMBus target refuses a command in the power state `st` (R489): the last error is 0Ah, with a log entry of kind 02h. -/
def Says.smbRefuses (c : Instr) (s : State) (code st : Nat) : Prop :=
  ∃ s0 u, CountsOnly 0xE9 s s0 ∧ exec c s = .next u ∧
    Says.logged { s0 with sby := { s.sby with nacked := false, reply := [], lastErr := 0x0A } } u 0xE9 2 0x1E 0x80
      (BitVec.ofNat 64 (st * 256 + code))

/-- The SMBus target and the test access port (spec/16 R488–R492, Tables 16-12, 16-14, Layout 16-13): IDENT, STATUS, TEMP
and LOGREAD answer their blocks, POWERON, POWEROFF and DEVRESET act in their power states alone, LOGPOP drops the oldest
entry, another code and a wrong packet error code are NACKed, the Alert Response Address is answered while SMB_ALERT_n is low
(log entry 137), and another address is not this target's; without V_STBY none has an effect. EXTEST, SAMPLE/PRELOAD, CLAMP and HIGHZ act while
RESET_n is low and else are BYPASS: the cells capture the levels at the lands and hold the outputs, HIGHZ floats them; IDCODE answers the part's code; CPACC reads or writes one register of the control space, status 01h
when debug is locked and 02h outside the control space. What the power state and STATUS show at the edges are log entries 50 and 51,
the address of a CPACC is entry 65, and a code of the table in SMB_UNDEFINED_COMMAND entry 81. -/
def Obligations.SmbusAndJtag : Prop :=
  ∀ s : State,
    let pstate := if s.sby.powerGood = false then 0 else if s.sby.trip then 3 else if s.sby.inReset then 1 else 2
    let same (u : State) : Prop := u.tiles = s.tiles ∧ u.mem = s.mem ∧ u.sby.store = s.sby.store ∧ u.sby.pwrEn = s.sby.pwrEn
    (s.sby.vstby = false → ∀ x, exec .ident s = .next s ∧ exec .status s = .next s ∧ exec .temp s = .next s ∧
      exec .poweron s = .next s ∧ exec .poweroff s = .next s ∧ exec .smbDevreset s = .next s ∧ exec .logread s = .next s ∧
      exec .logpop s = .next s ∧ exec (.smbUndefinedCommand x) s = .next s) ∧
    (s.sby.vstby = true →
      Says.smb .ident s (beBytes 8 s.fuses.partid.toNat) same ∧
      Says.smb .status s (beBytes 8 (pstate * 2 ^ 56 + b2n s.sby.pwrEn * 2 ^ 55 + b2n s.sby.powerGood * 2 ^ 54 +
        b2n s.sby.resetN * 2 ^ 53 + s.sby.lastErr.toNat * 2 ^ 40 + s.sby.store.length * 2 ^ 32 + min 255 s.sby.lost * 2 ^ 24 +
        b2n ((s.reg (ctl 0xFF 0x1A8)).getLsbD 63) * 2 ^ 23 + Says.hwj s * 2 ^ 20 + s.fld (ctl 0xFF 0x1A8) 15 0)) same ∧
      Says.smb .temp s (beBytes 2 (if s.sby.powerGood then s.fld (ctl 0xEB 0x100) 15 0 else 0x8000) ++
        beBytes 1 (s.fld (ctl 0xEB 0x108) 7 0) ++ beBytes 1 (s.fld (ctl 0xEB 0x18) 2 0)) same ∧
      Says.smb .logread s (match s.sby.store with
        | [] => List.replicate 16 0
        | m :: _ => beBytes 8 m.1.toNat ++ beBytes 8 m.2.toNat) same ∧
      Says.smb .logpop s [] (fun u => u.sby.store = s.sby.store.tail ∧ u.tiles = s.tiles ∧ u.mem = s.mem) ∧
      (pstate = 0 → Says.smb .poweron s [] (fun u => u.sby.pwrEn = true ∧ u.tiles = s.tiles ∧ u.mem = s.mem)) ∧
      (pstate ≠ 0 → Says.smbRefuses .poweron s 4 pstate) ∧
      (pstate ≠ 0 → ∃ s0 u, CountsOnly 0xE9 s s0 ∧ exec .poweroff s = .next u ∧
        u.sby = { s.sby with nacked := false, reply := [], lastErr := 0, inReset := true, pwrEn := false } ∧
        (s.sby.inReset = false → Says.wiped s0 u) ∧ (s.sby.inReset = true → u.tiles = s.tiles ∧ u.mem = s.mem ∧ u.regs = s0.regs)) ∧
      (pstate = 0 → Says.smbRefuses .poweroff s 5 pstate) ∧
      (pstate = 2 → ∃ s0 u, CountsOnly 0xE9 s s0 ∧ exec .smbDevreset s = .next u ∧ Says.cleared s0 u ∧
        u.sby = { s.sby with nacked := false, reply := [], lastErr := 0 }) ∧
      (pstate ≠ 2 → Says.smbRefuses .smbDevreset s 6 pstate) ∧
      (∀ x : SmbTransfer,
        let mine := x.addr.toNat = 0x6C + s.sby.addr.toNat
        let bad := x.code.toNat = 0 ∨ 8 < x.code.toNat ∨ x.pecBad = true
        let alert := s.sby.store ≠ [] ∨ (s.reg (ctl 0xEB 0x18)).getLsbD 1 = true
        (mine → bad → ∃ u, exec (.smbUndefinedCommand x) s = .next u ∧ u.sby = { s.sby with nacked := true, reply := [] } ∧
          u.tiles = s.tiles ∧ u.mem = s.mem) ∧
        (x.addr.toNat = 0x0C → alert → exec (.smbUndefinedCommand x) s = .next
          { s with sby := { s.sby with nacked := false, reply := [BitVec.ofNat 8 (2 * (0x6C + s.sby.addr.toNat))] } }) ∧
        (¬ (mine ∧ bad) → ¬ (x.addr.toNat = 0x0C ∧ alert) → exec (.smbUndefinedCommand x) s = .next s))) ∧
    (∀ bsr : List (Signal × Bool),
      let holds (u : State) : Prop := ∀ q, isOutput q = true → signalLevel u q = deviceLevel u q
      (s.sby.resetN = true → ∀ c ∈ [(Instr.extest bsr, TapInstr.extest), (.samplePreload bsr, .sample), (.clamp, .clamp), (.highz, .highz)],
        ∃ u, exec c.1 s = .next u ∧ u = { s with tap := { s.tap with ir := c.2 } } ∧ holds u) ∧
      (s.sby.resetN = false →
        (∃ u cap, exec (.extest bsr) s = .next u ∧ u = { s with tap := { s.tap with ir := .extest, bsr := bsr, captured := cap } } ∧
          cap.map Prod.fst = bsr.map Prod.fst ∧
          ∀ q, isOutput q = true → signalLevel u q = some (if bsrCell bsr q then .high else .low)) ∧
        (∃ u, exec (.samplePreload bsr) s = .next u ∧ u = { s with tap := { s.tap with
            ir := .sample
            bsr := bsr
            captured := bsr.map (fun c => (c.1, signalLevel u c.1)) } } ∧ holds u) ∧
        (∃ u, exec .clamp s = .next u ∧ u = { s with tap := { s.tap with ir := .clamp } } ∧
          ∀ q, isOutput q = true → signalLevel u q = some (if bsrCell s.tap.bsr q then .high else .low)) ∧
        (∃ u, exec .highz s = .next u ∧ u = { s with tap := { s.tap with ir := .highz } } ∧
          ∀ q, isOutput q = true → signalLevel u q = some .z))) ∧
    exec .bypass s = .next { s with tap := { s.tap with ir := .bypass } } ∧
    (∃ u, exec .idcode s = .next u ∧ u.tap = { s.tap with ir := .idcode } ∧
      u.reply = some (beBytes 4 (if s.fuses.partid.toNat / 16 % 16 = 0 then 0x05200B4F else 0x15200B4F)) ∧
      u = { s with tap := u.tap, reply := u.reply, replyEp := u.replyEp }) ∧
    (∀ (addr : BitVec 48) (write : Bool) (data : Word), ¬ Says.running s →
      exec (.cpacc addr write data) s = .next { s with tap := { s.tap with ir := .cpacc } }) ∧
    (∀ (addr : BitVec 48) (write : Bool) (data : Word), Says.running s →
      let off := addr.toNat / 8 * 8 - 0x3F0000000000
      let inside := 0x3F0000000000 ≤ addr.toNat / 8 * 8 ∧ addr.toNat / 8 * 8 ≤ 0x3F00000FFFFF
      let left (u : State) (st : Nat) (d : Word) : Prop :=
        u.tap = { s.tap with ir := .cpacc, cpStatus := BitVec.ofNat 8 st, cpData := d }
      (s.fuses.dbgLock = true → Says.leads (.cpacc addr write data) s (fun u => left u 1 data ∧ u = { s with tap := u.tap })) ∧
      (s.fuses.dbgLock = false → ¬ inside → Says.leads (.cpacc addr write data) s (fun u => left u 2 data ∧ u = { s with tap := u.tap })) ∧
      (s.fuses.dbgLock = false → inside → write = true → exec (.cpacc addr write data) s = .next (settle
        { ctlStore s .jtag off .b8 data with tap := { s.tap with ir := .cpacc, cpStatus := 0, cpData := data } })) ∧
      (s.fuses.dbgLock = false → inside → write = false → (pageKind (off / 4096)).isSome = true → off / 4096 ≠ 0xD0 →
        s.stopped.contains (off / 4096) = false → (∀ w ∈ s.posted, w.a ≠ .jtag) → 0x28 ≤ off % 4096 → off % 4096 < 0x80 →
        Says.leads (.cpacc addr write data) s (fun u => left u 0 (s.reg off) ∧ u.tiles = s.tiles ∧ u.mem = s.mem)))

/-- PCI Express, scrub, SPI, I2C, temperature and rails. -/
def Obligations.PackageInterfaces : Prop := Says.PcieRequests ∧ Says.BoardEvents

/-! ## What every step keeps -/

/-- Memory and the control registers are in canonical form, the machine-check queue holds at most 32 messages (spec/13
R433) and the standby store at most 16 (spec/16 R490); on every tile the return stack holds at most 8 addresses (spec/03 R108),
the commit window 8 loads (R90) of which 4 are misses (Table 3-4), and the Kiln queue 16 instructions (spec/06 R189). -/
def Says.Inv (s : State) : Prop :=
  Memory.wf s.mem = true ∧ risingFrom 0 s.regs = true ∧ s.mcq.length ≤ 32 ∧ s.sby.store.length ≤ 16 ∧
    ∀ t, (s.tile t).rstack.length ≤ 8 ∧ (s.tile t).window.length ≤ 8 ∧ (s.tile t).lrs.length ≤ 4 ∧
      (s.tile t).kiln.queue.length ≤ 16

/-- Every step from every state keeps the canonical forms and the bounds of the machine-check queue, the standby
store, and each tile's return stack, commit window, LRS and Kiln queue. -/
def Obligations.StepKeepsInv : Prop := ∀ s s' : State, Says.Inv s → step s = .next s' → Says.Inv s'

/-- The state after reset has the invariant, and the values that the spec gives for reset: every tile is held at Keystone level with
interrupts disabled and TCMP all ones (spec/02 Map 2-4, R55; spec/15 R460), HWJ is in INIT, MASON in its first state, every link OFF, every recorder IDLE, the
timebase 0 and not running (R468), and control registers have the Reset values of their maps. That banks hold no session and zeros
is the model's choice (log entry 2). -/
def Obligations.ResetValues : Prop :=
  let s := State.reset
  Says.Inv s ∧ s.pending = [] ∧
    (∀ t, (s.tile t).run = .held ∧ (s.tile t).lvl = .keystone ∧ (s.tile t).ie = false ∧ (s.tile t).ticket = false ∧
      (s.tile t).bank = 0 ∧ (s.tile t).tcmp = BitVec.ofNat 64 (2 ^ 64 - 1) ∧ (s.tile t).iens = 0 ∧
      (∀ b, ((s.tile t).banks.get b).sess = none ∧ ((s.tile t).banks.get b).p = 0 ∧
        ∀ r, ((s.tile t).banks.get b).g.get r = 0)) ∧
    Says.hwj s = 0 ∧ s.fld (ctl 0x90 0x100) 2 0 = 0 ∧ (∀ k, Says.link s k = 0) ∧ (∀ c, Says.recState s c = 0) ∧
    s.clk.tb = 0 ∧ s.clk.seeded = false ∧ s.placeSet = false ∧
    s.reg (ctl 0x90 0x128) = 0xC8 ∧ s.reg (ctl 0x90 0x138) = 0x64 ∧ s.reg (ctl 0x91 0x130) = 0x640032 ∧
    (∀ k, s.reg (Says.mort k 0x108) = 0x8000000000003F10 ∧ s.reg (Says.mort k 0x110) = 0x142) ∧
    (∀ c, s.reg (Says.rings c 0x108) = 0x6000000000000000) ∧ s.reg (ctl 0xEB 0x108) = 0x364 ∧
    (∀ p, s.reg (Says.pcie p 0x108) = 0xF)
end

