-- ==== Sys2Proof/Laws/State.lean ====
section
/-! SUPPORT. One lemma per field per update of the state, of a tile and of a bank. -/

namespace Sys2Proof.Machine

@[simp] theorem State.setTile_pending (s : State) (t : TileId) (x : Tile) : (s.setTile t x).pending = s.pending := rfl
@[simp] theorem State.setTile_freeCtr (s : State) (t : TileId) (x : Tile) : (s.setTile t x).freeCtr = s.freeCtr := rfl
@[simp] theorem State.setTile_courses (s : State) (t : TileId) (x : Tile) : (s.setTile t x).courses = s.courses := rfl
@[simp] theorem State.setTile_mem (s : State) (t : TileId) (x : Tile) : (s.setTile t x).mem = s.mem := rfl
@[simp] theorem State.setTile_poison (s : State) (t : TileId) (x : Tile) : (s.setTile t x).poison = s.poison := rfl
@[simp] theorem State.setTile_regs (s : State) (t : TileId) (x : Tile) : (s.setTile t x).regs = s.regs := rfl
@[simp] theorem State.setTile_posted (s : State) (t : TileId) (x : Tile) : (s.setTile t x).posted = s.posted := rfl
@[simp] theorem State.setTile_stopped (s : State) (t : TileId) (x : Tile) : (s.setTile t x).stopped = s.stopped := rfl
@[simp] theorem State.setTile_capturing (s : State) (t : TileId) (x : Tile) : (s.setTile t x).capturing = s.capturing := rfl
@[simp] theorem State.setTile_holdWait (s : State) (t : TileId) (x : Tile) : (s.setTile t x).holdWait = s.holdWait := rfl
@[simp] theorem State.setTile_calShadow (s : State) (t : TileId) (x : Tile) : (s.setTile t x).calShadow = s.calShadow := rfl
@[simp] theorem State.setTile_mcq (s : State) (t : TileId) (x : Tile) : (s.setTile t x).mcq = s.mcq := rfl
@[simp] theorem State.setTile_reply (s : State) (t : TileId) (x : Tile) : (s.setTile t x).reply = s.reply := rfl
@[simp] theorem State.setTile_replyEp (s : State) (t : TileId) (x : Tile) : (s.setTile t x).replyEp = s.replyEp := rfl
@[simp] theorem State.setTile_mason (s : State) (t : TileId) (x : Tile) : (s.setTile t x).mason = s.mason := rfl
@[simp] theorem State.setTile_hwj (s : State) (t : TileId) (x : Tile) : (s.setTile t x).hwj = s.hwj := rfl
@[simp] theorem State.setTile_links (s : State) (t : TileId) (x : Tile) : (s.setTile t x).links = s.links := rfl
@[simp] theorem State.setTile_e2e (s : State) (t : TileId) (x : Tile) : (s.setTile t x).e2e = s.e2e := rfl
@[simp] theorem State.setTile_loopq (s : State) (t : TileId) (x : Tile) : (s.setTile t x).loopq = s.loopq := rfl
@[simp] theorem State.setTile_clk (s : State) (t : TileId) (x : Tile) : (s.setTile t x).clk = s.clk := rfl
@[simp] theorem State.setTile_sby (s : State) (t : TileId) (x : Tile) : (s.setTile t x).sby = s.sby := rfl
@[simp] theorem State.setTile_fuses (s : State) (t : TileId) (x : Tile) : (s.setTile t x).fuses = s.fuses := rfl
@[simp] theorem State.setTile_tap (s : State) (t : TileId) (x : Tile) : (s.setTile t x).tap = s.tap := rfl
@[simp] theorem State.setTile_boot (s : State) (t : TileId) (x : Tile) : (s.setTile t x).boot = s.boot := rfl
@[simp] theorem State.setTile_dmaKeys (s : State) (t : TileId) (x : Tile) : (s.setTile t x).dmaKeys = s.dmaKeys := rfl
@[simp] theorem State.setTile_aer (s : State) (t : TileId) (x : Tile) : (s.setTile t x).aer = s.aer := rfl
@[simp] theorem State.setTile_pcieDown (s : State) (t : TileId) (x : Tile) : (s.setTile t x).pcieDown = s.pcieDown := rfl

@[simp] theorem State.modTile_pending (s : State) (t : TileId) (f : Tile → Tile) : (s.modTile t f).pending = s.pending := rfl
@[simp] theorem State.modTile_freeCtr (s : State) (t : TileId) (f : Tile → Tile) : (s.modTile t f).freeCtr = s.freeCtr := rfl
@[simp] theorem State.modTile_courses (s : State) (t : TileId) (f : Tile → Tile) : (s.modTile t f).courses = s.courses := rfl
@[simp] theorem State.modTile_mem (s : State) (t : TileId) (f : Tile → Tile) : (s.modTile t f).mem = s.mem := rfl
@[simp] theorem State.modTile_poison (s : State) (t : TileId) (f : Tile → Tile) : (s.modTile t f).poison = s.poison := rfl
@[simp] theorem State.modTile_regs (s : State) (t : TileId) (f : Tile → Tile) : (s.modTile t f).regs = s.regs := rfl
@[simp] theorem State.modTile_posted (s : State) (t : TileId) (f : Tile → Tile) : (s.modTile t f).posted = s.posted := rfl
@[simp] theorem State.modTile_stopped (s : State) (t : TileId) (f : Tile → Tile) : (s.modTile t f).stopped = s.stopped := rfl
@[simp] theorem State.modTile_capturing (s : State) (t : TileId) (f : Tile → Tile) : (s.modTile t f).capturing = s.capturing := rfl
@[simp] theorem State.modTile_holdWait (s : State) (t : TileId) (f : Tile → Tile) : (s.modTile t f).holdWait = s.holdWait := rfl
@[simp] theorem State.modTile_calShadow (s : State) (t : TileId) (f : Tile → Tile) : (s.modTile t f).calShadow = s.calShadow := rfl
@[simp] theorem State.modTile_mcq (s : State) (t : TileId) (f : Tile → Tile) : (s.modTile t f).mcq = s.mcq := rfl
@[simp] theorem State.modTile_reply (s : State) (t : TileId) (f : Tile → Tile) : (s.modTile t f).reply = s.reply := rfl
@[simp] theorem State.modTile_replyEp (s : State) (t : TileId) (f : Tile → Tile) : (s.modTile t f).replyEp = s.replyEp := rfl
@[simp] theorem State.modTile_mason (s : State) (t : TileId) (f : Tile → Tile) : (s.modTile t f).mason = s.mason := rfl
@[simp] theorem State.modTile_hwj (s : State) (t : TileId) (f : Tile → Tile) : (s.modTile t f).hwj = s.hwj := rfl
@[simp] theorem State.modTile_links (s : State) (t : TileId) (f : Tile → Tile) : (s.modTile t f).links = s.links := rfl
@[simp] theorem State.modTile_e2e (s : State) (t : TileId) (f : Tile → Tile) : (s.modTile t f).e2e = s.e2e := rfl
@[simp] theorem State.modTile_loopq (s : State) (t : TileId) (f : Tile → Tile) : (s.modTile t f).loopq = s.loopq := rfl
@[simp] theorem State.modTile_clk (s : State) (t : TileId) (f : Tile → Tile) : (s.modTile t f).clk = s.clk := rfl
@[simp] theorem State.modTile_sby (s : State) (t : TileId) (f : Tile → Tile) : (s.modTile t f).sby = s.sby := rfl
@[simp] theorem State.modTile_fuses (s : State) (t : TileId) (f : Tile → Tile) : (s.modTile t f).fuses = s.fuses := rfl
@[simp] theorem State.modTile_tap (s : State) (t : TileId) (f : Tile → Tile) : (s.modTile t f).tap = s.tap := rfl
@[simp] theorem State.modTile_boot (s : State) (t : TileId) (f : Tile → Tile) : (s.modTile t f).boot = s.boot := rfl
@[simp] theorem State.modTile_dmaKeys (s : State) (t : TileId) (f : Tile → Tile) : (s.modTile t f).dmaKeys = s.dmaKeys := rfl
@[simp] theorem State.modTile_aer (s : State) (t : TileId) (f : Tile → Tile) : (s.modTile t f).aer = s.aer := rfl
@[simp] theorem State.modTile_pcieDown (s : State) (t : TileId) (f : Tile → Tile) : (s.modTile t f).pcieDown = s.pcieDown := rfl

@[simp] theorem State.setReg_pending (s : State) (a : Nat) (v : Word) : (s.setReg a v).pending = s.pending := rfl
@[simp] theorem State.setReg_freeCtr (s : State) (a : Nat) (v : Word) : (s.setReg a v).freeCtr = s.freeCtr := rfl
@[simp] theorem State.setReg_tiles (s : State) (a : Nat) (v : Word) : (s.setReg a v).tiles = s.tiles := rfl
@[simp] theorem State.setReg_courses (s : State) (a : Nat) (v : Word) : (s.setReg a v).courses = s.courses := rfl
@[simp] theorem State.setReg_mem (s : State) (a : Nat) (v : Word) : (s.setReg a v).mem = s.mem := rfl
@[simp] theorem State.setReg_poison (s : State) (a : Nat) (v : Word) : (s.setReg a v).poison = s.poison := rfl
@[simp] theorem State.setReg_posted (s : State) (a : Nat) (v : Word) : (s.setReg a v).posted = s.posted := rfl
@[simp] theorem State.setReg_stopped (s : State) (a : Nat) (v : Word) : (s.setReg a v).stopped = s.stopped := rfl
@[simp] theorem State.setReg_capturing (s : State) (a : Nat) (v : Word) : (s.setReg a v).capturing = s.capturing := rfl
@[simp] theorem State.setReg_holdWait (s : State) (a : Nat) (v : Word) : (s.setReg a v).holdWait = s.holdWait := rfl
@[simp] theorem State.setReg_calShadow (s : State) (a : Nat) (v : Word) : (s.setReg a v).calShadow = s.calShadow := rfl
@[simp] theorem State.setReg_mcq (s : State) (a : Nat) (v : Word) : (s.setReg a v).mcq = s.mcq := rfl
@[simp] theorem State.setReg_reply (s : State) (a : Nat) (v : Word) : (s.setReg a v).reply = s.reply := rfl
@[simp] theorem State.setReg_replyEp (s : State) (a : Nat) (v : Word) : (s.setReg a v).replyEp = s.replyEp := rfl
@[simp] theorem State.setReg_mason (s : State) (a : Nat) (v : Word) : (s.setReg a v).mason = s.mason := rfl
@[simp] theorem State.setReg_hwj (s : State) (a : Nat) (v : Word) : (s.setReg a v).hwj = s.hwj := rfl
@[simp] theorem State.setReg_links (s : State) (a : Nat) (v : Word) : (s.setReg a v).links = s.links := rfl
@[simp] theorem State.setReg_e2e (s : State) (a : Nat) (v : Word) : (s.setReg a v).e2e = s.e2e := rfl
@[simp] theorem State.setReg_loopq (s : State) (a : Nat) (v : Word) : (s.setReg a v).loopq = s.loopq := rfl
@[simp] theorem State.setReg_clk (s : State) (a : Nat) (v : Word) : (s.setReg a v).clk = s.clk := rfl
@[simp] theorem State.setReg_sby (s : State) (a : Nat) (v : Word) : (s.setReg a v).sby = s.sby := rfl
@[simp] theorem State.setReg_fuses (s : State) (a : Nat) (v : Word) : (s.setReg a v).fuses = s.fuses := rfl
@[simp] theorem State.setReg_tap (s : State) (a : Nat) (v : Word) : (s.setReg a v).tap = s.tap := rfl
@[simp] theorem State.setReg_boot (s : State) (a : Nat) (v : Word) : (s.setReg a v).boot = s.boot := rfl
@[simp] theorem State.setReg_dmaKeys (s : State) (a : Nat) (v : Word) : (s.setReg a v).dmaKeys = s.dmaKeys := rfl
@[simp] theorem State.setReg_aer (s : State) (a : Nat) (v : Word) : (s.setReg a v).aer = s.aer := rfl
@[simp] theorem State.setReg_pcieDown (s : State) (a : Nat) (v : Word) : (s.setReg a v).pcieDown = s.pcieDown := rfl

@[simp] theorem State.setFld_pending (s : State) (a hi lo v : Nat) : (s.setFld a hi lo v).pending = s.pending := rfl
@[simp] theorem State.setFld_freeCtr (s : State) (a hi lo v : Nat) : (s.setFld a hi lo v).freeCtr = s.freeCtr := rfl
@[simp] theorem State.setFld_tiles (s : State) (a hi lo v : Nat) : (s.setFld a hi lo v).tiles = s.tiles := rfl
@[simp] theorem State.setFld_courses (s : State) (a hi lo v : Nat) : (s.setFld a hi lo v).courses = s.courses := rfl
@[simp] theorem State.setFld_mem (s : State) (a hi lo v : Nat) : (s.setFld a hi lo v).mem = s.mem := rfl
@[simp] theorem State.setFld_poison (s : State) (a hi lo v : Nat) : (s.setFld a hi lo v).poison = s.poison := rfl
@[simp] theorem State.setFld_posted (s : State) (a hi lo v : Nat) : (s.setFld a hi lo v).posted = s.posted := rfl
@[simp] theorem State.setFld_stopped (s : State) (a hi lo v : Nat) : (s.setFld a hi lo v).stopped = s.stopped := rfl
@[simp] theorem State.setFld_capturing (s : State) (a hi lo v : Nat) : (s.setFld a hi lo v).capturing = s.capturing := rfl
@[simp] theorem State.setFld_holdWait (s : State) (a hi lo v : Nat) : (s.setFld a hi lo v).holdWait = s.holdWait := rfl
@[simp] theorem State.setFld_calShadow (s : State) (a hi lo v : Nat) : (s.setFld a hi lo v).calShadow = s.calShadow := rfl
@[simp] theorem State.setFld_mcq (s : State) (a hi lo v : Nat) : (s.setFld a hi lo v).mcq = s.mcq := rfl
@[simp] theorem State.setFld_reply (s : State) (a hi lo v : Nat) : (s.setFld a hi lo v).reply = s.reply := rfl
@[simp] theorem State.setFld_replyEp (s : State) (a hi lo v : Nat) : (s.setFld a hi lo v).replyEp = s.replyEp := rfl
@[simp] theorem State.setFld_mason (s : State) (a hi lo v : Nat) : (s.setFld a hi lo v).mason = s.mason := rfl
@[simp] theorem State.setFld_hwj (s : State) (a hi lo v : Nat) : (s.setFld a hi lo v).hwj = s.hwj := rfl
@[simp] theorem State.setFld_links (s : State) (a hi lo v : Nat) : (s.setFld a hi lo v).links = s.links := rfl
@[simp] theorem State.setFld_e2e (s : State) (a hi lo v : Nat) : (s.setFld a hi lo v).e2e = s.e2e := rfl
@[simp] theorem State.setFld_loopq (s : State) (a hi lo v : Nat) : (s.setFld a hi lo v).loopq = s.loopq := rfl
@[simp] theorem State.setFld_clk (s : State) (a hi lo v : Nat) : (s.setFld a hi lo v).clk = s.clk := rfl
@[simp] theorem State.setFld_sby (s : State) (a hi lo v : Nat) : (s.setFld a hi lo v).sby = s.sby := rfl
@[simp] theorem State.setFld_fuses (s : State) (a hi lo v : Nat) : (s.setFld a hi lo v).fuses = s.fuses := rfl
@[simp] theorem State.setFld_tap (s : State) (a hi lo v : Nat) : (s.setFld a hi lo v).tap = s.tap := rfl
@[simp] theorem State.setFld_boot (s : State) (a hi lo v : Nat) : (s.setFld a hi lo v).boot = s.boot := rfl
@[simp] theorem State.setFld_dmaKeys (s : State) (a hi lo v : Nat) : (s.setFld a hi lo v).dmaKeys = s.dmaKeys := rfl
@[simp] theorem State.setFld_aer (s : State) (a hi lo v : Nat) : (s.setFld a hi lo v).aer = s.aer := rfl
@[simp] theorem State.setFld_pcieDown (s : State) (a hi lo v : Nat) : (s.setFld a hi lo v).pcieDown = s.pcieDown := rfl

@[simp] theorem State.setByte_pending (s : State) (a : Nat) (b : Byte) : (s.setByte a b).pending = s.pending := rfl
@[simp] theorem State.setByte_freeCtr (s : State) (a : Nat) (b : Byte) : (s.setByte a b).freeCtr = s.freeCtr := rfl
@[simp] theorem State.setByte_tiles (s : State) (a : Nat) (b : Byte) : (s.setByte a b).tiles = s.tiles := rfl
@[simp] theorem State.setByte_courses (s : State) (a : Nat) (b : Byte) : (s.setByte a b).courses = s.courses := rfl
@[simp] theorem State.setByte_poison (s : State) (a : Nat) (b : Byte) : (s.setByte a b).poison = s.poison := rfl
@[simp] theorem State.setByte_regs (s : State) (a : Nat) (b : Byte) : (s.setByte a b).regs = s.regs := rfl
@[simp] theorem State.setByte_posted (s : State) (a : Nat) (b : Byte) : (s.setByte a b).posted = s.posted := rfl
@[simp] theorem State.setByte_stopped (s : State) (a : Nat) (b : Byte) : (s.setByte a b).stopped = s.stopped := rfl
@[simp] theorem State.setByte_capturing (s : State) (a : Nat) (b : Byte) : (s.setByte a b).capturing = s.capturing := rfl
@[simp] theorem State.setByte_holdWait (s : State) (a : Nat) (b : Byte) : (s.setByte a b).holdWait = s.holdWait := rfl
@[simp] theorem State.setByte_calShadow (s : State) (a : Nat) (b : Byte) : (s.setByte a b).calShadow = s.calShadow := rfl
@[simp] theorem State.setByte_mcq (s : State) (a : Nat) (b : Byte) : (s.setByte a b).mcq = s.mcq := rfl
@[simp] theorem State.setByte_reply (s : State) (a : Nat) (b : Byte) : (s.setByte a b).reply = s.reply := rfl
@[simp] theorem State.setByte_replyEp (s : State) (a : Nat) (b : Byte) : (s.setByte a b).replyEp = s.replyEp := rfl
@[simp] theorem State.setByte_mason (s : State) (a : Nat) (b : Byte) : (s.setByte a b).mason = s.mason := rfl
@[simp] theorem State.setByte_hwj (s : State) (a : Nat) (b : Byte) : (s.setByte a b).hwj = s.hwj := rfl
@[simp] theorem State.setByte_links (s : State) (a : Nat) (b : Byte) : (s.setByte a b).links = s.links := rfl
@[simp] theorem State.setByte_e2e (s : State) (a : Nat) (b : Byte) : (s.setByte a b).e2e = s.e2e := rfl
@[simp] theorem State.setByte_loopq (s : State) (a : Nat) (b : Byte) : (s.setByte a b).loopq = s.loopq := rfl
@[simp] theorem State.setByte_clk (s : State) (a : Nat) (b : Byte) : (s.setByte a b).clk = s.clk := rfl
@[simp] theorem State.setByte_sby (s : State) (a : Nat) (b : Byte) : (s.setByte a b).sby = s.sby := rfl
@[simp] theorem State.setByte_fuses (s : State) (a : Nat) (b : Byte) : (s.setByte a b).fuses = s.fuses := rfl
@[simp] theorem State.setByte_tap (s : State) (a : Nat) (b : Byte) : (s.setByte a b).tap = s.tap := rfl
@[simp] theorem State.setByte_boot (s : State) (a : Nat) (b : Byte) : (s.setByte a b).boot = s.boot := rfl
@[simp] theorem State.setByte_dmaKeys (s : State) (a : Nat) (b : Byte) : (s.setByte a b).dmaKeys = s.dmaKeys := rfl
@[simp] theorem State.setByte_aer (s : State) (a : Nat) (b : Byte) : (s.setByte a b).aer = s.aer := rfl
@[simp] theorem State.setByte_pcieDown (s : State) (a : Nat) (b : Byte) : (s.setByte a b).pcieDown = s.pcieDown := rfl

@[simp] theorem State.modCourse_pending (s : State) (c : CourseId) (f : Course → Course) : (s.modCourse c f).pending = s.pending := rfl
@[simp] theorem State.modCourse_freeCtr (s : State) (c : CourseId) (f : Course → Course) : (s.modCourse c f).freeCtr = s.freeCtr := rfl
@[simp] theorem State.modCourse_tiles (s : State) (c : CourseId) (f : Course → Course) : (s.modCourse c f).tiles = s.tiles := rfl
@[simp] theorem State.modCourse_mem (s : State) (c : CourseId) (f : Course → Course) : (s.modCourse c f).mem = s.mem := rfl
@[simp] theorem State.modCourse_poison (s : State) (c : CourseId) (f : Course → Course) : (s.modCourse c f).poison = s.poison := rfl
@[simp] theorem State.modCourse_regs (s : State) (c : CourseId) (f : Course → Course) : (s.modCourse c f).regs = s.regs := rfl
@[simp] theorem State.modCourse_posted (s : State) (c : CourseId) (f : Course → Course) : (s.modCourse c f).posted = s.posted := rfl
@[simp] theorem State.modCourse_stopped (s : State) (c : CourseId) (f : Course → Course) : (s.modCourse c f).stopped = s.stopped := rfl
@[simp] theorem State.modCourse_capturing (s : State) (c : CourseId) (f : Course → Course) : (s.modCourse c f).capturing = s.capturing := rfl
@[simp] theorem State.modCourse_holdWait (s : State) (c : CourseId) (f : Course → Course) : (s.modCourse c f).holdWait = s.holdWait := rfl
@[simp] theorem State.modCourse_calShadow (s : State) (c : CourseId) (f : Course → Course) : (s.modCourse c f).calShadow = s.calShadow := rfl
@[simp] theorem State.modCourse_mcq (s : State) (c : CourseId) (f : Course → Course) : (s.modCourse c f).mcq = s.mcq := rfl
@[simp] theorem State.modCourse_reply (s : State) (c : CourseId) (f : Course → Course) : (s.modCourse c f).reply = s.reply := rfl
@[simp] theorem State.modCourse_replyEp (s : State) (c : CourseId) (f : Course → Course) : (s.modCourse c f).replyEp = s.replyEp := rfl
@[simp] theorem State.modCourse_mason (s : State) (c : CourseId) (f : Course → Course) : (s.modCourse c f).mason = s.mason := rfl
@[simp] theorem State.modCourse_hwj (s : State) (c : CourseId) (f : Course → Course) : (s.modCourse c f).hwj = s.hwj := rfl
@[simp] theorem State.modCourse_links (s : State) (c : CourseId) (f : Course → Course) : (s.modCourse c f).links = s.links := rfl
@[simp] theorem State.modCourse_e2e (s : State) (c : CourseId) (f : Course → Course) : (s.modCourse c f).e2e = s.e2e := rfl
@[simp] theorem State.modCourse_loopq (s : State) (c : CourseId) (f : Course → Course) : (s.modCourse c f).loopq = s.loopq := rfl
@[simp] theorem State.modCourse_clk (s : State) (c : CourseId) (f : Course → Course) : (s.modCourse c f).clk = s.clk := rfl
@[simp] theorem State.modCourse_sby (s : State) (c : CourseId) (f : Course → Course) : (s.modCourse c f).sby = s.sby := rfl
@[simp] theorem State.modCourse_fuses (s : State) (c : CourseId) (f : Course → Course) : (s.modCourse c f).fuses = s.fuses := rfl
@[simp] theorem State.modCourse_tap (s : State) (c : CourseId) (f : Course → Course) : (s.modCourse c f).tap = s.tap := rfl
@[simp] theorem State.modCourse_boot (s : State) (c : CourseId) (f : Course → Course) : (s.modCourse c f).boot = s.boot := rfl
@[simp] theorem State.modCourse_dmaKeys (s : State) (c : CourseId) (f : Course → Course) : (s.modCourse c f).dmaKeys = s.dmaKeys := rfl
@[simp] theorem State.modCourse_aer (s : State) (c : CourseId) (f : Course → Course) : (s.modCourse c f).aer = s.aer := rfl
@[simp] theorem State.modCourse_pcieDown (s : State) (c : CourseId) (f : Course → Course) : (s.modCourse c f).pcieDown = s.pcieDown := rfl

@[simp] theorem State.modLink_pending (s : State) (k : LinkId) (f : Link → Link) : (s.modLink k f).pending = s.pending := rfl
@[simp] theorem State.modLink_freeCtr (s : State) (k : LinkId) (f : Link → Link) : (s.modLink k f).freeCtr = s.freeCtr := rfl
@[simp] theorem State.modLink_tiles (s : State) (k : LinkId) (f : Link → Link) : (s.modLink k f).tiles = s.tiles := rfl
@[simp] theorem State.modLink_courses (s : State) (k : LinkId) (f : Link → Link) : (s.modLink k f).courses = s.courses := rfl
@[simp] theorem State.modLink_mem (s : State) (k : LinkId) (f : Link → Link) : (s.modLink k f).mem = s.mem := rfl
@[simp] theorem State.modLink_poison (s : State) (k : LinkId) (f : Link → Link) : (s.modLink k f).poison = s.poison := rfl
@[simp] theorem State.modLink_regs (s : State) (k : LinkId) (f : Link → Link) : (s.modLink k f).regs = s.regs := rfl
@[simp] theorem State.modLink_posted (s : State) (k : LinkId) (f : Link → Link) : (s.modLink k f).posted = s.posted := rfl
@[simp] theorem State.modLink_stopped (s : State) (k : LinkId) (f : Link → Link) : (s.modLink k f).stopped = s.stopped := rfl
@[simp] theorem State.modLink_capturing (s : State) (k : LinkId) (f : Link → Link) : (s.modLink k f).capturing = s.capturing := rfl
@[simp] theorem State.modLink_holdWait (s : State) (k : LinkId) (f : Link → Link) : (s.modLink k f).holdWait = s.holdWait := rfl
@[simp] theorem State.modLink_calShadow (s : State) (k : LinkId) (f : Link → Link) : (s.modLink k f).calShadow = s.calShadow := rfl
@[simp] theorem State.modLink_mcq (s : State) (k : LinkId) (f : Link → Link) : (s.modLink k f).mcq = s.mcq := rfl
@[simp] theorem State.modLink_reply (s : State) (k : LinkId) (f : Link → Link) : (s.modLink k f).reply = s.reply := rfl
@[simp] theorem State.modLink_replyEp (s : State) (k : LinkId) (f : Link → Link) : (s.modLink k f).replyEp = s.replyEp := rfl
@[simp] theorem State.modLink_mason (s : State) (k : LinkId) (f : Link → Link) : (s.modLink k f).mason = s.mason := rfl
@[simp] theorem State.modLink_hwj (s : State) (k : LinkId) (f : Link → Link) : (s.modLink k f).hwj = s.hwj := rfl
@[simp] theorem State.modLink_e2e (s : State) (k : LinkId) (f : Link → Link) : (s.modLink k f).e2e = s.e2e := rfl
@[simp] theorem State.modLink_loopq (s : State) (k : LinkId) (f : Link → Link) : (s.modLink k f).loopq = s.loopq := rfl
@[simp] theorem State.modLink_clk (s : State) (k : LinkId) (f : Link → Link) : (s.modLink k f).clk = s.clk := rfl
@[simp] theorem State.modLink_sby (s : State) (k : LinkId) (f : Link → Link) : (s.modLink k f).sby = s.sby := rfl
@[simp] theorem State.modLink_fuses (s : State) (k : LinkId) (f : Link → Link) : (s.modLink k f).fuses = s.fuses := rfl
@[simp] theorem State.modLink_tap (s : State) (k : LinkId) (f : Link → Link) : (s.modLink k f).tap = s.tap := rfl
@[simp] theorem State.modLink_boot (s : State) (k : LinkId) (f : Link → Link) : (s.modLink k f).boot = s.boot := rfl
@[simp] theorem State.modLink_dmaKeys (s : State) (k : LinkId) (f : Link → Link) : (s.modLink k f).dmaKeys = s.dmaKeys := rfl
@[simp] theorem State.modLink_aer (s : State) (k : LinkId) (f : Link → Link) : (s.modLink k f).aer = s.aer := rfl
@[simp] theorem State.modLink_pcieDown (s : State) (k : LinkId) (f : Link → Link) : (s.modLink k f).pcieDown = s.pcieDown := rfl

@[simp] theorem State.modMason_pending (s : State) (f : Mason → Mason) : (s.modMason f).pending = s.pending := rfl
@[simp] theorem State.modMason_freeCtr (s : State) (f : Mason → Mason) : (s.modMason f).freeCtr = s.freeCtr := rfl
@[simp] theorem State.modMason_tiles (s : State) (f : Mason → Mason) : (s.modMason f).tiles = s.tiles := rfl
@[simp] theorem State.modMason_courses (s : State) (f : Mason → Mason) : (s.modMason f).courses = s.courses := rfl
@[simp] theorem State.modMason_mem (s : State) (f : Mason → Mason) : (s.modMason f).mem = s.mem := rfl
@[simp] theorem State.modMason_poison (s : State) (f : Mason → Mason) : (s.modMason f).poison = s.poison := rfl
@[simp] theorem State.modMason_regs (s : State) (f : Mason → Mason) : (s.modMason f).regs = s.regs := rfl
@[simp] theorem State.modMason_posted (s : State) (f : Mason → Mason) : (s.modMason f).posted = s.posted := rfl
@[simp] theorem State.modMason_stopped (s : State) (f : Mason → Mason) : (s.modMason f).stopped = s.stopped := rfl
@[simp] theorem State.modMason_capturing (s : State) (f : Mason → Mason) : (s.modMason f).capturing = s.capturing := rfl
@[simp] theorem State.modMason_holdWait (s : State) (f : Mason → Mason) : (s.modMason f).holdWait = s.holdWait := rfl
@[simp] theorem State.modMason_calShadow (s : State) (f : Mason → Mason) : (s.modMason f).calShadow = s.calShadow := rfl
@[simp] theorem State.modMason_mcq (s : State) (f : Mason → Mason) : (s.modMason f).mcq = s.mcq := rfl
@[simp] theorem State.modMason_reply (s : State) (f : Mason → Mason) : (s.modMason f).reply = s.reply := rfl
@[simp] theorem State.modMason_replyEp (s : State) (f : Mason → Mason) : (s.modMason f).replyEp = s.replyEp := rfl
@[simp] theorem State.modMason_hwj (s : State) (f : Mason → Mason) : (s.modMason f).hwj = s.hwj := rfl
@[simp] theorem State.modMason_links (s : State) (f : Mason → Mason) : (s.modMason f).links = s.links := rfl
@[simp] theorem State.modMason_e2e (s : State) (f : Mason → Mason) : (s.modMason f).e2e = s.e2e := rfl
@[simp] theorem State.modMason_loopq (s : State) (f : Mason → Mason) : (s.modMason f).loopq = s.loopq := rfl
@[simp] theorem State.modMason_clk (s : State) (f : Mason → Mason) : (s.modMason f).clk = s.clk := rfl
@[simp] theorem State.modMason_sby (s : State) (f : Mason → Mason) : (s.modMason f).sby = s.sby := rfl
@[simp] theorem State.modMason_fuses (s : State) (f : Mason → Mason) : (s.modMason f).fuses = s.fuses := rfl
@[simp] theorem State.modMason_tap (s : State) (f : Mason → Mason) : (s.modMason f).tap = s.tap := rfl
@[simp] theorem State.modMason_boot (s : State) (f : Mason → Mason) : (s.modMason f).boot = s.boot := rfl
@[simp] theorem State.modMason_dmaKeys (s : State) (f : Mason → Mason) : (s.modMason f).dmaKeys = s.dmaKeys := rfl
@[simp] theorem State.modMason_aer (s : State) (f : Mason → Mason) : (s.modMason f).aer = s.aer := rfl
@[simp] theorem State.modMason_pcieDown (s : State) (f : Mason → Mason) : (s.modMason f).pcieDown = s.pcieDown := rfl

@[simp] theorem State.modHwj_pending (s : State) (f : Hwj → Hwj) : (s.modHwj f).pending = s.pending := rfl
@[simp] theorem State.modHwj_freeCtr (s : State) (f : Hwj → Hwj) : (s.modHwj f).freeCtr = s.freeCtr := rfl
@[simp] theorem State.modHwj_tiles (s : State) (f : Hwj → Hwj) : (s.modHwj f).tiles = s.tiles := rfl
@[simp] theorem State.modHwj_courses (s : State) (f : Hwj → Hwj) : (s.modHwj f).courses = s.courses := rfl
@[simp] theorem State.modHwj_mem (s : State) (f : Hwj → Hwj) : (s.modHwj f).mem = s.mem := rfl
@[simp] theorem State.modHwj_poison (s : State) (f : Hwj → Hwj) : (s.modHwj f).poison = s.poison := rfl
@[simp] theorem State.modHwj_regs (s : State) (f : Hwj → Hwj) : (s.modHwj f).regs = s.regs := rfl
@[simp] theorem State.modHwj_posted (s : State) (f : Hwj → Hwj) : (s.modHwj f).posted = s.posted := rfl
@[simp] theorem State.modHwj_stopped (s : State) (f : Hwj → Hwj) : (s.modHwj f).stopped = s.stopped := rfl
@[simp] theorem State.modHwj_capturing (s : State) (f : Hwj → Hwj) : (s.modHwj f).capturing = s.capturing := rfl
@[simp] theorem State.modHwj_holdWait (s : State) (f : Hwj → Hwj) : (s.modHwj f).holdWait = s.holdWait := rfl
@[simp] theorem State.modHwj_calShadow (s : State) (f : Hwj → Hwj) : (s.modHwj f).calShadow = s.calShadow := rfl
@[simp] theorem State.modHwj_mcq (s : State) (f : Hwj → Hwj) : (s.modHwj f).mcq = s.mcq := rfl
@[simp] theorem State.modHwj_reply (s : State) (f : Hwj → Hwj) : (s.modHwj f).reply = s.reply := rfl
@[simp] theorem State.modHwj_replyEp (s : State) (f : Hwj → Hwj) : (s.modHwj f).replyEp = s.replyEp := rfl
@[simp] theorem State.modHwj_mason (s : State) (f : Hwj → Hwj) : (s.modHwj f).mason = s.mason := rfl
@[simp] theorem State.modHwj_links (s : State) (f : Hwj → Hwj) : (s.modHwj f).links = s.links := rfl
@[simp] theorem State.modHwj_e2e (s : State) (f : Hwj → Hwj) : (s.modHwj f).e2e = s.e2e := rfl
@[simp] theorem State.modHwj_loopq (s : State) (f : Hwj → Hwj) : (s.modHwj f).loopq = s.loopq := rfl
@[simp] theorem State.modHwj_clk (s : State) (f : Hwj → Hwj) : (s.modHwj f).clk = s.clk := rfl
@[simp] theorem State.modHwj_sby (s : State) (f : Hwj → Hwj) : (s.modHwj f).sby = s.sby := rfl
@[simp] theorem State.modHwj_fuses (s : State) (f : Hwj → Hwj) : (s.modHwj f).fuses = s.fuses := rfl
@[simp] theorem State.modHwj_tap (s : State) (f : Hwj → Hwj) : (s.modHwj f).tap = s.tap := rfl
@[simp] theorem State.modHwj_boot (s : State) (f : Hwj → Hwj) : (s.modHwj f).boot = s.boot := rfl
@[simp] theorem State.modHwj_dmaKeys (s : State) (f : Hwj → Hwj) : (s.modHwj f).dmaKeys = s.dmaKeys := rfl
@[simp] theorem State.modHwj_aer (s : State) (f : Hwj → Hwj) : (s.modHwj f).aer = s.aer := rfl
@[simp] theorem State.modHwj_pcieDown (s : State) (f : Hwj → Hwj) : (s.modHwj f).pcieDown = s.pcieDown := rfl

@[simp] theorem State.drew_pending (s : State) : (s.drew).pending = s.pending := rfl
@[simp] theorem State.drew_tiles (s : State) : (s.drew).tiles = s.tiles := rfl
@[simp] theorem State.drew_courses (s : State) : (s.drew).courses = s.courses := rfl
@[simp] theorem State.drew_mem (s : State) : (s.drew).mem = s.mem := rfl
@[simp] theorem State.drew_poison (s : State) : (s.drew).poison = s.poison := rfl
@[simp] theorem State.drew_regs (s : State) : (s.drew).regs = s.regs := rfl
@[simp] theorem State.drew_posted (s : State) : (s.drew).posted = s.posted := rfl
@[simp] theorem State.drew_stopped (s : State) : (s.drew).stopped = s.stopped := rfl
@[simp] theorem State.drew_capturing (s : State) : (s.drew).capturing = s.capturing := rfl
@[simp] theorem State.drew_holdWait (s : State) : (s.drew).holdWait = s.holdWait := rfl
@[simp] theorem State.drew_calShadow (s : State) : (s.drew).calShadow = s.calShadow := rfl
@[simp] theorem State.drew_mcq (s : State) : (s.drew).mcq = s.mcq := rfl
@[simp] theorem State.drew_reply (s : State) : (s.drew).reply = s.reply := rfl
@[simp] theorem State.drew_replyEp (s : State) : (s.drew).replyEp = s.replyEp := rfl
@[simp] theorem State.drew_mason (s : State) : (s.drew).mason = s.mason := rfl
@[simp] theorem State.drew_hwj (s : State) : (s.drew).hwj = s.hwj := rfl
@[simp] theorem State.drew_links (s : State) : (s.drew).links = s.links := rfl
@[simp] theorem State.drew_e2e (s : State) : (s.drew).e2e = s.e2e := rfl
@[simp] theorem State.drew_loopq (s : State) : (s.drew).loopq = s.loopq := rfl
@[simp] theorem State.drew_clk (s : State) : (s.drew).clk = s.clk := rfl
@[simp] theorem State.drew_sby (s : State) : (s.drew).sby = s.sby := rfl
@[simp] theorem State.drew_fuses (s : State) : (s.drew).fuses = s.fuses := rfl
@[simp] theorem State.drew_tap (s : State) : (s.drew).tap = s.tap := rfl
@[simp] theorem State.drew_boot (s : State) : (s.drew).boot = s.boot := rfl
@[simp] theorem State.drew_dmaKeys (s : State) : (s.drew).dmaKeys = s.dmaKeys := rfl
@[simp] theorem State.drew_aer (s : State) : (s.drew).aer = s.aer := rfl
@[simp] theorem State.drew_pcieDown (s : State) : (s.drew).pcieDown = s.pcieDown := rfl

@[simp] theorem State.modMason_mason (s : State) (f : Mason → Mason) : (s.modMason f).mason = f s.mason := rfl
@[simp] theorem State.modHwj_hwj (s : State) (f : Hwj → Hwj) : (s.modHwj f).hwj = f s.hwj := rfl
@[simp] theorem State.drew_freeCtr (s : State) : s.drew.freeCtr = s.freeCtr + 1 := rfl

@[simp] theorem Tile.modBankAt_run (x : Tile) (b : Fin 16) (f : Bank → Bank) : (x.modBankAt b f).run = x.run := rfl
@[simp] theorem Tile.modBankAt_pc (x : Tile) (b : Fin 16) (f : Bank → Bank) : (x.modBankAt b f).pc = x.pc := rfl
@[simp] theorem Tile.modBankAt_lvl (x : Tile) (b : Fin 16) (f : Bank → Bank) : (x.modBankAt b f).lvl = x.lvl := rfl
@[simp] theorem Tile.modBankAt_ie (x : Tile) (b : Fin 16) (f : Bank → Bank) : (x.modBankAt b f).ie = x.ie := rfl
@[simp] theorem Tile.modBankAt_ticket (x : Tile) (b : Fin 16) (f : Bank → Bank) : (x.modBankAt b f).ticket = x.ticket := rfl
@[simp] theorem Tile.modBankAt_bank (x : Tile) (b : Fin 16) (f : Bank → Bank) : (x.modBankAt b f).bank = x.bank := rfl
@[simp] theorem Tile.modBankAt_bb (x : Tile) (b : Fin 16) (f : Bank → Bank) : (x.modBankAt b f).bb = x.bb := rfl
@[simp] theorem Tile.modBankAt_bwin (x : Tile) (b : Fin 16) (f : Bank → Bank) : (x.modBankAt b f).bwin = x.bwin := rfl
@[simp] theorem Tile.modBankAt_exS (x : Tile) (b : Fin 16) (f : Bank → Bank) : (x.modBankAt b f).exS = x.exS := rfl
@[simp] theorem Tile.modBankAt_exK (x : Tile) (b : Fin 16) (f : Bank → Bank) : (x.modBankAt b f).exK = x.exK := rfl
@[simp] theorem Tile.modBankAt_tcmp (x : Tile) (b : Fin 16) (f : Bank → Bank) : (x.modBankAt b f).tcmp = x.tcmp := rfl
@[simp] theorem Tile.modBankAt_iens (x : Tile) (b : Fin 16) (f : Bank → Bank) : (x.modBankAt b f).iens = x.iens := rfl
@[simp] theorem Tile.modBankAt_mcPend (x : Tile) (b : Fin 16) (f : Bank → Bank) : (x.modBankAt b f).mcPend = x.mcPend := rfl
@[simp] theorem Tile.modBankAt_efwin (x : Tile) (b : Fin 16) (f : Bank → Bank) : (x.modBankAt b f).efwin = x.efwin := rfl
@[simp] theorem Tile.modBankAt_ef (x : Tile) (b : Fin 16) (f : Bank → Bank) : (x.modBankAt b f).ef = x.ef := rfl
@[simp] theorem Tile.modBankAt_sbuf (x : Tile) (b : Fin 16) (f : Bank → Bank) : (x.modBankAt b f).sbuf = x.sbuf := rfl
@[simp] theorem Tile.modBankAt_window (x : Tile) (b : Fin 16) (f : Bank → Bank) : (x.modBankAt b f).window = x.window := rfl
@[simp] theorem Tile.modBankAt_units (x : Tile) (b : Fin 16) (f : Bank → Bank) : (x.modBankAt b f).units = x.units := rfl
@[simp] theorem Tile.modBankAt_long (x : Tile) (b : Fin 16) (f : Bank → Bank) : (x.modBankAt b f).long = x.long := rfl
@[simp] theorem Tile.modBankAt_itlb (x : Tile) (b : Fin 16) (f : Bank → Bank) : (x.modBankAt b f).itlb = x.itlb := rfl
@[simp] theorem Tile.modBankAt_dtlb (x : Tile) (b : Fin 16) (f : Bank → Bank) : (x.modBankAt b f).dtlb = x.dtlb := rfl
@[simp] theorem Tile.modBankAt_rstack (x : Tile) (b : Fin 16) (f : Bank → Bank) : (x.modBankAt b f).rstack = x.rstack := rfl
@[simp] theorem Tile.modBankAt_tk (x : Tile) (b : Fin 16) (f : Bank → Bank) : (x.modBankAt b f).tk = x.tk := rfl
@[simp] theorem Tile.modBankAt_icnt (x : Tile) (b : Fin 16) (f : Bank → Bank) : (x.modBankAt b f).icnt = x.icnt := rfl
@[simp] theorem Tile.modBankAt_tcc (x : Tile) (b : Fin 16) (f : Bank → Bank) : (x.modBankAt b f).tcc = x.tcc := rfl
@[simp] theorem Tile.modBankAt_kcnt (x : Tile) (b : Fin 16) (f : Bank → Bank) : (x.modBankAt b f).kcnt = x.kcnt := rfl
@[simp] theorem Tile.modBankAt_recWait (x : Tile) (b : Fin 16) (f : Bank → Bank) : (x.modBankAt b f).recWait = x.recWait := rfl
@[simp] theorem Tile.modBankAt_kiln (x : Tile) (b : Fin 16) (f : Bank → Bank) : (x.modBankAt b f).kiln = x.kiln := rfl

@[simp] theorem Tile.modBank_run (x : Tile) (f : Bank → Bank) : (x.modBank f).run = x.run := rfl
@[simp] theorem Tile.modBank_pc (x : Tile) (f : Bank → Bank) : (x.modBank f).pc = x.pc := rfl
@[simp] theorem Tile.modBank_lvl (x : Tile) (f : Bank → Bank) : (x.modBank f).lvl = x.lvl := rfl
@[simp] theorem Tile.modBank_ie (x : Tile) (f : Bank → Bank) : (x.modBank f).ie = x.ie := rfl
@[simp] theorem Tile.modBank_ticket (x : Tile) (f : Bank → Bank) : (x.modBank f).ticket = x.ticket := rfl
@[simp] theorem Tile.modBank_bank (x : Tile) (f : Bank → Bank) : (x.modBank f).bank = x.bank := rfl
@[simp] theorem Tile.modBank_bb (x : Tile) (f : Bank → Bank) : (x.modBank f).bb = x.bb := rfl
@[simp] theorem Tile.modBank_bwin (x : Tile) (f : Bank → Bank) : (x.modBank f).bwin = x.bwin := rfl
@[simp] theorem Tile.modBank_exS (x : Tile) (f : Bank → Bank) : (x.modBank f).exS = x.exS := rfl
@[simp] theorem Tile.modBank_exK (x : Tile) (f : Bank → Bank) : (x.modBank f).exK = x.exK := rfl
@[simp] theorem Tile.modBank_tcmp (x : Tile) (f : Bank → Bank) : (x.modBank f).tcmp = x.tcmp := rfl
@[simp] theorem Tile.modBank_iens (x : Tile) (f : Bank → Bank) : (x.modBank f).iens = x.iens := rfl
@[simp] theorem Tile.modBank_mcPend (x : Tile) (f : Bank → Bank) : (x.modBank f).mcPend = x.mcPend := rfl
@[simp] theorem Tile.modBank_efwin (x : Tile) (f : Bank → Bank) : (x.modBank f).efwin = x.efwin := rfl
@[simp] theorem Tile.modBank_ef (x : Tile) (f : Bank → Bank) : (x.modBank f).ef = x.ef := rfl
@[simp] theorem Tile.modBank_sbuf (x : Tile) (f : Bank → Bank) : (x.modBank f).sbuf = x.sbuf := rfl
@[simp] theorem Tile.modBank_window (x : Tile) (f : Bank → Bank) : (x.modBank f).window = x.window := rfl
@[simp] theorem Tile.modBank_units (x : Tile) (f : Bank → Bank) : (x.modBank f).units = x.units := rfl
@[simp] theorem Tile.modBank_long (x : Tile) (f : Bank → Bank) : (x.modBank f).long = x.long := rfl
@[simp] theorem Tile.modBank_itlb (x : Tile) (f : Bank → Bank) : (x.modBank f).itlb = x.itlb := rfl
@[simp] theorem Tile.modBank_dtlb (x : Tile) (f : Bank → Bank) : (x.modBank f).dtlb = x.dtlb := rfl
@[simp] theorem Tile.modBank_rstack (x : Tile) (f : Bank → Bank) : (x.modBank f).rstack = x.rstack := rfl
@[simp] theorem Tile.modBank_tk (x : Tile) (f : Bank → Bank) : (x.modBank f).tk = x.tk := rfl
@[simp] theorem Tile.modBank_icnt (x : Tile) (f : Bank → Bank) : (x.modBank f).icnt = x.icnt := rfl
@[simp] theorem Tile.modBank_tcc (x : Tile) (f : Bank → Bank) : (x.modBank f).tcc = x.tcc := rfl
@[simp] theorem Tile.modBank_kcnt (x : Tile) (f : Bank → Bank) : (x.modBank f).kcnt = x.kcnt := rfl
@[simp] theorem Tile.modBank_recWait (x : Tile) (f : Bank → Bank) : (x.modBank f).recWait = x.recWait := rfl
@[simp] theorem Tile.modBank_kiln (x : Tile) (f : Bank → Bank) : (x.modBank f).kiln = x.kiln := rfl

@[simp] theorem Tile.setG_run (x : Tile) (r : BitVec 5) (v : Word) : (x.setG r v).run = x.run := rfl
@[simp] theorem Tile.setG_pc (x : Tile) (r : BitVec 5) (v : Word) : (x.setG r v).pc = x.pc := rfl
@[simp] theorem Tile.setG_lvl (x : Tile) (r : BitVec 5) (v : Word) : (x.setG r v).lvl = x.lvl := rfl
@[simp] theorem Tile.setG_ie (x : Tile) (r : BitVec 5) (v : Word) : (x.setG r v).ie = x.ie := rfl
@[simp] theorem Tile.setG_ticket (x : Tile) (r : BitVec 5) (v : Word) : (x.setG r v).ticket = x.ticket := rfl
@[simp] theorem Tile.setG_bank (x : Tile) (r : BitVec 5) (v : Word) : (x.setG r v).bank = x.bank := rfl
@[simp] theorem Tile.setG_bb (x : Tile) (r : BitVec 5) (v : Word) : (x.setG r v).bb = x.bb := rfl
@[simp] theorem Tile.setG_bwin (x : Tile) (r : BitVec 5) (v : Word) : (x.setG r v).bwin = x.bwin := rfl
@[simp] theorem Tile.setG_exS (x : Tile) (r : BitVec 5) (v : Word) : (x.setG r v).exS = x.exS := rfl
@[simp] theorem Tile.setG_exK (x : Tile) (r : BitVec 5) (v : Word) : (x.setG r v).exK = x.exK := rfl
@[simp] theorem Tile.setG_tcmp (x : Tile) (r : BitVec 5) (v : Word) : (x.setG r v).tcmp = x.tcmp := rfl
@[simp] theorem Tile.setG_iens (x : Tile) (r : BitVec 5) (v : Word) : (x.setG r v).iens = x.iens := rfl
@[simp] theorem Tile.setG_mcPend (x : Tile) (r : BitVec 5) (v : Word) : (x.setG r v).mcPend = x.mcPend := rfl
@[simp] theorem Tile.setG_efwin (x : Tile) (r : BitVec 5) (v : Word) : (x.setG r v).efwin = x.efwin := rfl
@[simp] theorem Tile.setG_ef (x : Tile) (r : BitVec 5) (v : Word) : (x.setG r v).ef = x.ef := rfl
@[simp] theorem Tile.setG_sbuf (x : Tile) (r : BitVec 5) (v : Word) : (x.setG r v).sbuf = x.sbuf := rfl
@[simp] theorem Tile.setG_window (x : Tile) (r : BitVec 5) (v : Word) : (x.setG r v).window = x.window := rfl
@[simp] theorem Tile.setG_units (x : Tile) (r : BitVec 5) (v : Word) : (x.setG r v).units = x.units := rfl
@[simp] theorem Tile.setG_long (x : Tile) (r : BitVec 5) (v : Word) : (x.setG r v).long = x.long := rfl
@[simp] theorem Tile.setG_itlb (x : Tile) (r : BitVec 5) (v : Word) : (x.setG r v).itlb = x.itlb := rfl
@[simp] theorem Tile.setG_dtlb (x : Tile) (r : BitVec 5) (v : Word) : (x.setG r v).dtlb = x.dtlb := rfl
@[simp] theorem Tile.setG_rstack (x : Tile) (r : BitVec 5) (v : Word) : (x.setG r v).rstack = x.rstack := rfl
@[simp] theorem Tile.setG_tk (x : Tile) (r : BitVec 5) (v : Word) : (x.setG r v).tk = x.tk := rfl
@[simp] theorem Tile.setG_icnt (x : Tile) (r : BitVec 5) (v : Word) : (x.setG r v).icnt = x.icnt := rfl
@[simp] theorem Tile.setG_tcc (x : Tile) (r : BitVec 5) (v : Word) : (x.setG r v).tcc = x.tcc := rfl
@[simp] theorem Tile.setG_kcnt (x : Tile) (r : BitVec 5) (v : Word) : (x.setG r v).kcnt = x.kcnt := rfl
@[simp] theorem Tile.setG_recWait (x : Tile) (r : BitVec 5) (v : Word) : (x.setG r v).recWait = x.recWait := rfl
@[simp] theorem Tile.setG_kiln (x : Tile) (r : BitVec 5) (v : Word) : (x.setG r v).kiln = x.kiln := rfl

@[simp] theorem Tile.setD_run (x : Tile) (r : BitVec 4) (v : BitVec 128) : (x.setD r v).run = x.run := rfl
@[simp] theorem Tile.setD_pc (x : Tile) (r : BitVec 4) (v : BitVec 128) : (x.setD r v).pc = x.pc := rfl
@[simp] theorem Tile.setD_lvl (x : Tile) (r : BitVec 4) (v : BitVec 128) : (x.setD r v).lvl = x.lvl := rfl
@[simp] theorem Tile.setD_ie (x : Tile) (r : BitVec 4) (v : BitVec 128) : (x.setD r v).ie = x.ie := rfl
@[simp] theorem Tile.setD_ticket (x : Tile) (r : BitVec 4) (v : BitVec 128) : (x.setD r v).ticket = x.ticket := rfl
@[simp] theorem Tile.setD_bank (x : Tile) (r : BitVec 4) (v : BitVec 128) : (x.setD r v).bank = x.bank := rfl
@[simp] theorem Tile.setD_bb (x : Tile) (r : BitVec 4) (v : BitVec 128) : (x.setD r v).bb = x.bb := rfl
@[simp] theorem Tile.setD_bwin (x : Tile) (r : BitVec 4) (v : BitVec 128) : (x.setD r v).bwin = x.bwin := rfl
@[simp] theorem Tile.setD_exS (x : Tile) (r : BitVec 4) (v : BitVec 128) : (x.setD r v).exS = x.exS := rfl
@[simp] theorem Tile.setD_exK (x : Tile) (r : BitVec 4) (v : BitVec 128) : (x.setD r v).exK = x.exK := rfl
@[simp] theorem Tile.setD_tcmp (x : Tile) (r : BitVec 4) (v : BitVec 128) : (x.setD r v).tcmp = x.tcmp := rfl
@[simp] theorem Tile.setD_iens (x : Tile) (r : BitVec 4) (v : BitVec 128) : (x.setD r v).iens = x.iens := rfl
@[simp] theorem Tile.setD_mcPend (x : Tile) (r : BitVec 4) (v : BitVec 128) : (x.setD r v).mcPend = x.mcPend := rfl
@[simp] theorem Tile.setD_efwin (x : Tile) (r : BitVec 4) (v : BitVec 128) : (x.setD r v).efwin = x.efwin := rfl
@[simp] theorem Tile.setD_ef (x : Tile) (r : BitVec 4) (v : BitVec 128) : (x.setD r v).ef = x.ef := rfl
@[simp] theorem Tile.setD_sbuf (x : Tile) (r : BitVec 4) (v : BitVec 128) : (x.setD r v).sbuf = x.sbuf := rfl
@[simp] theorem Tile.setD_window (x : Tile) (r : BitVec 4) (v : BitVec 128) : (x.setD r v).window = x.window := rfl
@[simp] theorem Tile.setD_units (x : Tile) (r : BitVec 4) (v : BitVec 128) : (x.setD r v).units = x.units := rfl
@[simp] theorem Tile.setD_long (x : Tile) (r : BitVec 4) (v : BitVec 128) : (x.setD r v).long = x.long := rfl
@[simp] theorem Tile.setD_itlb (x : Tile) (r : BitVec 4) (v : BitVec 128) : (x.setD r v).itlb = x.itlb := rfl
@[simp] theorem Tile.setD_dtlb (x : Tile) (r : BitVec 4) (v : BitVec 128) : (x.setD r v).dtlb = x.dtlb := rfl
@[simp] theorem Tile.setD_rstack (x : Tile) (r : BitVec 4) (v : BitVec 128) : (x.setD r v).rstack = x.rstack := rfl
@[simp] theorem Tile.setD_tk (x : Tile) (r : BitVec 4) (v : BitVec 128) : (x.setD r v).tk = x.tk := rfl
@[simp] theorem Tile.setD_icnt (x : Tile) (r : BitVec 4) (v : BitVec 128) : (x.setD r v).icnt = x.icnt := rfl
@[simp] theorem Tile.setD_tcc (x : Tile) (r : BitVec 4) (v : BitVec 128) : (x.setD r v).tcc = x.tcc := rfl
@[simp] theorem Tile.setD_kcnt (x : Tile) (r : BitVec 4) (v : BitVec 128) : (x.setD r v).kcnt = x.kcnt := rfl
@[simp] theorem Tile.setD_recWait (x : Tile) (r : BitVec 4) (v : BitVec 128) : (x.setD r v).recWait = x.recWait := rfl
@[simp] theorem Tile.setD_kiln (x : Tile) (r : BitVec 4) (v : BitVec 128) : (x.setD r v).kiln = x.kiln := rfl

@[simp] theorem Tile.setP_run (x : Tile) (r : BitVec 3) (v : Bool) : (x.setP r v).run = x.run := by
  unfold Tile.setP; split <;> rfl
@[simp] theorem Tile.setP_pc (x : Tile) (r : BitVec 3) (v : Bool) : (x.setP r v).pc = x.pc := by
  unfold Tile.setP; split <;> rfl
@[simp] theorem Tile.setP_lvl (x : Tile) (r : BitVec 3) (v : Bool) : (x.setP r v).lvl = x.lvl := by
  unfold Tile.setP; split <;> rfl
@[simp] theorem Tile.setP_ie (x : Tile) (r : BitVec 3) (v : Bool) : (x.setP r v).ie = x.ie := by
  unfold Tile.setP; split <;> rfl
@[simp] theorem Tile.setP_ticket (x : Tile) (r : BitVec 3) (v : Bool) : (x.setP r v).ticket = x.ticket := by
  unfold Tile.setP; split <;> rfl
@[simp] theorem Tile.setP_bank (x : Tile) (r : BitVec 3) (v : Bool) : (x.setP r v).bank = x.bank := by
  unfold Tile.setP; split <;> rfl
@[simp] theorem Tile.setP_bb (x : Tile) (r : BitVec 3) (v : Bool) : (x.setP r v).bb = x.bb := by
  unfold Tile.setP; split <;> rfl
@[simp] theorem Tile.setP_bwin (x : Tile) (r : BitVec 3) (v : Bool) : (x.setP r v).bwin = x.bwin := by
  unfold Tile.setP; split <;> rfl
@[simp] theorem Tile.setP_exS (x : Tile) (r : BitVec 3) (v : Bool) : (x.setP r v).exS = x.exS := by
  unfold Tile.setP; split <;> rfl
@[simp] theorem Tile.setP_exK (x : Tile) (r : BitVec 3) (v : Bool) : (x.setP r v).exK = x.exK := by
  unfold Tile.setP; split <;> rfl
@[simp] theorem Tile.setP_tcmp (x : Tile) (r : BitVec 3) (v : Bool) : (x.setP r v).tcmp = x.tcmp := by
  unfold Tile.setP; split <;> rfl
@[simp] theorem Tile.setP_iens (x : Tile) (r : BitVec 3) (v : Bool) : (x.setP r v).iens = x.iens := by
  unfold Tile.setP; split <;> rfl
@[simp] theorem Tile.setP_mcPend (x : Tile) (r : BitVec 3) (v : Bool) : (x.setP r v).mcPend = x.mcPend := by
  unfold Tile.setP; split <;> rfl
@[simp] theorem Tile.setP_efwin (x : Tile) (r : BitVec 3) (v : Bool) : (x.setP r v).efwin = x.efwin := by
  unfold Tile.setP; split <;> rfl
@[simp] theorem Tile.setP_ef (x : Tile) (r : BitVec 3) (v : Bool) : (x.setP r v).ef = x.ef := by
  unfold Tile.setP; split <;> rfl
@[simp] theorem Tile.setP_sbuf (x : Tile) (r : BitVec 3) (v : Bool) : (x.setP r v).sbuf = x.sbuf := by
  unfold Tile.setP; split <;> rfl
@[simp] theorem Tile.setP_window (x : Tile) (r : BitVec 3) (v : Bool) : (x.setP r v).window = x.window := by
  unfold Tile.setP; split <;> rfl
@[simp] theorem Tile.setP_units (x : Tile) (r : BitVec 3) (v : Bool) : (x.setP r v).units = x.units := by
  unfold Tile.setP; split <;> rfl
@[simp] theorem Tile.setP_long (x : Tile) (r : BitVec 3) (v : Bool) : (x.setP r v).long = x.long := by
  unfold Tile.setP; split <;> rfl
@[simp] theorem Tile.setP_itlb (x : Tile) (r : BitVec 3) (v : Bool) : (x.setP r v).itlb = x.itlb := by
  unfold Tile.setP; split <;> rfl
@[simp] theorem Tile.setP_dtlb (x : Tile) (r : BitVec 3) (v : Bool) : (x.setP r v).dtlb = x.dtlb := by
  unfold Tile.setP; split <;> rfl
@[simp] theorem Tile.setP_rstack (x : Tile) (r : BitVec 3) (v : Bool) : (x.setP r v).rstack = x.rstack := by
  unfold Tile.setP; split <;> rfl
@[simp] theorem Tile.setP_tk (x : Tile) (r : BitVec 3) (v : Bool) : (x.setP r v).tk = x.tk := by
  unfold Tile.setP; split <;> rfl
@[simp] theorem Tile.setP_icnt (x : Tile) (r : BitVec 3) (v : Bool) : (x.setP r v).icnt = x.icnt := by
  unfold Tile.setP; split <;> rfl
@[simp] theorem Tile.setP_tcc (x : Tile) (r : BitVec 3) (v : Bool) : (x.setP r v).tcc = x.tcc := by
  unfold Tile.setP; split <;> rfl
@[simp] theorem Tile.setP_kcnt (x : Tile) (r : BitVec 3) (v : Bool) : (x.setP r v).kcnt = x.kcnt := by
  unfold Tile.setP; split <;> rfl
@[simp] theorem Tile.setP_recWait (x : Tile) (r : BitVec 3) (v : Bool) : (x.setP r v).recWait = x.recWait := by
  unfold Tile.setP; split <;> rfl
@[simp] theorem Tile.setP_kiln (x : Tile) (r : BitVec 3) (v : Bool) : (x.setP r v).kiln = x.kiln := by
  unfold Tile.setP; split <;> rfl

@[simp] theorem Bank.setG_d (b : Bank) (r : BitVec 5) (v : Word) : (b.setG r v).d = b.d := by
  unfold Bank.setG; split <;> rfl
@[simp] theorem Bank.setG_p (b : Bank) (r : BitVec 5) (v : Word) : (b.setG r v).p = b.p := by
  unfold Bank.setG; split <;> rfl
@[simp] theorem Bank.setG_istat (b : Bank) (r : BitVec 5) (v : Word) : (b.setG r v).istat = b.istat := by
  unfold Bank.setG; split <;> rfl
@[simp] theorem Bank.setG_dstat (b : Bank) (r : BitVec 5) (v : Word) : (b.setG r v).dstat = b.dstat := by
  unfold Bank.setG; split <;> rfl
@[simp] theorem Bank.setG_dctl (b : Bank) (r : BitVec 5) (v : Word) : (b.setG r v).dctl = b.dctl := by
  unfold Bank.setG; split <;> rfl
@[simp] theorem Bank.setG_fstat (b : Bank) (r : BitVec 5) (v : Word) : (b.setG r v).fstat = b.fstat := by
  unfold Bank.setG; split <;> rfl
@[simp] theorem Bank.setG_fctl (b : Bank) (r : BitVec 5) (v : Word) : (b.setG r v).fctl = b.fctl := by
  unfold Bank.setG; split <;> rfl
@[simp] theorem Bank.setG_krr (b : Bank) (r : BitVec 5) (v : Word) : (b.setG r v).krr = b.krr := by
  unfold Bank.setG; split <;> rfl
@[simp] theorem Bank.setG_sess (b : Bank) (r : BitVec 5) (v : Word) : (b.setG r v).sess = b.sess := by
  unfold Bank.setG; split <;> rfl
@[simp] theorem Bank.setG_ast (b : Bank) (r : BitVec 5) (v : Word) : (b.setG r v).ast = b.ast := by
  unfold Bank.setG; split <;> rfl
@[simp] theorem Bank.setG_fresh (b : Bank) (r : BitVec 5) (v : Word) : (b.setG r v).fresh = b.fresh := by
  unfold Bank.setG; split <;> rfl
@[simp] theorem Bank.setG_used (b : Bank) (r : BitVec 5) (v : Word) : (b.setG r v).used = b.used := by
  unfold Bank.setG; split <;> rfl

end Sys2Proof.Machine
end

