-- ==== Sys2Proof/Laws/Ops.lean ====
section
/-! SUPPORT. What the named operations read back: tiles, courses, registers, memory and its canonical form. -/

namespace Sys2Proof.Machine

/-! ## Maps -/

theorem assocFind_insert_self {α : Type} (l : List (Nat × α)) (k : Nat) (v d : α) :
    assocFind (assocInsert l k v) k d = v := by
  induction l with
  | nil => simp [assocInsert, assocFind]
  | cons p r ih =>
    obtain ⟨k', v'⟩ := p
    unfold assocInsert
    split
    · simp [assocFind]
    · split
      · simp [assocFind]
      · rename_i h1 h2
        simp [assocFind, Ne.symm h2, ih]

theorem assocFind_insert_ne {α : Type} (l : List (Nat × α)) {k j : Nat} (v d : α) (h : j ≠ k) :
    assocFind (assocInsert l k v) j d = assocFind l j d := by
  induction l with
  | nil => simp [assocInsert, assocFind, Ne.symm h]
  | cons p r ih =>
    obtain ⟨k', v'⟩ := p
    unfold assocInsert
    split
    · simp [assocFind, Ne.symm h]
    · split
      · rename_i h2
        subst h2
        simp [assocFind, Ne.symm h]
      · simp only [assocFind, ih]

theorem assocFind_erase_self {α : Type} (l : List (Nat × α)) (k : Nat) (d : α) :
    assocFind (assocErase l k) k d = d := by
  unfold assocErase
  induction l with
  | nil => simp [assocFind]
  | cons p r ih =>
    by_cases h : p.1 = k
    · simpa [List.filter_cons, h] using ih
    · simpa [List.filter_cons, h, assocFind] using ih

theorem assocFind_erase_ne {α : Type} (l : List (Nat × α)) {k j : Nat} (d : α) (h : j ≠ k) :
    assocFind (assocErase l k) j d = assocFind l j d := by
  unfold assocErase
  induction l with
  | nil => simp [assocFind]
  | cons p r ih =>
    obtain ⟨k', v'⟩ := p
    by_cases h2 : k' = k
    · subst h2
      simpa [assocFind, Ne.symm h] using ih
    · simp only [List.filter_cons, ne_eq, h2, not_false_eq_true, decide_true, ite_true, assocFind, ih]

theorem assocFind_put_self {α : Type} [DecidableEq α] (l : List (Nat × α)) (k : Nat) (v d : α) :
    assocFind (assocPut l k v d) k d = v := by
  unfold assocPut
  split
  · rename_i h
    rw [assocFind_erase_self, h]
  · exact assocFind_insert_self _ _ _ _

theorem assocFind_put_ne {α : Type} [DecidableEq α] (l : List (Nat × α)) {k j : Nat} (v d e : α) (h : j ≠ k) :
    assocFind (assocPut l k v d) j e = assocFind l j e := by
  unfold assocPut
  split
  · exact assocFind_erase_ne _ _ h
  · rw [assocFind_insert_ne _ _ _ h, assocFind_erase_ne _ _ h]

/-! ## Memory -/

@[simp] theorem State.byte_setByte_self (s : State) (a : Nat) (b : Byte) : (s.setByte a b).byte a = b :=
  assocFind_put_self _ _ _ _

theorem State.byte_setByte_ne (s : State) {a i : Nat} (b : Byte) (h : i ≠ a) : (s.setByte a b).byte i = s.byte i :=
  assocFind_put_ne _ _ _ _ h

/-- A byte outside the written ones reads as before. -/
theorem State.byte_setBytes_out (s : State) (a i : Nat) (bs : List Byte) (h : i < a ∨ a + bs.length ≤ i) :
    (s.setBytes a bs).byte i = s.byte i := by
  induction bs generalizing s a with
  | nil => rfl
  | cons b r ih =>
    simp only [List.length_cons] at h
    rw [State.setBytes, ih _ _ (by omega), State.byte_setByte_ne _ _ (by omega)]

/-- A written byte reads as written. -/
theorem State.byte_setBytes_in (s : State) (a i : Nat) (bs : List Byte) (h : i < bs.length) :
    (s.setBytes a bs).byte (a + i) = bs[i] := by
  induction bs generalizing s a i with
  | nil => simp at h
  | cons b r ih =>
    rw [State.setBytes]
    cases i with
    | zero => rw [State.byte_setBytes_out _ _ _ _ (by omega)]; simp
    | succ n =>
      have := ih (s.setByte a b) (a + 1) n (by simpa using h)
      rw [show a + (n + 1) = a + 1 + n by omega, this]; simp

@[simp] theorem State.bytes_length (s : State) (a n : Nat) : (s.bytes a n).length = n := by
  induction n generalizing a with
  | zero => rfl
  | succ n ih => simp [State.bytes, ih]

/-- The bytes read back after a write of them. -/
theorem State.bytes_setBytes (s : State) (a : Nat) (bs : List Byte) : (s.setBytes a bs).bytes a bs.length = bs := by
  have key : ∀ (n i : Nat), i + n = bs.length → (s.setBytes a bs).bytes (a + i) n = bs.drop i := by
    intro n
    induction n with
    | zero => intro i h; simp [State.bytes, List.drop_eq_nil_of_le (by omega : bs.length ≤ i)]
    | succ n ih =>
      intro i h
      have hi : i < bs.length := by omega
      rw [State.bytes, State.byte_setBytes_in _ _ _ _ hi, show a + i + 1 = a + (i + 1) by omega, ih (i + 1) (by omega),
        List.drop_eq_getElem_cons hi]
  simpa using key bs.length 0 (by omega)

theorem State.setBytes_rest (s : State) (a : Nat) (bs : List Byte) :
    s.setBytes a bs = { s with mem := (s.setBytes a bs).mem } := by
  induction bs generalizing s a with
  | nil => rfl
  | cons b r ih => rw [State.setBytes, ih]; rfl

/-! ## The canonical form of memory -/

theorem risingFrom_mono {α : Type} {l : List (Nat × α)} {a b : Nat} (h : a ≤ b) (w : risingFrom b l = true) :
    risingFrom a l = true := by
  cases l with
  | nil => rfl
  | cons p r => simp only [risingFrom, Bool.and_eq_true, decide_eq_true_eq] at *; exact ⟨by omega, w.2⟩

theorem risingFrom_filter {α : Type} (q : Nat × α → Bool) {l : List (Nat × α)} {b : Nat} (w : risingFrom b l = true) :
    risingFrom b (l.filter q) = true := by
  induction l generalizing b with
  | nil => rfl
  | cons p r ih =>
    simp only [risingFrom, Bool.and_eq_true, decide_eq_true_eq] at w
    have h := ih w.2
    by_cases hq : q p
    · simp [hq, risingFrom, w.1, h]
    · simpa [List.filter_cons, hq] using risingFrom_mono (by omega : b ≤ p.1 + 1) h

theorem risingFrom_insert {α : Type} (k : Nat) (v : α) {l : List (Nat × α)} {b : Nat} (hb : b ≤ k)
    (w : risingFrom b l = true) : risingFrom b (assocInsert l k v) = true := by
  induction l generalizing b with
  | nil => simp [assocInsert, risingFrom, hb]
  | cons p r ih =>
    obtain ⟨k', v'⟩ := p
    simp only [risingFrom, Bool.and_eq_true, decide_eq_true_eq] at w
    unfold assocInsert
    split
    · simp [risingFrom, hb, w.2]; omega
    · split
      · rename_i h; subst h; simp [risingFrom, hb, w.2]
      · simp [risingFrom, w.1, ih (by omega : k' + 1 ≤ k) w.2]

theorem mem_assocInsert {α : Type} {l : List (Nat × α)} {k : Nat} {v : α} {c : Nat × α}
    (h : c ∈ assocInsert l k v) : c = (k, v) ∨ c ∈ l := by
  induction l with
  | nil => simpa [assocInsert] using h
  | cons p r ih =>
    obtain ⟨k', v'⟩ := p
    unfold assocInsert at h
    split at h
    · simpa using h
    · split at h
      · simp only [List.mem_cons] at h ⊢; tauto
      · simp only [List.mem_cons] at h ⊢
        rcases h with h | h
        · exact .inr (.inl h)
        · rcases ih h with h | h
          · exact .inl h
          · exact .inr (.inr h)

/-- Storing one byte keeps the canonical form. -/
theorem Memory.wf_put {m : List Host.Cell} (a : Nat) (b : Byte) (h : Memory.wf m = true) :
    Memory.wf (assocPut m a b memDefault) = true := by
  simp only [Memory.wf, Bool.and_eq_true, List.all_eq_true, decide_eq_true_eq] at *
  unfold assocPut
  split
  · exact ⟨risingFrom_filter _ h.1, fun c hc => h.2 c (List.mem_of_mem_filter hc)⟩
  · rename_i hb
    refine ⟨risingFrom_insert _ _ (Nat.zero_le _) (risingFrom_filter _ h.1), fun c hc => ?_⟩
    rcases mem_assocInsert hc with rfl | hc
    · exact hb
    · exact h.2 c (List.mem_of_mem_filter hc)

/-- Dropping cells keeps the canonical form. -/
theorem Memory.wf_filter {m : List Host.Cell} (q : Host.Cell → Bool) (h : Memory.wf m = true) :
    Memory.wf (m.filter q) = true := by
  simp only [Memory.wf, Bool.and_eq_true, List.all_eq_true, decide_eq_true_eq] at *
  exact ⟨risingFrom_filter _ h.1, fun c hc => h.2 c (List.mem_of_mem_filter hc)⟩

theorem Memory.wf_setByte (s : State) (a : Nat) (b : Byte) (h : Memory.wf s.mem = true) :
    Memory.wf (s.setByte a b).mem = true := Memory.wf_put a b h

theorem Memory.wf_setBytes (s : State) (a : Nat) (bs : List Byte) (h : Memory.wf s.mem = true) :
    Memory.wf (s.setBytes a bs).mem = true := by
  induction bs generalizing s a with
  | nil => exact h
  | cons b r ih => exact ih _ _ (Memory.wf_setByte s a b h)

theorem Memory.wf_setMemNat (s : State) (a n v : Nat) (h : Memory.wf s.mem = true) :
    Memory.wf (s.setMemNat a n v).mem = true := Memory.wf_setBytes s a _ h

theorem Memory.wf_setDword (s : State) (a : Nat) (v : Word) (h : Memory.wf s.mem = true) :
    Memory.wf (s.setDword a v).mem = true := Memory.wf_setBytes s a _ h

theorem Memory.wf_fill (s : State) (a n : Nat) (b : Byte) (h : Memory.wf s.mem = true) :
    Memory.wf (s.fill a n b).mem = true := Memory.wf_setBytes s a _ h

/-! ## Control registers -/

@[simp] theorem State.reg_setReg_self (s : State) (a : Nat) (v : Word) : (s.setReg a v).reg a = v :=
  assocFind_put_self _ _ _ _

theorem State.reg_setReg_ne (s : State) {a i : Nat} (v : Word) (h : i ≠ a) : (s.setReg a v).reg i = s.reg i :=
  assocFind_put_ne _ _ _ _ h

@[simp] theorem State.reg_setTile (s : State) (t : TileId) (x : Tile) (a : Nat) : (s.setTile t x).reg a = s.reg a := rfl
@[simp] theorem State.reg_modTile (s : State) (t : TileId) (f : Tile → Tile) (a : Nat) :
    (s.modTile t f).reg a = s.reg a := rfl
@[simp] theorem State.byte_setTile (s : State) (t : TileId) (x : Tile) (a : Nat) : (s.setTile t x).byte a = s.byte a := rfl
@[simp] theorem State.byte_modTile (s : State) (t : TileId) (f : Tile → Tile) (a : Nat) :
    (s.modTile t f).byte a = s.byte a := rfl
@[simp] theorem State.byte_setReg (s : State) (i : Nat) (v : Word) (a : Nat) : (s.setReg i v).byte a = s.byte a := rfl

/-! ## Tiles, courses, links -/

@[simp] theorem State.tile_setTile_self (s : State) (t : TileId) (x : Tile) : (s.setTile t x).tile t = x := by
  simp [State.tile, State.setTile, Vector.get_eq_getElem]

theorem State.tile_setTile_ne (s : State) {t u : TileId} (x : Tile) (h : u ≠ t) : (s.setTile t x).tile u = s.tile u := by
  have h' : t.val ≠ u.val := fun e => h (Fin.ext e.symm)
  simp [State.tile, State.setTile, Vector.get_eq_getElem, h']

@[simp] theorem State.tile_modTile_self (s : State) (t : TileId) (f : Tile → Tile) : (s.modTile t f).tile t = f (s.tile t) :=
  State.tile_setTile_self _ _ _

theorem State.tile_modTile_ne (s : State) {t u : TileId} (f : Tile → Tile) (h : u ≠ t) :
    (s.modTile t f).tile u = s.tile u := State.tile_setTile_ne _ _ h

@[simp] theorem State.tile_setReg (s : State) (a : Nat) (v : Word) (t : TileId) : (s.setReg a v).tile t = s.tile t := rfl
@[simp] theorem State.tile_setByte (s : State) (a : Nat) (b : Byte) (t : TileId) : (s.setByte a b).tile t = s.tile t := rfl

theorem State.setTile_setTile (s : State) (t : TileId) (x y : Tile) : (s.setTile t x).setTile t y = s.setTile t y := by
  simp only [State.setTile]
  congr 1
  ext i hi
  simp only [Vector.getElem_set]
  split <;> rfl

/-- Two changes of one tile are one. -/
theorem State.modTile_modTile (s : State) (t : TileId) (f g : Tile → Tile) :
    (s.modTile t f).modTile t g = s.modTile t (fun x => g (f x)) := by
  simp only [State.modTile, State.tile_setTile_self, State.setTile_setTile]

@[simp] theorem State.course_modCourse_self (s : State) (c : CourseId) (f : Course → Course) :
    (s.modCourse c f).course c = f (s.course c) := by
  simp [State.course, State.modCourse, Vector.get_eq_getElem]

theorem State.course_modCourse_ne (s : State) {c e : CourseId} (f : Course → Course) (h : e ≠ c) :
    (s.modCourse c f).course e = s.course e := by
  have h' : c.val ≠ e.val := fun q => h (Fin.ext q.symm)
  simp [State.course, State.modCourse, Vector.get_eq_getElem, h']

@[simp] theorem State.link_modLink_self (s : State) (k : LinkId) (f : Link → Link) :
    (s.modLink k f).link k = f (s.link k) := by
  simp [State.link, State.modLink, Vector.get_eq_getElem]

theorem State.link_modLink_ne (s : State) {k j : LinkId} (f : Link → Link) (h : j ≠ k) :
    (s.modLink k f).link j = s.link j := by
  have h' : k.val ≠ j.val := fun q => h (Fin.ext q.symm)
  simp [State.link, State.modLink, Vector.get_eq_getElem, h']

/-! ## Registers of a tile -/

theorem Tile.cur_modBank (x : Tile) (f : Bank → Bank) : (x.modBank f).cur = f x.cur := by
  simp [Tile.cur, Tile.modBank, Tile.modBankAt, Vector.get_eq_getElem]

@[simp] theorem Tile.g_zero (x : Tile) : x.g 0#5 = 0#64 := by simp [Tile.g]

@[simp] theorem Bank.setG_zero (b : Bank) (v : Word) : b.setG 0#5 v = b := if_pos rfl

@[simp] theorem Tile.setG_zero (x : Tile) (v : Word) : x.setG 0#5 v = x := by
  cases x
  simp only [Tile.setG, Tile.modBank, Tile.modBankAt, Bank.setG_zero]
  congr 1
  ext i hi
  simp only [Vector.getElem_set, Vector.get_eq_getElem]
  split
  · rename_i e; subst e; rfl
  · rfl

theorem Tile.cur_setG (x : Tile) (r : BitVec 5) (v : Word) : (x.setG r v).cur = x.cur.setG r v := Tile.cur_modBank _ _

/-- A written register reads as written; g0 reads 0. -/
theorem Tile.g_setG_self (x : Tile) (r : BitVec 5) (v : Word) : (x.setG r v).g r = if r = 0 then 0 else v := by
  unfold Tile.g
  split
  · rfl
  · rename_i h
    rw [Tile.cur_setG, Bank.setG, if_neg h, Vector.get_eq_getElem, Vector.getElem_set_self]

theorem Tile.g_setG_ne (x : Tile) {r q : BitVec 5} (v : Word) (h : q ≠ r) : (x.setG r v).g q = x.g q := by
  have h' : r.toFin.val ≠ q.toFin.val := fun e => h (BitVec.eq_of_toNat_eq e.symm)
  unfold Tile.g
  split
  · rfl
  · rw [Tile.cur_setG, Bank.setG]
    split
    · rfl
    · rw [Vector.get_eq_getElem, Vector.get_eq_getElem, Vector.getElem_set_ne _ _ h']

end Sys2Proof.Machine
end

