-- ==== Sys2Proof/Laws/Keeps.lean ====
section
/-! SUPPORT. What keeps the canonical forms of memory and of the control registers, and the bounds of the machine-check queue
and of the standby store: one lemma for each operation that writes one of the four. -/

namespace Sys2Proof.Machine

/-- Reset memory lists nothing. -/
theorem Memory.wf_reset : Memory.wf State.reset.mem = true := by decide

/-- Clearing a range of memory keeps the canonical form. -/
theorem Memory.wf_zeroRange (s : State) (a n : Nat) (h : Memory.wf s.mem = true) : Memory.wf (s.zeroRange a n).mem = true :=
  Memory.wf_filter _ h

/-- Putting a value keeps the keys of an association list rising. -/
theorem risingFrom_put {α : Type} [DecidableEq α] {l : List (Nat × α)} (k : Nat) (v d : α) (h : risingFrom 0 l = true) :
    risingFrom 0 (assocPut l k v d) = true := by
  unfold assocPut
  split
  · exact risingFrom_filter _ h
  · exact risingFrom_insert _ _ (Nat.zero_le _) (risingFrom_filter _ h)

theorem State.rising_setReg (s : State) (a : Nat) (v : Word) (h : risingFrom 0 s.regs = true) :
    risingFrom 0 (s.setReg a v).regs = true := risingFrom_put _ _ _ h

theorem State.rising_setFld (s : State) (a hi lo v : Nat) (h : risingFrom 0 s.regs = true) :
    risingFrom 0 (s.setFld a hi lo v).regs = true := risingFrom_put _ _ _ h

theorem State.rising_incSat (s : State) (a w n : Nat) (h : risingFrom 0 s.regs = true) :
    risingFrom 0 (s.incSat a w n).regs = true := risingFrom_put _ _ _ h

theorem State.rising_resetRegs (s : State) (p : Nat → Bool) (h : risingFrom 0 s.regs = true) :
    risingFrom 0 (s.resetRegs p).regs = true := risingFrom_filter _ h

/-- The standby store never holds more than 16 messages (spec/16 R490). -/
theorem State.store_standbyPush (s : State) (m : Word × Word) (h : s.sby.store.length ≤ 16) :
    (s.standbyPush m).sby.store.length ≤ 16 := by
  unfold State.standbyPush
  split
  · show (s.sby.store ++ [m]).length ≤ 16
    rw [List.length_append, List.length_singleton]
    omega
  · exact h

@[simp] theorem State.mcq_standbyPush (s : State) (m : Word × Word) : (s.standbyPush m).mcq = s.mcq := by
  unfold State.standbyPush; split <;> rfl

@[simp] theorem State.mem_standbyPush (s : State) (m : Word × Word) : (s.standbyPush m).mem = s.mem := by
  unfold State.standbyPush; split <;> rfl

@[simp] theorem State.regs_standbyPush (s : State) (m : Word × Word) : (s.standbyPush m).regs = s.regs := by
  unfold State.standbyPush; split <;> rfl

/-- The machine-check queue never holds more than 32 messages (spec/13 R433). -/
theorem State.mcq_mcPush (s : State) (k p i : Nat) (h : s.mcq.length ≤ 32) : (s.mcPush k p i).mcq.length ≤ 32 := by
  unfold State.mcPush
  split
  · rw [State.mcq_standbyPush]
    show (s.mcq ++ [_]).length ≤ 32
    rw [List.length_append, List.length_singleton]
    omega
  · exact h

theorem State.store_mcPush (s : State) (k p i : Nat) (h : s.sby.store.length ≤ 16) : (s.mcPush k p i).sby.store.length ≤ 16 := by
  unfold State.mcPush
  split
  · exact State.store_standbyPush _ _ h
  · exact h

@[simp] theorem State.mem_mcPush (s : State) (k p i : Nat) : (s.mcPush k p i).mem = s.mem := by
  unfold State.mcPush; split
  · simp
  · rfl

theorem State.rising_mcPush (s : State) (k p i : Nat) (h : risingFrom 0 s.regs = true) :
    risingFrom 0 (s.mcPush k p i).regs = true := by
  unfold State.mcPush
  split
  · simpa using h
  · exact State.rising_setFld _ _ _ _ _ h

theorem State.rising_logErr (s : State) (p k d src : Nat) (data : Word) (h : risingFrom 0 s.regs = true) :
    risingFrom 0 (s.logErr p k d src data).regs = true := by
  unfold State.logErr
  dsimp only
  split
  · exact State.rising_setReg _ _ _ (State.rising_setReg _ _ _ (State.rising_setFld _ _ _ _ _ h))
  · exact State.rising_setFld _ _ _ _ _ (State.rising_setFld _ _ _ _ _ h)

/-! ## Operations on control registers alone -/

/-- `s'` differs from `s` in control registers alone, and those stay in canonical form. -/
def RegsOnly (s s' : State) : Prop := s' = { s with regs := s'.regs } ∧ (risingFrom 0 s.regs = true → risingFrom 0 s'.regs = true)

theorem RegsOnly.refl (s : State) : RegsOnly s s := ⟨rfl, id⟩

theorem RegsOnly.trans {a b c : State} (h : RegsOnly a b) (k : RegsOnly b c) : RegsOnly a c := by
  obtain ⟨h1, h2⟩ := h
  obtain ⟨k1, k2⟩ := k
  exact ⟨by rw [k1, h1], fun x => k2 (h2 x)⟩

theorem RegsOnly.mem {a b : State} (h : RegsOnly a b) : b.mem = a.mem := by rw [h.1]
theorem RegsOnly.mcq {a b : State} (h : RegsOnly a b) : b.mcq = a.mcq := by rw [h.1]
theorem RegsOnly.sby {a b : State} (h : RegsOnly a b) : b.sby = a.sby := by rw [h.1]
theorem RegsOnly.tiles {a b : State} (h : RegsOnly a b) : b.tiles = a.tiles := by rw [h.1]

theorem RegsOnly.setReg (s : State) (a : Nat) (v : Word) : RegsOnly s (s.setReg a v) := ⟨rfl, State.rising_setReg s a v⟩
theorem RegsOnly.setFld (s : State) (a hi lo v : Nat) : RegsOnly s (s.setFld a hi lo v) := RegsOnly.setReg s a _
theorem RegsOnly.bell (s : State) (t b : Nat) : RegsOnly s (s.bell t b) := RegsOnly.setReg s _ _

theorem RegsOnly.evCount1 (s : State) (p src : Nat) (q : Nat → Bool) (k n : Nat) : RegsOnly s (s.evCount1 p src q k n) := by
  unfold State.evCount1
  dsimp only
  split
  · split
    · exact (RegsOnly.setReg _ _ _).trans (RegsOnly.setReg _ _ _)
    · exact RegsOnly.setReg _ _ _
  · exact RegsOnly.refl s

theorem RegsOnly.evCountQ (s : State) (p src : Nat) (q : Nat → Bool) (k : Nat) : RegsOnly s (s.evCountQ p src q k) := by
  unfold State.evCountQ
  split
  · exact RegsOnly.refl s
  · exact (((RegsOnly.evCount1 ..).trans (RegsOnly.evCount1 ..)).trans (RegsOnly.evCount1 ..)).trans (RegsOnly.evCount1 ..)

theorem RegsOnly.evCount (s : State) (p src k : Nat) : RegsOnly s (s.evCount p src k) := RegsOnly.evCountQ ..

/-- An event of a STAT bit changes control registers alone (spec/13 R418, R421). -/
theorem RegsOnly.raise (s : State) (p k : Nat) : RegsOnly s (s.raise p k) := by
  unfold State.raise
  dsimp only
  split
  · exact (((RegsOnly.setReg ..).trans (RegsOnly.setFld ..)).trans (RegsOnly.evCount ..)).trans (RegsOnly.bell ..)
  · exact ((RegsOnly.setReg ..).trans (RegsOnly.setFld ..)).trans (RegsOnly.evCount ..)

/-- An error log entry changes control registers alone (spec/13 R424). -/
theorem RegsOnly.logErr (s : State) (p k d src : Nat) (data : Word) : RegsOnly s (s.logErr p k d src data) := by
  unfold State.logErr
  dsimp only
  split
  · exact ((RegsOnly.setFld ..).trans (RegsOnly.setReg ..)).trans (RegsOnly.setReg ..)
  · exact (RegsOnly.setFld ..).trans (RegsOnly.setFld ..)

/-- A fold of operations on control registers alone is one. -/
theorem RegsOnly.foldl {α : Type} (f : State → α → State) (h : ∀ s a, RegsOnly s (f s a)) (l : List α) (s : State) :
    RegsOnly s (l.foldl f s) := by
  induction l generalizing s with
  | nil => exact RegsOnly.refl s
  | cons a l ih => exact (h s a).trans (ih _)

/-- The release of reset keeps memory, and the canonical form of the control registers. -/
theorem keeps_releaseReset (s : State) (k : risingFrom 0 s.regs = true) :
    (releaseReset s).mem = s.mem ∧ risingFrom 0 (releaseReset s).regs = true := by
  unfold releaseReset
  refine (fun h => ⟨h.mem, h.2 k⟩) (RegsOnly.foldl (fun s p => if s.boot.bifVal.get p = 3 then s.raise (pPcie + p.val) 5 else s)
    (fun s p => ?_) (List.finRange 2) _)
  show RegsOnly s (if _ then _ else _)
  split
  · exact RegsOnly.raise ..
  · exact RegsOnly.refl s

/-- Clearing the device keeps the canonical forms of memory and of the control registers. -/
theorem keeps_clearDevice (s : State) (h : Memory.wf s.mem = true) (k : risingFrom 0 s.regs = true) :
    Memory.wf (clearDevice s).mem = true ∧ risingFrom 0 (clearDevice s).regs = true := by
  obtain ⟨e, r⟩ := keeps_releaseReset (clearPages s) (risingFrom_filter _ k)
  exact ⟨by rw [clearDevice, e]; exact Memory.wf_filter _ h, r⟩

end Sys2Proof.Machine
end

