-- ==== Sys2Proof/Laws/Tile.lean ====
section
/-! SUPPORT. What every instruction of a tile does around its own effect, said once. -/

namespace Sys2Proof.Machine

/-! ## Counting changes counters alone -/

theorem CountsOnly.refl (p : Nat) (s : State) : CountsOnly p s s := ⟨rfl, fun _ _ => rfl⟩

theorem CountsOnly.trans {p : Nat} {s s' s'' : State} (h : CountsOnly p s s') (k : CountsOnly p s' s'') :
    CountsOnly p s s'' :=
  ⟨by rw [k.rest, h.rest], fun a ha => (k.regs a ha).trans (h.regs a ha)⟩

theorem CountsOnly.setReg {p a : Nat} (s : State) (v : Word) (h : isCounter p a = true) : CountsOnly p s (s.setReg a v) :=
  ⟨rfl, fun b hb => State.reg_setReg_ne _ _ (fun e => by rw [e, h] at hb; cases hb)⟩

theorem isCounter_cnt (p n : Nat) (h : n < 4) : isCounter p (ctl p (0xA0 + 8 * n)) = true := by
  have : n = 0 ∨ n = 1 ∨ n = 2 ∨ n = 3 := by omega
  rcases this with rfl | rfl | rfl | rfl <;> simp [isCounter]

theorem isCounter_ctl (p : Nat) : isCounter p (ctl p 0xC0) = true := by simp [isCounter]

theorem CountsOnly.count1 (p src : Nat) (q : Nat → Bool) (k n : Nat) (s : State) (h : n < 4) :
    CountsOnly p s (s.evCount1 p src q k n) := by
  unfold State.evCount1
  extract_lets sel sum s1
  split
  · split
    · exact (CountsOnly.setReg _ _ (isCounter_cnt p n h)).trans (CountsOnly.setReg _ _ (isCounter_ctl p))
    · exact CountsOnly.setReg _ _ (isCounter_cnt p n h)
  · exact .refl _ _

/-- Counting an event changes event counters of its page and nothing else. -/
theorem CountsOnly.countQ (s : State) (p src : Nat) (q : Nat → Bool) (k : Nat) :
    CountsOnly p s (s.evCountQ p src q k) := by
  unfold State.evCountQ
  split
  · exact .refl _ _
  · exact (((CountsOnly.count1 _ _ _ _ 0 _ (by omega)).trans (CountsOnly.count1 _ _ _ _ 1 _ (by omega))).trans
      (CountsOnly.count1 _ _ _ _ 2 _ (by omega))).trans (CountsOnly.count1 _ _ _ _ 3 _ (by omega))

theorem CountsOnly.tiles {p : Nat} {s s' : State} (h : CountsOnly p s s') : s'.tiles = s.tiles := by rw [h.rest]
theorem CountsOnly.tile {p : Nat} {s s' : State} (h : CountsOnly p s s') (t : TileId) : s'.tile t = s.tile t := by
  rw [h.rest]; rfl

/-! ## A tile alone changes -/

/-- A change of the tile, and counting. -/
theorem TileOnly.of_counts {s s' : State} {t : TileId} {x : Tile} (h : CountsOnly (tilePage t) (s.setTile t x) s') :
    TileOnly s s' t x where
  tile := by rw [h.tile, State.tile_setTile_self]
  others u hu := by rw [h.tile, State.tile_setTile_ne _ _ hu]
  regs a ha := h.regs a ha
  bytes a := by rw [h.rest]; rfl
  rest := by rw [h.rest]; rfl

theorem CountsOnly.setTile {p : Nat} {s s' : State} (h : CountsOnly p s s') (t : TileId) (x : Tile) :
    CountsOnly p (s.setTile t x) (s'.setTile t x) :=
  ⟨by rw [h.rest]; rfl, h.regs⟩

/-- The replay state of a tile's course is no event counter. -/
theorem not_counter_rings (t : TileId) (c : CourseId) : isCounter (tilePage t) (ctl (pRings + c.val) 0x100) = false := by
  have := t.isLt
  have := c.isLt
  have e : ∀ k, k < 4096 → ctl (pRings + c.val) 0x100 ≠ ctl (tilePage t) k := by
    intro k hk; unfold ctl pRings tilePage; omega
  simp [isCounter, e]

theorem replaying_counts {s s' : State} {t : TileId} (h : CountsOnly (tilePage t) s s') :
    s'.replaying t = s.replaying t := by
  unfold State.replaying State.fld
  rw [h.regs _ (not_counter_rings t _)]

@[simp] theorem State.replaying_setTile (s : State) (t u : TileId) (x : Tile) :
    (s.setTile t x).replaying u = s.replaying u := rfl
@[simp] theorem State.replaying_modTile (s : State) (t u : TileId) (f : Tile → Tile) :
    (s.modTile t f).replaying u = s.replaying u := rfl

theorem TileOnly.replaying {s s' : State} {t : TileId} {x : Tile} (h : TileOnly s s' t x) :
    s'.replaying t = s.replaying t := by
  unfold State.replaying State.fld
  rw [h.regs _ (not_counter_rings t _)]

theorem replayTile_false {s : State} {t : TileId} (h : s.replaying t = false) : replayTile s t = false := by
  simp [replayTile, h]

theorem replayRaise_none {s : State} {t : TileId} (h : s.replaying t = false) : replayRaise s t = none := by
  simp [replayRaise, replayTile_false h]

theorem replayAfter_same {s : State} {t : TileId} (h : s.replaying t = false) : replayAfter s t = s := by
  simp [replayAfter, replayTile_false h]

/-! ## The loads before an instruction deliver: registers change and they are counted, nothing else -/

theorem foldl_setG_frame {α : Type} (P : Tile → α) (hP : ∀ x r v, P (Tile.setG x r v) = P x) (l : List WinEntry) (x : Tile) :
    P (l.foldl (fun x e => x.setG e.rt e.value) x) = P x := by
  induction l generalizing x with
  | nil => rfl
  | cons e r ih => rw [List.foldl_cons, ih, hP]

@[simp] theorem Tile.ready_pc (x : Tile) : x.ready.pc = x.pc := foldl_setG_frame Tile.pc (fun _ _ _ => rfl) _ _
@[simp] theorem Tile.ready_lvl (x : Tile) : x.ready.lvl = x.lvl := foldl_setG_frame Tile.lvl (fun _ _ _ => rfl) _ _
@[simp] theorem Tile.ready_run (x : Tile) : x.ready.run = x.run := foldl_setG_frame Tile.run (fun _ _ _ => rfl) _ _
@[simp] theorem Tile.ready_icnt (x : Tile) : x.ready.icnt = x.icntAfter x.window.length := rfl
@[simp] theorem Tile.ready_sbuf (x : Tile) : x.ready.sbuf = x.sbuf := foldl_setG_frame Tile.sbuf (fun _ _ _ => rfl) _ _
@[simp] theorem Tile.ready_bb (x : Tile) : x.ready.bb = x.bb := foldl_setG_frame Tile.bb (fun _ _ _ => rfl) _ _
@[simp] theorem Tile.ready_bank (x : Tile) : x.ready.bank = x.bank := foldl_setG_frame Tile.bank (fun _ _ _ => rfl) _ _
@[simp] theorem Tile.ready_exS (x : Tile) : x.ready.exS = x.exS := foldl_setG_frame Tile.exS (fun _ _ _ => rfl) _ _
@[simp] theorem Tile.ready_exK (x : Tile) : x.ready.exK = x.exK := foldl_setG_frame Tile.exK (fun _ _ _ => rfl) _ _
@[simp] theorem Tile.ready_kiln (x : Tile) : x.ready.kiln = x.kiln := foldl_setG_frame Tile.kiln (fun _ _ _ => rfl) _ _
@[simp] theorem Tile.ready_ticket (x : Tile) : x.ready.ticket = x.ticket := foldl_setG_frame Tile.ticket (fun _ _ _ => rfl) _ _
@[simp] theorem Tile.ready_window (x : Tile) : x.ready.window = [] := rfl
@[simp] theorem Tile.ready_lrs (x : Tile) : x.ready.lrs = [] := rfl
@[simp] theorem Tile.ready_long (x : Tile) : x.ready.long = none := rfl
@[simp] theorem Tile.ready_units (x : Tile) : x.ready.units = 0 := rfl

theorem Tile.cur_p_setG (x : Tile) (r : BitVec 5) (v : Word) : (x.setG r v).cur.p = x.cur.p := by
  rw [Tile.cur_setG, Bank.setG_p]

/-- Predicates are no general registers. -/
@[simp] theorem Tile.ready_p (x : Tile) (r : BitVec 3) : x.ready.p r = x.p r := by
  have h : x.ready.cur.p = x.cur.p := foldl_setG_frame (fun y => y.cur.p) (fun _ _ _ => Tile.cur_p_setG _ _ _) _ _
  simp only [Tile.p, h]

@[simp] theorem Tile.ready_guard (x : Tile) (g : Guard) : x.ready.guard g = x.guard g := by simp [Tile.guard]

/-- With no load outstanding and no long instruction begun, the tile is ready as it stands. -/
theorem Tile.ready_eq (x : Tile) (h : x.window = []) (l : x.long = none) (u : x.units = 0) : x.ready = x := by
  cases x; simp_all [Tile.ready, Tile.completeLrs, Tile.icntAfter]

/-! ## Retirement -/

theorem CountsOnly.tCount (s : State) (t : TileId) (l : Level) (src k : Nat) :
    CountsOnly (tilePage t) s (tCount s t l src k) := CountsOnly.countQ _ _ _ _ _

/-- Retirement changes its tile as `Tile.stepped` says, and counters. -/
theorem retire_only (s : State) (t : TileId) (l : Level) (pc : Word) :
    CountsOnly (tilePage t) (s.setTile t ((s.tile t).stepped l pc)) (retire s t l pc) := by
  have h := CountsOnly.tCount s t l 0x20 1
  have e : retire s t l pc = (Machine.tCount s t l 0x20 1).setTile t ((s.tile t).stepped l pc) := by
    simp only [retire, State.modTile, h.tile, Tile.stepped]
  rw [e]
  exact h.setTile _ _

/-! ## An instruction that completes -/

/-- Where `n` bytes find room, fewer do. -/
theorem ringsFull_mono {s : State} {t : TileId} {m n : Nat} (h : m ≤ n) (r : ringsFull s t n = false) :
    ringsFull s t m = false := by
  unfold ringsFull at *
  simp only [Bool.and_eq_false_iff, decide_eq_false_iff_not, not_or] at *
  rcases r with r | r
  · exact .inl r
  · exact .inr ⟨r.1, by omega⟩

/-- Where a tile runs, an entry that its instruction leads to finds room for its record, so long as the instruction itself has
recorded nothing. -/
theorem xentWaits_false {s : State} {t : TileId} (h : Runs s t) (x : Tile) : xentWaits (s.setTile t x) t = false := by
  have k : ringsStalls s t 32 = false := ringsFull_mono (by decide) h.2.2.1
  have e : ringsStalls (s.setTile t x) t 32 = ringsStalls s t 32 := rfl
  simp [xentWaits, e, k]

theorem loadsCounted_only (s : State) (t : TileId) : CountsOnly (tilePage t) s (loadsCounted s t) := by
  unfold loadsCounted
  split
  · exact .refl _ _
  · exact CountsOnly.tCount _ _ _ _ _

@[simp] theorem State.tile_ran_self (s : State) (t : TileId) (x : Tile) : (s.ran t x).tile t = x := State.tile_setTile_self ..
@[simp] theorem State.ran_setTile (s : State) (t : TileId) (x y : Tile) : (s.ran t x).setTile t y = s.ran t y :=
  State.setTile_setTile ..

theorem State.ran_only (s : State) (t : TileId) (x : Tile) : CountsOnly (tilePage t) (s.setTile t x) (s.ran t x) :=
  (loadsCounted_only s t).setTile t x

/-- The state in which the body of an instruction runs. -/
theorem prep_eq (s : State) (t : TileId) :
    (completeLoads s t).modTile t (fun x => { x with long := none, units := 0 }) = s.ran t (s.tile t).ready := by
  have h := (loadsCounted_only s t).tile t
  unfold completeLoads
  rw [State.modTile_modTile]
  show (loadsCounted s t).modTile t _ = _
  rw [State.modTile, h]
  rfl

/-- A tile whose store buffer holds no frame writes none. -/
theorem frameOut_same {s : State} {t : TileId} (h : Runs s t) : frameOut s t = s := by
  simp [frameOut, h.2.2.2.2]

theorem tileOp_run {s : State} {t : TileId} (h : Runs s t) (i : Insn) (body : State → R Flow) (hl : i.load = false)
    (hL : i.long = false) (leg : i.legal = true) (gd : (s.tile t).guard i.g = true) (pr : i.present = true) :
    tileOp s t i body =
      match body (s.ran t (s.tile t).ready) with
      | .ok f s' => replayAfter (finish s' t (s.tile t).lvl (s.tile t).pc i f) t
      | .exc e s' => if xentWaits s' t then s else raiseAt s' t e
      | .halt s' => s' := by
  unfold tileOp
  rw [if_neg (by simp [h.1, h.2.1]), frameOut_same h]
  simp only [replayRaise_none h.2.2.2.1, hl, hL, prep_eq, leg, pr, State.tile_ran_self, Tile.ready_guard, gd,
    Tile.ready_lvl, Tile.ready_pc, Bool.false_eq_true, if_false, Bool.not_true, Bool.false_and]
  all_goals rfl

/-- An instruction whose effect is on its tile alone: the tile after it, and nothing else. -/
theorem tileOp_tile {s : State} {t : TileId} (h : Runs s t) (i : Insn) (body : State → R Flow) (x : Tile)
    (hl : i.load = false) (hL : i.long = false) (leg : i.legal = true) (gd : (s.tile t).guard i.g = true)
    (pr : i.present = true) (br : i.branch = false)
    (hb : body (s.ran t (s.tile t).ready) = .ok .next (s.ran t x)) :
    TileOnly s (tileOp s t i body) t (x.stepped (s.tile t).lvl ((s.tile t).pc + BitVec.ofNat 64 i.len)) := by
  rw [tileOp_run h i body hl hL leg gd pr, hb]
  simp only [finish, br, Bool.false_eq_true, if_false]
  have k := (s.ran_only t (x.stepped (s.tile t).lvl ((s.tile t).pc + BitVec.ofNat 64 i.len))).trans
    (by
      have r := retire_only (s.ran t x) t (s.tile t).lvl ((s.tile t).pc + BitVec.ofNat 64 i.len)
      rwa [State.tile_ran_self, State.ran_setTile] at r)
  have o := TileOnly.of_counts k
  rw [replayAfter_same (by rw [o.replaying, h.2.2.2.1])]
  exact o

/-- `tileFn` completes. -/
theorem tileFn_gives {s : State} {t : TileId} (h : Runs s t) (i : Insn) (f : Tile → Tile)
    (hl : i.load = false) (hL : i.long = false) (leg : i.legal = true) (gd : (s.tile t).guard i.g = true)
    (pr : i.present = true) (br : i.branch = false) :
    ∃ s', tileFn s t i f = .next s' ∧
      TileOnly s s' t ((f (s.tile t).ready).stepped (s.tile t).lvl ((s.tile t).pc + BitVec.ofNat 64 i.len)) := by
  refine ⟨_, rfl, tileOp_tile h i _ (f (s.tile t).ready) hl hL leg gd pr br ?_⟩
  rw [State.modTile, State.tile_ran_self, State.ran_setTile]

/-- An instruction whose guard is false passes: its tile goes to the next instruction, and nothing else happens. -/
theorem tileOp_pass {s : State} {t : TileId} (h : Runs s t) (i : Insn) (body : State → R Flow) (hl : i.load = false)
    (hL : i.long = false) (leg : i.legal = true) (gd : (s.tile t).guard i.g = false) :
    TileOnly s (tileOp s t i body) t
      ((s.tile t).ready.stepped (s.tile t).lvl ((s.tile t).pc + BitVec.ofNat 64 i.len)) := by
  unfold tileOp
  rw [if_neg (by simp [h.1, h.2.1]), frameOut_same h]
  simp only [replayRaise_none h.2.2.2.1, hl, hL, prep_eq, leg, State.tile_ran_self, Tile.ready_guard, gd,
    Tile.ready_lvl, Tile.ready_pc, Bool.false_eq_true, if_false, Bool.not_true, Bool.not_false, if_true, Bool.false_and]
  have c0 := (s.ran_only t (s.tile t).ready).trans (CountsOnly.tCount (s.ran t (s.tile t).ready) t (s.tile t).lvl 0x21 1)
  have key : ∀ s1, CountsOnly (tilePage t) (s.setTile t (s.tile t).ready) s1 →
      TileOnly s (replayAfter (retire s1 t (s.tile t).lvl ((s.tile t).pc + BitVec.ofNat 64 i.len)) t) t
        ((s.tile t).ready.stepped (s.tile t).lvl ((s.tile t).pc + BitVec.ofNat 64 i.len)) := by
    intro s1 c
    have k := (c.setTile t ((s1.tile t).stepped (s.tile t).lvl ((s.tile t).pc + BitVec.ofNat 64 i.len))).trans
      (retire_only s1 t (s.tile t).lvl ((s.tile t).pc + BitVec.ofNat 64 i.len))
    rw [c.tile, State.tile_setTile_self, State.setTile_setTile] at k
    have o := TileOnly.of_counts k
    rw [replayAfter_same (by rw [o.replaying, h.2.2.2.1])]
    exact o
  split
  · exact key _ (c0.trans (CountsOnly.tCount _ _ _ _ _))
  · exact key _ c0

end Sys2Proof.Machine
end

