-- ==== Sys2Proof/Tests/Slice0.lean ====
section
/-! SUPPORT. Tests: an ill-formed command for each check of WellFormed, worked examples of the spec, and for each statement
concrete states and operands that meet its hypotheses. -/

namespace Sys2Proof.Tests

open Sys2Proof.Machine

set_option Elab.async false

/-- The guard that always holds. -/
def g1 : Guard := { inv := false, pred := 0 }

/-- The guard that never holds. -/
def g0 : Guard := { inv := true, pred := 0 }

/-! ## Well-formed commands -/

theorem test_wf_control :
    (Instr.registerWrite .jtag 1 .b8 0).wf = false ∧ (Instr.unassignedPageAccess .jtag 2 false .b4).wf = false ∧
    (Instr.unclockedPageAccess .jtag 1 true .b2).wf = false ∧ (Instr.registerWrite .jtag 8 .b8 0).wf = true ∧
    (Instr.evsnapSnap .jtag 2).wf = false ∧ (Instr.evsnapHold .jtag 1).wf = false ∧ (Instr.evsnapRelease .jtag 1).wf = false ∧
    (Instr.mcQueuePop .jtag 0).wf = false := by decide

theorem test_wf_tile :
    (Instr.integerOp 0 g1 .clz 1 2 3).wf = false ∧ (Instr.integerOp 0 g1 .sextw 1 2 0).wf = true ∧
    (Instr.immediateOp 0 g1 .roti 1 2 64).wf = false ∧ (Instr.immediateOp 0 g1 .addi 1 2 64).wf = true ∧
    (Instr.divsuDivss 0 g1 true 3 2).wf = false ∧ (Instr.dstep 0 g1 true 0 2).wf = false ∧
    (Instr.divfin 0 g1 true 31 2 3).wf = false ∧ (Instr.fdivs 0 g1 1 2 3).wf = false ∧ (Instr.fdstep 0 g1 0 3).wf = false ∧
    (Instr.fdfin 0 g1 5).wf = false ∧ (Instr.fdfin 0 g1 30).wf = true := by decide

theorem test_wf_decimal :
    (Instr.dmulw 0 g1 false 1 2 3).wf = false ∧ (Instr.ddivs 0 g1 false 2 3 4).wf = false ∧
    (Instr.daddw 0 g1 1 2 4).wf = false ∧ (Instr.daddw 0 g1 2 3 4).wf = false ∧ (Instr.dsubw 0 g1 2 4 5).wf = false ∧
    (Instr.dnarw 0 g1 1 3).wf = false ∧ (Instr.dsubw 0 g1 2 4 6).wf = true := by decide

theorem test_wf_kiln :
    (Instr.kilnEnqueue 0 g1 (.bin .mulw .b64 2 0 0 0)).wf = false ∧ (Instr.kilnEnqueue 0 g1 (.bin .mulw .b8 3 0 0 0)).wf = false ∧
    (Instr.kilnEnqueue 0 g1 (.bin .dot .b32 2 0 0 0)).wf = false ∧ (Instr.kilnEnqueue 0 g1 (.bin .cmpeq .b8 8 0 0 0)).wf = false ∧
    (Instr.kilnEnqueue 0 g1 (.bin .cmplt .b8 8 0 0 0)).wf = false ∧ (Instr.kilnEnqueue 0 g1 (.bin .cmpltu .b8 9 0 0 0)).wf = false ∧
    (Instr.kilnEnqueue 0 g1 (.dec .mul false 1 2 3 0)).wf = false ∧
    (Instr.kilnEnqueue 0 g1 (.dec (.shr .halfUp 16) false 1 2 0 0)).wf = false ∧
    (Instr.kilnEnqueue 0 g1 (.dec (.shl 3) true 1 2 1 0)).wf = false ∧ (Instr.kilnEnqueue 0 g1 (.dec .neg true 1 2 1 0)).wf = false ∧
    (Instr.kilnEnqueue 0 g1 (.dec .abs true 1 2 1 0)).wf = false ∧ (Instr.kilnEnqueue 0 g1 (.dmulw 1 2 3 0)).wf = false ∧
    (Instr.kilnEnqueue 0 g1 (.dwid 1 2 0)).wf = false ∧ (Instr.kilnEnqueue 0 g1 (.dnar 2 1 0)).wf = false ∧
    (Instr.kilnEnqueue 0 g1 (.fp .cvtws 1 2 3 0)).wf = false ∧ (Instr.kilnEnqueue 0 g1 (.fp .cvtsw 1 2 3 0)).wf = false ∧
    (Instr.kilnEnqueue 0 g1 (.fp .cmpeq 8 2 3 0)).wf = false ∧ (Instr.kilnEnqueue 0 g1 (.fp .cmplt 8 2 3 0)).wf = false ∧
    (Instr.kilnEnqueue 0 g1 (.fp .cmple 8 2 3 0)).wf = false ∧ (Instr.kilnEnqueue 0 g1 (.fp .cmpun 8 2 3 0)).wf = false ∧
    (Instr.kilnEnqueue 0 g1 (.ldk 1 2 3 0 0)).wf = false ∧ (Instr.kilnEnqueue 0 g1 (.stk 4 29 3 0 0)).wf = false ∧
    (Instr.kilnEnqueue 0 g1 (.ldx 3 2 3 0 0)).wf = false ∧ (Instr.kilnEnqueue 0 g1 (.stx 3 2 3 0 0)).wf = false ∧
    (Instr.kilnEnqueue 0 g1 (.ldk 4 28 3 0 0)).wf = true := by decide

theorem test_wf_device :
    (Instr.pcieInboundRequest 0 0 0 (.read 0)).wf = false ∧ (Instr.pcieInboundRequest 0 0 0 (.read 4097)).wf = false ∧
    (Instr.pcieInboundRequest 0 0 0 (.write [])).wf = false ∧ (Instr.msiWrite 0 0 0 []).wf = false ∧
    (Instr.tombstoneExpiry 0).wf = false ∧ (Instr.endmk 0 0 0).wf = false ∧ (Instr.mrec 0 0 [1]).wf = false ∧
    (Instr.bcopy 0 0 1 []).wf = false ∧ (Instr.rsync 0 0 1 []).wf = false ∧ (Instr.spiGo .jtag 0).wf = false ∧
    (Instr.i2cGo .jtag 0).wf = false ∧ (Instr.smbUndefinedCommand { addr := 0x6C, code := 8, pecBad := false }).wf = false ∧ (Instr.cpacc 4 true 0).wf = false ∧
    (Instr.courseBalanceMove 0 1).wf = false := by decide

theorem test_wf_lengths :
    (Instr.pcieInboundRequest 0 0 0 (.write (List.replicate 513 0))).wf = false ∧
    (Instr.spiDone (List.replicate 257 0)).wf = false := by decide +kernel

/-! ## States -/

/-- Tile `t` runs at level `l` with its PC at 1000h, bricks of its four slots at 4000h to 7000h, and counting registers. -/
def at_ (t : TileId) (l : Level) : State :=
  State.reset.modTile t (fun x =>
    ({ x with run := .running, lvl := l, pc := 0x1000, bb := Vector.ofFn (fun i => BitVec.ofNat 64 (3 * 2 ^ 62 + 0x4000 + i.val * 0x1000)) }).modBankAt 0
      (fun b => { b with g := Vector.ofFn (fun i => BitVec.ofNat 64 i.val) }))

/-- A register of tile 3 in `at_ 3 l`. -/
def withG (r : BitVec 5) (v : Nat) (s : State) : State := s.modTile 3 (fun x => x.setG r (BitVec.ofNat 64 v))

/-- ISTAT of tile 3. -/
def withIstat (v : Nat) (s : State) : State := s.modTile 3 (fun x => x.modBank (fun b => { b with istat := BitVec.ofNat 64 v }))

def sL : State := at_ 3 .ledger
def sS : State := at_ 3 .steward
def sK : State := at_ 96 .keystone
def sK3 : State := at_ 3 .keystone

/-- A ticket of course 0 and session 77 in a state. -/
def ticketIn (st : TkState) : TicketRec :=
  { arrival := 40, raw := BitVec.ofNat 512 ((3 * 2 ^ 48 + 5 * 2 ^ 18 + 77) * 2 ^ 448), origin := 5, ring := none, receipt := none,
    fwd := 0, fwdFrom := none, st := st, course := 0, session := 77, entry := 0x8800, prio := true, resume := none,
    frames := Vector.replicate 4 0, slot := none, ws := [], conts := [], contSeqs := [], started := true, tid := none }

def withTicket (k : TicketRec) (s : State) : State := s.modMason (fun m => { m with tickets := m.tickets ++ [k] })

/-- The result is there, and with the state left it meets `p`. -/
def okB {α : Type} (r : R α) (p : α → State → Bool) : Bool := match r with | .ok a s => p a s | _ => false

theorem okB_exists {α : Type} (r : R α) (p : α → State → Bool) (h : okB r p = true) : ∃ a s, r = .ok a s ∧ p a s = true := by
  cases r with
  | ok a s => exact ⟨a, s, rfl, h⟩
  | exc e s => cases h
  | halt s => cases h

/-! ## Integer instructions, guards, branches -/

theorem witness_RegisterInstructionsComplete :
    Runs sL 3 ∧ (sL.tile 3).guard g1 = true ∧
    ([Instr.integerOp 3 g1 .sub 1 2 3, .immediateOp 3 g1 .sari 1 2 63, .movz 3 g1 3 1 0xFFFF, .movk 3 g1 3 1 0xFFFF,
      .cmp 3 g1 .lt 1 2 3, .cmpi 3 g1 .gtu 1 2 0x7FF, .plog 3 g1 1 2 3 9, .mfbb 3 g1 1 3, .divsuDivss 3 g1 true 30 4,
      .dstep 3 g1 true 30 4].all (fun c => decide ((Says.register c (sL.tile 3).ready).map (fun q => (q.1, q.2.1, q.2.2.1)) =
        some (3, g1, true)))) = true := by
  unfold Runs; decide +kernel

/-- Without overflow; with overflow and the trap off; with both on. -/
theorem witness_OverflowChecks :
    (Runs sL 3 ∧ (sL.tile 3).guard g1 = true ∧ Says.exact .addv ((sL.tile 3).ready.g 4) ((sL.tile 3).ready.g 5) = 9) ∧
    (let s := withG 4 (2 ^ 63 - 1) sL
     Runs s 3 ∧ (s.tile 3).guard g1 = true ∧ 2 ^ 63 ≤ Says.exact .addv ((s.tile 3).ready.g 4) ((s.tile 3).ready.g 1) ∧
      (s.tile 3).ready.cur.istat.getLsbD 16 = false) ∧
    (let s := withIstat (2 ^ 16) (withG 4 (2 ^ 63) sL)
     Runs s 3 ∧ (s.tile 3).guard g1 = true ∧ Says.exact .subv ((s.tile 3).ready.g 4) ((s.tile 3).ready.g 1) < -(2 ^ 63) ∧
      (s.tile 3).ready.cur.istat.getLsbD 16 = true) := by
  unfold Runs; decide +kernel

/-- A zero divisor and the overflow, each with its trap off and on; a plain division. -/
theorem witness_DivisionFinishes :
    ((2 : BitVec 5).toNat % 2 = 0 ∧ 2 ≤ (2 : BitVec 5).toNat ∧ Runs sL 3 ∧ (sL.tile 3).guard g1 = true ∧
      (sL.tile 3).ready.g 0 = 0 ∧ (sL.tile 3).ready.g 5 ≠ 0 ∧ (sL.tile 3).ready.cur.istat.getLsbD 18 = false) ∧
    (let s := withIstat (2 ^ 18 + 2 ^ 17) (withG 5 (2 ^ 64 - 1) (withG 4 (2 ^ 63) sL))
     Runs s 3 ∧ (s.tile 3).guard g1 = true ∧ ((s.tile 3).ready.g 4).toInt = -(2 ^ 63) ∧ ((s.tile 3).ready.g 5).toInt = -1 ∧
      (s.tile 3).ready.cur.istat.getLsbD 17 = true ∧ (s.tile 3).ready.cur.istat.getLsbD 18 = true) ∧
    (let s := withG 5 (2 ^ 64 - 1) (withG 4 (2 ^ 63) sL)
     Runs s 3 ∧ ((s.tile 3).ready.g 4).toInt = -(2 ^ 63) ∧ ((s.tile 3).ready.g 5).toInt = -1 ∧
      (s.tile 3).ready.cur.istat.getLsbD 17 = false) := by
  unfold Runs; decide +kernel

theorem witness_ThirtyTwoStepsDivide : 2 ^ 64 - 1 < 2 ^ 64 ∧ 0 < 1 ∧ 1 < 2 ^ 64 ∧ 0 < 2 ^ 64 - 1 := by decide

/-- Spec/03: 7 divided by 2 in 32 steps. -/
theorem test_dstep_divides : Says.steps 32 7 0 2 = (3, 1) := by decide +kernel

/-- A guard that is false, on an instruction of each width, on a load, and on a form that some parts lack. -/
theorem witness_GuardFalsePasses :
    Runs sL 3 ∧ (sL.tile 3).guard g0 = false ∧ sL.fuses.caps0.getLsbD 8 = true ∧
    ([Instr.integerOp 3 g0 .sub 1 2 3, .load 3 g0 .ldd 1 (.mform 0 0) true, .mvs 3 g0 false 1 2 3, .edtm 3 g0 true 1 2 3 4,
      .kilnEnqueue 3 g0 (.ld 1 2 0), .post 3 g0].all (fun c => (Says.guarded c).isSome && c.wf)) = true := by
  unfold Runs; decide +kernel

/-- An undefined encoding by itself, one not well-formed, and a form that the part lacks. -/
theorem witness_UndefinedEncodingRaises :
    Runs sL 3 ∧ Says.guarded (.integerOp 3 g0 .clz 1 2 3) = some (3, g0, 4, false) ∧ (Instr.integerOp 3 g0 .clz 1 2 3).wf = false ∧
    (let s : State := { sL with fuses := { sL.fuses with caps0 := 0 } }
     Runs s 3 ∧ Says.guarded (.edtm 3 g0 true 1 2 3 4) = some (3, g0, 8, false) ∧ Says.optionalForm (.edtm 3 g0 true 1 2 3 4) = true ∧
      s.fuses.caps0.getLsbD 8 = false) := by
  unfold Runs; decide +kernel

/-- A branch, and a jump to a word-aligned and to another address. -/
theorem witness_BranchesGoToTarget :
    Runs sL 3 ∧ (sL.tile 3).guard g1 = true ∧ (sL.tile 3).pc.toNat % 4 = 0 ∧
    (Says.branch (.bl 3 g1 5) (sL.tile 3).ready).map (fun q => (q.1, q.2.1, q.2.2.1)) = some (3, g1, 0x1014) ∧
    (Says.branch (.jmp 3 g1 4) (sL.tile 3).ready).map (fun q => (q.1, q.2.1, q.2.2.1)) = some (3, g1, 4) ∧
    (Says.branch (.jl 3 g1 31 6) (sL.tile 3).ready).map (fun q => (q.1, q.2.1, q.2.2.1)) = some (3, g1, 6) ∧
    (Runs sK 96 ∧ (Says.branch (.jmp 96 g1 31) (sK.tile 96).ready).map (fun q => q.2.2.1) = some 31) := by
  unfold Runs; decide +kernel

/-! ## Loads, stores, atomics, maintenance -/

/-- A store of 8 bytes at `pa` in the store buffer of tile 3. -/
def withStore (pa : Nat) (s : State) : State :=
  s.modTile 3 (fun x => { x with sbuf := x.sbuf ++ [{ pa := pa, bytes := [1, 2, 3, 4, 5, 6, 7, 8], device := false, brick := true, via := none }] })

/-- A load miss of tile 3 for register `r`. -/
def withMiss (r : BitVec 5) (s : State) : State := s.modTile 3 (fun x => { x with window := x.window ++
  [{ rt := r, value := 9, miss := true, pc := x.pc }] })

/-- The last doubleword of a brick, from memory: an L1D hit and, with four misses outstanding, a miss, one of them a line of
Heartwood; a store that overlaps in part; and a store forwarded. -/
theorem witness_LoadsDeliver :
    let m : MemRef := .mform 0 0xFF8
    let heart (s : State) : State := s.modTile 3 (fun x => { x with bb := x.bb.set 0 (BitVec.ofNat 64 (3 * 2 ^ 62 + 0x080000004000)) })
    let four := withMiss 7 (withMiss 7 (withMiss 7 (withMiss 7 sL)))
    let fwd := withStore 0x4FF8 sL
    ((Says.loadForm (.load 3 g1 .ldd 1 m true)).map (fun q => (q.1, q.2.1, q.2.2.1)) = some (3, g1, .ldd) ∧ Runs sL 3 ∧ (sL.tile 3).guard g1 = true ∧
      okB (scalarXl (Says.loadFound sL 3 1 m true) 3 .load (refAddr ((Says.loadFound sL 3 1 m true).tile 3) m) 8)
        (fun (xl : Xl) s1 => decide (xl.ty = .brick ∧ (s1.tile 3).sbuf.any (fun e => e.device) = false ∧
          lastOverlap (s1.tile 3).sbuf xl.pa 8 = none ∧ s1.poisoned xl.pa 8 = false)) = true) ∧
    ((Says.loadForm (.flds 3 g1 1 1 0 false)).map (fun q => (q.1, q.2.1, q.2.2.1)) = some (3, g1, .ldwu) ∧ Runs four 3 ∧ (four.tile 3).lrs.length = 4) ∧
    (let h := heart four
     Runs h 3 ∧ okB (scalarXl (Says.loadFound h 3 1 m true) 3 .load (refAddr ((Says.loadFound h 3 1 m true).tile 3) m) 8)
      (fun (xl : Xl) s1 => decide (regionOf s1 xl.pa = .heartwood ∧ 4 ≤ (s1.tile 3).lrs.length ∧ lastOverlap (s1.tile 3).sbuf xl.pa 8 = none ∧
        s1.poisoned xl.pa 8 = false)) = true) ∧
    (let part := withStore 0x4FF4 sL
     Runs part 3 ∧ okB (scalarXl (Says.loadFound part 3 1 m true) 3 .load (refAddr ((Says.loadFound part 3 1 m true).tile 3) m) 8)
      (fun (xl : Xl) s1 => decide (lastOverlap (s1.tile 3).sbuf xl.pa 8 = some 0 ∧ plainPa s1 0x4FF4 = true ∧ (s1.tile 3).tk = none ∧
        s1.poisoned xl.pa 8 = false)) = true) ∧
    (Runs fwd 3 ∧ okB (scalarXl (Says.loadFound fwd 3 1 m true) 3 .load (refAddr ((Says.loadFound fwd 3 1 m true).tile 3) m) 8)
      (fun (xl : Xl) s1 => decide (lastOverlap (s1.tile 3).sbuf xl.pa 8 = some 0 ∧
        ((s1.tile 3).sbuf[0]?).map (fun e => (e.pa, e.bytes.length)) = some (xl.pa, 8))) = true) := by
  unfold Runs; decide +kernel

/-- Tile 3 at Steward level, whose virtual addresses from 0 are memory of one type from a multiple of 16 MiB. -/
def withSpan (ty : Nat) (pa24 : Nat) : State :=
  (sS.setReg (ctl 0xFF 0x130) 0x1000).setReg (ctl 3 0x280) (BitVec.ofNat 64 (2 ^ 63 + ty * 2 ^ 60 + pa24 * 4))

/-- A load of 8 bytes at 10h translates in `s`, to memory of which `p` holds. -/
def loadsTo (s : State) (p : Xl → State → Bool) : Bool :=
  decide ((s.tile 3).guard g1 = true) && okB (scalarXl (Says.loadFound s 3 1 (.indexed 0 16) true) 3 .load
    (refAddr ((Says.loadFound s 3 1 (.indexed 0 16) true).tile 3) (.indexed 0 16)) 8) (fun xl s1 => (s1.tile 3).sbuf.isEmpty && p xl s1)

/-- A device load of a control register, of a PCIe window with no sub-port, of plain memory of type device; a recorded load
on a course that records nothing, and on one that records. -/
theorem witness_DeviceAndRecordedLoads :
    (Runs (withSpan 0 0x3F0000) 3 ∧ loadsTo (withSpan 0 0x3F0000) (fun xl s1 => decide (xl.ty = .device ∧ regionOf s1 xl.pa = .control ∧
      (xl.pa - 0x3F0000000000) = 0x10 ∧ pageKind 0 ≠ none ∧ s1.stopped.contains 0 = false ∧ s1.posted = [] ∧ isCounter 0xFF 0x10 = false)) = true) ∧
    (Runs (withSpan 0 0x100000) 3 ∧ loadsTo (withSpan 0 0x100000) (fun xl s1 => decide (xl.ty = .device ∧ regionOf s1 xl.pa = .pcie 0 ∧
      (windowPort s1 0 (xl.pa - 0x100000000000)).isNone)) = true) ∧
    (Runs (withSpan 1 0) 3 ∧ loadsTo (withSpan 1 0) (fun xl s1 => decide (xl.ty = .device ∧ plainPa s1 xl.pa = true ∧ s1.poisoned xl.pa 8 = false)) = true) ∧
    (Runs (withSpan 2 0) 3 ∧ loadsTo (withSpan 2 0) (fun xl s1 => decide (xl.ty = .recorded ∧ s1.poisoned xl.pa 8 = false ∧
      recording s1 0 = false)) = true) ∧
    (let s := (withSpan 2 0).setReg (ringsReg 0 0x100) 1
     Runs s 3 ∧ loadsTo s (fun xl s1 => decide (xl.ty = .recorded ∧ s1.poisoned xl.pa 8 = false ∧ recording s1 0 = true ∧
      (s1.course 0).rings.stopping = false ∧ (s1.course 0).rings.late = [] ∧ (s1.course 0).rings.gapRecs = 0 ∧
      (s1.course 0).rings.gapBytes = 0 ∧ (s1.course 0).rings.held + 48 ≤ 65536)) = true) := by
  unfold Runs; decide +kernel

/-- A store into an empty and into a full buffer. -/
theorem witness_StoresEnterTheBuffer :
    let m : MemRef := .mform 0 0
    let full := (List.range 8).foldl (fun s i => withStore (0x4000 + 8 * i) s) sL
    (Says.storeForm (.store 3 g1 .b8 1 m)).map (fun q => (q.1, q.2.1, q.2.2.1)) = some (3, g1, 8) ∧
    (Says.storeForm (.fsts 3 g1 1 0 0)).map (fun q => (q.1, q.2.1, q.2.2.1)) = some (3, g1, 4) ∧
    Runs full 3 ∧ (full.tile 3).guard g1 = true ∧
    okB (scalarXl (sL.setTile 3 (sL.tile 3).ready) 3 .store (refAddr (sL.tile 3).ready m) 8) (fun _ s1 => !s1.replaying 3) = true ∧
    okB (scalarXl (full.setTile 3 (full.tile 3).ready) 3 .store (refAddr (full.tile 3).ready m) 8)
      (fun _ s1 => decide (8 ≤ (s1.tile 3).sbuf.length ∧ (drainOne s1 3).replaying 3 = false)) = true := by
  unfold Runs; decide +kernel

theorem witness_StoresAndMissesFinish :
    (sL.tile 3).sbuf = [] ∧
    (let s := withStore 0x4000 (withMiss 8 (withMiss 7 sL))
     let e (r : BitVec 5) (m : Bool) : WinEntry := { rt := r, value := 9, miss := m, pc := 0x1000 }
     s.live = true ∧ (s.tile 3).sbuf.length = 1 ∧ plainPa s 0x4000 = true ∧ (s.tile 3).tk = none ∧
      (s.tile 3).window.modify 0 (fun e => { e with miss := false }) = [e 7 false] ++ [e 8 true] ∧
      (s.tile 3).window.modify 1 (fun e => { e with miss := false }) = [] ++ [e 7 true, e 8 false]) := by decide +kernel

/-- A store through a brick by a ticket: its first write of a line, and a second one. -/
theorem witness_TicketedStores :
    let k : TicketRec := { ticketIn (.running 3) with slot := some 0 }
    let s0 : State := (withTicket k sL).modTile 3 (fun x => { x with tk := some 40 })
    let w : WsLine := { line := 0x80, mask := 1, key := 0, place := 0 }
    let s1 : State := s0.modMason (fun m => { m with tickets := [{ k with ws := [w] }] })
    ([withStore 0x4008 s0, withStore 0x4008 s1].all (fun s => s.live && decide ((s.tile 3).sbuf.length = 1 ∧ plainPa s 0x4008 = true ∧
      (s.tile 3).tk = some 40 ∧ (0x4008 : Nat) / 128 = 0x80 ∧ ((ticketOf s 40).map (fun q => q.slot)) = some (some 0)))) = true ∧
    ((ticketOf (withStore 0x4008 s0) 40).map (fun q => q.ws.any (fun w => decide (w.line = 0x80))) = some false) ∧
    ((ticketOf (withStore 0x4008 s1) 40).map (fun q => q.ws.any (fun w => decide (w.line = 0x80))) = some true) := by decide +kernel

theorem witness_FencesWriteTheBuffer :
    let s := withStore 0x4000 (withStore 0x4FF8 sL)
    Runs s 3 ∧ (s.tile 3).guard g1 = true ∧ Says.plainBuffer s 3 = true := by
  unfold Runs; decide +kernel

/-- Cache and key-rights instructions on a keystone tile, in Ledger level and with an address that faults; TLB instructions with an entry that
each names. -/
theorem witness_CacheAndTlbMaintenance :
    let k := (sK.setReg (ctl 0xFF 0x130) 0x1000)
    let e : TlbEntry := { vpn := 1, ast := 5, w0 := 0, w1 := 0, w2 := 0, w3 := 0, idx := 0 }
    let s := (withG 4 0x4000 sS).modTile 3 (fun x => { x with dtlb := [e], itlb := [{ e with ast := 7 }] })
    (Runs k 96 ∧ (k.tile 96).guard g1 = true ∧ (k.tile 96).lvl ≠ .ledger ∧ k.replaying 96 = false ∧
      ([Instr.dccln 96 g1 4, .dcfls 96 g1 4, .icinv 96 g1 4, .dcz 96 g1 4, .mtkrr 96 g1 1 2, .mfkrr 96 g1 1 true].all (fun c =>
        match Says.stewardOnly c (k.setTile 96 (k.tile 96).ready) (k.tile 96).ready with
        | some (_, _, .ok _ _) => true
        | _ => false)) = true) ∧
    ((sL.tile 3).lvl = .ledger ∧ Runs sL 3 ∧ ((Says.stewardOnly (.dccln 3 g1 4) (sL.setTile 3 (sL.tile 3).ready) (sL.tile 3).ready).isSome) = true) ∧
    (Runs sS 3 ∧ (sS.tile 3).lvl ≠ .ledger ∧ (match Says.stewardOnly (.dccln 3 g1 4) (sS.setTile 3 (sS.tile 3).ready) (sS.tile 3).ready with
        | some (_, _, .exc _ s1) => !s1.replaying 3 && decide ((s1.tile 3).pc = (sS.tile 3).pc)
        | _ => false) = true) ∧
    (Runs s 3 ∧ (s.tile 3).guard g1 = true ∧ (s.tile 3).lvl ≠ .ledger ∧ (∀ u, (s.tile u).sbuf = [] ∧ (s.tile u).kiln.queue = []) ∧
      (∀ u, ∀ e ∈ (s.tile u).itlb ++ (s.tile u).dtlb, e.ast < 2 ^ 16) ∧ (∀ k, ∀ e ∈ (s.course k).ctlb, e.ast < 2 ^ 16) ∧
      ([Instr.tlbia 3 g1 4 5, .tlbit 3 g1 5, .tlbix 3 g1].all (fun c => match Says.invalidates c (s.tile 3).ready with
        | some (3, _, m) => !Says.tlbKept m e
        | _ => false)) = true) ∧
    (Runs sL 3 ∧ ((Says.invalidates (.tlbix 3 g1) (sL.tile 3).ready).isSome) = true) := by
  unfold Runs; decide +kernel

/-- An atomic that stores and one that does not. -/
theorem witness_AtomicsReadAndStore :
    let s := withG 4 (4 * 2 ^ 60) sL
    Runs s 3 ∧ (s.tile 3).guard g1 = true ∧
    okB (wordXl (s.setTile 3 (s.tile 3).ready) 3 .atomic ((s.tile 3).ready.g 4) 8) (fun (p : Addr × Xl) s1 =>
      decide ((s1.tile 3).sbuf = [] ∧ p.2.ty = .brick ∧ (s1.tile 3).tk = none ∧ plainPa s1 p.2.pa = true ∧
        s1.poisoned p.2.pa 8 = false ∧ ofBytes (s1.bytes p.2.pa 8) = 0)) = true ∧
    ((Says.atomic (.fetaddwFetaddd 3 g1 true 1 4 5) (s.tile 3).ready).map (fun q => (q.1, q.2.1, q.2.2.2.2.2 0))) = some (3, g1, some 5) ∧
    ((Says.atomic (.caswCasd 3 g1 true 1 4 5) (s.tile 3).ready).map (fun q => q.2.2.2.2.2 0)) = some none ∧
    ((Says.atomic (.caswCasd 3 g1 true 0 4 5) (s.tile 3).ready).map (fun q => q.2.2.2.2.2 0)) = some (some 5) := by
  unfold Runs; decide +kernel

/-! ## System registers, exceptions -/

/-- A number that reads, one that raises, one of no register, and the timebase; SPs of the last number. -/
theorem witness_MfsysReads :
    Runs sL 3 ∧ (sL.tile 3).guard g1 = true ∧ (0x30 : BitVec 11) ≠ 0x11 ∧ recording sL (courseOf 3) = false ∧
    (match Says.mfsys (sL.setTile 3 (sL.tile 3).ready) 3 (sL.tile 3).ready 0x2F with | .inl e => decide (e = Says.priv) | _ => false) = true ∧
    (match Says.mfsys (sL.setTile 3 (sL.tile 3).ready) 3 (sL.tile 3).ready 0x19 with | .inr q => decide (q.1 = 0x0305) | _ => false) = true ∧
    (match Says.mfsys (sK.setTile 96 (sK.tile 96).ready) 96 (sK.tile 96).ready 0x2F with | .inr q => decide (q.1 = 0) | _ => false) = true ∧
    (match Says.mfsys (sL.setTile 3 (sL.tile 3).ready) 3 (sL.tile 3).ready 0x7FF with | .inr q => decide (q.1 = 0) | _ => false) = true := by
  unfold Runs; decide +kernel

theorem witness_MtsysWrites :
    Runs sS 3 ∧ (sS.tile 3).guard g1 = true ∧ Runs sK 96 ∧
    (Says.mtsysForm (.efdataWrite 96 g1 5)).map (fun q => (q.1, q.2.1, q.2.2.1)) = some (96, g1, 0x2F) ∧
    (Says.mtsysForm (.mtsys 3 g1 0x26 5)).map (fun q => (q.1, q.2.1, q.2.2.1)) = some (3, g1, 0x26) ∧
    (match Says.mtsys 3 (sS.tile 3).ready 0x26 5 with | .inr y => decide (y.tcmp = 5) | _ => false) = true ∧
    (match Says.mtsys 96 (sK.tile 96).ready 0x2F 5 with | .inr y => decide (y.ef.get 0 = 5) | _ => false) = true ∧
    (match Says.mtsys 3 (sL.tile 3).ready 0 4 with | .inl e => decide (e = Says.priv) | _ => false) = true ∧
    (match Says.mtsys 3 (sS.tile 3).ready 0x19 5 with | .inl e => decide (e = Says.illegal) | _ => false) = true := by
  unfold Runs; decide +kernel

/-- Slots 1Fh and 48h of a bank with a session, 0 of bank 0, and slot 7Fh of a bank without a session. -/
theorem witness_BankWindow :
    let s (bank slot : Nat) : State := sS.modTile 3 (fun x => ({ x with bwin := BitVec.ofNat 64 (2048 + slot * 16 + bank) }).modBankAt 4
      (fun k => { k with sess := some 77 }))
    (∀ b ∈ [(0, 0), (4, 0x1F), (4, 0x48), (7, 0x7F)], Runs (s b.1 b.2) 3 ∧ ((s b.1 b.2).tile 3).guard g1 = true ∧
      ((s b.1 b.2).tile 3).lvl = .steward ∧ bankMoves (s b.1 b.2) 3 (Fin.ofNat 16 (((s b.1 b.2).tile 3).bwin.toNat % 16)) = false) ∧
    (((s 4 0x1F).tile 3).banks.get 4).sess.isSome = true ∧ (((s 7 0x7F).tile 3).banks.get 7).sess.isSome = false ∧
    (match Says.slotWrite (((s 4 0x48).tile 3).banks.get 4) 0x21 0xAC with | .inl i => decide (i = 30) | .inr _ => false) = true ∧
    (match Says.slotWrite (((s 4 0x48).tile 3).banks.get 4) 0x21 0x12D with | .inl _ => false | .inr k => decide (k.d.get 0 = 0x12D)) = true := by
  unfold Runs; decide +kernel

/-- A tile whose level-`l` exception registers name a stack at 8000h. -/
def withStack (t : TileId) (s : State) : State :=
  (s.setReg (ctl 0xFF 0x130) 0x1000).modTile t (fun x =>
    { x with exK := { x.exK with entry := 0xA000, sp := 0x8000, slim := 0x4000 }, exS := { x.exS with entry := 0xB000, sp := 0x8000, slim := 0x4000 } })

theorem witness_ExceptionEntry :
    let s := withStack 96 sK
    recording s (courseOf 3) = false ∧
    (match stackCheck (Says.entering s 96 0x19) 96
        (Says.entryLevel 96 (s.tile 96).ready.lvl 0x19) with
      | .inr q => decide (q.1.pa = 0x7F80)
      | .inl _ => false) = true := by decide +kernel

/-- A stack pointer below SLIM: with the emergency area free and the Keystone stack good, with it free and the Keystone stack the
one that fails, and with it occupied. -/
theorem witness_StackFault :
    let s := (withStack 3 sL).modTile 3 (fun x => { x with exS := { x.exS with sp := 0x4000 } })
    let k := (withStack 96 sK).modTile 96 (fun x => { x with exK := { x.exK with sp := 0x4000 } })
    let full := s.modTile 3 (fun x => { x with ef := x.ef.set 16 (BitVec.ofNat 64 (2 ^ 63)) })
    let fails (s : State) (t : TileId) : Bool :=
      match stackCheck (Says.entering s t 1) t (Says.entryLevel t (s.tile t).ready.lvl 1) with | .inl _ => true | .inr _ => false
    recording s (courseOf 3) = false ∧ fails s 3 = true ∧ fails k 96 = true ∧ fails full 3 = true ∧
    (((full.tile 3).ready.ef.get 16).getLsbD 63 = true ∧ ((s.tile 3).ready.ef.get 16).getLsbD 63 = false) ∧
    (match stackCheck ((Says.entering s 3 1).setTile 3 (s.tile 3).ready) 3 .keystone with | .inr q => decide (q.1.pa = 0x7F80) | .inl _ => false) = true ∧
    (match stackCheck ((Says.entering k 96 1).setTile 96 (k.tile 96).ready) 96 .keystone with | .inr _ => false | .inl _ => true) = true := by
  decide +kernel

theorem witness_TrapsEnter :
    Runs sS 3 ∧ (sS.tile 3).guard g1 = true ∧ (sS.tile 3).ready.lvl ≠ .keystone ∧
    Runs sK 96 ∧ (sK.tile 96).guard g1 = true ∧ (sK.tile 96).ready.lvl = .keystone := by
  unfold Runs; decide +kernel

/-- RETE at Ledger level; with a frame of an invalid PSTATE (level 3); with one that returns to Keystone level of a keystone
tile, and to Ledger level of a ledger tile. -/
theorem witness_ReteRestores :
    let s (t : TileId) (ps : Nat) : State := ((withStack t (at_ t .keystone)).setDword 0x8008 (BitVec.ofNat 64 ps)).setDword 0x8000 0x1004
    (Runs sL 3 ∧ (sL.tile 3).guard g1 = true ∧ (sL.tile 3).ready.lvl = .ledger) ∧
    (∀ q ∈ [((96 : TileId), 3), (96, 2), (3, 4)], Runs (s q.1 q.2) q.1 ∧ ((s q.1 q.2).tile q.1).guard g1 = true ∧
      ((s q.1 q.2).tile q.1).ready.lvl ≠ .ledger ∧ ((s q.1 q.2).tile q.1).ready.sbuf = [] ∧
      (Says.exOf ((s q.1 q.2).tile q.1).ready .keystone).sp.toNat % 0x4000 + 128 ≤ 0x4000 ∧
      ((s q.1 q.2).tile q.1).ready.ticket = false ∧
      okB (translate ((s q.1 q.2).setTile q.1 ((s q.1 q.2).tile q.1).ready) q.1 .data
          (dataCtx ((s q.1 q.2).setTile q.1 ((s q.1 q.2).tile q.1).ready) q.1) .rete (Says.exOf ((s q.1 q.2).tile q.1).ready .keystone).sp 128)
        (fun (xl : Xl) s1 => decide (xl.ty = .normal ∧ xl.pa = 0x8000 ∧ s1.poisoned xl.pa 128 = false ∧ s1.replaying q.1 = false ∧
          (s1.tile q.1).pc = 0x1000 ∧ ofBytes (s1.bytes (xl.pa + 8) 8) = q.2 ∧ ofBytes (s1.bytes xl.pa 8) = 0x1004)) = true) := by
  unfold Runs; decide +kernel

/-- A doorbell that a running ledger tile accepts; a tile in POST; a tile with nothing pending. -/
theorem witness_InterruptAccepted :
    let s := (sL.setReg (ctl 3 0x100) 1).modTile 3 (fun x => { x with iens := 2, ie := true })
    s.replaying 3 = false ∧ (s.tile 3).run = .running ∧ Says.accepts s 3 = some (.doorbell, 0x31) ∧
    Says.accepts sL 3 = none ∧ ((sL.modTile 3 (fun x => { x with run := .postWait 1 })).tile 3).run = .postWait 1 := by decide +kernel

/-- A keystone tile in checkstop; one that DEV.MCTGT does not name; the one that it names, with another left and with none. -/
theorem witness_TileCheckstops :
    let stop (n : Nat) (s : State) : State := s.modTile (Fin.ofNat 100 n) (fun x => { x with run := .checkstop })
    (sK.live = true ∧ ((stop 96 sK).tile 96).run = .checkstop) ∧
    (let s := at_ 97 .keystone
     s.live = true ∧ (s.tile 97).run ≠ .checkstop ∧ (s.tile 97).sbuf = [] ∧ s.fld (ctl 0xFF 0x160) 1 0 ≠ (97 : TileId).val - 96 ∧
      s.fld (ctl 0xFF 0x160) 1 0 = 0 ∧ (s.tile 96).run ≠ .checkstop ∧ s.mcq.length < 32) ∧
    (sK.fld (ctl 0xFF 0x160) 1 0 = (96 : TileId).val - 96 ∧ (sK.tile 96).sbuf = [] ∧ (sK.tile 97).run ≠ .checkstop) ∧
    (let s := stop 97 (stop 98 (stop 99 sK))
     s.live = true ∧ (s.tile 96).run ≠ .checkstop ∧ s.fld (ctl 0xFF 0x160) 1 0 = 0 ∧
      (∀ v : TileId, 96 ≤ v.val → v ≠ 96 → (s.tile v).run = .checkstop)) := by decide +kernel

/-- A ledger tile with a ticket bound to it, in a course that keeps other tiles. -/
theorem witness_LedgerCheckstops :
    let s := withTicket (ticketIn (.bound 3)) sS
    s.live = true ∧ s.replaying 3 = false ∧ (s.tile 3).run ≠ .checkstop ∧ (s.tile 3).sbuf = [] ∧
    (s.reg (ctl 0x91 (0x188 + 8 * ((3 : TileId).val / 64)))).getLsbD 3 = false ∧ (s.reg (ctl 0x91 0x188)).getLsbD 4 = false ∧
    (∀ k ∈ s.mason.tickets, ∀ j ∈ s.mason.tickets, k.st = .running 3 → j.st = .running 3 → k.arrival = j.arrival) ∧
    (∀ k ∈ s.mason.tickets, k.st ≠ .running 3) ∧ (∀ b : Fin 16, b ≠ 0 → ((s.tile 3).banks.get b).sess = none) := by decide +kernel

/-! ## Sessions, tickets at a tile, POST and JSYNC -/

/-- Session `n` in bank `b` of tile 3, with its kiln at rest. -/
def withSess (b : Fin 16) (n : BitVec 18) (s : State) : State :=
  s.modTile 3 (fun x => x.modBankAt b (fun k => { k with sess := some n }))

/-- Tile 3 runs that ticket in bank 2; the Mason is in RUN and the journal in SINGLE. -/
def sT : State :=
  (withTicket (ticketIn (.running 3)) (withSess 2 77 sL)).modTile 3 (fun x => { x with ticket := true, tk := some 40, bank := 2 })
    |>.setReg (ctl 0x90 0x100) 1 |>.setReg (ctl 0x91 0x100) 1

/-- SWS with a ticket; with a number of 19 bits; of a held session; of one in a bank; of one that is nowhere. The mover with
nothing to do, with a fill and with a spill. -/
theorem witness_SessionsMove :
    let held := withTicket (ticketIn .queued) sS
    let here := withSess 2 5 (sS.setFld (ctl pHbmc 0x120) 1 0 2)
    let o : MoverOp := { session := 5, tile := 3, bank := 7, spill := false, why := .sws }
    let fill := (here.modCourse 0 (fun c => { c with mover := [{ o with session := 9 }] })).modTile 3 (fun x => { x with run := .swsWait 1 9 })
    let full := (List.range 15).foldl (fun s i => withTicket { ticketIn .queued with session := BitVec.ofNat 18 i }
      (withSess (Fin.ofNat 16 (i + 1)) (BitVec.ofNat 18 i) s)) sS
    let spill := here.modCourse 0 (fun c => { c with mover := [{ o with bank := 2, spill := true }] })
    Runs sS 3 ∧ (sS.tile 3).guard g1 = true ∧ (3 : TileId).val < 96 ∧ (sS.tile 3).lvl = .steward ∧
    ((sS.tile 3).kiln.queue = [] ∧ (sS.tile 3).kiln.fault = none) ∧
    ((sS.modTile 3 (fun x => { x with ticket := true })).tile 3).ready.ticket = true ∧
    ((withG 4 (2 ^ 18) sS).tile 3).ready.g 4 = BitVec.ofNat 64 (2 ^ 18) ∧ (sS.tile 3).ready.ticket = false ∧
    sessionHeld held 77 = true ∧
    (sessionHeld here 5 = false ∧ ((here.tile 3).ready.g 5).toNat = 5 ∧ bankOn (here.setTile 3 (here.tile 3).ready) 3 5 = some 2 ∧
      bankMoves (here.setTile 3 (here.tile 3).ready) 3 2 = false) ∧
    (sessionHeld sS 5 = false ∧ bankOn (sS.setTile 3 (sS.tile 3).ready) 3 5 = none ∧ (sS.course (courseOf 3)).mover = [] ∧
      (∀ b, ((sS.tile 3).ready.banks.get b).sess = none ∧ ((sS.tile 3).ready.banks.get b).used = 0)) ∧
    (sessionHeld full 20 = false ∧ bankOn (full.setTile 3 (full.tile 3).ready) 3 20 = none ∧
      (∀ b, b ≠ 0 → (((full.tile 3).ready.banks.get b).sess.any (sessionHeld full)) = true)) ∧
    (sS.live = true ∧ (sS.course 0).mover = []) ∧
    (fill.live = true ∧ fill.fld (ctl pHbmc 0x120) 1 0 = 2 ∧ (fill.course 0).mover = [{ o with session := 9 }] ∧ courseOf 3 = 0 ∧ (fill.tile 3).run = .swsWait 1 9 ∧
      residentAt fill 9 = none ∧ ((fill.tile 3).banks.get 7).sess = none ∧ fill.poisoned (sessAddr 9) 512 = false) ∧
    (spill.live = true ∧ (spill.course 0).mover = [{ o with bank := 2, spill := true }] ∧ ((spill.tile 3).banks.get 2).sess = some 5 ∧ spill.fld (ctl pHbmc 0x120) 1 0 = 2) := by
  unfold Runs; decide +kernel

/-- An image that is live and readable, for the mover's fill. -/
theorem witness_SessionsMove_image :
    let s := sS.setByte (sessAddr 9 + 0x1F7) 1
    sessLive s 9 = true ∧ (bankFromMem s (sessAddr 9) 9).isSome = true := by decide +kernel

/-- TAKE at Ledger level, with no ticket, and with a ready one. -/
theorem witness_TakeDispatches :
    let s := (withTicket (ticketIn (.bound 3)) (withSess 2 77 sS)).modCourse 0 (fun c => { c with runHi := [40] })
    Runs sL 3 ∧ (sL.tile 3).guard g1 = true ∧ (sL.tile 3).ready.lvl ≠ .steward ∧
    (Runs sS 3 ∧ (sS.tile 3).ready.lvl = .steward ∧ (sS.tile 3).ready.ticket = false ∧
      (readyTicket (sS.setTile 3 (sS.tile 3).ready) 3).isNone = true) ∧
    (Runs s 3 ∧ (s.tile 3).ready.lvl = .steward ∧ (s.tile 3).ready.ticket = false ∧ recording s (courseOf 3) = false ∧
      (s.course (courseOf 3)).fillErr = [] ∧
      (readyTicket (s.setTile 3 (s.tile 3).ready) 3).map (fun q => (q.1.arrival, q.2)) = some (40, 2)) := by
  unfold Runs; decide +kernel

theorem witness_YieldGivesUpTile :
    (Runs sS 3 ∧ (sS.tile 3).guard g1 = true ∧ (sS.tile 3).ready.lvl ≠ .ledger) ∧
    (Runs sL 3 ∧ (sL.tile 3).ready.lvl = .ledger ∧ (sL.tile 3).ready.ticket = false) ∧
    (Runs sT 3 ∧ (sT.tile 3).guard g1 = true ∧ (sT.tile 3).ready.lvl = .ledger ∧ (sT.tile 3).ready.ticket = true ∧
      ((sT.tile 3).ready.kiln.queue = [] ∧ (sT.tile 3).ready.kiln.fault = none) ∧ (sT.tile 3).ready.sbuf = [] ∧
      recording sT (courseOf 3) = false ∧ (sT.tile 3).ready.tk = some 40 ∧ ticketOf sT 40 = some (ticketIn (.running 3)) ∧
      (boundTo sT 3).length = 0 ∧ (∀ q ∈ sT.mason.tickets, q.arrival = 40 → q = ticketIn (.running 3)) ∧
      (ticketIn (.running 3)).course = courseOf 3) := by
  unfold Runs; decide +kernel

/-- CONT at Keystone level; with the bytes of a ticket that may be staged (all zero) and of one that asks for an immediate phase, bit 47. -/
theorem witness_ContStages :
    let s := withG 4 (5 * 2 ^ 60) sT
    let v := s.setBytes 0x5000 (beBytes 64 (2 ^ (448 + 47)))
    (Runs sK3 3 ∧ (sK3.tile 3).guard g1 = true ∧ (sK3.tile 3).ready.lvl = .keystone) ∧
    (∀ q ∈ [(s, true), (v, false)], Runs q.1 3 ∧ (q.1.tile 3).guard g1 = true ∧ (q.1.tile 3).ready.lvl ≠ .keystone ∧
      (q.1.tile 3).ready.tk = some 40 ∧
      okB (wordXl (q.1.setTile 3 (q.1.tile 3).ready) 3 .unitLoad ((q.1.tile 3).ready.g 4) 64) (fun (p : Addr × Xl) s1 =>
        decide (p.2.ty = .brick ∧ (s1.tile 3).sbuf = [] ∧ s1.poisoned p.2.pa 64 = false ∧
          contMay s1 3 (BitVec.ofNat 512 (ofBytes (s1.bytes p.2.pa 64))) = q.2)) = true) := by
  unfold Runs; decide +kernel

/-- POST at another level, without a ticket, before RINGOPEN, with an empty write set, and with a receipt to give. -/
theorem witness_PostCommits :
    let k : TicketRec := { ticketIn (.running 3) with receipt := some (5, 2, 9) }
    let r := sT.modMason (fun m => { m with tickets := [k] })
    Runs sT 3 ∧ (sT.tile 3).guard g1 = true ∧ (sS.tile 3).ready.lvl ≠ .ledger ∧ (sL.tile 3).ready.ticket = false ∧
    hwjState (sT.setReg (ctl 0x91 0x100) 0) = 0 ∧
    ((sT.tile 3).ready.lvl = .ledger ∧ (sT.tile 3).ready.ticket = true ∧ hwjState sT ≠ 0 ∧ (sT.tile 3).ready.kiln.queue = [] ∧
      (sT.tile 3).ready.kiln.fault = none ∧ (sT.tile 3).ready.sbuf = [] ∧ recording sT (courseOf 3) = false ∧
      (sT.tile 3).ready.tk = some 40 ∧ ticketOf sT 40 = some (ticketIn (.running 3)) ∧ (ticketIn (.running 3)).ws = [] ∧
      (ticketIn (.running 3)).conts = [] ∧ (ticketIn (.running 3)).receipt = none) ∧
    (Runs r 3 ∧ ticketOf r 40 = some k ∧ k.receipt ≠ none ∧ r.hwj.waiting.length = 0 ∧ postVerdict r k = 0 ∧ seqRoom r k = true ∧
      (∀ q ∈ r.mason.tickets, q.arrival = 40 → q = k) ∧ spaceFor r (postLen r k) ≤ ringFree r ∧ headPos r < 2 ^ 63) := by
  unfold Runs; decide +kernel

theorem witness_JsyncWaits :
    let w := sS.setReg (ctl 0x91 0x108) 640
    Runs sS 3 ∧ (sS.tile 3).guard g1 = true ∧ (sS.tile 3).sbuf = [] ∧ (sS.reg (ctl 0x91 0x108)).toNat ≤ (sS.reg (ctl 0x91 0x110)).toNat ∧
    sS.hwj.inflight.length = 0 ∧ Runs w 3 ∧ ¬ (w.reg (ctl 0x91 0x108)).toNat ≤ (w.reg (ctl 0x91 0x110)).toNat := by
  unfold Runs; decide +kernel

/-! ## Packed decimal -/

/-- A decimal register of tile 3. -/
def withD (r : BitVec 4) (neg : Bool) (m : Nat) (s : State) : State := s.modTile 3 (fun x => x.setD r (decReg neg m))

def withDctl (v : BitVec 8) (s : State) : State := s.modTile 3 (fun x => x.modBank (fun b => { b with dctl := v }))

/-- The greatest sum that fits, one that does not (trap off and on), and an exact −0. -/
theorem witness_DecimalArithmetic :
    let s := withD 1 false (10 ^ 31 - 2) (withD 2 false 1 (withD 3 true 2 sL))
    let p (s : State) (c : Instr) := (Says.decimal c (s.tile 3).ready).map (fun q => (q.2.2.1, q.2.2.2.2.1, q.2.2.2.2.2.1))
    Runs s 3 ∧ (s.tile 3).guard g1 = true ∧ p s (.dadd 3 g1 true 4 1 2) = some (true, false, 10 ^ 31 - 1) ∧
    (p s (.dsub 3 g1 true 4 1 3) = some (true, false, 10 ^ 31) ∧ (s.tile 3).ready.cur.dctl.getLsbD 2 = false) ∧
    (let t := withDctl 4 s; Runs t 3 ∧ p t (.dsub 3 g1 true 4 1 3) = some (true, false, 10 ^ 31) ∧ (t.tile 3).ready.cur.dctl.getLsbD 2 = true) ∧
    p s (.dneg 3 g1 4 5) = some (true, true, 0) ∧ p s (.dmulw 3 g1 true 4 1 1) = some (true, false, (10 ^ 31 - 2) ^ 2) ∧
    p s (.dmtr 3 g1 4 0 0) = some (false, false, 0) ∧ p (withG 4 0xC s) (.dmtr 3 g1 4 0 4) = some (true, false, 0) ∧
    ([Instr.dmul 3 g1 true 4 1 2, .daddw 3 g1 4 2 6, .dsubw 3 g1 4 2 6, .dnarw 3 g1 5 2, .dmov 3 g1 4 1, .dabs 3 g1 4 1, .dshr 3 g1 true .dctl 4 1 31,
      .dshl 3 g1 true .truncate 4 1 0, .cvbd 3 g1 4 5 31].all (fun c => decide (((Says.decimal c (s.tile 3).ready).map (fun q => q.2.2.1)) = some true))) = true := by
  unfold Runs; decide +kernel

/-- A zero divisor and a quotient of 32 digits, each with its trap off and on, and a division. -/
theorem witness_DecimalDivideCompareConvert :
    let s := withD 0 false 1 (withD 1 false 5 (withD 2 false 0 (withD 3 true 1 (withD 4 false (2 ^ 63) sL))))
    let t := withDctl 0xC s
    (Runs s 3 ∧ (s.tile 3).guard g1 = true ∧ (0 : BitVec 4).toNat % 2 = 0) ∧
    ((decVal ((s.tile 3).ready.d 2)).mag = 0 ∧ (s.tile 3).ready.cur.dctl.getLsbD 3 = false ∧ (t.tile 3).ready.cur.dctl.getLsbD 3 = true ∧
      Runs t 3) ∧
    ((decVal ((s.tile 3).ready.d 3)).mag ≠ 0 ∧ 10 ^ 31 ≤ (wideVal ((s.tile 3).ready.d 0) ((s.tile 3).ready.d 1)).mag / (decVal ((s.tile 3).ready.d 3)).mag ∧
      (s.tile 3).ready.cur.dctl.getLsbD 2 = false ∧ (t.tile 3).ready.cur.dctl.getLsbD 2 = true) ∧
    (wideVal ((s.tile 3).ready.d 0) ((s.tile 3).ready.d 1)).mag / (decVal ((s.tile 3).ready.d 4)).mag < 10 ^ 31 ∧
    (decVal ((s.tile 3).ready.d 4)).int = 2 ^ 63 ∧ (t.tile 3).ready.cur.dctl.getLsbD 2 = true ∧
    Says.firstBad (BitVec.ofNat 128 (((s.tile 3).ready.g 4).toNat * 2 ^ 64 + ((s.tile 3).ready.g 5).toNat)) = some 31 := by
  unfold Runs; decide +kernel

/-- A valid and an invalid field; a store over a line's end; a sum that fits and one that does not. -/
theorem witness_DecimalFields :
    let b := 0x4000 + 124
    let s := withD 1 false 12345678901 ((sL.setBytes b [0x12, 0x34, 0x56, 0x7C]))
    let x := (s.tile 3).ready
    let s0 := s.setTile 3 x
    let ad := refAddr x (.mform 0 124)
    let okAt (k : Acc) (n : Nat) (p : Xl → State → Bool) : Bool := okB (place s0 3 (dataCtx s0 3) k ad n) p
    Runs s 3 ∧ (s.tile 3).guard g1 = true ∧ (s.tile 3).sbuf = [] ∧ pieces ad 4 = [(ad, 4)] ∧ pieces ad 8 = [(ad, 8)] ∧
    okAt .unitLoad 4 (fun xl s1 => decide (xl.ty = .brick ∧ s1.poisoned xl.pa 4 = false ∧ Says.fieldBad (s1.bytes xl.pa 4) = none)) = true ∧
    okAt .unitLoad 3 (fun xl s1 => decide (xl.ty = .brick ∧ Says.fieldBad (s1.bytes xl.pa 3) = some 5 ∧ s1.replaying 3 = false)) = true ∧
    okAt .unitStore 8 (fun xl _ => decide (xl.pa % 128 = 124)) = true ∧ x.cur.dctl.getLsbD 2 = false ∧ x.tk = none ∧
    okAt .atomic 4 (fun xl s1 => decide (xl.pa % 128 + 4 ≤ 128 ∧ xl.ty = .brick ∧ plainPa s1 xl.pa = true ∧ s1.poisoned xl.pa 4 = false ∧
      Says.fieldBad (s1.bytes xl.pa 4) = none ∧
      (Says.sum (Says.fieldValue (s1.bytes xl.pa 4)) (decVal (x.d 2))).2 < 10 ^ 7 ∧
      10 ^ 7 ≤ (Says.sum (Says.fieldValue (s1.bytes xl.pa 4)) (decVal (x.d 1))).2)) = true ∧
    (let q := withDctl 4 s
     let q0 := q.setTile 3 (q.tile 3).ready
     Runs q 3 ∧ (q.tile 3).ready.cur.dctl.getLsbD 2 = true ∧
      okB (place q0 3 (dataCtx q0 3) .atomic ad 4) (fun xl s1 => decide (xl.ty = .brick ∧ s1.poisoned xl.pa 4 = false ∧
        Says.fieldBad (s1.bytes xl.pa 4) = none ∧ (s1.tile 3).run = .running ∧ s1.replaying 3 = false)) = true) := by
  unfold Runs; decide +kernel

/-- A character field of 20 bytes at 14 bytes before a multiple of 16: a load's first unit and a store's. -/
theorem witness_ZonedFieldUnits :
    let s := withG 4 2 (withG 5 (4 * 2 ^ 52 + 1 * 2 ^ 48 + 20) (withD 1 false 12 ((sL.setBytes 0x4000 (List.replicate 32 0x31)))))
    let x := (s.tile 3).completeLrs
    let s0 := s.setTile 3 x
    let d := xDesc (x.g 5)
    let ad := baseAddr d.base (x.g 4)
    Runs s 3 ∧ (s.tile 3).guard g1 = true ∧ (s.tile 3).sbuf = [] ∧ (x.g 5).getLsbD 63 = false ∧ d.invalid 4 5 = false ∧ d.fmt = 1 ∧
    min d.len (16 - ad.fa.toNat % 16) = 14 ∧ pieces ad 14 = [(ad, 14)] ∧ ad = .brick 0 2 ∧
    okB (brickXl s0 3 .unitStore 0 2 20) (fun _ _ => true) = true ∧ okB (brickXl s0 3 .unitLoad 0 2 20) (fun _ _ => true) = true ∧
    okB (place s0 3 (dataCtx s0 3) .unitLoad ad 14) (fun xl s1 => decide (xl.ty = .brick ∧ s1.poisoned xl.pa 14 = false) &&
      (match xScan d.fmt (!d.prog) d.len 0 (s1.bytes xl.pa 14) 0 false with | .inr q => decide (q.1 < 10 ^ 31) | _ => false)) = true ∧
    okB (place s0 3 (dataCtx s0 3) .unitStore ad 14) (fun xl s1 => decide (xl.ty = .brick ∧ plainPa s1 xl.pa = true)) = true ∧ x.tk = none ∧
    d.prog = false ∧ (decVal (x.d 1)).mag < 10 ^ 20 ∧ (decVal (x.d 1)).neg = false ∧
    (let q := withG 5 (4 * 2 ^ 52 + 3) (s.setBytes 0x4002 [0x12, 0x34, 0x5C])
     let y := (q.tile 3).completeLrs
     let q0 := q.setTile 3 y
     let f := xDesc (y.g 5)
     Runs q 3 ∧ f.fmt = 0 ∧ f.invalid 4 5 = false ∧ f.len = 3 ∧
      okB (place q0 3 (dataCtx q0 3) .unitLoad ad 3) (fun xl s1 => decide (Says.fieldBad (s1.bytes xl.pa 3) = none)) = true) ∧
    Says.zByte 1 true false 0x31 = some ([1], []) ∧ Says.zByte 1 false false 0x41 = none := by
  unfold Runs; decide +kernel

/-! ## Strings -/

/-- Physical addresses in the bricks of `at_`. -/
def pa0 : Addr → Nat
  | .brick k off => 0x4000 + k.val * 0x1000 + off
  | .virt v => v.toNat

/-- Bytes of a brick slot of tile 3 are memory that the instruction may use. -/
theorem brick_at (s : State) (k : Acc) (slot : Fin 4) (off n : Nat) (hv : ((s.tile 3).bb.get slot).getLsbD 63 = true)
    (hw : ((s.tile 3).bb.get slot).getLsbD 62 = true) (hb : bitsNat ((s.tile 3).bb.get slot) 47 12 * 4096 = 0x4000 + slot.val * 0x1000)
    (hn : off + n ≤ 4096) (ht : (s.tile 3).tk = none)
    (hp : ∀ i, i < n → plainPa s (0x4000 + slot.val * 0x1000 + (off + i)) = true ∧ s.poisoned (0x4000 + slot.val * 0x1000 + (off + i)) 1 = false) :
    Says.at_ s 3 k pa0 (.brick slot off) n := by
  refine ⟨fun i hi => ⟨(hp i hi).1, (hp i hi).2, ⟨_, MType.brick, none⟩, rfl, ?_, ht⟩, fun v w => ⟨rfl, fun h => h⟩⟩
  have h : ¬ 4096 < off + i + 1 := by omega
  simp only [brickXl, hv, hw, h, hb]
  simp

/-- Tile 3 with a control word in g5, of brick operands in g3 (slot 0) and g4 (slot 1). -/
def withWord (len : Nat) (more : Nat) (s : State) : State :=
  withG 3 0 (withG 4 0 (withG 5 (more + 4 * 2 ^ 52 + 5 * 2 ^ 48 + len) s))

/-- `s` is a state in which `c` performs a unit, in the part that a computation decides. -/
def starts (c : Instr) (s : State) : Bool :=
  match Says.string c with
  | some (t, g, i) =>
    let x := (s.tile t).completeLrs
    let w := cwOf (x.g i.rl)
    let s0 := s.ran t (if w.prog then { x with long := some i.rl } else x)
    (s.tile t).guard g && decide ((s.tile t).run = .running ∧ (s.tile t).recWait = false ∧ ringsFull s t 2048 = false ∧ s.replaying t = false ∧
      (s.tile t).sbuf.any (fun e => e.frame) = false) && (s.tile t).sbuf.isEmpty &&
      (!Says.optionalForm c || s.fuses.caps0.getLsbD 8) && (i.spec w).isNone && (i.bricks s0 t w).isNone &&
      (!i.ft || (!w.hit && (decide (w.len ≠ 0) || !w.prog))) && (i.ft || decide (w.len ≠ 0) || w.prog)
  | none => false

theorem starts_unit (c : Instr) (s : State) (h : starts c s = true) : ∃ s0 t i, Says.unitStarts c s s0 t i := by
  unfold starts at h
  split at h
  · rename_i t g i hs
    refine ⟨_, t, i, ⟨⟨g, hs, ?_⟩, ?_, ?_, ?_, rfl, ?_, ?_, ?_, ?_⟩⟩ <;>
      simp only [Bool.and_eq_true, decide_eq_true_eq, Bool.or_eq_true, Bool.not_eq_true', List.isEmpty_iff, Option.isNone_iff_eq_none] at h
    · exact h.1.1.1.1.1.1.1
    · exact h.1.1.1.1.1.1.2
    · exact h.1.1.1.1.1.2
    · intro ho; rcases h.1.1.1.1.2 with h | h
      · rw [h] at ho; cases ho
      · exact h
    · exact h.1.1.1.2
    · exact h.1.1.2
    · intro hf; rcases h.1.2 with h | ⟨h1, h2⟩
      · rw [h] at hf; cases hf
      · refine ⟨h1, fun hl => ?_⟩; rcases h2 with h2 | h2
        · exact absurd hl h2
        · exact h2
    · intro hf hl; rcases h.2 with (h | h) | h
      · rw [h] at hf; cases hf
      · exact absurd hl h
      · exact h
  · cases h

/-- Units of one byte and of 64 bytes, in the ordinary and the fixed-time form, and a unit of a continued instruction. -/
theorem witness_strings_start :
    ([(Instr.mvs 3 g1 false 3 4 5, 1, 0), (.mvs 3 g1 true 3 4 5, 0, 0), (.mvs 3 g1 false 3 4 5, 64, 2 ^ 63), (.mvsr 3 g1 false 3 4 5, 65, 0),
      (.trs 3 g1 false 3 4 5, 1, 0), (.cps 3 g1 false 1 6 3 4 5, 1, 0), (.tts 3 g1 true 1 6 3 4 5, 1, 0), (.edt 3 g1 false 3 4 5, 1, 0),
      (.edtm 3 g1 true 6 3 4 5, 8, 0)].all (fun q => starts q.1 (withWord q.2.1 q.2.2 sL))) = true ∧
    ([(Instr.srch 3 g1 false 1 3 5 0x40, 1), (.chkdV 3 g1 false 1 3 5, 64), (.chkdG 3 g1 true 6 3 5, 1), (.bmap 3 g1 1 6 3 5, 1)].all (fun q =>
      starts q.1 (withG 3 0 (withG 5 (4 * 2 ^ 52 + q.2) sL)))) = true := by decide +kernel

/-- The operands of those units: bytes of slots 0 and 1. -/
theorem witness_strings_operands (k : Acc) :
    Says.at_ (withWord 1 0 sL) 3 k pa0 (.brick 0 0) 1 ∧ Says.at_ (withWord 1 0 sL) 3 k pa0 (.brick 1 0) 8 := by
  constructor
  · exact brick_at _ k 0 0 1 (by decide +kernel) (by decide +kernel) (by decide +kernel) (by omega) (by decide +kernel) (by decide +kernel)
  · exact brick_at _ k 1 0 8 (by decide +kernel) (by decide +kernel) (by decide +kernel) (by omega) (by decide +kernel) (by decide +kernel)

/-- A pattern byte 10h with a source digit edits; the digits of a CHKD field are digits. -/
theorem witness_strings_data :
    let m : Nat → Byte := fun a => if a = 0x4000 then 0x10 else 0x5C
    ((List.range 1).foldl (Says.editByte pa0 (.brick 0 0) (.brick 1 0) 0x40)
      (some { db := 0, sig := false, half := false, nz := false, negf := false, sgn := false, run := 0, first := none, m := m })).isSome = true ∧
    (∀ k, k < 1 → 0x30 ≤ ((sL.setByte 0x4000 0x35).byte (pa0 ((Addr.brick 0 0).plus k))).toNat ∧
      ((sL.setByte 0x4000 0x35).byte (pa0 ((Addr.brick 0 0).plus k))).toNat ≤ 0x39) := by decide +kernel

/-! ## FP32 -/

/-- Finite operands whose results are nonzero and in range, the smallest and the largest among them. -/
theorem witness_FloatRounding :
    Says.isFinite 0x00000001#32 = true ∧ Says.isFinite 0x7F7FFFFF#32 = true ∧ Says.isFinite 0x80000001#32 = true ∧ 3 < 4 ∧
    (Says.value 0x00000001#32 + Says.value 0x7F000000#32 ≠ 0 ∧
      Says.magnitude (Says.value 0x00000001#32 + Says.value 0x7F000000#32) ≤ Says.value 0x7F7FFFFF#32) ∧
    (Says.value 0x00000001#32 ≠ 0 ∧ Says.value 0x3F800000#32 / Says.value 0x40400000#32 ≠ 0 ∧
      Says.magnitude (Says.value 0x3F800000#32 / Says.value 0x40400000#32) ≤ Says.value 0x7F7FFFFF#32) := by decide +kernel

/-- Integers of 64 bits; a NaN, a signalling one, infinities and zeros; a sum beyond the largest number and a product below the smallest
normal one. -/
theorem witness_FloatOperands :
    (0 < 4 ∧ -(2 ^ 63 : Int) ≤ 5 ∧ (5 : Int) < 2 ^ 63) ∧ (Says.isSNaN 0x7F800001#32 = true ∧ Says.isSNaN 0x7FC00000#32 = false) ∧
    (Says.isFinite 0x7F800000#32 = false ∧ Says.isNaN 0x7F800000#32 = false) ∧
    (Says.isFinite 0x7F7FFFFF#32 = true ∧ Says.value 0x7F7FFFFF#32 < Says.value 0x7F7FFFFF#32 + Says.value 0x7F7FFFFF#32) ∧
    (Says.value 0x00000001#32 * Says.value 0x3F000000#32 ≠ 0 ∧
      Says.value 0x00000001#32 * Says.value 0x3F000000#32 < Says.value 0x00800000#32) := by decide +kernel

/-- Spec/07: 1 divided by 3 in seven steps, rounded to nearest. -/
theorem test_fdiv_third : let z := Says.fdsteps 7 0x40400000#32 (fdivsF 0x3F800000#32 0x40400000#32)
    (fdfinF 0 z.1 z.2 0).1 = 0x3EAAAAAB#32 := by decide +kernel

/-- An instruction with no condition, and an invalid one with the trap off and on. -/
theorem witness_FloatInstructions :
    let s := withG 4 0x7FA00000 (withG 5 0x3F800000 sL)
    let t := s.modTile 3 (fun x => x.modBank (fun b => { b with fctl := 1 }))
    let c (i : Instr) (s : State) : Option (BitVec 5) := (Says.float i (s.tile 3).ready).map (fun q => q.2.2.1)
    Runs s 3 ∧ (s.tile 3).guard g1 = true ∧ c (.faddFsubFmul 3 g1 .fadd 6 5 5) s = some 0 ∧
    c (.faddFsubFmul 3 g1 .fmul 6 4 5) s = some 1 ∧ Says.fpTrap 1 (s.tile 3).ready.cur.fctl = none ∧
    Runs t 3 ∧ c (.fcmp 3 g1 .le 1 4 5) t = some 1 ∧ Says.fpTrap 1 (t.tile 3).ready.cur.fctl = some 1 ∧
    ([Instr.fma 3 g1 6 5 5, .fminFmax 3 g1 true 6 4 5, .fnegFabs 3 g1 true 6 4, .fcvt 3 g1 .ls 6 4].all (fun i => (c i s).isSome)) = true := by
  unfold Runs; decide +kernel

/-- A NaN, an infinity, and finite numbers at the bound, below it and halfway between integers. -/
theorem witness_FloatConvertDivide :
    Says.isNaN 0x7F800001#32 = true ∧ (Says.isNaN 0xFF800000#32 = false ∧ Says.isFinite 0xFF800000#32 = false) ∧
    (Says.isFinite 0xCF000000#32 = true ∧ Says.value 0xCF000000#32 = -(2 ^ 31)) ∧
    (Says.isFinite 0x4F000000#32 = true ∧ Says.value 0x4F000000#32 = 2 ^ 31) ∧ Says.value 0x3F000000#32 = 1 / 2 ∧
    (let s := withG 4 0 sL
     Runs s 3 ∧ (s.tile 3).guard g1 = true ∧ (30 : BitVec 5).toNat % 2 = 0 ∧ 2 ≤ (30 : BitVec 5).toNat ∧
      ((s.tile 3).ready.g 30).getLsbD 63 = false ∧ Says.isFinite (BitVec.ofNat 32 ((s.tile 3).ready.g 4).toNat) = true ∧
      (BitVec.ofNat 32 ((s.tile 3).ready.g 4).toNat).toNat % 2 ^ 31 = 0 ∧ ((withG 30 (2 ^ 63) s).tile 3).ready.g 30 = BitVec.ofNat 64 (2 ^ 63) ∧
      Says.fpTrap 0 (s.tile 3).ready.cur.fctl = none) := by
  unfold Runs; decide +kernel

/-! ## The Kiln -/

/-- An entry of tile 3's queue. -/
def entryOf (op : KOp) (gval : Word) (plan : Option (List KAcc)) : KEntry :=
  { op := op, gval := gval, dval := decZero, bb := (sL.tile 3).bb, lvl := .ledger, ast := 0, krr := 0, iaddr := 0x1000, kcnt := 0, plan := plan }

def withEntry (e : KEntry) (s : State) : State := s.modTile 3 (fun x => { x with kiln := { x.kiln with queue := x.kiln.queue ++ [e] } })

def withFault (s : State) : State := s.modTile 3 (fun x => { x with kiln := { x.kiln with fault := some { sub := 1, faddr := 5, finfo := 6 } } })

/-- Room for the 16th instruction, a memory instruction, Keystone level, a fault to deliver, and a machine check that pends. -/
theorem witness_KilnEnqueues :
    let n15 := (List.range 15).foldl (fun s _ => withEntry (entryOf (.mov 1 2 0) 0 none) s) sL
    let b := withG 4 (4 * 2 ^ 60) sL
    (Runs n15 3 ∧ (n15.tile 3).guard g1 = true ∧ kLegal (.mov 1 2 0) = true ∧ (n15.tile 3).ready.lvl ≠ .keystone ∧
      (n15.tile 3).ready.kiln.fault = none ∧ (n15.tile 3).ready.kiln.queue.length < 16 ∧ kMem (.mov 1 2 0) = false) ∧
    (Runs b 3 ∧ kMem (.ld 1 4 0) = true ∧ (b.tile 3).ready.sbuf = [] ∧
      kAddrCheck (b.setTile 3 (b.tile 3).ready) 3 (.ld 1 4 0) ((b.tile 3).ready.g (kGReg (.ld 1 4 0))) = none) ∧
    (Runs sK3 3 ∧ (sK3.tile 3).ready.lvl = .keystone) ∧ (Runs (withFault sL) 3 ∧ ((withFault sL).tile 3).ready.kiln.fault.isSome = true) ∧
    (let m := b.modTile 3 (fun x => { x with mcPend := some (3, 0, 0) })
     Runs m 3 ∧ (m.tile 3).ready.mcPend.isSome = true ∧ (m.tile 3).ready.kiln.fault = none ∧ (m.tile 3).ready.sbuf = []) := by
  unfold Runs; decide +kernel

theorem witness_KilnWaits :
    ([Instr.vsync 3 g1, .fsync 3 g1, .vmfs 3 g1 4, .vmfc 3 g1 4, .vmpop 3 g1 4 0].all (fun c =>
      decide ((Says.wait c (sL.tile 3).ready).map (fun q => (q.1, q.2.1)) = some (3, g1)))) = true ∧
    Runs sL 3 ∧ (sL.tile 3).guard g1 = true ∧ (sL.tile 3).ready.lvl ≠ .keystone ∧ (sL.tile 3).ready.kiln.queue = [] ∧
    (sL.tile 3).ready.kiln.fault = none ∧ (sL.tile 3).ready.mcPend = none ∧ (Runs sK3 3 ∧ (sK3.tile 3).ready.lvl = .keystone) ∧
    (Runs sK 96 ∧ (Says.wait (.fsync 96 g1) (sK.tile 96).ready).map (fun q => q.2.2.1) = some false) ∧
    (Runs (withFault sL) 3 ∧ ((withFault sL).tile 3).ready.kiln.queue = [] ∧ ((withFault sL).tile 3).ready.kiln.fault.isSome = true ∧
      (3 : TileId).val < 96) ∧
    (let e := sL.modKiln 3 (fun k => { k with ue := true })
     Runs e 3 ∧ (e.tile 3).ready.kiln.ue = true ∧ (e.tile 3).ready.kiln.queue = [] ∧ (e.tile 3).ready.kiln.fault = none) ∧
    (let m := (withFault sL).modTile 3 (fun x => { x with mcPend := some (3, 0, 0) })
     Runs m 3 ∧ (m.tile 3).ready.kiln.fault.isSome = true ∧ (m.tile 3).ready.mcPend.isSome = true) := by
  unfold Runs; decide +kernel

/-- An uncorrectable error that a row of any kind reads (spec/13 R431). -/
theorem test_register_file_error :
    (match exec (.vmov 3) (withEntry (entryOf (.mov 1 2 0) 0 none) (sL.modKiln 3 (fun k => { k with ue := true }))) with
     | .next u => decide ((u.tile 3).mcPend = some (3, 0, 0) ∧ (u.tile 3).kiln.queue = [] ∧ (u.tile 3).kiln.ue = false)
     | _ => false) = true := by decide +kernel

/-- A head of the queue for each row. -/
theorem witness_KilnRowsIssue :
    let t : TileId := 3
    let zeros : BitVec 4096 := BitVec.ofNat 4096 (((List.range 32).map (fun i => 12 * 2 ^ (128 * i))).sum)
    let file : KFile := { (sL.tile 3).kiln with v := Vector.replicate 32 zeros }
    (sL.live = true ∧ (sL.tile 3).kiln.queue = []) ∧
    ([(Instr.kilnBinaryOp t false, KOp.bin .add .b64 31 2 3 0), (.kilnBinaryOp t false, .bin .dot .b8 1 2 3 0), (.kilnDecimalOp t, .dec .neg true 1 2 0 1),
      (.vddot t, .ddot 1 2 3 1), (.vdmulw t, .dmulw 2 4 5 1), (.vdsum t, .dsum 1 2 1), (.vdwid t, .dwid 2 4 1), (.vdnar t, .dnar 1 2 1),
      (.vdcmp t, .dcmp .lt true 1 2 3 1), (.vdval t, .dval true 1 2 0), (.kilnFpOp t, .fp .fma 1 2 3 0), (.vmsetn t, .msetn 1 4),
      (.vbrd t, .brdB .b16 1 4 0), (.vbrd t, .brdD true 1 4 0), (.vmov t, .mov 1 2 0), (.vmts t, .mts 4), (.vmtc t, .mtc 4),
      (.maskLogic t, .mlogic .andn 7 0 2)].all (fun q =>
        decide (Says.kilnTile q.1 = some t) && Says.kilnKind q.1 q.2 && !kMem q.2 && kLegal q.2 &&
          (match Says.kiln q.1 file (entryOf q.2 5 none) with | some _ => true | none => false))) = true ∧
    (let s := withEntry (entryOf (.mov 1 2 0) 0 none) sL
     kCand s t = some (entryOf (.mov 1 2 0) 0 none) ∧ kTurn s t = true ∧ (s.tile t).kiln.ue = false) ∧
    (let s := withEntry (entryOf (.mov 1 2 0) 0 none) (sL.modKiln 3 (fun k => { k with ue := true }))
     kCand s t = some (entryOf (.mov 1 2 0) 0 none) ∧ kTurn s t = true ∧ (s.tile t).kiln.ue = true ∧ kReads (.mov 1 2 0) ≠ [32] ∧
     s.live = true) ∧
    (let s := withEntry (entryOf (.stm 7 4) (BitVec.ofNat 64 (4 * 2 ^ 60)) none) sL
     kCand s t = some (entryOf (.stm 7 4) (BitVec.ofNat 64 (4 * 2 ^ 60)) none) ∧ kTurn s t = true ∧ (sL.tile 3).kiln.queue = []) := by decide +kernel

/-- Two files with a candidate, and the one whose turn it is. -/
theorem witness_KilnRoundRobin :
    let e := entryOf (.mov 1 2 0) 0 none
    let s := (withEntry e sL).modTile 5 (fun x => { x with kiln := { x.kiln with queue := [e] } })
    kTurn s 3 = true ∧ kReady s 5 = true ∧ kTurn s 5 = false := by decide +kernel

/-- Loads and stores of bricks of each kind to issue; an issued load and an issued store of a mask to complete. -/
theorem witness_KilnMemoryInstructions :
    let b : Word := BitVec.ofNat 64 (4 * 2 ^ 60)
    let r : KAcc := { pa := 0x4000, reg := 0, pos := 0, n := 64, brick := true, recorded := false }
    let ld := withEntry (entryOf (.ldm 1 4) b (some [r])) sL
    let st := withEntry (entryOf (.stm 7 4) b (some [{ r with pa := 0x4FC0 }])) sL
    sL.live = true ∧
    ([(Instr.vldVst 3, KOp.ld 1 4 0), (.vldVst 3, .st 1 4 0), (.vldkVstk 3, .ldk 2 1 4 0 0), (.vldkVstk 3, .stk 4 28 4 1 0), (.vldxVstx 3, .ldx 0 1 4 2 0),
      (.vldxVstx 3, .stx 2 1 4 2 0), (.vldmVstm 3, .ldm 1 4), (.vldmVstm 3, .stm 1 4)].all (fun q =>
        decide (Says.kilnTile q.1 = some 3) && kLegal q.2 && (Says.kilnBytes q.1 (sL.tile 3).kiln (entryOf q.2 b none)).isSome &&
          (let s := withEntry (entryOf q.2 b none) sL
           decide (kCand s 3 = some (entryOf q.2 b none) ∧ kTurn s 3 = true ∧ (s.tile 3).kiln.ue = false)) &&
          (kElems (sL.tile 3).kiln (entryOf q.2 b none)).all (fun el => decide (el.off % el.n = 0 ∧ el.off + el.n ≤ 4096) || !kIndexed q.2))) = true ∧
    (ld.live = true ∧ (ld.tile 3).kiln.queue.head? = some (entryOf (.ldm 1 4) b (some [r])) ∧ (ld.tile 3).tk = none ∧ r.recorded = false ∧ 1 ≤ r.n ∧
      r.pos + r.n ≤ 64 ∧ kMaskMem (.ldm 1 4) = true ∧ ld.poisoned 0x4000 64 = false ∧ kStores (.ldm 1 4) = false ∧ kMem (.ldm 1 4) = true) ∧
    (let p : State := { ld with poison := [0x80] }
     p.live = true ∧ p.poisoned 0x4000 64 = true) ∧
    (st.live = true ∧ kStores (.stm 7 4) = true ∧ st.poisoned 0x4FC0 64 = false ∧ (sL.tile 3).kiln.queue.head? = none) := by decide +kernel

/-! ## The control space -/

/-- The device at place 5, its Mason in RUN, its journal in SINGLE, its partition map naming it. -/
def sD : State :=
  ((State.reset.setReg (ctl 0xFF 0x108) 0x8005).setReg (ctl 0x90 0x100) 1 |>.setReg (ctl 0x91 0x100) 1).modMason (fun m =>
    { m with pmap := Vector.replicate 4096 5, pmapLoaded := true })

/-- Every page of the part is reached in `sD`, and no block of it is busy. -/
theorem reaches_sD : Says.running sD ∧ sD.stopped = [] ∧ sD.posted = [] ∧ (∀ p < 256, sD.fld (ctl p 0xF8) 7 0 ≠ 1) := by
  unfold Says.running; decide +kernel

/-- A place that is not set yet and one that is; codes 0 and 13h of the Mason, while it is idle and while it is busy; writes of
1 and 8 bytes, of a remote page and of ICNT's page; STAT and IENA bits 0 and 15, already set and not. -/
theorem witness_ControlSpaceWrites :
    (sD.placeSet = true ∧ State.reset.placeSet = false) ∧
    (Says.reaches sD 0x90 ∧ Says.lastCommand 0x90 = some 0x12 ∧ ((0x13 : BitVec 8).toNat = 0 ∨ 0x12 < (0x13 : BitVec 8).toNat) ∧
      sD.fld (ctl 0x90 0xF8) 7 0 ≠ 1 ∧ (sD.setFld (ctl 0x90 0xF8) 7 0 1).fld (ctl 0x90 0xF8) 7 0 = 1) ∧
    (Says.running sD ∧ (pageKind (0x05208 / 4096)).isSome = true ∧ sD.stopped.contains (0x05208 / 4096) = false ∧ 0x05208 / 4096 < 0x60 ∧
      0x05208 % 4096 = 0x208 ∧ remotePage 0xC0 = true ∧ remotePage 5 = false ∧ (pageKind 0xC0).isSome = true) ∧
    ((pageKind 0x90).isSome = true ∧ ((1 : Word).getLsbD 0 = true) ∧ (sD.reg (ctl 0x90 0x18)).getLsbD 0 = false ∧
      ((sD.setReg (ctl 0x90 0x18) 1).reg (ctl 0x90 0x18)).getLsbD 0 = true ∧ ((sD.setReg (ctl 0x90 0x28) 1).reg (ctl 0x90 0x28)).getLsbD 0 = true) := by
  unfold Says.reaches Says.running; decide +kernel

/-- Core-domain pages of a tile and of the Mason; values of CTRL.ITGT, EVSEL.SRC and QUAL that are allowed and that are reserved. -/
theorem witness_RegisterFields :
    Says.running sD ∧ (pageKind 5).isSome = true ∧ (pageKind 0x90).isSome = true ∧ remotePage 5 = false ∧ remotePage 0x90 = false ∧
    sD.stopped.contains 5 = false ∧
    ((BitVec.ofNat 64 (0x63 * 2 ^ 57)).toNat / 2 ^ 57 ≤ 0x63 ∧ 0x63 < (BitVec.ofNat 64 (0x64 * 2 ^ 57)).toNat / 2 ^ 57) ∧
    ((0x810 : Word).toNat / 256 % 16 = 8 ∧ (0x810 : Word).toNat % 256 = 0x10 ∧ (0x44 : Word).toNat % 256 = 0x44 ∧
      (0x700 : Word).toNat / 256 % 16 = 7 ∧ (0x700 : Word).toNat % 256 ≤ 1) ∧
    (sD.placeSet = true ∧ State.reset.placeSet = false) := by
  unfold Says.running; decide +kernel

/-- Nothing is due after reset, nor in a Mason that quiesces. -/
theorem witness_NothingDue :
    let s := State.reset.setReg (ctl 0x90 0x100) 2
    s.fld (ctl 0x90 0x100) 2 0 = 2 ∧ s.loopq = [] ∧ (s.mason.tickets.length, s.mason.migs.length, s.mason.dels.length, s.mason.commits.length) = (0, 0, 0, 0) ∧
    s.mason.quenched = [] ∧ s.mason.comps.length = 0 ∧ s.mason.stageFull = false ∧ s.hwj.waiting = [] ∧ s.hwj.snapFirst = false ∧
    s.hwj.resyncLeft = [] ∧
    (∀ c, (s.course c).runHi = [] ∧ (s.course c).runLo = [] ∧ s.fld (ctl 0x90 (0x200 + 0x10 * c.val)) 63 62 ≠ 1) ∧
    (∀ t, (s.tile t).run = .held ∧ (s.tile t).sbuf = []) ∧ (∀ k : LinkId, s.fld (ctl (0xB0 + k.val) 0xF8) 7 0 ≠ 1) := by decide +kernel

/-- An unassigned page, a page whose clock has stopped, a posted write, a capture outstanding and none, and a timer ahead of the
timebase. -/
theorem witness_PagesAndSnapshots :
    let c : State := { sD with stopped := [0xC0], capturing := [0xC1], posted := [{ a := .jtag, ca := 0xC1108, sz := .b8, v := 0 }] }
    (Says.running sD ∧ pageKind 0x6F = none) ∧ (Says.running c ∧ (pageKind 0xC0).isSome = true ∧ c.stopped.contains 0xC0 = true) ∧
    (c.posted.find? (fun w => decide (w.ca / 4096 = 0xC1))).isSome = true ∧ c.stopped.contains 0xC1 = false ∧
    (0xC1 ∈ c.capturing ∧ 0xC1 ∉ c.stopped ∧ 0xC0 ∉ c.capturing) ∧
    (Says.reaches sD 0xFF ∧ (1 : Word).getLsbD 1 = false ∧ (1 : Word).getLsbD 2 = false ∧ (sD.reg (ctl 0xFF 0x148)).getLsbD 63 = false) ∧
    ((2 : Word).getLsbD 0 = false ∧ (2 : Word).getLsbD 2 = false ∧ (4 : Word).getLsbD 0 = false ∧ (4 : Word).getLsbD 1 = false) ∧
    (let s : State := { sD with clk := { sD.clk with seeded := true } }
     Says.running s ∧ s.clk.seeded = true ∧ s.clk.tb < (s.tile 3).tcmp) := by
  unfold Says.reaches Says.running; decide +kernel

/-! ## The Mason -/

/-- A handler table with handler 3 at 4000h, V set. -/
def withHandler (s : State) : State :=
  ((s.setReg (ctl 0x90 0x108) 0x100000).setReg (ctl 0x90 0x110) 16).setDword (0x100000 + 16 * 3) (BitVec.ofNat 64 (2 ^ 63 + 0x4000))

/-- A ticket for handler 3 of device 5 and session 77, with no key. -/
def rawTicket : Ticket := BitVec.ofNat 512 ((3 * 2 ^ 48 + 5 * 2 ^ 18 + 77) * 2 ^ 448)

/-- Ring pair 0 enabled at 200000h with its last entry next, holding that ticket with the phase expected. -/
def withRing (s : State) : State :=
  ((s.setReg (Says.ring 0 0) (BitVec.ofNat 64 (2 ^ 63 + 0x200000))).setReg (Says.ring 0 0x10) 15).setBytes (0x200000 + 64 * 15)
    (beBytes 64 (rawTicket.toNat + 2 ^ 495))

/-- A ring whose last entry is ready and one whose entry is not; a ring enabled for the first time and one with indexes to write back; a count; a ticket to take in. -/
theorem witness_TicketsEnter :
    let s := withRing (withHandler sD)
    let raw : Ticket := BitVec.ofNat 512 (ofBytes (s.bytes (0x200000 + 64 * 15) 64))
    let k : TicketRec := { ticketIn .staged with raw := rawTicket }
    let q := (withTicket k (withHandler sD)).setByte (sessAddr 77 + 0x1F7) 1
    (Says.running s ∧ s.fld (ctl 0x90 0x100) 2 0 = 1 ∧ s.fld (ctl 0x91 0x100) 2 0 ≠ 5 ∧ (s.reg (Says.ring 0 0)).getLsbD 63 = true ∧
      (s.reg (Says.ring 0 0)).toNat / 2 ^ 48 % 16 ≤ 12 ∧ s.mason.stageFull = false ∧ raw.getLsbD 495 = (s.mason.rings.get 0).iphase) ∧
    ((s.reg (Says.ring 0 0x18)).getLsbD 63 = false ∧ s.poisoned (0x200000 + 64 * 15) 64 = false ∧ ticketValid s rawTicket = true ∧
      (handlerOf s rawTicket).map (fun q => q.1.getLsbD 62) = some false ∧ raw &&& ~~~BitVec.ofNat 512 (2 ^ 495) = rawTicket ∧
      BitVec.ofNat 9 (raw.toNat / 2 ^ 466 % 512) = s.devNo) ∧
    (∃ t, t = s.setBytes (0x200000 + 64 * 15) (List.replicate 64 0) ∧
      (BitVec.ofNat 512 (ofBytes (t.bytes (0x200000 + 64 * 15) 64))).getLsbD 495 ≠ (t.mason.rings.get 0).iphase) ∧
    (Says.reaches sD 0x90 ∧ (BitVec.ofNat 64 (2 ^ 63 + 0x200000)).getLsbD 63 = true ∧
      (BitVec.ofNat 64 (2 ^ 63 + 0x200000)).toNat / 2 ^ 48 % 16 ≤ 12 ∧ (sD.reg (Says.ring 63 0)).getLsbD 63 = false ∧
      (sD.reg (Says.ring 63 8)).getLsbD 63 = false) ∧
    (∃ w, w = (sD.setReg (Says.ring 63 0x18) (BitVec.ofNat 64 (2 ^ 63 + 0x9000))).setReg (Says.ring 63 0x10) (BitVec.ofNat 64 (3 * 2 ^ 16 + 3)) ∧
      Says.reaches w 0x90 ∧ (w.reg (Says.ring 63 0x18)).getLsbD 63 = true ∧ w.fld (Says.ring 63 0x10) 15 0 ≠ 0 ∧
      w.fld (Says.ring 63 0x10) 31 16 ≠ 0) ∧
    (q.mason.cached.length + q.mason.hints.length + 4 ≤ Config.dirCache ∧ (∀ c, recording q c = false)) ∧
    (Says.running q ∧ ticketOf q 40 = some k ∧ k.st = .staged ∧ firstInQueues q k = true ∧ q.fld (ctl 0x90 0x100) 2 0 = 1 ∧
      q.fld (ctl 0x91 0x100) 2 0 ≠ 5 ∧ q.fld (ctl 0x90 (0x200 + 0x10 * (0 : CourseId).val)) 63 62 = 0 ∧ (handlerOf q k.raw).isSome = true ∧
      tSdev k.raw = q.devNo ∧ sessLive q (tSession k.raw) = true ∧ (tKeys k.raw).length = 0) := by
  refine ⟨?_, ?_, ⟨_, rfl, ?_⟩, ?_, ⟨_, rfl, ?_⟩, ?_, ?_⟩ <;> (try unfold Says.reaches) <;> (try unfold Says.running) <;> decide +kernel

/-- A completion record that waited while its ring was off; admission with no line of the Mason's area poisoned. -/
theorem witness_TicketsEnter_more :
    let q : CompRec := { ring := 63, cookie := 9, status := 0, tb := 0, tile := none }
    let s := sD.modMason (fun m => { m with comps := [q] })
    Says.reaches s 0x90 ∧ (s.reg (Says.ring 63 8)).getLsbD 63 = false ∧ s.mason.comps.filter (fun q => decide (q.ring = 63)) = [q] ∧
    (s.reg (Says.ring 63 0x18)).getLsbD 63 = false ∧ s.poison = [] := by
  unfold Says.reaches Says.running; decide +kernel

/-- A brick homed here at frame 8000000h, at rest on course 2. -/
def withBrick (key : Word) (s : State) : State :=
  s.modMason (fun m => { m with cached := m.cached ++ [(key.toNat, BitVec.ofNat 64 (2 ^ 61 + 5 * 2 ^ 51 + 2 * 2 ^ 47 + 0x8000000))] })

theorem witness_MasonTimes :
    let p : Pend := { tk := rawTicket, src := 5, dest := 3, course := 2, seq := 9, time := 0, void := false, held := false, pos := 64 }
    let s := sD.modMason (fun m => { m with pend := [p], tombs := [{ key := 7, dev := some 6, frame := 0x8001000, pool := 1 }] })
    let a := bucketAddr sD 0x77 (keyhash 0x77).2.1
    let b := (withBrick 0x77 sD).setDword a 0x77
    Says.running s ∧ s.mason.pend.find? (fun p => decide (p.course.toNat = (2 : CourseId).val ∧ p.dest = 3 ∧ p.seq = 9) && !p.held) = some p ∧
    p.void = false ∧ (tombOf s 7).isSome = true ∧
    (let v := sD.modMason (fun m => { m with pend := [{ p with void := true }] })
     v.mason.pend.find? (fun p => decide (p.course.toNat = (2 : CourseId).val ∧ p.dest = 3 ∧ p.seq = 9) && !p.held) = some { p with void := true }) ∧
    (sliceDev b 0x77 = b.devNo ∧ sliceFind b 0x77 = some a ∧ entryPending b 0x77 = false ∧ mirroring b = false ∧
      b.mason.cached.length + b.mason.hints.length < Config.dirCache) ∧
    (let o := b.modMason (fun m => { m with pmap := Vector.replicate 4096 6 })
     sliceDev o 0x77 ≠ o.devNo ∧ (homeEntry o 0x77).isSome = true) ∧
    (Says.running b ∧ (homeEntry b 0x77).map (fun w => w.getLsbD 60) = some false ∧ (migOf b 0x77).isNone = true ∧
      b.mason.tickets.length = 0 ∧ (b.mason.resident.find? (fun q => decide (q.1 = (0x77 : Word).toNat))).isNone = true) := by
  unfold Says.running; decide +kernel

/-- The Mason before START, with its handler table and BIBASE written. -/
def sM : State :=
  let s := withHandler (sD.setReg (ctl 0x90 0x100) 0)
  { s with hwj := { s.hwj with bibaseSet := true } }

/-- The Mason QUIESCED. -/
def sQ : State := sD.setReg (ctl 0x90 0x100) 3

/-- ARG0 of the Mason. -/
def withArg (v : Nat) (s : State) : State := s.setReg (ctl 0x90 0x160) (BitVec.ofNat 64 v)

/-- A proposal to move brick 77h, which is homed here. -/
def sP : State := ((withBrick 0x77 sD).setReg (ctl 0x90 0x180) 0x77).setReg (ctl 0x90 0x188) (BitVec.ofNat 64 (2 ^ 63 + 6 * 16 + 2))

/-- Frames 10000000h to 10003FFFh, reserved. -/
def sF : State := sD.setReg (ctl 0xFF 0x130) 0x100000

/-- START ready and not, refused QUIESCE; QUIESCE, RESUME and PMAP at both ends; a held session and one that is not. -/
theorem witness_MasonCommands :
    (Says.mayCommand sM 0x90 ∧ sM.fld (ctl 0x90 0x100) 2 0 = 0 ∧ sM.placeSet = true ∧ sM.fld (ctl 0x90 0x110) 16 0 ≠ 0 ∧
      sM.mason.pmapLoaded = true ∧ sM.hwj.bibaseSet = true ∧ ¬ Says.masonMay 0 2) ∧
    ((sD.setReg (ctl 0x90 0x100) 0).fld (ctl 0x90 0x110) 16 0 = 0) ∧
    (Says.mayCommand sD 0x90 ∧ sD.fld (ctl 0x90 0x100) 2 0 = 1 ∧ Says.mayCommand sQ 0x90 ∧ sQ.fld (ctl 0x90 0x100) 2 0 = 3) ∧
    (4096 < (withArg (4095 + 2 ^ 16) sQ).fld (ctl 0x90 0x160) 11 0 + (withArg (4095 + 2 ^ 16) sQ).fld (ctl 0x90 0x160) 27 16 + 1 ∧
      (withArg 4095 sQ).fld (ctl 0x90 0x160) 11 0 + (withArg 4095 sQ).fld (ctl 0x90 0x160) 27 16 + 1 ≤ 4096) ∧
    (sessionHeld (withTicket (ticketIn .queued) sD) 77 = true ∧ sessionHeld sD 77 = false ∧ (residentAt sD 77).isNone = true) ∧
    (let w := sD.modTile 3 (fun x => x.modBankAt 2 (fun b => { b with sess := some 77 }))
     Says.mayCommand w 0x90 ∧ sessionHeld w 77 = false ∧ residentAt w 77 = some (3, 2)) ∧
    (sD.reg (ctl 0x90 0x160) = 0 ∧ (withArg 5 sD).reg (ctl 0x90 0x160) ≠ 0) := by
  unfold Says.mayCommand Says.reaches Says.running Says.masonMay; decide +kernel

/-- Courses 12 and 11; a proposal and none; a pool that may be defined, one that is defined, and none. -/
theorem witness_MasonCommands_more :
    ((withArg 12 sD).fld (ctl 0x90 0x160) 3 0 = 12 ∧ (withArg 11 sD).fld (ctl 0x90 0x160) 3 0 = (11 : CourseId).val) ∧
    ((sD.reg (ctl 0x90 0x188)).getLsbD 63 = false ∧ Says.mayCommand sP 0x90 ∧ (sP.reg (ctl 0x90 0x188)).getLsbD 63 = true ∧
      (migOf sP (sP.reg (ctl 0x90 0x180))).isNone = true ∧ (homeEntry sP (sP.reg (ctl 0x90 0x180))).map (fun w => w.getLsbD 60) = some false ∧
      (homeEntry (sP.modMason (fun m => { m with cached := [(0x77, BitVec.ofNat 64 (2 ^ 61 + 2 ^ 60 + 5 * 2 ^ 51))] })) 0x77).map
        (fun w => w.getLsbD 60) = some true ∧ (withArg 1 sP).fld (ctl 0x90 0x160) 0 0 = 1 ∧
      BitVec.ofNat 9 ((sP.reg (ctl 0x90 0x188)).toNat / 16 % 512) ≠ sP.devNo) ∧
    (poolOf sF 31).v = false ∧ (∀ i, i < 32 → (poolOf sF i).v = false) ∧
    (poolOf (sF.setReg (ctl 0x90 0x400) (BitVec.ofNat 64 (2 ^ 63 + 0x10000000))) 0).v = true := by
  unfold Says.mayCommand Says.reaches Says.running; decide +kernel

/-- A pool over frames that are reserved. -/
theorem witness_MasonCommands_pooldef :
    let s := sF.setDword 524288 (BitVec.ofNat 64 (3 * 2 ^ 60))
    frameAddr s 16384 = some (0x10000000, 524288) ∧ framesReserved s 0x10000000 0x4000 = true := by decide +kernel

/-! ## The journal unit -/

/-- HWJ.STATE `n`, with device 6 as the buddy. -/
def withHwj (n : Nat) (s : State) : State :=
  (s.setReg (ctl 0x91 0x100) (BitVec.ofNat 64 n)).setReg (ctl 0x91 0x128) (BitVec.ofNat 64 (2 ^ 63 + 6))

/-- An own record at position 640 that waits for its acknowledgement. -/
def ownRec : JRec := { blankRec with pos := 640, len := 64, needAck := true }

/-- Records that are not durable: own ones with a ticket, with and without an acknowledgement to come, and a mirror copy; none;
a POST that waits for space; PAIRED with and without a record to acknowledge. -/
theorem witness_JournalTimes :
    let s := (withHwj 3 sD).modHwj (fun h => { h with inflight := [ownRec] })
    let q := ({ withTicket (ticketIn (.running 3)) sD with hwj := { sD.hwj with waiting := [.post 40 (some 3)] } }).modTile 3 (fun x =>
      { x with run := .postWait 40 })
    let free := sD.modHwj (fun h => { h with inflight := [{ ownRec with needAck := false, ticket := some 40 }] })
    let copy := sD.modHwj (fun h => { h with inflight := [{ ownRec with needAck := false, mcopy := some (6, 0) }] })
    (Says.running s ∧ s.hwj.inflight.find? (fun x => !x.durable) = some ownRec ∧ ownRec.mcopy = none ∧ ownRec.needAck = true ∧
      ownRec.acked = false ∧ Says.hwj s = 3 ∧ ∃ r ∈ s.hwj.inflight, r.needAck = true ∧ r.acked = false) ∧
    (free.hwj.inflight.find? (fun x => !x.durable)).map (fun r => (r.mcopy, r.needAck, r.ticket)) = some (none, false, some 40) ∧
    (copy.hwj.inflight.find? (fun x => !x.durable)).map (fun r => (r.mcopy.isSome, r.needAck)) = some (true, false) ∧
    (Says.running sD ∧ sD.hwj.inflight.find? (fun x => !x.durable) = none ∧ Says.hwj sD ≠ 2 ∧ Says.hwj sD ≠ 3) ∧
    (let full := q.setReg (ctl 0x91 0x108) (BitVec.ofNat 64 (2 ^ 29))
     Says.running full ∧ ringShort full = true ∧ full.hwj.waiting = [.post 40 (some 3)] ∧ ticketOf full 40 = some (ticketIn (.running 3)) ∧
      ringShort q = false ∧ ringShort sD = false) ∧
    (Says.hwj (withHwj 2 sD) = 2 ∧ (withHwj 2 sD).hwj.resyncLeft = [] ∧ Says.running (withHwj 2 sD)) := by
  unfold Says.hwj Says.running; decide +kernel

/-- DRAINPOS at the first record's place, and past the limit; a snapshot in SINGLE and in INIT; heartbeats in DEGRADED, and in
PAIRED with no evidence, with another device's alone, and with the buddy's. -/
theorem witness_JournalTimes_more :
    let s := sD.setReg (ctl 0x91 0x110) 640
    let h := withHwj 3 { sD with clk := { sD.clk with tb := 10001, seeded := true } }
    let ev (i : Fin 8) : State := h.modHwj (fun j => { j with seen := j.seen.set i 5000 })
    (Says.reaches s 0x91 ∧ Says.hwj s ≠ 0 ∧ (s.reg (ctl 0x91 0x118)).toNat ≤ (0 : Word).toNat ∧ (0 : Word).toNat ≤ drainLim s ∧
      isRecPos s 0 (2 ^ 23 + 1) (s.reg (ctl 0x91 0x118)).toNat = true ∧ ¬ (2 ^ 40 : Nat) ≤ drainLim s) ∧
    (Says.hwj sD ≠ 5 ∧ sD.hwj.waiting = [] ∧ 2 ^ 20 ≤ ringFree sD ∧ (sD.reg (ctl 0x91 0x108)).toNat < 2 ^ 63 ∧
      Says.hwj (sD.setReg (ctl 0x91 0x100) 0) = 0) ∧
    Says.hwj (withHwj 4 sD) = 4 ∧ Says.hwj h = 3 ∧ (h.reg (ctl 0x91 0x128)).getLsbD 63 = true ∧
    (∀ i, i ≠ (5 : Fin 8) → ¬ Says.alive h 12000 i) ∧
    (((2 : Fin 8) ≠ 5 ∧ Says.alive (ev 2) 12000 2) ∧ ¬ Says.alive (ev 2) 12000 6) ∧
    ((6 : Fin 8) ≠ 5 ∧ Says.alive (ev 6) 12000 6) := by
  unfold Says.hwj Says.reaches Says.alive Says.running; decide +kernel

/-- No drain mark stands in the ring of `sD`, whose memory lists nothing there. -/
theorem no_drainMark (m : Nat) : ¬ Says.drainMark sD m := by
  intro h
  have e : sD.mem = [] := by decide +kernel
  have b : ∀ a, sD.byte a = 0 := fun a => by simp [State.byte, e, assocFind, memDefault]
  have z : sD.dword m = 0 := by simp [State.dword, State.memNat, State.bytes, b]; decide
  have := h.2.2.2.1
  simp [z] at this

/-- A ring whose first address holds a drain mark and nothing else. -/
def sR : State := (sD.setReg (ctl 0x91 0x100) 0).setDword 0x080000000000 0x4A52500000000000

/-- That drain mark is the only one. -/
theorem sR_drainMark : Says.drainMark sR 0x080000000000 ∧ ∀ m, m ≠ 0x080000000000 → ¬ Says.drainMark sR m := by
  refine ⟨by unfold Says.drainMark; decide +kernel, fun m hm h => ?_⟩
  have e : sR.mem = [(0x080000000000, 0x4A), (0x080000000001, 0x52), (0x080000000002, 0x50)] := by decide +kernel
  obtain ⟨h1, h2, h3, h4, -⟩ := h
  have b : ∀ a, 0x080000000002 < a → sR.byte a = 0 := fun a ha => by
    have : ¬ 0x080000000000 = a ∧ ¬ 0x080000000001 = a ∧ ¬ 0x080000000002 = a := by omega
    simp [State.byte, e, assocFind, memDefault, this]
  have z : sR.dword m = 0 := by
    have hb : ∀ a, m ≤ a → sR.byte a = 0 := fun a ha => b a (by omega)
    simp [State.dword, State.memNat, State.bytes, hb, Nat.add_assoc]
    decide
  simp [z] at h4

/-- RINGINIT, RINGOPEN without a drain mark and with one, commands out of their states, PAIR outside the grove, TAKEOVER with a declared buddy and without. -/
theorem witness_JournalCommands :
    (Says.mayCommand (sD.setReg (ctl 0x91 0x100) 0) 0x91 ∧ Says.hwj (sD.setReg (ctl 0x91 0x100) 0) = 0 ∧ sD.hwj.waiting = []) ∧
    (Says.mayCommand sR 0x91 ∧ Says.hwj sR = 0) ∧
    (¬ Says.hwjMay 5 1 ∧ ¬ Says.hwjMay 0 3) ∧ (Says.hwj sD = 1 ∧ Says.mayCommand sD 0x91) ∧
    (Says.hwj (withHwj 4 sD) = 4 ∧ (sD.setReg (ctl 0x91 0x168) 77).fld (ctl 0x91 0x168) 8 0 / 8 ≠ sD.fld (ctl 0xFF 0x108) 8 0 / 8) ∧
    (let s := (withHwj 4 sD).modHwj (fun h => { h with declared := true })
     Says.hwj s = 4 ∧ (s.reg (ctl 0x91 0x128)).getLsbD 63 = true ∧ s.hwj.declared = true ∧ s.hwj.promoted = false) := by
  unfold Says.hwj Says.mayCommand Says.reaches Says.running Says.hwjMay; decide +kernel

/-- PAIR with a peer that a third device bears witness of (whether the peer names this device in time is a free value). -/
theorem witness_JournalCommands_pair :
    let s := ((withHwj 4 sD).setReg (ctl 0x91 0x168) 6).setReg (Says.mort (groveLink 5 6) 0x100) (BitVec.ofNat 64 (2 + 0x3F * 2 ^ 40))
      |>.modHwj (fun h => { h with seen := h.seen.set 2 1, reported := h.reported.set 6 (Vector.replicate 8 1) })
    s.fld (ctl 0x91 0x168) 8 0 = 6 ∧ s.fld (ctl 0xFF 0x108) 8 0 = 5 ∧ linkFeat s (groveLink 5 6) 0x20 = true ∧
    (s.hwj.seen.get 2 ≠ 0 ∧ s.clk.tb.toNat < (s.hwj.seen.get 2).toNat + 12000) ∧
    ((s.hwj.reported.get 6).get 2 ≠ 0 ∧ s.clk.tb.toNat < ((s.hwj.reported.get 6).get 2).toNat + 12000) := by
  decide +kernel

/-! ## Mortar links -/

/-- Link 3 of `sD` in state `st`, in M2 with every feature when it is UP. -/
def withLink (st : Nat) (s : State) : State := s.setReg (Says.mort 3 0x100) (BitVec.ofNat 64 (st + 2 ^ 32 + 0x3F * 2 ^ 40))

/-- A NEGO word: part, link, device, protocol versions, flit formats and features, with its check. -/
def negoOf (part plink dev proto tfmt feat : Nat) : BitVec 128 :=
  let hi := 0x4D4E * 2 ^ 112 + part * 2 ^ 96 + 2 ^ 95 + plink * 2 ^ 91 + dev * 2 ^ 82 + proto * 2 ^ 72 + tfmt * 2 ^ 64 + feat * 2 ^ 52
  BitVec.ofNat 128 (hi + (crc32 ((beBytes 16 hi).take 12)).toNat)

/-- The parts of a NEGO that the statement reads. -/
def negoFits (n : BitVec 128) : Bool :=
  n.toNat / 2 ^ 112 == 0x4D4E && crc32 ((beBytes 16 n.toNat).take 12) == BitVec.ofNat 32 (n.toNat % 2 ^ 32)

/-- A link that may train, one that failed for want of a signal, one that is UP, one that trains in each step, both ways out of
equalisation and verification. -/
theorem witness_LinkStates :
    let l0 := sD.link 3
    (Says.running sD ∧ Says.link sD 3 = 0 ∧ sD.placeSet = true ∧ (sD.reg (Says.mort 3 0x108)).getLsbD 63 = true) ∧
    Says.link (withLink 2 sD) 3 = 2 ∧ Says.link (withLink 3 sD) 3 = 3 ∧
    (Says.link (sD.setReg (Says.mort 3 0x100) 0x104) 3 = 4 ∧ (sD.setReg (Says.mort 3 0x100) 0x104).fld (Says.mort 3 0x100) 11 8 = 1) ∧
    (Says.link (withLink 1 sD) 3 = 1 ∧ l0.step = .detect ∧ l0.tx = [] ∧
      ({ l0 with allowM1 := true, lastNego := BitVec.ofNat 128 (2 ^ 72) }).lastNego.getLsbD 72 = true ∧
      l0.verifyTries < 2) ∧
    (canopyRoot (withLink 1 sD) = none ∧ ((withLink 1 sD).reg (Says.mort 3 0x100)).getLsbD 41 = true ∧
      ((sD.setReg (Says.mort 3 0x100) 1).reg (Says.mort 3 0x100)).getLsbD 41 = false) ∧
    (l0.crcTimes = [] ∧ l0.part = Vector.replicate 4 0 ∧ l0.replay = []) := by
  unfold Says.link Says.running; decide +kernel

/-- A NEGO of the peer, of this device, of a wrong port, of old protocols and of no format; the count at its third. -/
theorem witness_LinkStates_nego :
    let p := linkPeer sD.devNo 3
    let n := negoOf 0x5200 p.2 p.1.toNat 2 2 0x3F
    negoFits n = true ∧ negoFits (negoOf 0x3100 p.2 p.1.toNat 1 1 1) = true ∧
    (sD.link 3).step ≠ .eq ∧ (sD.link 3).step ≠ .verify ∧
    (∀ l, l = { sD.link 3 with lastNego := n, negoCount := 2 } → l.lastNego = n ∧ 3 ≤ l.negoCount + 1) ∧
    (BitVec.ofNat 9 (n.toNat / 2 ^ 82 % 512) = p.1 ∧ n.toNat / 2 ^ 91 % 16 = p.2 ∧ p.1 ≠ sD.devNo) ∧
    negoFits (negoOf 0x5200 p.2 5 2 2 0) = true ∧ negoFits (negoOf 0x5200 (p.2 + 1) p.1.toNat 2 2 0) = true ∧
    negoFits (negoOf 0x5200 p.2 p.1.toNat 1 2 0) = true ∧ negoFits (negoOf 0x5200 p.2 p.1.toNat 2 0 0) = true ∧
    negoFits (n + 1) = false := by
  refine ⟨?_, ?_, ?_, ?_, ?_, ?_, ?_, ?_, ?_, ?_, ?_⟩ <;> first | decide +kernel | (intro l e; subst e; decide +kernel)

/-- One byte of the check. -/
def crcByte (c : BitVec 32) (b : Byte) : BitVec 32 :=
  (List.range 8).foldl (fun c _ => if c.getLsbD 0 then (c >>> 1) ^^^ 0xEDB88320#32 else c >>> 1) (c ^^^ b.setWidth 32)

/-- A flit of channel 0 and sequence number 0, acknowledging 5, with seven credits of channel 2; then zeros. -/
def goodFlit : BitVec 2048 := BitVec.ofNat 2048 (0x150071eb13ab5 * 2 ^ 1984)

/-- Its bytes with the check's place cleared: eight bytes and 248 zeros. -/
theorem goodFlit_bytes :
    let bs := beBytes 256 goodFlit.toNat
    bs.take 4 ++ List.replicate 4 0 ++ bs.drop 8 =
      [0x0, 0x1, 0x50, 0x7, 0x0, 0x0, 0x0, 0x0] ++ (List.replicate 31 0 ++ (List.replicate 31 0 ++ (List.replicate 31 0 ++ (List.replicate 31 0 ++
        (List.replicate 31 0 ++ (List.replicate 31 0 ++ (List.replicate 31 0 ++ List.replicate 31 0))))))) := by decide +kernel

/-- Its check holds. -/
theorem goodFlit_fits :
    let bs := beBytes 256 goodFlit.toNat
    crc32 (bs.take 4 ++ List.replicate 4 0 ++ bs.drop 8) = BitVec.ofNat 32 (goodFlit.toNat / 2 ^ 1984 % 2 ^ 32) := by
  have c (m : List Byte) : crc32 m = ~~~(m.foldl crcByte 0xFFFFFFFF) := rfl
  have e : ([0x0, 0x1, 0x50, 0x7, 0x0, 0x0, 0x0, 0x0] : List Byte).foldl crcByte 0xFFFFFFFF = 0x8204ffc5 := by decide +kernel
  have e0 : (List.replicate 31 (0 : Byte)).foldl crcByte 0x8204ffc5 = 0x9f89fd5c := by decide +kernel
  have e1 : (List.replicate 31 (0 : Byte)).foldl crcByte 0x9f89fd5c = 0x89b5a29 := by decide +kernel
  have e2 : (List.replicate 31 (0 : Byte)).foldl crcByte 0x89b5a29 = 0x3b1f16ef := by decide +kernel
  have e3 : (List.replicate 31 (0 : Byte)).foldl crcByte 0x3b1f16ef = 0x4861230f := by decide +kernel
  have e4 : (List.replicate 31 (0 : Byte)).foldl crcByte 0x4861230f = 0x5977d5b3 := by decide +kernel
  have e5 : (List.replicate 31 (0 : Byte)).foldl crcByte 0x5977d5b3 = 0xde62b536 := by decide +kernel
  have e6 : (List.replicate 31 (0 : Byte)).foldl crcByte 0xde62b536 = 0x60654a49 := by decide +kernel
  have e7 : (List.replicate 31 (0 : Byte)).foldl crcByte 0x60654a49 = 0xe14ec54a := by decide +kernel
  simp only [goodFlit_bytes, c, List.foldl_append, e, e0, e1, e2, e3, e4, e5, e6, e7]
  decide +kernel

/-- The same flit with another check word: its check does not hold. -/
theorem badFlit_fits :
    let raw : BitVec 2048 := goodFlit + BitVec.ofNat 2048 (2 ^ 1984)
    let bs := beBytes 256 raw.toNat
    crc32 (bs.take 4 ++ List.replicate 4 0 ++ bs.drop 8) ≠ BitVec.ofNat 32 (raw.toNat / 2 ^ 1984 % 2 ^ 32) := by
  have e : (beBytes 256 (goodFlit + BitVec.ofNat 2048 (2 ^ 1984)).toNat).take 4 ++ List.replicate 4 0 ++
      (beBytes 256 (goodFlit + BitVec.ofNat 2048 (2 ^ 1984)).toNat).drop 8 =
    (beBytes 256 goodFlit.toNat).take 4 ++ List.replicate 4 0 ++ (beBytes 256 goodFlit.toNat).drop 8 := by decide +kernel
  have f := goodFlit_fits
  dsimp only at f ⊢
  rw [e, f]
  decide +kernel

/-- That flit in sequence and out of it; a link in M2 and in M1. -/
theorem witness_LinkStates_flits :
    let s := withLink 2 sD
    ((s.link 3).rxSeq.toNat = 0 ∧ goodFlit.toNat / 2 ^ 1984 / 2 ^ 54 % 2 ^ 8 = 0 ∧ goodFlit.toNat % 2 ^ 1984 = 0 ∧
      (∀ v, (s.link 3).rx.get v = [])) ∧
    (∀ l, l = { s.link 3 with rxSeq := 1 } → goodFlit.toNat / 2 ^ 1984 / 2 ^ 54 % 2 ^ 8 ≠ l.rxSeq.toNat) ∧
    (s.reg (Says.mort 3 0x100)).getLsbD 32 = true ∧
    ((s.setReg (Says.mort 3 0x100) 2).reg (Says.mort 3 0x100)).getLsbD 32 = false := by
  refine ⟨?_, ?_, ?_, ?_⟩ <;> first | decide +kernel | (intro l e; subst e; decide +kernel)

/-- Each command of the page, allowed and not; QUENCH of the peer, of a device of the partition map, and of nothing. -/
theorem witness_LinkCommands :
    let u := withLink 2 sD
    (Says.mayCommand sD 0xB3 ∧ Says.link sD 3 = 0 ∧ sD.placeSet = true ∧ Says.mayCommand u 0xB3 ∧ Says.link u 3 = 2) ∧
    (let w := (u.setReg (Says.mort 3 0x140) (BitVec.ofNat 64 (2 ^ 56 + 20))).reg (Says.mort 3 0x140)
     w.toNat / 2 ^ 56 % 8 = 1 ∧ w.toNat % 2 ^ 16 = 20 ∧ w.getLsbD 63 = false) ∧
    (let w := (u.setReg (Says.mort 3 0x140) (BitVec.ofNat 64 (2 ^ 63 + 2 ^ 56 + 5 * 2 ^ 32 + 20))).reg (Says.mort 3 0x140)
     w.getLsbD 63 = true ∧ BitVec.ofNat 9 (w.toNat / 2 ^ 32 % 512) = u.mason.pmap.get 0) ∧
    (u.reg (Says.mort 3 0x140)).toNat % 2 ^ 16 = 0 := by
  unfold Says.link Says.mayCommand Says.reaches Says.running; decide +kernel

/-! ## Messages -/

/-- Link 3 is UP with every feature, device 6 is the buddy, the journal is PAIRED. -/
def sU : State := withLink 2 (withHwj 3 (withHandler sD))

theorem sU_hears (ty : Nat) :
    Says.hears sU 3 6 ty (some 0) ∧ Says.hears sU 3 6 ty (some 2) ∧ Says.hears sU 3 6 ty (some 4) ∧ Says.hears sU 3 6 ty none := by
  refine ⟨⟨by unfold Says.running; decide +kernel, by unfold Says.link; decide +kernel, by decide +kernel, fun _ => by decide +kernel, fun _ => by decide +kernel⟩,
    ⟨by unfold Says.running; decide +kernel, by unfold Says.link; decide +kernel, by decide +kernel, fun _ => by decide +kernel, fun _ => by decide +kernel⟩,
    ⟨by unfold Says.running; decide +kernel, by unfold Says.link; decide +kernel, by decide +kernel, fun _ => by decide +kernel, fun _ => by decide +kernel⟩,
    ⟨by unfold Says.running; decide +kernel, by unfold Says.link; decide +kernel, trivial, fun _ => by decide +kernel, fun _ => by decide +kernel⟩⟩

/-- A migration of brick 77h from here, and one to here. -/
def migOut : Mig := { key := 0x77, peer := 6, course := 4, atHome := true, step := 3, frame := 0, pull := false }

/-- What the messages of VC0 and VC1 find: a grove peer, the buddy, a valid ticket, a continuation that is new and one that is
not, a pending continuation, room in the ring, migrations on both sides. -/
theorem witness_MessagesReceived :
    let p : Pend := { tk := rawTicket, src := 5, dest := 3, course := 2, seq := 9, time := 0, void := false, held := false, pos := 64 }
    let k := sU.modMason (fun m => { m with pend := [p] })
    let o := (withBrick 0x77 sU).modMason (fun m => { m with migs := [migOut] })
    let i := sU.modMason (fun m => { m with migs := [{ migOut with atHome := false, frame := 0x123000, pull := true }] })
    ((6 : BitVec 9).toNat / 8 = sU.devNo.toNat / 8 ∧ (6 : BitVec 9) ≠ sU.devNo) ∧
    ((sU.reg (ctl 0x91 0x128)).getLsbD 63 = true ∧ BitVec.ofNat 9 (sU.fld (ctl 0x91 0x128) 8 0) = 6 ∧ Says.hwj sU = 3) ∧
    (sU.fld (ctl 0x90 0x100) 2 0 = 1 ∧ ticketValid sU rawTicket = true ∧ rawTicket.getLsbD 495 = false ∧ tSdev rawTicket = sU.devNo ∧
      (handlerOf sU rawTicket).map (fun q => q.1.getLsbD 62) = some false) ∧
    (let e := recvEnt sU sU.devNo 6 2
     ¬ ((11 : Nat) ≤ e.lw ∨ e.bm.getLsbD (11 - e.lw - 1) = true) ∧ 11 ≤ e.lw + 256 ∧ 0 ≤ e.lw ∧ sU.mason.tickets.length = 0) ∧
    (k.mason.pend.any (fun p => decide (p.src = k.devNo ∧ p.dest = 3 ∧ p.course = 2 ∧ p.seq = 9)) = true ∧
      sU.mason.pend.any (fun p => decide (p.src = sU.devNo ∧ p.dest = 3 ∧ p.course = 2 ∧ p.seq = 9)) = false) ∧
    (stageShown sU = false ∧ stageShown ((sU.setReg (ctl 0x90 0x18) 0x40).modMason (fun m => { m with stageFull := true })) = true ∧ sU.mason.quenched = []) ∧
    (sU.hwj.waiting = [] ∧ 2 ^ 17 ≤ ringFree sU) ∧ (sliceFind sU 0x77).isNone = true ∧
    (migOf o 0x77 = some migOut ∧ (o.mason.cached.find? (fun q => decide (q.1 = 0x77))).map (fun q => q.1) = some 0x77) ∧
    ((migOf i 0x77).map (fun g => (g.atHome, decide (g.cand < 2 ^ 14))) = some (false, true) ∧ tombOf i 0x77 = none ∧
      i.mason.cached.length + i.mason.hints.length < Config.dirCache) ∧
    (let b := sU.setDword (bucketAddr sU 0x77 (keyhash 0x77).2.1) 0x77
     let m := b.modHwj (fun h => { h with replicaValid := true }) |>.setReg (ctl 0x91 0x100) 4
     sliceDev m 0x77 = m.devNo ∧ (sliceFind m 0x77).isSome = true ∧ entryPending m 0x77 = false ∧ mirroring m = false ∧ m.poison = [] ∧ stageShown m = false) ∧
    (contBusy sU 6 2 11 = false ∧ (sU.modHwj (fun h => { h with rPend := [p] })).hwj.rPend.any
      (fun p => decide (p.dest = 3 ∧ p.course = 2 ∧ p.seq = 9)) = true) := by
  unfold Says.hwj; decide +kernel

/-- A ticket in T2 with an entry of a remote slice; a message on a link that is not UP. -/
theorem witness_MessagesReceived_entry :
    let o := sU.modMason (fun m => { m with pmap := Vector.replicate 4096 6 })
    let e : Word := BitVec.ofNat 64 (2 ^ 61 + 5 * 2 ^ 51)
    let tk : Ticket := rawTicket ||| BitVec.ofNat 512 (2 ^ 490 + 0x77 * 2 ^ 320)
    (e.toNat / 2 ^ 61 = 1 ∧ eDev e = o.devNo ∧ (tKeys tk).head? = some 0x77 ∧ sliceDev o 0x77 ≠ o.devNo ∧ homeEntry o 0x77 = none ∧
      (migOf o 0x77).isNone = true ∧ (tombOf o 0x77).isNone = true ∧ o.hwj.promoted = false) ∧
    (Says.running (withLink 1 sD) ∧ Says.link (withLink 1 sD) 3 ≠ 2) := by
  unfold Says.running Says.link; decide +kernel

/-- What the messages of VC2 and VC3 find: an open VC2 and a closed one, a record to acknowledge, a directory entry and an empty
one, a change that waits, a migration that pulls, a frame for a copy. -/
theorem witness_MirrorMessages :
    let r := sU.modHwj (fun h => { h with inflight := [ownRec] })
    let d := sU.modHwj (fun h => { h with drepWait := [(0x040000000000 + 0x80 * 5 + 32, BitVec.ofNat 128 (0x77 * 2 ^ 64 + 0x99))] })
    let i := sU.modMason (fun m => { m with migs := [{ migOut with atHome := false, frame := 0x123000 }] })
    let a := bucketAddr sU 0x77 (keyhash 0x77).2.1
    let rep := (((sU.setReg (ctl 0x90 0x600) (BitVec.ofNat 64 (2 ^ 63 + 0x10000000))).setReg (ctl 0x90 0x608) 0x10004000).setDword a
      0x77).setDword (a + 8) (BitVec.ofNat 64 (2 ^ 61 + 6 * 2 ^ 51))
    Says.vc2 sU 6 ∧ ¬ Says.vc2 sU 7 ∧
    (r.hwj.inflight.find? (fun r => decide (r.pos = 640 ∧ r.mcopy = none)) = some ownRec ∧ ownRec.durable = false) ∧
    (sU.setDword 0x280 5).dword 0x280 ≠ 0 ∧ ((0x99 : BitVec 128).toNat / 2 ^ 64 = 0) ∧
    (d.hwj.drepWait.find? (fun q => decide (q.1 % 2 ^ 33 / 16 = (5 : BitVec 26).toNat * 8 + (2 : Fin 8).val))).isSome = true ∧
    ((∀ c, recording i c = false) ∧ (migOf i 0x77).map (fun g => (g.atHome, g.step)) = some (false, 3)) ∧
    ((replicaFrame rep 6 0x77).isSome = true ∧ (replicaFrame sU 6 0x77).isNone = true ∧ rep.hwj.rApply = []) ∧ (List.replicate 4096 (0 : Byte)).length = 4096 ∧
    ((List.replicate 128 (0 : Byte)).length % 64 = 0 ∧ (List.replicate 128 (0 : Byte)).length ≤ 2 ^ 15) := by
  unfold Says.vc2 Says.hwj; decide +kernel

/-! ## Canopy time and quenches -/

/-- The first announcement of the root through link 3's peer makes that peer the time parent. -/
theorem witness_TimeAndQuenches :
    let p := (linkPeer sU.devNo 3).1
    let c := (sU.setFld (ctl 0xFF 0x188) 63 63 1)
    ((sU.reg (ctl 0xFF 0x180)).getLsbD 63 = false ∧ (Says.tstat sU).getLsbD 63 = false ∧ aliasOf sU p = p) ∧
    (canopyRoot c ≠ some sU.devNo ∧ canopyRoot (c.setFld (ctl 0xFF 0x188) 17 9 sU.devNo.toNat) = some sU.devNo ∧ timeParent sU = none ∧ timeParent c ≠ none ∧ timeParent c ≠ some 511) ∧
    (let s := sU.setReg (ctl 0xFF 0x180) (BitVec.ofNat 64 (2 ^ 63))
     (s.reg (ctl 0xFF 0x180)).getLsbD 63 = true ∧ (Says.tstat s).getLsbD 62 = false) ∧
    ((BitVec.ofNat 64 (2 ^ 63 + 2 ^ 56 + 9) : Word).getLsbD 63 = true ∧ (BitVec.ofNat 64 (2 ^ 56 + 9) : Word).getLsbD 63 = false) := by
  decide +kernel

/-- A TRSP whose offset is far, near, and within the lock, either way. -/
theorem witness_TimeAndQuenches_offsets :
    let twice (t1 t2 t3 cq cr t4 : Int) : Int := (t2 - t1 - cq) - (t4 - t3 - cr)
    20000 < twice 1000 101000 102000 1 2 2035 ∧ twice 1000 1010 1020 1 2 99035 < -20000 ∧ (twice 1000 1010 1020 1 2 1035).natAbs ≤ 20 ∧
    80 < (twice 1000 1010 1020 1 2 1135).natAbs := by decide

/-! ## Recording -/

/-- Course 2 records one record of 32 bytes. -/
def sO : State :=
  (sD.setReg (Says.rings 2 0x100) 1).modCourse 2 (fun c => { c with rings := { c.rings with buf := [List.replicate 32 1] } })

/-- A record that fits the window; one that does not; a stream with room and one without; a sweep. -/
theorem witness_RecordsLeave :
    let r : List Byte := List.replicate 32 1
    let full := (sO.setReg (Says.rings 2 0x108) 0).setReg (Says.rings 2 0x128) (BitVec.ofNat 64 (2 ^ 30))
    let strm := (sO.setReg (Says.rings 2 0x108) (BitVec.ofNat 64 (2 ^ 63))).setReg (Says.rings 2 0x118) 6
    (Says.running sO ∧ (sO.course 2).rings.buf = [r] ∧ (sO.course 2).rings.stopping = false ∧ 16 ≤ r.length ∧ (sO.reg (Says.rings 2 0x128)).toNat < 2 ^ 63 ∧
      r.length ≤ 2 ^ 20 ∧ (sO.reg (Says.rings 2 0x108)).getLsbD 63 = false ∧
      r.length ≤ 2 ^ 30 - (sO.reg (Says.rings 2 0x128)).toNat % 2 ^ 30 ∧ (sO.reg (Says.rings 2 0x108)).getLsbD 62 = true) ∧
    (let w := sO.setReg (Says.rings 2 0x128) (BitVec.ofNat 64 (2 ^ 30 - 16))
     (w.reg (Says.rings 2 0x108)).getLsbD 62 = true ∧ (w.reg (Says.rings 2 0x128)).toNat % 16 = 0 ∧
      2 ^ 30 - (w.reg (Says.rings 2 0x128)).toNat % 2 ^ 30 < r.length) ∧
    ((sO.course 2).rings.late = [] ∧ r.length ≤ 2 ^ 16 ∧ sO.fld (Says.rings 2 0xF8) 7 0 ≠ 1) ∧
    ((full.reg (Says.rings 2 0x108)).getLsbD 63 = false ∧ (full.reg (Says.rings 2 0x108)).getLsbD 62 = false ∧
      2 ^ 30 < (full.reg (Says.rings 2 0x128)).toNat + r.length) ∧
    ((strm.reg (Says.rings 2 0x108)).getLsbD 63 = true ∧ r.length ≤ 2 ^ strm.fld (Says.rings 2 0x118) 5 0 ∧
      ¬ r.length ≤ 2 ^ (strm.setReg (Says.rings 2 0x118) 4).fld (Says.rings 2 0x118) 5 0) ∧
    (sD.course 2).rings.buf = [] ∧ (sD.course 2).rings.sweeping = false ∧ (Says.reaches sD 0xDA ∧ Says.recState sD 2 ≠ 1) := by
  unfold Says.recState Says.reaches Says.running; decide +kernel

/-- A recording of one record of 80 bytes in the window of course 2, which is drained. -/
def sV : State :=
  (((sD.setReg (ctl 0x90 0x220) (BitVec.ofNat 64 (2 ^ 63))).setReg (Says.rings 2 0x168) 80).setReg (Says.rings 2 0x128) 80).setDword
    (Says.window sD 2 0) (BitVec.ofNat 64 (2 ^ 56 + 5 * 2 ^ 41))

/-- Each command in a state that allows it and in one that does not; a window that another course holds; REPLAY of a course that
is not drained. -/
theorem witness_RingsCommands :
    let held := sD.setReg (Says.rings 4 0x100) 1
    (Says.mayCommand sD 0xDA ∧ Says.recState sD 2 = 0 ∧ (sD.reg (Says.rings 2 0x108)).getLsbD 63 = false) ∧
    (Says.mayCommand sO 0xDA ∧ Says.recState sO 2 = 1 ∧ (sO.course 2).rings.gapRecs = 0 ∧
      ((sO.course 2).rings.buf.map List.length).sum + 80 ≤ 65536) ∧
    (let w := (sO.setReg (Says.rings 2 0x108) (BitVec.ofNat 64 (2 ^ 63)))
     Says.recState w 2 = 1 ∧ (w.reg (Says.rings 2 0x108)).getLsbD 63 = true ∧ (w.course 2).rings.stopping = false ∧
      (w.course 2).rings.rTile = none ∧ Says.recState (w.setReg (Says.rings 2 0x100) 2) 2 = 2) ∧
    ((4 : CourseId) ≠ 2 ∧ Says.recState held 4 = 1 ∧ (held.reg (Says.rings 4 0x108)).getLsbD 63 = false ∧
      (held.reg (Says.rings 4 0x108)).toNat % 4 = (held.reg (Says.rings 2 0x108)).toNat % 4) ∧
    (let w := sO.modCourse 2 (fun c => { c with rings := { c.rings with buf := List.replicate 100 (List.replicate 655 0) } })
     Says.mayCommand w 0xDA ∧ Says.recState w 2 = 1 ∧ ((w.course 2).rings.buf.map List.length).sum + 80 > 65536 ∧
      ((w.course 2).rings.buf.map List.length).sum + 32 ≤ 65536 ∧ (w.course 2).rings.late = [] ∧ (w.course 2).rings.stopping = false ∧
      (w.reg (Says.rings 2 0x108)).getLsbD 61 = true ∧
      ((w.setReg (Says.rings 2 0x108) 0).reg (Says.rings 2 0x108)).getLsbD 61 = false) ∧
    sD.fld (ctl 0x90 0x220) 63 62 ≠ 2 ∧ sV.fld (ctl 0x90 0x220) 63 62 = 2 ∧ (sV.reg (Says.rings 2 0x160)).toNat = 0 ∧
    (sV.reg (Says.rings 2 0x168)).toNat = 80 ∧ recOk sV 2 0 80 = true ∧ (recHead sV 2 0).1 = 1 ∧ (recHead sV 2 0).2.2.1 = 80 ∧
    Says.recState sV 2 = 0 ∧ Says.mayCommand sV 0xDA := by
  unfold Says.recState Says.mayCommand Says.reaches Says.running; decide +kernel

/-! ## Resets, boot, training, clocks -/

/-- A DIMM that trains, and channels with one in each position. -/
def goodDimm : Spd := { registered := true, ecc := true, x4 := true, ranks := 2, capGiB := 64, speed := 5600 }
def goodPair : DimmPair := { d0 := some goodDimm, d1 := some goodDimm }

/-- A device that runs and one in reset; DEVRESET; straps that are tied and open; the boot ROM before it ran and after; DEV.START. -/
theorem witness_Resets :
    Says.running sD ∧ ¬ Says.running { sD with sby := { sD.sby with inReset := true } } ∧ Says.mayCommand sD 0xEB ∧
    (sD.sby.powerGood = true ∧ sD.sby.inReset = false ∧ sD.sby.vstby = true) ∧
    Says.strapped { hi := .high, lo := .opened } 3 ∧ ¬ Says.strapped { hi := .high, lo := .low } 3 ∧
    (sD.boot.romRan = false ∧ ({ sD with boot := { sD.boot with romRan := true } } : State).boot.romRan = true) ∧
    (Says.reaches sD 0xFF ∧ (sD.tile 97).run = .held ∧ (2 : Word).getLsbD 1 = true ∧ (sD.reg (ctl 0xFF 0x1B0)).getLsbD 1 = false) := by
  unfold Says.mayCommand Says.reaches Says.running Says.strapped; decide +kernel

/-- A controller not trained, one in training, the last of eight, and DIMMs that it takes and that it does not; a course that may reload,
one that may not, one that waits for another; a reload whose image is no image; a slot that is no image. -/
theorem witness_BootAndTraining :
    let drained := sD.setReg (ctl 0x90 0x220) (BitVec.ofNat 64 (2 ^ 63))
    let other := drained.modCourse 5 (fun c => { c with reloading := some 0 })
    let seven := (List.range 7).foldl (fun s i => (s.setFld (ctl (0xA1 + i) 0x120) 1 0 2)) (sD.setFld (ctl 0xA0 0x120) 1 0 1)
    let last := { seven with boot := { seven.boot with dimms := Vector.replicate 8 (some goodPair) } }
    (Says.mayCommand sD 0xA3 ∧ sD.fld (ctl 0xA3 0x120) 1 0 = 0 ∧ (sD.setFld (ctl 0xA3 0x120) 1 0 2).fld (ctl 0xA3 0x120) 1 0 = 2) ∧
    (Says.running last ∧ last.fld (ctl 0xA0 0x120) 1 0 = 1 ∧ last.boot.speed = none ∧
      (∀ i : Nat, i < 8 → i ≠ 0 → last.fld (ctl (0xA0 + i) 0x120) 1 0 = 2) ∧ (∀ i : Fin 8, last.boot.dimms.get i = some goodPair)) ∧
    (Says.mayCommand drained 0x72 ∧ drained.isA0 = false ∧ drained.fld (ctl 0x72 0x100) 1 0 = 0 ∧ drained.fld (ctl 0x90 0x220) 63 62 = 2 ∧
      Says.recState drained 2 = 0 ∧ (∀ d, (drained.course d).reloading = none)) ∧
    ((other.course 5).reloading.isSome = true ∧ sD.fld (ctl 0x90 0x220) 63 62 ≠ 2 ∧ verifyAt other 0 ≠ 1 ∧ (other.course 2).reloading = none) ∧
    Says.slotCode sD (List.replicate 96 0) true ≠ 1 := by
  unfold Says.mayCommand Says.reaches Says.recState Says.running; decide +kernel

/-- Those DIMMs are ones that a channel takes; without one in position 0 it takes none. -/
theorem witness_BootAndTraining_dimms : Says.channelOk goodPair ∧ ¬ Says.channelOk { d0 := none, d1 := some goodDimm } := by
  refine ⟨⟨rfl, fun x h => ?_, fun x y h1 h2 => ?_⟩, fun h => by cases h.1⟩
  · rcases h with h | h <;> cases h <;> unfold Says.dimmAllowed <;> decide
  · cases h1; cases h2; rfl

/-- Ticks with no carry, with one, and behind the trim; a write that waits, and a SET that is due; a timebase that waits for its seed and one that runs;
SEED in INIT and not; a PPS edge that is captured and one that is not. -/
theorem witness_CalendarAndClocks :
    let s := sD.setReg (ctl 0xD0 0x108) (BitVec.ofNat 64 (2 ^ 32 - 2 ^ 17))
    let late := { sD with clk := { sD.clk with calAcc := -(2 ^ 17) } }
    let w : Posted := { a := .jtag, ca := ctl 0xD0 0xF0, sz := .b8, v := 1 }
    let set : State := { sD with posted := [{ w with ticks := 1 }] }
    let pps := sD.setReg (ctl 0xE8 0x100) (BitVec.ofNat 64 (2 ^ 63 + 2 ^ 61))
    (sD.posted = [] ∧ -(2 ^ 17) < sD.clk.calAcc ∧ sD.fld (ctl 0xD0 0x108) 31 0 + 2 ^ 17 < 2 ^ 32) ∧
    (2 ^ 32 ≤ s.fld (ctl 0xD0 0x108) 31 0 + 2 ^ 17 ∧
      s.clk.calAcc + (BitVec.ofNat 8 (s.fld (ctl 0xD0 0x10) 7 0)).toInt * 4295 < 2 ^ 17) ∧
    (late.posted = [] ∧ late.clk.calAcc ≤ -(2 ^ 17)) ∧ (w.ticks = 0 ∧ w.ca / 4096 = 0xD0 ∧ set.fld (ctl 0xD0 0xF8) 7 0 ≠ 1) ∧ sD.sby.vstby = true ∧
    (Says.running sD ∧ sD.clk.seeded = false ∧ sD.clk.pllLocked = true) ∧
    (({ sD with clk := { sD.clk with seeded := true } } : State).clk.seeded = true ∧ sD.fld (ctl 0xE8 0xF8) 7 0 ≠ 1) ∧
    (0xD0 ∉ sD.stopped ∧ Says.mayCommand sD 0xE8 ∧ Says.hwj sD ≠ 0 ∧ Says.hwj (sD.setReg (ctl 0x91 0x100) 0) = 0) ∧
    ((pps.reg (ctl 0xE8 0x100)).getLsbD 63 = true ∧ (pps.reg (ctl 0xE8 0x100)).getLsbD 62 = false ∧
      (pps.reg (ctl 0xE8 0x100)).getLsbD 61 = true ∧ (sD.reg (ctl 0xE8 0x100)).getLsbD 63 = false) := by
  unfold Says.mayCommand Says.reaches Says.hwj Says.running; decide +kernel

/-! ## Interfaces of the package -/

/-- Root port 0 knows requester 1234h, whose keys allow everything; the frame at 10000h is of type 1 and key 3 in its keys; its MSI
window is at 55000h with a route to doorbell 9 of tile 5. -/
def sI : State :=
  let s := ((sF.setReg (Says.pcie 0 0x400) (BitVec.ofNat 64 (2 ^ 63 + 0x1234))).setReg (Says.pcie 0 0x410) 0).setReg (Says.pcie 0 0x418) 0
  let s := (s.setReg (Says.pcie 0 0x130) 0x55000).setReg (Says.pcie 0 0xC18) (BitVec.ofNat 64 (2 ^ 15 + 5 * 2 ^ 8 + 9))
  { s with dmaKeys := s.dmaKeys.set 0 [(4, 1 * 64 + 3)] }

theorem sI_requester : Says.requester sI 0 0x1234 (sI.reg (Says.pcie 0 0x400)) 0 :=
  ⟨0, by decide, rfl, by decide +kernel, by decide +kernel, by decide +kernel, fun m h => absurd h (Nat.not_lt_zero m)⟩

/-- Link 0 of root port 0 is UP and out of PERST#, and carries that requester's requests; in `sI` none does. -/
def sIup : State := (sI.setReg (Says.pcie 0 0x110) (BitVec.ofNat 64 (2 ^ 63))).setReg (Says.pcie 0 0x108) 0

theorem sIup_carries : Says.carries sIup 0 0x1234 ∧ ¬ Says.carries sI 0 0x1234 := by
  refine ⟨⟨0, by decide +kernel, .inr ?_, by decide +kernel, by decide +kernel⟩, ?_⟩
  · have : ∀ j : Fin 4, ¬ (j.val < (Says.subs sIup 0).1 ∧ sIup.fld (Says.pcie 0 (0x140 + 8 * j.val)) 15 8 ≤ (0x1234 : BitVec 16).toNat / 256 ∧
        (0x1234 : BitVec 16).toNat / 256 ≤ sIup.fld (Says.pcie 0 (0x140 + 8 * j.val)) 7 0) := by decide +kernel
    exact this
  · rintro ⟨k, -, -, h, -⟩
    have : ∀ k : Fin 4, (sI.reg (Says.pcie 0 (0x110 + 8 * k.val))).getLsbD 63 = false := by decide +kernel
    rw [this k] at h
    cases h

/-- No entry of `sI` is for requester 4444h. -/
theorem sI_no_requester (w : Word) (r : BitVec 128) : ¬ Says.requester sI 0 0x4444 w r := by
  rintro ⟨n, hn, rfl, -, h, -⟩
  have : ∀ n, n < 64 → (sI.reg (Says.pcie 0 (0x400 + 32 * n))).toNat % 2 ^ 16 ≠ 0x4444 := by decide +kernel
  exact this n hn h

/-- A write and a read that the key allows and that a key refuses; messages 7 and 6 of the MSI window; a link that may become
active and one that is. -/
theorem witness_PcieRequests :
    let no := sI.setReg (Says.pcie 0 0x418) (-1)
    let act := sI.setReg (Says.pcie 0 0x110) (BitVec.ofNat 64 (2 ^ 63))
    Says.running sI ∧
    (¬ (0x10000 : Nat) / 4096 = (sI.reg (Says.pcie 0 0x130)).toNat / 2 ^ 12 % 2 ^ 36 ∧ regionOf sI 0x10000 = .ddr ∧ regionOf sI 0x10002 = .ddr ∧
      sI.fld (ctl 0xFF 0x130) 27 0 ≠ 0 ∧
      (sI.dmaKeys.get 0).find? (fun q => decide (q.1 = 0x10000 / 0x4000)) = some (0x10000 / 0x4000, 1 * 64 + 3)) ∧
    (keyAD 0 3 = false ∧ keyWD 0 3 = false ∧ keyAD (no.reg (Says.pcie 0 0x410) ++ no.reg (Says.pcie 0 0x418)) 3 = true) ∧
    ((0x55008 : Nat) / 4096 = (sI.reg (Says.pcie 0 0x130)).toNat / 2 ^ 12 % 2 ^ 36 ∧
      (sI.reg (Says.pcie 0 (0xC00 + 8 * (7 / 2)))).toNat % 2 ^ 32 / 2 ^ 15 % 2 = 1 ∧
      (sI.reg (Says.pcie 0 (0xC00 + 8 * (6 / 2)))).toNat / 2 ^ 32 / 2 ^ 15 % 2 = 0) ∧
    ((0 : Nat) < (Says.subs sI 0).1 ∧ ((sI.setReg (Says.pcie 0 0x108) 0).reg (Says.pcie 0 0x108)).getLsbD 0 = false ∧
      (sI.reg (Says.pcie 0 0x110)).getLsbD 63 = false ∧ 0 ∉ sI.pcieDown ∧ 1 ≤ (Says.subs sI 0).2) ∧
    ((sI.reg (Says.pcie 0 0x10)).getLsbD 1 = false ∧ ((sI.setReg (Says.pcie 0 0x10) 2).reg (Says.pcie 0 0x10)).getLsbD 1 = true) ∧
    ((act.reg (Says.pcie 0 0x110)).getLsbD 63 = true ∧ Says.reaches sI 0xC0 ∧ (sI.reg (Says.pcie 0 0x108)).getLsbD 0 = true) := by
  unfold Says.reaches Says.running; decide +kernel

/-- A controller that scrubs lines it holds, poisoned and not, or does not scrub; SPI and I2C idle and in operation; temperatures below and at the
limit. -/
theorem witness_BoardEvents :
    let s := (sF.setReg (ctl 0xA3 0x100) (BitVec.ofNat 64 (2 ^ 63))).setFld (ctl 0xA3 0x120) 1 0 2
    let line := (8 * 7 + 3) * 2
    (Says.running s ∧ (s.reg (ctl 0xA3 0x100)).getLsbD 63 = true ∧ s.fld (ctl 0xA3 0x120) 1 0 = 2 ∧
      line * 128 < s.fld (ctl 0xFF 0x130) 27 0 * 16384 ∧ line / 2 % 8 = 3 ∧ line ∉ s.poison ∧
      ((sF.setReg (ctl 0xA3 0x100) 0).reg (ctl 0xA3 0x100)).getLsbD 63 = false) ∧
    (Says.reaches sF 0xFF ∧ Says.reaches sF 0xEB ∧ (sF.reg (ctl 0xFF 0x1C0)).getLsbD 62 = false ∧ (sF.reg (ctl 0xEB 0x180)).getLsbD 62 = false ∧
      ((sF.setReg (ctl 0xFF 0x1C0) (BitVec.ofNat 64 (2 ^ 62))).reg (ctl 0xFF 0x1C0)).getLsbD 62 = true ∧
      ((sF.setReg (ctl 0xEB 0x180) (BitVec.ofNat 64 (2 ^ 62 + 4))).reg (ctl 0xEB 0x180)).getLsbD 62 = true ∧ sF.boot.i2cWaiting = false) ∧
    ((BitVec.ofInt 16 1759).toInt < 1760 ∧ 1760 ≤ (BitVec.ofInt 16 1760).toInt ∧ (sF.reg (ctl 0xEB 0x18)).getLsbD 1 = false ∧
      sF.boot.throttling = false ∧ ({ sF.boot with throttling := true } : Boot).throttling = true) := by
  unfold Says.reaches Says.running; decide +kernel

/-- Each power state, no standby supply, RESET_n high and low; debug locked and not; a register of the control space, and an
address outside it. -/
theorem witness_SmbusAndJtag :
    (State.reset.sby.vstby = true ∧ State.reset.sby.powerGood = true ∧ State.reset.sby.trip = false ∧ State.reset.sby.inReset = false ∧
      State.reset.sby.resetN = true) ∧
    (Says.running sD ∧ sD.fuses.dbgLock = false ∧ ({ sD.fuses with dbgLock := true } : Fuses).dbgLock = true) ∧
    (let a : BitVec 48 := 0x3F00000FF028
     (0x3F0000000000 : Nat) ≤ a.toNat / 8 * 8 ∧ a.toNat / 8 * 8 ≤ 0x3F00000FFFFF ∧
      (pageKind ((a.toNat / 8 * 8 - 0x3F0000000000) / 4096)).isSome = true ∧ sD.stopped.contains 0xFF = false ∧
      (∀ w ∈ sD.posted, w.a ≠ .jtag) ∧ (a.toNat / 8 * 8 - 0x3F0000000000) % 4096 = 0x28) ∧
    (let x : SmbTransfer := { addr := 0x6C, code := 9, pecBad := false }
     x.addr.toNat = 0x6C + sD.sby.addr.toNat ∧ 8 < x.code.toNat ∧ ({ x with addr := 0x0C } : SmbTransfer).addr.toNat = 0x0C ∧
      ((sD.setReg (ctl 0xEB 0x18) 2).reg (ctl 0xEB 0x18)).getLsbD 1 = true) ∧
    ¬ ((0x3F0000100000 : BitVec 48).toNat / 8 * 8 ≤ 0x3F00000FFFFF) := by
  unfold Says.running; decide +kernel

/-! ## The invariant -/

/-- The state after reset meets it, and so does a state with memory, registers and a machine-check queue. -/
theorem reset_inv : Says.Inv State.reset := by unfold Says.Inv; decide +kernel

theorem witness_StepKeepsInv : Says.Inv sI ∧ Says.Inv (withRing sD) := by unfold Says.Inv; decide +kernel

theorem witness_StepKeepsInv_step : ∃ s', step sI = .next s' := ⟨sI, rfl⟩

end Sys2Proof.Tests
end

section
/-! PROOFS. Writes of control registers (spec/13 R415–R427). First, fields of a word: what a field holds after one is put, and a
field put from a word as a choice of bits by its mask. -/

namespace Sys2Proof.Machine

/-- The bits [hi:lo] of a word. -/
def fieldMask (hi lo : Nat) : Word := BitVec.ofNat 64 ((2 ^ (hi + 1 - lo) - 1) * 2 ^ lo)

theorem testBit_bitsNat {w : Nat} (x : BitVec w) (hi lo i : Nat) :
    (bitsNat x hi lo).testBit i = (decide (i < hi + 1 - lo) && x.getLsbD (lo + i)) := by
  rw [bitsNat, Nat.testBit_mod_two_pow, Nat.testBit_div_two_pow, BitVec.getLsbD, Nat.add_comm i lo]

theorem getLsbD_fieldMask {hi lo i : Nat} (h : i < 64) :
    (fieldMask hi lo).getLsbD i = decide (lo ≤ i ∧ i < hi + 1) := by
  rw [fieldMask, BitVec.getLsbD_ofNat, Nat.testBit_mul_two_pow, Nat.testBit_two_pow_sub_one]
  by_cases hl : lo ≤ i <;> simp [h, hl]
  omega

theorem getLsbD_setBits (x : Word) (lo n v : Nat) {i : Nat} (h : i < 64) :
    (setBits x lo n v).getLsbD i = if lo ≤ i ∧ i < lo + n then v.testBit (i - lo) else x.getLsbD i := by
  simp only [setBits, BitVec.getLsbD_or, BitVec.getLsbD_and, BitVec.getLsbD_not, BitVec.getLsbD_ofNat,
    Nat.testBit_mul_two_pow, Nat.testBit_two_pow_sub_one, Nat.testBit_mod_two_pow, h, decide_true, Bool.true_and]
  by_cases hl : lo ≤ i
  · by_cases hn : i - lo < n
    · simp [hl, hn, show i < lo + n by omega]
    · simp [hl, hn, show ¬ i < lo + n by omega]
  · simp [hl]

/-- A field reads as it was put. -/
theorem bitsNat_setBits_self (x : Word) {hi lo : Nat} (v : Nat) (h : hi < 64) :
    bitsNat (setBits x lo (hi + 1 - lo) v) hi lo = v % 2 ^ (hi + 1 - lo) := by
  refine Nat.eq_of_testBit_eq fun i => ?_
  rw [testBit_bitsNat, Nat.testBit_mod_two_pow]
  by_cases hi' : i < hi + 1 - lo
  · rw [getLsbD_setBits _ _ _ _ (by omega), if_pos (by omega), Nat.add_sub_cancel_left]
  · simp [hi']

/-- A field apart from the one that is put reads as before. -/
theorem bitsNat_setBits_apart (x : Word) {hi lo l n : Nat} (v : Nat) (h : hi < 64) (a : l + n ≤ lo ∨ hi < l) :
    bitsNat (setBits x l n v) hi lo = bitsNat x hi lo := by
  refine Nat.eq_of_testBit_eq fun i => ?_
  rw [testBit_bitsNat, testBit_bitsNat]
  by_cases hi' : i < hi + 1 - lo
  · rw [getLsbD_setBits _ _ _ _ (by omega), if_neg (by omega)]
  · simp [hi']

/-- A field is what its mask leaves of the word. -/
theorem bitsNat_congr {x y : Word} {hi lo : Nat} (h : hi < 64) (e : x &&& fieldMask hi lo = y &&& fieldMask hi lo) :
    bitsNat x hi lo = bitsNat y hi lo := by
  refine Nat.eq_of_testBit_eq fun i => ?_
  rw [testBit_bitsNat, testBit_bitsNat]
  by_cases hi' : i < hi + 1 - lo
  · have k := congrArg (fun z => BitVec.getLsbD z (lo + i)) e
    simp only [BitVec.getLsbD_and, getLsbD_fieldMask (show lo + i < 64 by omega)] at k
    simpa [show lo + i < hi + 1 by omega] using congrArg (decide (i < hi + 1 - lo) && ·) k
  · simp [hi']

/-- The word `x` with the bits of mask `m` from `y`. -/
def maskPut (x y m : Word) : Word := (x &&& ~~~m) ||| (y &&& m)

/-- Putting a field of one word into another is a choice of bits. -/
theorem setBits_bitsNat (x y : Word) {hi lo : Nat} (l : lo ≤ hi) :
    setBits x lo (hi + 1 - lo) (bitsNat y hi lo) = maskPut x y (fieldMask hi lo) := by
  refine BitVec.eq_of_getLsbD_eq fun i h => ?_
  simp only [maskPut, getLsbD_setBits _ _ _ _ h, testBit_bitsNat, BitVec.getLsbD_or, BitVec.getLsbD_and, BitVec.getLsbD_not,
    getLsbD_fieldMask h, h, decide_true, Bool.true_and]
  by_cases a : lo ≤ i ∧ i < hi + 1
  · rw [if_pos (by omega)]
    simp [a, show i - lo < hi + 1 - lo by omega]
  · rw [if_neg (by omega), decide_eq_false a]
    simp

/-- Setting a bit is a disjunction. -/
theorem setBit_true (x : Word) (i : Nat) : setBit x i true = x ||| BitVec.ofNat 64 (2 ^ i) := by
  refine BitVec.eq_of_getLsbD_eq fun j h => ?_
  simp only [setBit, getLsbD_setBits _ _ _ _ h, BitVec.getLsbD_or, BitVec.getLsbD_ofNat, Nat.testBit_two_pow, h, decide_true,
    Bool.true_and]
  by_cases e : i = j
  · subst e; simp
  · rw [if_neg (by omega)]; simp [e]

theorem getLsbD_setBit (x : Word) (k : Nat) {i : Nat} (h : i < 64) :
    (setBit x k true).getLsbD i = (x.getLsbD i || decide (i = k)) := by
  rw [setBit_true, BitVec.getLsbD_or, BitVec.getLsbD_ofNat, Nat.testBit_two_pow]
  simp [h, eq_comm]

end Sys2Proof.Machine
end

section
/-! PROOFS. Which registers are apart, and what the operations of spec/13 read back: fields, occurrence counts, the error log. -/

namespace Sys2Proof.Machine

theorem ctl_inj {p q o r : Nat} (ho : o < 4096) (hr : r < 4096) : ctl p o = ctl q r ↔ p = q ∧ o = r := by
  unfold ctl; omega

theorem ctl_div {p o : Nat} (ho : o < 4096) : ctl p o / 4096 = p := by unfold ctl; omega
theorem ctl_mod {p o : Nat} (ho : o < 4096) : ctl p o % 4096 = o := by unfold ctl; omega

theorem isCounter_iff {p q o : Nat} (ho : o < 4096) :
    isCounter p (ctl q o) = true ↔ q = p ∧ (o = 0xA0 ∨ o = 0xA8 ∨ o = 0xB0 ∨ o = 0xB8 ∨ o = 0xC0) := by
  simp only [isCounter, Bool.or_eq_true, decide_eq_true_eq, ctl_inj ho, Nat.reduceLT]
  tauto

/-- A register outside offsets A0h–C7h is no event counter. -/
theorem isCounter_of_off (p q : Nat) {o : Nat} (ho : o < 4096) (h : o < 0xA0 ∨ 0xC0 < o) : isCounter p (ctl q o) = false := by
  rw [Bool.eq_false_iff, Ne, isCounter_iff ho]; omega

theorem State.fld_setFld_self (s : State) (a : Nat) {hi lo : Nat} (v : Nat) (h : hi < 64) :
    (s.setFld a hi lo v).fld a hi lo = v % 2 ^ (hi + 1 - lo) := by
  rw [State.fld, State.setFld, State.reg_setReg_self, bitsNat_setBits_self _ _ h]

theorem State.fld_setFld_apart (s : State) (a : Nat) {hi lo h l : Nat} (v : Nat) (b : hi < 64) (d : h < lo ∨ hi < l)
    (w : l ≤ h + 1) : (s.setFld a h l v).fld a hi lo = s.fld a hi lo := by
  rw [State.fld, State.setFld, State.reg_setReg_self, bitsNat_setBits_apart _ _ b (by omega), State.fld]

theorem State.reg_setFld_ne (s : State) {a b : Nat} (h l v : Nat) (n : b ≠ a) : (s.setFld a h l v).reg b = s.reg b :=
  State.reg_setReg_ne _ _ n

/-! ## Counting -/

theorem CountsOnly.fld {p : Nat} {s s' : State} (h : CountsOnly p s s') {a : Nat} (n : isCounter p a = false) (hi lo : Nat) :
    s'.fld a hi lo = s.fld a hi lo := by rw [State.fld, h.regs a n, State.fld]

theorem CountsOnly.posted {p : Nat} {s s' : State} (h : CountsOnly p s s') : s'.posted = s.posted := by rw [h.rest]
theorem CountsOnly.stopped {p : Nat} {s s' : State} (h : CountsOnly p s s') : s'.stopped = s.stopped := by rw [h.rest]

theorem CountsOnly.count (s : State) (p src k : Nat) : CountsOnly p s (s.evCount p src k) := CountsOnly.countQ ..

theorem CountsOnly.placeSet {s s' : State} (h : CountsOnly 0xFF s s') : s'.placeSet = s.placeSet := by
  unfold State.placeSet
  rw [h.regs _ (isCounter_of_off _ _ (by decide) (by decide))]

/-- Counting leaves the enables of a page's event counters: of their register it sets OVF bits alone (spec/13 R426). -/
theorem enables_evCount1 (s : State) (p src : Nat) (q : Nat → Bool) (k : Nat) {n : Nat} (h : n < 4) :
    (s.evCount1 p src q k n).fld (ctl p 0xC0) 3 0 = s.fld (ctl p 0xC0) 3 0 := by
  have e (v : Word) : (s.setReg (ctl p (0xA0 + 8 * n)) v).reg (ctl p 0xC0) = s.reg (ctl p 0xC0) :=
    State.reg_setReg_ne _ _ (by unfold ctl; omega)
  unfold State.evCount1
  extract_lets sel sum s1
  split
  · split
    · rw [State.fld, State.reg_setReg_self, setBit, bitsNat_setBits_apart _ _ (by decide) (by omega), e, State.fld]
    · rw [State.fld, e, State.fld]
  · rfl

theorem enables_evCount (s : State) (p src k : Nat) :
    (s.evCount p src k).fld (ctl p 0xC0) 3 0 = s.fld (ctl p 0xC0) 3 0 := by
  unfold State.evCount State.evCountQ
  split
  · rfl
  · iterate 4 rw [enables_evCount1 _ _ _ _ _ (by decide)]

/-! ## The error log (spec/13 R424) -/

/-- The first entry of the log that is free, if one is. -/
theorem freeErr_eq_some {s : State} {p n : Nat} :
    s.freeErr p = some n ↔ (s.reg (ctl p (0x40 + 16 * n))).getLsbD 63 = false ∧ n < 4 ∧
      ∀ m, m < n → (s.reg (ctl p (0x40 + 16 * m))).getLsbD 63 = true := by
  simp [State.freeErr, List.find?_range_eq_some]

theorem freeErr_eq_none {s : State} {p : Nat} :
    s.freeErr p = none ↔ ∀ m, m < 4 → (s.reg (ctl p (0x40 + 16 * m))).getLsbD 63 = true := by
  simp [State.freeErr]

theorem agentCode_eq (a : Agent) : agentCode a = Says.agent a := by cases a <;> rfl

/-- What an entry of the error log writes. -/
theorem logged_logErr (s : State) (p kind detail src : Nat) (data : Word) :
    Says.logged s (s.logErr p kind detail src data) p kind detail src data := by
  have apart (m : Nat) (hm : m < 4) (v : Nat) :
      (s.setFld (ctl p 0xE8) 47 0 v).reg (ctl p (0x40 + 16 * m)) = s.reg (ctl p (0x40 + 16 * m)) :=
    State.reg_setFld_ne _ _ _ _ (by unfold ctl; omega)
  have sat (v : Nat) (w : Nat) : satNat w v % 2 ^ w = min (2 ^ w - 1) v := by
    rw [satNat, Nat.min_comm]; exact Nat.mod_eq_of_lt (by have := Nat.two_pow_pos w; omega)
  refine ⟨(RegsOnly.logErr ..).1, ?_, fun n hn full free => ?_, fun full => ?_⟩
  · unfold State.logErr
    extract_lets s1
    have h1 : s1.fld (ctl p 0xE8) 47 0 = min (2 ^ 48 - 1) (s.fld (ctl p 0xE8) 47 0 + 1) := by
      rw [State.fld_setFld_self _ _ _ (by decide)]; exact sat _ 48
    cases e : s1.freeErr p with
    | some n =>
      have hn := (freeErr_eq_some.mp e).2.1
      rw [State.fld, State.reg_setReg_ne _ _ (by unfold ctl; omega), State.reg_setReg_ne _ _ (by unfold ctl; omega), ← h1,
        State.fld]
    | none => rw [State.fld_setFld_apart _ _ _ (by decide) (by decide) (by decide), h1]
  · unfold State.logErr
    extract_lets s1
    have e : s1.freeErr p = some n :=
      freeErr_eq_some.mpr ⟨by rw [apart n hn, free], hn, fun m hm => by rw [apart m (by omega), full m hm]⟩
    simp only [e]
    refine ⟨?_, State.reg_setReg_self .., fun a h1 h2 h3 => ?_⟩
    · rw [State.reg_setReg_ne _ _ (by unfold ctl; omega), State.reg_setReg_self]
      rfl
    · rw [State.reg_setReg_ne _ _ h3, State.reg_setReg_ne _ _ h2, State.reg_setFld_ne _ _ _ _ h1]
  · unfold State.logErr
    extract_lets s1
    have e : s1.freeErr p = none := freeErr_eq_none.mpr fun m hm => by rw [apart m hm, full m hm]
    simp only [e]
    refine ⟨?_, fun a h1 => by rw [State.reg_setFld_ne _ _ _ _ h1, State.reg_setFld_ne _ _ _ _ h1]⟩
    rw [State.fld_setFld_self _ _ _ (by decide), State.fld_setFld_apart _ _ _ (by decide) (by decide) (by decide)]
    exact sat _ 16

end Sys2Proof.Machine
end

section
/-! PROOFS. STAT bits, occurrence counts and the page interrupt: what an event does, and what a write of STAT_SET or IENA does
(spec/13 R418–R421). -/

namespace Sys2Proof.Machine

/-- The doorbell that the interrupt of page `p` rings (spec/13 R421). -/
def State.bellReg (s : State) (p : Nat) : Nat := ctl (s.fld (ctl p 0x10) 63 57) 0x100

/-- The doorbell with the bit of page `p` set. -/
def State.rung (s : State) (p : Nat) : Word := s.reg (s.bellReg p) ||| BitVec.ofNat 64 (2 ^ s.fld (ctl p 0x10) 55 50)

theorem State.bellReg_ne (s : State) (p q : Nat) {o : Nat} (ho : o < 0x100) : ctl q o ≠ s.bellReg p := by
  unfold State.bellReg ctl; omega

theorem State.isCounter_bellReg (s : State) (p q : Nat) : isCounter q (s.bellReg p) = false :=
  isCounter_of_off _ _ (by decide) (by decide)

/-- What rings the doorbell of a page's interrupt leaves every other register as it was. -/
theorem reg_bell (s : State) (p r : Nat) :
    (s.bell (s.fld (ctl p 0x10) 63 57) (s.fld (ctl p 0x10) 55 50)).reg r = if r = s.bellReg p then s.rung p else s.reg r := by
  unfold State.bell
  split
  next e => rw [e]; exact (State.reg_setReg_self ..).trans (setBit_true ..)
  next e => exact State.reg_setReg_ne _ _ e

/-- The occurrence counts stand apart from each other. -/
theorem occurAt_apart {p i k : Nat} (hi : i < 16) (hk : k < 16) (h : i ≠ k) :
    (occurAt p i).1 ≠ (occurAt p k).1 ∨
      ((occurAt p i).1 = (occurAt p k).1 ∧ ((occurAt p i).2 + 7 < (occurAt p k).2 ∨ (occurAt p k).2 + 7 < (occurAt p i).2)) := by
  unfold occurAt ctl
  split <;> split <;> simp <;> omega

theorem occurAt_lt {p k : Nat} (hk : k < 16) : (occurAt p k).2 + 7 < 64 := by
  unfold occurAt; split <;> simp <;> omega

theorem occurAt_reg (p k : Nat) : (occurAt p k).1 = ctl p 0x30 ∨ (occurAt p k).1 = ctl p 0x38 := by
  unfold occurAt; split <;> simp

/-- The occurrence registers are no header register below 30h, no event counter and no doorbell. -/
theorem occurAt_ne (p k : Nat) {o : Nat} (ho : o < 0x30) : ctl p o ≠ (occurAt p k).1 := by
  rcases occurAt_reg p k with e | e <;> rw [e] <;> unfold ctl <;> omega

theorem occurAt_ne_bellReg (s : State) (p q k : Nat) : (occurAt p k).1 ≠ s.bellReg q := by
  rcases occurAt_reg p k with e | e <;> rw [e] <;> exact State.bellReg_ne _ _ _ (by decide)

theorem isCounter_occurAt (p q k : Nat) : isCounter q (occurAt p k).1 = false := by
  rcases occurAt_reg p k with e | e <;> rw [e] <;> exact isCounter_of_off _ _ (by decide) (by decide)

/-- An event of STAT bit `k`: every register that is no event counter of the page. -/
theorem reg_raise (s : State) (p k r : Nat) (n : isCounter p r = false) :
    (s.raise p k).reg r =
      if r = s.bellReg p ∧ (s.reg (ctl p 0x28)).getLsbD k = true then s.rung p
      else if r = (occurAt p k).1 then
        setBits (s.reg r) (occurAt p k).2 8 ((s.fld r ((occurAt p k).2 + 7) (occurAt p k).2 + 1) % 256)
      else if r = ctl p 0x18 then setBit (s.reg r) k true
      else s.reg r := by
  unfold State.raise
  extract_lets s1 o lo s2 s3
  have h3 : ∀ a, isCounter p a = false → s3.reg a = s2.reg a := (CountsOnly.count s2 p (0x10 + k) 1).regs
  have h2 (a : Nat) (h : a ≠ o) : s2.reg a = s1.reg a := State.reg_setFld_ne _ _ _ _ h
  have h1 (a : Nat) (h : a ≠ ctl p 0x18) : s1.reg a = s.reg a := State.reg_setReg_ne _ _ h
  have h0 (a : Nat) (hc : isCounter p a = false) (ho : a ≠ o) (hs : a ≠ ctl p 0x18) : s3.reg a = s.reg a := by
    rw [h3 a hc, h2 a ho, h1 a hs]
  have hdr (a : Nat) (ha : a < 0x30) (hs : a ≠ 0x18) : s3.reg (ctl p a) = s.reg (ctl p a) :=
    h0 _ (isCounter_of_off _ _ (by omega) (by omega)) (occurAt_ne p k ha) (by unfold ctl; omega)
  have hbr : s3.bellReg p = s.bellReg p := by
    simp only [State.bellReg, State.fld, hdr 0x10 (by decide) (by decide)]
  have hb : s3.reg (s.bellReg p) = s.reg (s.bellReg p) :=
    h0 _ (s.isCounter_bellReg p p) (occurAt_ne_bellReg s p p k).symm (s.bellReg_ne p p (by decide)).symm
  have hru : s3.rung p = s.rung p := by
    simp only [State.rung, hbr, hb, State.fld, hdr 0x10 (by decide) (by decide)]
  have ho : s1.reg o = s.reg o := h1 _ (occurAt_ne p k (by decide)).symm
  have hr : s3.reg r = if r = o then setBits (s.reg r) lo 8 ((s.fld r (lo + 7) lo + 1) % 256)
      else if r = ctl p 0x18 then setBit (s.reg r) k true else s.reg r := by
    rw [h3 r n]
    split
    next e =>
      rw [e]
      refine (State.reg_setReg_self ..).trans ?_
      rw [ho, State.fld, ho, State.fld, show lo + 7 + 1 - lo = 8 by omega]
    next e =>
      rw [h2 r e]
      split
      next e1 => rw [e1]; exact State.reg_setReg_self ..
      next e1 => exact h1 r e1
  rw [hdr 0x28 (by decide) (by decide)]
  by_cases en : (s.reg (ctl p 0x28)).getLsbD k = true
  · rw [if_pos en, reg_bell, hbr, hru, hr]
    simp only [en, and_true]
    rfl
  · rw [if_neg en, hr, if_neg (c := r = s.bellReg p ∧ _) (fun h => en h.2)]

/-- The occurrence count of STAT bit `i` (spec/13 Map 13-1). -/
def State.occurs (s : State) (p i : Nat) : Nat := s.fld (occurAt p i).1 ((occurAt p i).2 + 7) (occurAt p i).2

/-- An event counts for its own STAT bit alone. -/
theorem occurs_raise (s : State) (p : Nat) {k i : Nat} (hk : k < 16) (hi : i < 16) :
    (s.raise p k).occurs p i = if i = k then (s.occurs p i + 1) % 256 else s.occurs p i := by
  rw [State.occurs, State.fld, reg_raise _ _ _ _ (isCounter_occurAt ..), if_neg (fun h => occurAt_ne_bellReg s p p i h.1),
    if_neg (c := (occurAt p i).1 = ctl p 0x18) (occurAt_ne p i (by decide)).symm]
  by_cases h : i = k
  · have e := bitsNat_setBits_self (s.reg (occurAt p i).1) (lo := (occurAt p i).2) ((s.occurs p i + 1) % 256)
      (occurAt_lt (p := p) hi)
    rw [show (occurAt p i).2 + 7 + 1 - (occurAt p i).2 = 8 by omega] at e
    subst h
    rw [if_pos rfl, if_pos rfl]
    exact e.trans (Nat.mod_mod _ _)
  · rw [if_neg h]
    rcases occurAt_apart (p := p) hi hk h with a | ⟨a, d⟩
    · rw [if_neg a]; rfl
    · rw [if_pos a, bitsNat_setBits_apart _ _ (occurAt_lt hi) (by omega)]; rfl

/-- Changes of control registers alone, one after the other. -/
theorem regsRest_trans {a b c : State} (h : b = { a with regs := b.regs }) (k : c = { b with regs := c.regs }) :
    c = { a with regs := c.regs } := by rw [k, h]

/-- One of the first `n` STAT bits of page `p` that `v` names is enabled. -/
def State.interrupts (s : State) (p n : Nat) (v : Word) : Prop :=
  ∃ i, (i < n ∧ v.getLsbD i = true) ∧ (s.reg (ctl p 0x28)).getLsbD i = true

/-- What the events of those of the first `n` STAT bits of page `p` that `v` names have done (spec/13 R419–R421). -/
structure StatsSet (s u : State) (p n : Nat) (v : Word) : Prop where
  stat : ∀ i, i < 16 → (u.reg (ctl p 0x18)).getLsbD i = ((s.reg (ctl p 0x18)).getLsbD i || decide (i < n ∧ v.getLsbD i = true))
  occur : ∀ i, i < 16 → u.occurs p i = if i < n ∧ v.getLsbD i = true then (s.occurs p i + 1) % 256 else s.occurs p i
  rings : s.interrupts p n v → u.reg (s.bellReg p) = s.rung p
  quiet : ¬ s.interrupts p n v → u.reg (s.bellReg p) = s.reg (s.bellReg p)
  frame : ∀ r, r ≠ ctl p 0x18 → r ≠ ctl p 0x30 → r ≠ ctl p 0x38 → r ≠ s.bellReg p → isCounter p r = false →
    isCounter 0xFF r = false → u.reg r = s.reg r
  rest : u = { s with regs := u.regs }

/-- No event yet, but the access has been counted. -/
theorem StatsSet.of_counts {s s0 : State} (h : CountsOnly 0xFF s s0) (p : Nat) (v : Word) : StatsSet s s0 p 0 v where
  stat i _ := by rw [h.regs _ (isCounter_of_off _ _ (by decide) (by decide))]; simp
  occur i _ := by rw [State.occurs, h.fld (isCounter_occurAt ..)]; simp [State.occurs]
  rings := by rintro ⟨i, hi, _⟩; exact absurd hi.1 (Nat.not_lt_zero _)
  quiet _ := h.regs _ (s.isCounter_bellReg ..)
  frame r _ _ _ _ _ hc := h.regs r hc
  rest := h.rest

/-- A header register that events leave alone. -/
theorem StatsSet.header {s u : State} {p n : Nat} {v : Word} (h : StatsSet s u p n v) {o : Nat} (ho : o < 0x30)
    (hs : o ≠ 0x18) : u.reg (ctl p o) = s.reg (ctl p o) :=
  h.frame _ (by unfold ctl; omega) (by unfold ctl; omega) (by unfold ctl; omega) (s.bellReg_ne p p (by omega))
    (isCounter_of_off _ _ (by omega) (by omega)) (isCounter_of_off _ _ (by omega) (by omega))

theorem StatsSet.bellReg_eq {s u : State} {p n : Nat} {v : Word} (h : StatsSet s u p n v) : u.bellReg p = s.bellReg p := by
  simp only [State.bellReg, State.fld, h.header (o := 0x10) (by decide) (by decide)]

/-- The bell has rung or not; rung again it is the same. -/
theorem StatsSet.rung_eq {s u : State} {p n : Nat} {v : Word} (h : StatsSet s u p n v) : u.rung p = s.rung p := by
  have e : u.fld (ctl p 0x10) 55 50 = s.fld (ctl p 0x10) 55 50 := by
    simp only [State.fld, h.header (o := 0x10) (by decide) (by decide)]
  rw [State.rung, h.bellReg_eq, e]
  by_cases x : s.interrupts p n v
  · rw [h.rings x, State.rung, BitVec.or_assoc, BitVec.or_self]
  · rw [h.quiet x, State.rung]

/-- A bit that `v` does not name has no event. -/
theorem StatsSet.skip {s u : State} {p n : Nat} {v : Word} (h : StatsSet s u p n v) (hv : ¬ v.getLsbD n = true) :
    StatsSet s u p (n + 1) v := by
  have e (i : Nat) : i < n + 1 ∧ v.getLsbD i = true ↔ i < n ∧ v.getLsbD i = true := by
    refine ⟨fun ⟨a, b⟩ => ⟨?_, b⟩, fun ⟨a, b⟩ => ⟨by omega, b⟩⟩
    have : i ≠ n := fun k => hv (k ▸ b)
    omega
  exact ⟨by simpa only [e] using h.stat, by simpa only [e] using h.occur, by simpa only [State.interrupts, e] using h.rings,
    by simpa only [State.interrupts, e] using h.quiet, h.frame, h.rest⟩

/-- A bit that `v` names has its event. -/
theorem StatsSet.raise {s u : State} {p n : Nat} {v : Word} (h : StatsSet s u p n v) (hn : n < 16) (hv : v.getLsbD n = true) :
    StatsSet s (u.raise p n) p (n + 1) v where
  stat i hi := by
    rw [reg_raise _ _ _ _ (isCounter_of_off _ _ (by decide) (by decide)), if_neg (fun k => u.bellReg_ne p p (by decide) k.1),
      if_neg (occurAt_ne p n (by decide)), if_pos rfl, getLsbD_setBit _ _ (by omega), h.stat i hi, Bool.or_assoc]
    congr 1
    by_cases e : i = n
    · subst e; simp [hv]
    · simp [e, show i < n + 1 ↔ i < n by omega]
  occur i hi := by
    rw [occurs_raise _ _ hn hi, h.occur i hi]
    by_cases e : i = n
    · subst e; simp [hv]
    · simp [e, show i < n + 1 ↔ i < n by omega]
  rings x := by
    rw [← h.bellReg_eq, reg_raise _ _ _ _ (u.isCounter_bellReg ..),
      if_neg (c := u.bellReg p = (occurAt p n).1) (occurAt_ne_bellReg u p p n).symm,
      if_neg (c := u.bellReg p = ctl p 0x18) (u.bellReg_ne p p (by decide)).symm,
      h.rung_eq, h.header (by decide) (by decide), h.bellReg_eq]
    split
    · rfl
    next ne =>
      refine h.rings ?_
      obtain ⟨i, ⟨hi, b⟩, en⟩ := x
      have : i ≠ n := fun k => ne ⟨rfl, k ▸ en⟩
      exact ⟨i, ⟨by omega, b⟩, en⟩
  quiet x := by
    have off : ¬ (s.reg (ctl p 0x28)).getLsbD n = true := fun k => x ⟨n, ⟨by omega, hv⟩, k⟩
    rw [← h.bellReg_eq, reg_raise _ _ _ _ (u.isCounter_bellReg ..),
      if_neg (c := u.bellReg p = (occurAt p n).1) (occurAt_ne_bellReg u p p n).symm,
      if_neg (c := u.bellReg p = ctl p 0x18) (u.bellReg_ne p p (by decide)).symm,
      h.header (by decide) (by decide), if_neg (fun k => off k.2), h.bellReg_eq]
    exact h.quiet fun ⟨i, ⟨hi, b⟩, en⟩ => x ⟨i, ⟨by omega, b⟩, en⟩
  frame r h1 h2 h3 hb hc hd := by
    have ho : r ≠ (occurAt p n).1 := by
      rcases occurAt_reg p n with e | e
      · rw [e]; exact h2
      · rw [e]; exact h3
    rw [reg_raise _ _ _ _ hc, if_neg (fun k => hb (k.1.trans h.bellReg_eq)), if_neg ho, if_neg h1]
    exact h.frame r h1 h2 h3 hb hc hd
  rest := regsRest_trans h.rest (RegsOnly.raise u p n).1

/-- A write of STAT_SET has the events of the bits it names. -/
theorem StatsSet.fold {s s0 : State} (h : CountsOnly 0xFF s s0) (p : Nat) (v : Word) {n : Nat} (hn : n ≤ 16) :
    StatsSet s ((List.range n).foldl (fun s i => if v.getLsbD i then s.raise p i else s) s0) p n v := by
  induction n with
  | zero => exact .of_counts h p v
  | succ n ih =>
    rw [List.range_succ, List.foldl_append, List.foldl_cons, List.foldl_nil]
    split
    next hv => exact (ih (by omega)).raise (by omega) hv
    next hv => exact (ih (by omega)).skip hv

theorem Kind.stats_le (k : Kind) : k.stats ≤ 16 := by cases k <;> decide

end Sys2Proof.Machine
end

section
/-! PROOFS. A write of a register that has no behaviour of its own, field by field (spec/00 R12–R14; spec/13 R417). -/

namespace Sys2Proof.Machine

/-! ## Fields as masks -/

theorem maskPut_allOnes (x y : Word) : maskPut x y (BitVec.allOnes 64) = y := by
  rw [maskPut, BitVec.not_allOnes, BitVec.and_zero, BitVec.zero_or, BitVec.and_allOnes]

theorem writeField_rw (cand mask val acc : Word) {hi lo : Nat} (l : lo ≤ hi) :
    writeField true cand mask val acc ⟨hi, lo, .rw⟩ = maskPut acc cand (fieldMask hi lo) := setBits_bitsNat _ _ l

theorem writeField_refused (cand mask val acc : Word) (hi lo : Nat) :
    writeField false cand mask val acc ⟨hi, lo, .rw⟩ = acc := rfl

theorem writeField_w1c (ok : Bool) (cand mask val acc : Word) {hi lo : Nat} (l : lo ≤ hi) :
    writeField ok cand mask val acc ⟨hi, lo, .w1c⟩ = acc &&& ~~~(val &&& mask &&& fieldMask hi lo) := by
  refine (setBits_bitsNat _ _ l).trans (BitVec.eq_of_getLsbD_eq fun i h => ?_)
  simp only [maskPut, BitVec.getLsbD_or, BitVec.getLsbD_and, BitVec.getLsbD_not, h, decide_true, Bool.true_and]
  cases acc.getLsbD i <;> cases (fieldMask hi lo).getLsbD i <;> simp

theorem candidate_rw (old mask val : Word) {hi lo : Nat} (l : lo ≤ hi) :
    candidate [⟨hi, lo, .rw⟩] old mask val = maskPut old (maskPut old val mask) (fieldMask hi lo) := setBits_bitsNat _ _ l

theorem candidate_rw_rw (old mask val : Word) {h1 l1 h2 l2 : Nat} (a : l1 ≤ h1) (b : l2 ≤ h2) :
    candidate [⟨h1, l1, .rw⟩, ⟨h2, l2, .rw⟩] old mask val =
      maskPut (maskPut old (maskPut old val mask) (fieldMask h1 l1)) (maskPut old val mask) (fieldMask h2 l2) :=
  (setBits_bitsNat _ _ b).trans (congrArg (maskPut · _ _) (setBits_bitsNat _ _ a))

/-- The register after a write each of whose fields is accepted. -/
def written (fs : List Fld) (old mask val : Word) : Word :=
  fs.foldl (fun acc f => writeField true (candidate fs old mask val) mask val acc f) old

theorem written_nil (old mask val : Word) : written [] old mask val = old := rfl

theorem written_rw (old mask val : Word) {hi lo : Nat} (l : lo ≤ hi) :
    written [⟨hi, lo, .rw⟩] old mask val = maskPut old (maskPut old val mask) (fieldMask hi lo) := by
  rw [written, List.foldl_cons, List.foldl_nil, writeField_rw _ _ _ _ l, candidate_rw _ _ _ l]
  refine BitVec.eq_of_getLsbD_eq fun i h => ?_
  simp only [maskPut, BitVec.getLsbD_or, BitVec.getLsbD_and, BitVec.getLsbD_not, h, decide_true, Bool.true_and]
  cases (fieldMask hi lo).getLsbD i <;> simp

theorem written_w1c (old mask val : Word) {hi lo : Nat} (l : lo ≤ hi) :
    written [⟨hi, lo, .w1c⟩] old mask val = old &&& ~~~(val &&& mask &&& fieldMask hi lo) := by
  rw [written, List.foldl_cons, List.foldl_nil, writeField_w1c _ _ _ _ _ l]

theorem written_rw_rw (old val : Word) {h1 l1 h2 l2 : Nat} (a : l1 ≤ h1) (b : l2 ≤ h2) :
    written [⟨h1, l1, .rw⟩, ⟨h2, l2, .rw⟩] old (BitVec.allOnes 64) val =
      maskPut old val (fieldMask h1 l1 ||| fieldMask h2 l2) := by
  rw [written, List.foldl_cons, List.foldl_cons, List.foldl_nil, writeField_rw _ _ _ _ b, writeField_rw _ _ _ _ a,
    candidate_rw_rw _ _ _ a b, maskPut_allOnes]
  refine BitVec.eq_of_getLsbD_eq fun i h => ?_
  simp only [maskPut, BitVec.getLsbD_or, BitVec.getLsbD_and, BitVec.getLsbD_not, h, decide_true, Bool.true_and]
  cases (fieldMask h1 l1).getLsbD i <;> cases (fieldMask h2 l2).getLsbD i <;> simp

theorem written_w1c_rw (old val : Word) {h1 l1 h2 l2 : Nat} (a : l1 ≤ h1) (b : l2 ≤ h2)
    (d : fieldMask h1 l1 &&& fieldMask h2 l2 = 0) :
    written [⟨h1, l1, .w1c⟩, ⟨h2, l2, .rw⟩] old (BitVec.allOnes 64) val =
      maskPut old val (fieldMask h2 l2) &&& ~~~(val &&& fieldMask h1 l1) := by
  rw [written, List.foldl_cons, List.foldl_cons, List.foldl_nil, writeField_rw _ _ _ _ b, writeField_w1c _ _ _ _ _ a,
    show candidate [⟨h1, l1, .w1c⟩, ⟨h2, l2, .rw⟩] old (BitVec.allOnes 64) val =
    candidate [⟨h2, l2, .rw⟩] old (BitVec.allOnes 64) val from rfl, candidate_rw _ _ _ b, maskPut_allOnes]
  refine BitVec.eq_of_getLsbD_eq fun i h => ?_
  have k := congrArg (BitVec.getLsbD · i) d
  simp only [maskPut, BitVec.getLsbD_or, BitVec.getLsbD_and, BitVec.getLsbD_not, h, decide_true, Bool.true_and,
    BitVec.getLsbD_allOnes, BitVec.ofNat_eq_ofNat, BitVec.getLsbD_zero] at k ⊢
  cases m : (fieldMask h1 l1).getLsbD i <;> cases n : (fieldMask h2 l2).getLsbD i <;> simp_all

/-- What the reserved encodings of two fields are judged on are the bits written. -/
theorem candidate_fields (old val : Word) {h1 l1 h2 l2 : Nat} (a : l1 ≤ h1) (b : l2 ≤ h2) (c : h1 < 64) (d : h2 < 64) :
    bitsNat (candidate [⟨h1, l1, .rw⟩, ⟨h2, l2, .rw⟩] old (BitVec.allOnes 64) val) h1 l1 = bitsNat val h1 l1 ∧
      bitsNat (candidate [⟨h1, l1, .rw⟩, ⟨h2, l2, .rw⟩] old (BitVec.allOnes 64) val) h2 l2 = bitsNat val h2 l2 := by
  rw [candidate_rw_rw _ _ _ a b, maskPut_allOnes]
  constructor
  · refine bitsNat_congr c (BitVec.eq_of_getLsbD_eq fun i h => ?_)
    simp only [maskPut, BitVec.getLsbD_or, BitVec.getLsbD_and, BitVec.getLsbD_not, h, decide_true, Bool.true_and]
    cases (fieldMask h1 l1).getLsbD i <;> cases (fieldMask h2 l2).getLsbD i <;> simp
  · refine bitsNat_congr d (BitVec.eq_of_getLsbD_eq fun i h => ?_)
    simp only [maskPut, BitVec.getLsbD_or, BitVec.getLsbD_and, BitVec.getLsbD_not, h, decide_true, Bool.true_and]
    cases (fieldMask h2 l2).getLsbD i <;> simp

/-- One of two fields refused: the other alone is written. -/
theorem written_other (old val : Word) {h1 l1 h2 l2 : Nat} (a : l1 ≤ h1) (b : l2 ≤ h2) :
    maskPut old (candidate [⟨h1, l1, .rw⟩, ⟨h2, l2, .rw⟩] old (BitVec.allOnes 64) val) (fieldMask h1 l1) =
        maskPut old val (fieldMask h1 l1) ∧
      maskPut old (candidate [⟨h1, l1, .rw⟩, ⟨h2, l2, .rw⟩] old (BitVec.allOnes 64) val) (fieldMask h2 l2) =
        maskPut old val (fieldMask h2 l2) := by
  rw [candidate_rw_rw _ _ _ a b, maskPut_allOnes]
  constructor <;>
  · refine BitVec.eq_of_getLsbD_eq fun i h => ?_
    simp only [maskPut, BitVec.getLsbD_or, BitVec.getLsbD_and, BitVec.getLsbD_not, h, decide_true, Bool.true_and]
    cases (fieldMask h1 l1).getLsbD i <;> cases (fieldMask h2 l2).getLsbD i <;> simp

/-! ## The write -/

/-- A field takes its new value: it is no RW field, its value is no reserved encoding, or the write does not touch it (spec/00
R14). -/
def accepts (s : State) (k : Kind) (inst : Nat) (w : WReq) (f : Fld) : Bool :=
  let off := w.ca8 % 4096
  let cand := candidate (fieldsOf k off) (s.reg w.ca8) w.mask w.val
  f.acc != .rw || fieldOk s k inst off f.hi (s.reg w.ca8) cand ||
    decide (bitsNat cand f.hi f.lo = bitsNat (s.reg w.ca8) f.hi f.lo ∧ bitsNat w.mask f.hi f.lo = 0)

theorem regWrite_eq {s : State} {src : Nat} {w : WReq} {k : Kind} {inst : Nat} (h : pageKind (w.ca8 / 4096) = some (k, inst)) :
    regWrite s src w =
      let fs := fieldsOf k (w.ca8 % 4096)
      let r := s.setReg w.ca8 (fs.foldl (fun acc f => writeField (accepts s k inst w f)
        (candidate fs (s.reg w.ca8) w.mask w.val) w.mask w.val acc f) (s.reg w.ca8))
      if fs.all (accepts s k inst w) then r else r.logErr (w.ca8 / 4096) 1 (w.ca8 % 4096 / 8) src w.raw := by
  unfold regWrite
  simp only [h]
  rfl

/-- A write whose fields are all accepted. -/
theorem regWrite_accepted {s : State} {src : Nat} {w : WReq} {k : Kind} {inst : Nat}
    (h : pageKind (w.ca8 / 4096) = some (k, inst)) (ok : ∀ f ∈ fieldsOf k (w.ca8 % 4096), accepts s k inst w f = true) :
    regWrite s src w = s.setReg w.ca8 (written (fieldsOf k (w.ca8 % 4096)) (s.reg w.ca8) w.mask w.val) := by
  rw [regWrite_eq h]
  extract_lets fs r
  rw [if_pos (List.all_eq_true.mpr ok)]
  refine congrArg (s.setReg w.ca8) ?_
  refine List.foldl_ext _ _ _ fun acc f hf => ?_
  rw [ok f hf]

/-- Fields that no reserved encoding restricts. -/
theorem accepts_of_fieldOk {s : State} {k : Kind} {inst : Nat} {w : WReq} {f : Fld}
    (h : ∀ old new, fieldOk s k inst (w.ca8 % 4096) f.hi old new = true) : accepts s k inst w f = true := by
  unfold accepts
  simp [h]

/-- A write-1-to-clear field takes every value. -/
theorem accepts_w1c (s : State) (k : Kind) (inst : Nat) (w : WReq) (hi lo : Nat) :
    accepts s k inst w ⟨hi, lo, .w1c⟩ = true := rfl

/-- A field that a write covers whole is accepted as its value is. -/
theorem accepts_rw {s : State} {k : Kind} {inst : Nat} {w : WReq} {hi lo : Nat} (m : bitsNat w.mask hi lo ≠ 0) :
    accepts s k inst w ⟨hi, lo, .rw⟩ = fieldOk s k inst (w.ca8 % 4096) hi (s.reg w.ca8)
      (candidate (fieldsOf k (w.ca8 % 4096)) (s.reg w.ca8) w.mask w.val) := by
  unfold accepts
  simp [m]

/-- A register of the header outside CTRL and EVSEL has no reserved encodings. -/
theorem fieldOk_header {off : Nat} (h : off < 0x100) (c : off ≠ 0x10) (e : off < 0x80 ∨ 0xA0 ≤ off) (s : State) (k : Kind)
    (inst hi : Nat) (old new : Word) : fieldOk s k inst off hi old new = true := by
  unfold fieldOk
  rw [if_pos h, if_neg (by omega), if_neg (by omega), if_neg (by omega), if_neg (by omega)]

/-! ## The bits that a store covers (spec/13 R417) -/

theorem wreq_b8 {ca : Nat} (h : ca % 8 = 0) (v : Word) : wreq ca .b8 v = ⟨ca, BitVec.allOnes 64, v, v⟩ := by
  rw [wreq, Nat.div_mul_cancel (Nat.dvd_of_mod_eq_zero h)]

theorem wreq_b4_high {ca : Nat} (h : ca % 8 = 0) (v : Word) :
    wreq ca .b4 v = ⟨ca, 0xFFFFFFFF00000000, (v &&& 0xFFFFFFFF) <<< 32, v &&& 0xFFFFFFFF⟩ := by
  have e : ca / 8 * 8 = ca := Nat.div_mul_cancel (Nat.dvd_of_mod_eq_zero h)
  simp [wreq, h, e]

theorem wreq_b4_low {ca : Nat} (h : ca % 8 = 0) (v : Word) :
    wreq (ca + 4) .b4 v = ⟨ca, 0xFFFFFFFF, v &&& 0xFFFFFFFF, v &&& 0xFFFFFFFF⟩ := by
  have e : (ca + 4) / 8 * 8 = ca := by omega
  have m : ¬ (ca + 4) % 8 < 4 := by omega
  simp [wreq, m, e]

/-! ## Kinds of page -/

theorem pageKind_lt {p : Nat} (h : (pageKind p).isSome = true) : p < 256 := by
  by_contra n
  unfold pageKind at h
  iterate 17 rw [if_neg (by omega)] at h
  cases h

/-- The pages of tiles. -/
theorem pageKind_tile {p : Nat} {k : Kind} {inst : Nat} (h : pageKind p = some (k, inst)) :
    p < 0x64 ↔ k = .tile ∨ k = .keyt :=
  (by decide +kernel : ∀ p : Fin 256, ∀ x ∈ pageKind p.val, (p.val < 0x64 ↔ x.1 = .tile ∨ x.1 = .keyt))
    ⟨p, pageKind_lt (by rw [h]; rfl)⟩ (k, inst) h

theorem remote_of_page {p : Nat} {k : Kind} {inst : Nat} (h : pageKind p = some (k, inst)) : remotePage p = k.remote := by
  simp [remotePage, h]

end Sys2Proof.Machine
end

section
/-! PROOFS. How a write reaches its block: counted on the DEV page first (spec/13 R425, R427), after the posted writes before it
(spec/01 R27, R28, R32), and then the register it names. -/

namespace Sys2Proof.Machine

/-! ## The access is counted -/

/-- The state in which an access to the control space takes effect: the access is counted (Table 13-13, source 20h). -/
def State.accessed (s : State) : State := s.evCount pDev 0x20 1

theorem State.accessed_counts (s : State) : CountsOnly 0xFF s s.accessed := CountsOnly.count s pDev 0x20 1

@[simp] theorem State.accessed_stopped (s : State) : s.accessed.stopped = s.stopped := s.accessed_counts.stopped
@[simp] theorem State.accessed_posted (s : State) : s.accessed.posted = s.posted := s.accessed_counts.posted
@[simp] theorem State.accessed_placeSet (s : State) : s.accessed.placeSet = s.placeSet := s.accessed_counts.placeSet

/-- No event counter of the DEV page. -/
def NoDevCounter (ca : Nat) : Prop := ca / 4096 ≠ 0xFF ∨ ca % 4096 < 0xA0 ∨ 0xC7 < ca % 4096

theorem ctlCounted_plain {ca : Nat} (h : NoDevCounter ca) (f : State → State) (s : State) :
    ctlCounted ca f s = f s.accessed := by
  have e (lo hi : Nat) (a : 0xA0 ≤ lo) (b : hi ≤ 0xC7) : ¬ (ca / 4096 = pDev ∧ inRange (ca % 4096) lo hi = true) := by
    unfold NoDevCounter at h
    simp only [inRange, decide_eq_true_eq, pDev]
    omega
  unfold ctlCounted
  rw [if_neg (e _ _ (by decide) (by decide)), if_neg (e _ _ (by decide) (by decide))]
  rfl

theorem State.reg_accessed (s : State) {p o : Nat} (ho : o < 4096) (h : NoDevCounter (ctl p o)) :
    s.accessed.reg (ctl p o) = s.reg (ctl p o) := by
  refine s.accessed_counts.regs _ ?_
  rw [NoDevCounter, ctl_div ho, ctl_mod ho] at h
  rw [Bool.eq_false_iff, Ne, isCounter_iff ho]
  omega

theorem devRow_running {s : State} (h : Says.running s) (f : State → State) : devRow s f = .next (settle (f s)) := by
  obtain ⟨p, r, b⟩ := h
  have : s.live = true := by simp [State.live, State.powered, p, r, b]
  simp [devRow, Machine.next, whenLive, this]

/-! ## Rows that are one register's write -/

theorem flushPosted_none {s : State} {p : Nat} (h : ∀ w ∈ s.posted, w.ca / 4096 ≠ p) :
    flushPosted p (postedCount s p) s = s := by
  have : s.posted.filter (fun w => decide (w.ca / 4096 = p)) = [] :=
    List.filter_eq_nil_iff.mpr fun w hw => by simpa using h w hw
  rw [postedCount, this]
  rfl

/-- A write of a register of a page that can be reached takes effect at once. -/
theorem rowWrite_reaches {s : State} {p o : Nat} (a : Agent) (v : Word) (r : Says.reaches s p) (k : (pageKind p).isSome = true)
    (c : p ≠ pCal) (ho : o < 4096) (h8 : o % 8 = 0) (n : NoDevCounter (ctl p o)) :
    rowWrite s a (ctl p o) v = blockWrite s.accessed a ⟨ctl p o, BitVec.allOnes 64, v, v⟩ := by
  obtain ⟨-, stop, post⟩ := r
  have k' : (pageKind p).isNone = false := by simpa using k
  have h8' : ctl p o % 8 = 0 := by unfold ctl; omega
  unfold rowWrite
  rw [ctlCounted_plain n]
  simp only [ctl_div ho]
  rw [flushPosted_none (by simpa using post), if_neg (by simp [k']), State.accessed_stopped, if_neg (by rw [stop]; decide), if_neg c,
    wreq_b8 h8']

/-- A write of the CAL page waits for a tick (spec/01 R32). -/
theorem rowWrite_cal {s : State} {o : Nat} (a : Agent) (v : Word) (stop : s.stopped.contains pCal = false)
    (post : ∀ w ∈ s.posted, w.ca / 4096 ≠ pCal) (ho : o < 4096) :
    rowWrite s a (ctl pCal o) v =
      { s.accessed with posted := s.accessed.posted ++ [{ a := a, ca := ctl pCal o, sz := .b8, v := v }] } := by
  unfold rowWrite
  rw [ctlCounted_plain (.inl (by rw [ctl_div ho]; decide))]
  simp only [ctl_div ho]
  rw [flushPosted_none (by simpa using post), if_neg (by decide), if_neg (by rw [State.accessed_stopped, stop]; decide),
    if_pos trivial]

/-! ## Stores -/

/-- A store of 4 or 8 bytes to a core-domain page reaches its block (spec/13 R417). -/
theorem ctlPut_core {s : State} {ca : Nat} {sz : Size} (a : Agent) (v : Word) (k : (pageKind (ca / 4096)).isSome = true)
    (stop : s.stopped.contains (ca / 4096) = false) (near : remotePage (ca / 4096) = false) (z : 4 ≤ Size.bytes sz) :
    ctlPut a ca sz v s = blockWrite s a (wreq ca sz v) := by
  have k' : (pageKind (ca / 4096)).isNone = false := by simpa using k
  have z' : ¬ (sz = .b1 ∨ sz = .b2) := by rintro (rfl | rfl) <;> revert z <;> decide
  unfold ctlPut
  extract_lets page
  rw [if_neg (by simp [page, k']), if_neg (by simp only [page, stop]; decide), if_neg z', if_neg (by simp [page, near])]

/-- A store of 1 or 2 bytes is logged. -/
theorem ctlPut_narrow {s : State} {ca : Nat} {sz : Size} (a : Agent) (v : Word) (k : (pageKind (ca / 4096)).isSome = true)
    (stop : s.stopped.contains (ca / 4096) = false) (z : Size.bytes sz < 4) :
    ctlPut a ca sz v s = s.logErr (ca / 4096) 7 (ca % 4096 / 8) (agentCode a) (ctlPa ca) := by
  have k' : (pageKind (ca / 4096)).isNone = false := by simpa using k
  have z' : sz = .b1 ∨ sz = .b2 := by
    cases sz with
    | b1 => exact .inl rfl
    | b2 => exact .inr rfl
    | b4 => exact absurd z (by decide)
    | b8 => exact absurd z (by decide)
  unfold ctlPut
  extract_lets page
  rw [if_neg (by simp [page, k']), if_neg (by simp only [page, stop]; decide), if_pos z']

/-- A store of 4 or 8 bytes to a remote-domain page is posted (spec/01 R27). -/
theorem ctlPut_remote {s : State} {ca : Nat} {sz : Size} (a : Agent) (v : Word) (k : (pageKind (ca / 4096)).isSome = true)
    (stop : s.stopped.contains (ca / 4096) = false) (far : remotePage (ca / 4096) = true) (z : 4 ≤ Size.bytes sz) :
    ctlPut a ca sz v s = { s with posted := s.posted ++ [{ a := a, ca := ca, sz := sz, v := v }] } := by
  have k' : (pageKind (ca / 4096)).isNone = false := by simpa using k
  have z' : ¬ (sz = .b1 ∨ sz = .b2) := by rintro (rfl | rfl) <;> revert z <;> decide
  unfold ctlPut
  extract_lets page
  rw [if_neg (by simp [page, k']), if_neg (by simp only [page, stop]; decide), if_neg z', if_pos far]

/-! ## The register that a write names -/

/-- The registers of the common header that have no behaviour of their own. -/
theorem blockWrite_header {s : State} {a : Agent} {w : WReq} {p o : Nat} (k : (pageKind p).isSome = true)
    (e : w.ca8 = ctl p o) (ho : o < 0x100) (h : o ≠ 0x20 ∧ o ≠ 0x28 ∧ o ≠ 0xF0) :
    blockWrite s a w = regWrite s (agentCode a) w := by
  obtain ⟨⟨k, inst⟩, hk⟩ := Option.isSome_iff_exists.mp k
  have ho' : o < 4096 := by omega
  unfold blockWrite
  simp only [e, ctl_div ho', ctl_mod ho', hk, if_neg h.1, if_neg h.2.1, if_neg h.2.2, if_pos ho]

theorem blockWrite_stat {s : State} {a : Agent} {w : WReq} {p : Nat} {k : Kind} {inst : Nat} (hk : pageKind p = some (k, inst))
    (e : w.ca8 = ctl p 0x20) :
    blockWrite s a w =
      (List.range k.stats).foldl (fun s i => if (w.val &&& w.mask).getLsbD i then s.raise p i else s) s := by
  unfold blockWrite
  simp only [e, ctl_div (show 0x20 < 4096 by decide), ctl_mod (show 0x20 < 4096 by decide), hk, if_true, statSetOp]

theorem blockWrite_iena {s : State} {a : Agent} {w : WReq} {p : Nat} (k : (pageKind p).isSome = true) (e : w.ca8 = ctl p 0x28) :
    blockWrite s a w = ienaOp s (agentCode a) p w := by
  obtain ⟨⟨k, inst⟩, hk⟩ := Option.isSome_iff_exists.mp k
  unfold blockWrite
  simp only [e, ctl_div (show 0x28 < 4096 by decide), ctl_mod (show 0x28 < 4096 by decide), hk, Nat.reduceEqDiff, if_true, if_false]

theorem blockWrite_cmd {s : State} {a : Agent} {w : WReq} {p : Nat} {k : Kind} {inst : Nat} (hk : pageKind p = some (k, inst))
    (e : w.ca8 = ctl p 0xF0) :
    blockWrite s a w =
      if w.mask.getLsbD 0 then cmdOp s (agentCode a) k inst (bitsNat (w.val &&& w.mask) 7 0) else s := by
  unfold blockWrite
  simp only [e, ctl_div (show 0xF0 < 4096 by decide), ctl_mod (show 0xF0 < 4096 by decide), hk, Nat.reduceEqDiff, if_true, if_false]

/-- The registers of a tile's page behind the header (spec/08 Map 8-10). -/
theorem blockWrite_tile {s : State} {a : Agent} {w : WReq} {p o : Nat} (t : p < 0x64) (e : w.ca8 = ctl p o) (ho : o < 4096)
    (h : 0x100 ≤ o) :
    blockWrite s a w =
      if o = 0x108 then dbellSetOp s p (w.val &&& w.mask)
      else if o = 0x118 then (if (w.val &&& w.mask).getLsbD 0 then ipiSetOp s a p else s)
      else regWrite s (agentCode a) w := by
  have n1 : o ≠ 0x20 := by omega
  have n2 : o ≠ 0x28 := by omega
  have n3 : o ≠ 0xF0 := by omega
  have n4 : ¬ o < 0x100 := by omega
  unfold blockWrite
  simp only [e, ctl_div ho, ctl_mod ho]
  by_cases l : p < 0x60
  · rw [show pageKind p = some (.tile, p) from if_pos l]
    simp only [if_neg n1, if_neg n2, if_neg n3, if_neg n4]
  · rw [show pageKind p = some (.keyt, p - 0x60) from (if_neg l).trans (if_pos t)]
    simp only [if_neg n1, if_neg n2, if_neg n3, if_neg n4]

/-- DEV.PLACE (spec/01 R18, R20). -/
theorem blockWrite_place {s : State} {a : Agent} {w : WReq} (e : w.ca8 = ctl 0xFF 0x108) (m : w.mask.getLsbD 0 = true) :
    blockWrite s a w = placeOp s (w.val &&& w.mask) := by
  unfold blockWrite devWrite
  simp only [e, ctl_div (show 0x108 < 4096 by decide), ctl_mod (show 0x108 < 4096 by decide), m,
    show pageKind 0xFF = some (.dev, 0) from rfl, Nat.reduceEqDiff, Nat.reduceLT, if_true, if_false]

theorem pageKind_isSome_tile {p : Nat} (h : p < 0x64) : (pageKind p).isSome = true := by
  unfold pageKind
  by_cases l : p < 0x60
  · rw [if_pos l]; rfl
  · rw [if_neg l, if_pos h]; rfl

/-- RW1: a place once set stays; the first write sets it, and links with AUTO begin to train. -/
theorem placeOp_eq (s : State) (v : Word) :
    placeOp s v = if s.placeSet then s else
      (List.finRange 16).foldl autoTrain (s.setReg (ctl 0xFF 0x108) (BitVec.ofNat 64 (2 ^ 15 + v.toNat % 512))) := by
  have e : (v &&& 0x1FF#64) ||| 0x8000#64 = BitVec.ofNat 64 (2 ^ 15 + v.toNat % 512) := by
    refine BitVec.eq_of_toNat_eq ?_
    have h : v.toNat % 512 < 2 ^ 15 := by omega
    rw [BitVec.toNat_or, BitVec.toNat_and, BitVec.toNat_ofNat, BitVec.toNat_ofNat, BitVec.toNat_ofNat,
      Nat.mod_eq_of_lt (by omega : 2 ^ 15 + v.toNat % 512 < 2 ^ 64), show (0x1FF % 2 ^ 64 : Nat) = 2 ^ 9 - 1 from rfl,
      Nat.and_two_pow_sub_one_eq_mod, show (0x8000 % 2 ^ 64 : Nat) = 2 ^ 15 * 1 from rfl, Nat.or_comm,
      ← Nat.two_pow_add_eq_or_of_lt h, Nat.mul_one]
  unfold placeOp
  rw [e]
  rfl

end Sys2Proof.Machine
end

section
/-! PROOFS. Writes that act through one register: doorbells, DEV.PLACE, undefined command codes, stores by size (spec/13 R415–R425;
spec/08 Map 8-10; spec/01 R18, R20, R27). -/

namespace Sys2Proof.Machine

/-- What a row of the device does, after the access is counted. -/
theorem takes_of_eq {c : Instr} {s : State} {f : State → State} (h : exec c s = .next (settle (f s.accessed))) :
    Says.takes c s f := ⟨s.accessed, s.accessed_counts, h⟩

/-- A store of 8 bytes covers bit 0. -/
theorem covers_bit0 : (BitVec.allOnes 64).getLsbD 0 = true := by decide

/-! ## Doorbells and inter-tile interrupts -/

theorem rowWrite_tile {s : State} (a : Agent) (t : TileId) (v : Word) (r : Says.reaches s t.val) {o : Nat} (ho : o < 4096)
    (h8 : o % 8 = 0) :
    rowWrite s a (ctl t.val o) v = blockWrite s.accessed a ⟨ctl t.val o, BitVec.allOnes 64, v, v⟩ := by
  have := t.isLt
  exact rowWrite_reaches a v r (pageKind_isSome_tile t.isLt) (by unfold pCal; omega) ho h8
    (.inl (by rw [ctl_div ho]; omega))

theorem dbellSet_takes (a : Agent) (t : TileId) (v : Word) (s : State) (r : Says.reaches s t.val) :
    Says.takes (.dbellSet a t v) s (fun s => s.setReg (ctl t.val 0x100) (s.reg (ctl t.val 0x100) ||| v)) := by
  refine takes_of_eq ((devRow_running r.1 _).trans ?_)
  rw [tilePage, rowWrite_tile a t v r (by decide) (by decide), blockWrite_tile t.isLt rfl (by decide) (by decide),
    if_pos rfl, BitVec.and_allOnes, dbellSetOp]

/-- IPI_SET acts where bit 0 is written. -/
theorem exec_ipiSet (a : Agent) (t : TileId) (v : Word) (s : State) (r : Says.reaches s t.val) :
    exec (.ipiSet a t v) s = .next (settle (if v.getLsbD 0 then ipiSetOp s.accessed a t.val else s.accessed)) := by
  refine (devRow_running r.1 _).trans ?_
  rw [tilePage, rowWrite_tile a t v r (by decide) (by decide), blockWrite_tile t.isLt rfl (by decide) (by decide),
    if_neg (by decide), if_pos rfl, BitVec.and_allOnes]

/-! ## DEV.PLACE -/

/-- DEV.PLACE is RW1 by DEV_PLACE_WRITE. -/
theorem devPlaceWrite_takes (a : Agent) (v : Word) (s : State) (r : Says.reaches s 0xFF) :
    (s.placeSet = true → Says.takes (.devPlaceWrite a v) s id) ∧
    (s.placeSet = false → Says.takes (.devPlaceWrite a v) s (fun s =>
      (List.finRange 16).foldl autoTrain (s.setReg (ctl 0xFF 0x108) (BitVec.ofNat 64 (2 ^ 15 + v.toNat % 512))))) := by
  have e : exec (.devPlaceWrite a v) s = .next (settle (placeOp s.accessed v)) := by
    refine (devRow_running r.1 _).trans ?_
    rw [pDev, rowWrite_reaches a v r rfl (by decide) (by decide) (by decide) (.inr (.inr (by decide))),
      blockWrite_place rfl covers_bit0, BitVec.and_allOnes]
  rw [placeOp_eq, State.accessed_placeSet] at e
  constructor <;> intro h
  · exact takes_of_eq (by rw [e, if_pos h]; rfl)
  · exact takes_of_eq (by rw [e, if_neg (by rw [h]; decide)])

/-! ## Undefined command codes (spec/13 R422) -/

/-- The pages whose blocks have commands, but the CAL page, with the kind and the number of their block. -/
theorem command_pages : ∀ p : Fin 256, p.val ≠ pCal → ∀ x ∈ pageKind p.val, ∀ last ∈ Says.lastCommand p.val,
    (x.1 = .mason ∧ p = pMason ∧ last = 0x12) ∨ (x.1 = .hwj ∧ p = pHwj ∧ last = 7) ∨
    (x.1 = .mort ∧ p = pMort + x.2 ∧ x.2 < 16 ∧ last = 6) ∨ (x.1 = .rings ∧ p = pRings + x.2 ∧ x.2 < 12 ∧ last = 5) ∨
    (x.1 = .course ∧ p = pCourse + x.2 ∧ x.2 < 12 ∧ last = 1) ∨ (x.1 = .ddrc ∧ p = pDdrc + x.2 ∧ last = 1) ∨
    (x.1 = .hbmc ∧ p = pHbmc ∧ last = 1) ∨ (x.1 = .clk ∧ p = pClk ∧ last = 1) ∨ (x.1 = .pwr ∧ p = pPwr ∧ last = 1) := by
  decide +kernel

/-- A code that the block of the page does not define. -/
theorem cmdOp_undefined {s : State} {src p last code : Nat} {k : Kind} {inst : Nat} (hk : pageKind p = some (k, inst))
    (hl : Says.lastCommand p = some last) (c : p ≠ pCal) (u : code = 0 ∨ last < code) :
    ∃ allowed st run, cmdOp s src k inst code = s.command p src code false allowed st run := by
  have range (n : Nat) (h : last = n) : inRange code 1 n = false := by
    simp only [inRange, decide_eq_false_iff_not]; omega
  have one (h : last = 1) : decide (code = 1) = false := by rw [decide_eq_false_iff_not]; omega
  have fin (n m : Nat) (h : m < n + 1) : (Fin.ofNat (n + 1) m).val = m := Nat.mod_eq_of_lt h
  have block := command_pages ⟨p, pageKind_lt (by rw [hk]; rfl)⟩ c (k, inst) hk last hl
  dsimp only at block
  rcases block with ⟨rfl, rfl, h⟩ | ⟨rfl, rfl, h⟩ | ⟨rfl, rfl, b, h⟩ | ⟨rfl, rfl, b, h⟩ | ⟨rfl, rfl, b, h⟩ | ⟨rfl, rfl, h⟩ | ⟨rfl, rfl, h⟩ | ⟨rfl, rfl, h⟩ | ⟨rfl, rfl, h⟩
  · exact ⟨_, _, _, by rw [cmdOp, masonCmd, range _ h]⟩
  · exact ⟨_, _, _, by rw [cmdOp, hwjCmd, range _ h]⟩
  · exact ⟨_, _, _, by rw [cmdOp, mortCmd, range _ h, fin _ _ b]⟩
  · exact ⟨_, _, _, by rw [cmdOp, ringsCmd, range _ h, fin _ _ b]⟩
  · exact ⟨_, _, _, by rw [cmdOp, courseCmd, one h, fin _ _ b]⟩
  · exact ⟨_, _, _, by rw [cmdOp, memCmd, one h]⟩
  · exact ⟨_, _, _, by rw [cmdOp, memCmd, one h]⟩
  · exact ⟨_, _, _, by rw [cmdOp, clkCmd, one h]⟩
  · exact ⟨_, _, _, by rw [cmdOp, pwrCmd, one h]⟩

/-- CMDSTAT and the error log of a code that is undefined, or written while the block is busy. -/
theorem undefinedCommand_logs (a : Agent) (page code : BitVec 8) (last : Nat) (s : State) (r : Says.reaches s page.toNat)
    (hl : Says.lastCommand page.toNat = some last) (c : page.toNat ≠ pCal) (u : code.toNat = 0 ∨ last < code.toNat) :
    (s.fld (ctl page.toNat 0xF8) 7 0 ≠ 1 →
      ∃ s0 u d, CountsOnly 0xFF s s0 ∧ exec (.undefinedCommand a page code) s = .next (settle u) ∧
        Says.logged (s0.setReg (ctl page.toNat 0xF8) (Says.cmdstat s page.toNat code.toNat 0x0B)) u page.toNat 4 0x1E
          (Says.agent a) d ∧ d.toNat % 256 = code.toNat) ∧
    (s.fld (ctl page.toNat 0xF8) 7 0 = 1 →
      ∃ s0 u d, CountsOnly 0xFF s s0 ∧ exec (.undefinedCommand a page code) s = .next (settle u) ∧
        Says.logged s0 u page.toNat 3 0x1E (Says.agent a) d ∧ d.toNat % 256 = code.toNat) := by
  obtain ⟨⟨k, inst⟩, hk⟩ : ∃ x, pageKind page.toNat = some x := by
    have table : ∀ p : Fin 256, (Says.lastCommand p.val).isSome = true → (pageKind p.val).isSome = true := by decide +kernel
    exact Option.isSome_iff_exists.mp (table ⟨page.toNat, page.isLt⟩ (by rw [hl]; rfl))
  have hd : NoDevCounter (ctl page.toNat 0xF0) ∧ NoDevCounter (ctl page.toNat 0xF8) := by
    constructor <;> exact .inr (.inr (by rw [ctl_mod (by decide)]; decide))
  have hcode : bitsNat (code.setWidth 64 &&& BitVec.allOnes 64) 7 0 = code.toNat := by
    have := code.isLt
    rw [BitVec.and_allOnes, bitsNat, BitVec.toNat_setWidth]
    omega
  have data (st : Nat) : (BitVec.ofNat 64 (st % 256 * 256 + code.toNat % 256)).toNat % 256 = code.toNat := by
    have := code.isLt
    rw [BitVec.toNat_ofNat]
    omega
  have hf (hi lo : Nat) : s.accessed.fld (ctl page.toNat 0xF8) hi lo = s.fld (ctl page.toNat 0xF8) hi lo := by
    rw [State.fld, State.reg_accessed _ (by decide) hd.2, State.fld]
  obtain ⟨allowed, st, run, hc⟩ := cmdOp_undefined (s := s.accessed) (src := agentCode a) hk hl c u
  have e : exec (.undefinedCommand a page code) s =
      .next (settle (s.accessed.command page.toNat (agentCode a) code.toNat false allowed st run)) := by
    refine (devRow_running r.1 _).trans ?_
    rw [rowWrite_reaches a _ r (by rw [hk]; rfl) c (by decide) (by decide) hd.1, blockWrite_cmd hk rfl, if_pos covers_bit0,
      hcode, hc]
  rw [State.command, hf, agentCode_eq] at e
  constructor
  · intro idle
    rw [if_neg idle, if_pos (by decide)] at e
    refine ⟨s.accessed, _, _, s.accessed_counts, e, ?_, data st⟩
    have stat : s.accessed.cmdStat page.toNat code.toNat 0x0B =
        s.accessed.setReg (ctl page.toNat 0xF8) (Says.cmdstat s page.toNat code.toNat 0x0B) := by
      rw [State.cmdStat, hf, Nat.mod_eq_of_lt code.isLt, Says.cmdstat]
    rw [stat]
    exact logged_logErr ..
  · intro busy
    rw [if_pos busy] at e
    exact ⟨s.accessed, _, _, s.accessed_counts, e, logged_logErr .., data st⟩

/-! ## Stores by size -/

/-- The aligned address of a store. -/
theorem aligned_page (ca : Nat) (sz : Size) : ca / Size.bytes sz * Size.bytes sz / 4096 = ca / 4096 := by
  cases sz <;> simp only [Size.bytes] <;> omega

theorem exec_registerWrite {s : State} (r : Says.running s) (a : Agent) (ca : BitVec 20) (sz : Size) (v : Word) :
    exec (.registerWrite a ca sz v) s =
      .next (settle (ctlStore s a (ca.toNat / Size.bytes sz * Size.bytes sz) sz v)) := devRow_running r _

/-- A register that holds whatever is written into it. -/
theorem regWrite_full {s : State} {src ca inst : Nat} {v : Word} {k : Kind} (h : pageKind (ca / 4096) = some (k, inst))
    (f : fieldsOf k (ca % 4096) = [⟨63, 0, .rw⟩]) (ok : ∀ old new, fieldOk s k inst (ca % 4096) 63 old new = true) :
    regWrite s src ⟨ca, BitVec.allOnes 64, v, v⟩ = s.setReg ca v := by
  rw [regWrite_accepted h (fun g hg => accepts_of_fieldOk (by
    rw [f, List.mem_singleton] at hg
    rw [hg]
    exact ok)), f, written_rw _ _ _ (by decide), show fieldMask 63 0 = BitVec.allOnes 64 by decide, maskPut_allOnes,
    maskPut_allOnes]

/-- Stores of 1 and 2 bytes, of remote pages, of event counters of the DEV page, and of the block's own registers. -/
theorem registerWrite_by_size (a : Agent) (ca : BitVec 20) (sz : Size) (v : Word) (s : State) (r : Says.running s)
    (k : (pageKind (ca.toNat / 4096)).isSome = true) (stop : s.stopped.contains (ca.toNat / 4096) = false) :
    let n := Size.bytes sz
    let at_ := ca.toNat / n * n
    let own := ca.toNat / 4096 = 0xFF ∧ 0xA0 ≤ at_ % 4096 ∧ at_ % 4096 < 0xC0
    let evctl := ca.toNat / 4096 = 0xFF ∧ 0xC0 ≤ at_ % 4096 ∧ at_ % 4096 < 0xC8
    (n < 4 → ¬ own → ¬ evctl → ∃ s0 u, CountsOnly 0xFF s s0 ∧ exec (.registerWrite a ca sz v) s = .next (settle u) ∧
      Says.logged s0 u (ca.toNat / 4096) 7 (at_ % 4096 / 8) (Says.agent a) (ctlPa at_)) ∧
    (4 ≤ n → remotePage (ca.toNat / 4096) = true → Says.takes (.registerWrite a ca sz v) s (fun s =>
      { s with posted := s.posted ++ [{ a := a, ca := at_, sz := sz, v := v }] })) ∧
    (4 ≤ n → own → exec (.registerWrite a ca sz v) s = .next (settle ((blockWrite s a (wreq at_ sz v)).evCount 0xFF 0x20 1))) ∧
    (4 ≤ n → remotePage (ca.toNat / 4096) = false → ¬ own → ¬ evctl → Says.takes (.registerWrite a ca sz v) s (fun s =>
      blockWrite s a (wreq at_ sz v))) ∧
    (4 ≤ n → evctl → ∃ s0, CountsOnly 0xFF s s0 ∧ s0.fld (ctl 0xFF 0xC0) 3 0 = s.fld (ctl 0xFF 0xC0) 3 0 ∧
      exec (.registerWrite a ca sz v) s = .next (settle (let u := blockWrite s0 a (wreq at_ sz v)
        u.setReg (ctl 0xFF 0xC0) (u.reg (ctl 0xFF 0xC0) ||| (s0.reg (ctl 0xFF 0xC0) ^^^ s.reg (ctl 0xFF 0xC0)))))) := by
  intro n at_ own evctl
  have hp : at_ / 4096 = ca.toNat / 4096 := aligned_page _ _
  have e : exec (.registerWrite a ca sz v) s = .next (settle (ctlStore s a at_ sz v)) := exec_registerWrite r a ca sz v
  have plain (h1 : ¬ own) (h2 : ¬ evctl) : NoDevCounter at_ := by
    unfold NoDevCounter
    rw [hp]
    simp only [own, evctl] at h1 h2
    omega
  have core (far : ca.toNat / 4096 = 0xFF) : remotePage (at_ / 4096) = false := by rw [hp, far]; rfl
  have stop' : s.accessed.stopped.contains (at_ / 4096) = false := by rw [State.accessed_stopped, hp, stop]
  rw [← hp] at k stop
  refine ⟨fun z h1 h2 => ?_, fun z far => ?_, fun z h => ?_, fun z near h1 h2 => ?_, fun z h => ?_⟩
  · refine ⟨s.accessed, _, s.accessed_counts, e, ?_⟩
    rw [ctlStore, ctlCounted_plain (plain h1 h2), ctlPut_narrow a v k stop' z, hp, agentCode_eq]
    exact logged_logErr ..
  · refine takes_of_eq (e.trans ?_)
    have nf : ca.toNat / 4096 ≠ 0xFF := by rintro x; rw [x] at far; revert far; decide
    rw [ctlStore, ctlCounted_plain (.inl (by rw [hp]; exact nf)), ctlPut_remote a v k stop' (by rw [hp, far]) z]
  · rw [e, ctlStore, ctlCounted, if_pos ⟨hp.trans h.1, by simp only [inRange, decide_eq_true_eq]; omega⟩,
      ctlPut_core a v k stop (core h.1) z]
    rfl
  · refine takes_of_eq (e.trans ?_)
    rw [ctlStore, ctlCounted_plain (plain h1 h2), ctlPut_core a v k stop' (by rw [hp, near]) z]
  · refine ⟨s.accessed, s.accessed_counts, enables_evCount .., ?_⟩
    rw [e, ctlStore, ctlCounted, if_neg (by simp only [inRange, decide_eq_true_eq]; omega),
      if_pos ⟨hp.trans h.1, by simp only [inRange, decide_eq_true_eq]; omega⟩, BitVec.xor_comm]
    simp only
    rw [show s.evCount pDev 32 1 = s.accessed from rfl, ctlPut_core a v k stop' (core h.1) z]
    rfl

/-- ICNT and CCNT of a tile's page hold what is written (spec/13). -/
theorem registerWrite_count (a : Agent) (ca : BitVec 20) (v : Word) (s : State) (r : Says.running s)
    (stop : s.stopped.contains (ca.toNat / 4096) = false) (t : ca.toNat / 4096 < 0x60)
    (o : ca.toNat / 8 * 8 % 4096 = 0x208 ∨ ca.toNat / 8 * 8 % 4096 = 0x210) :
    Says.takes (.registerWrite a ca .b8 v) s (fun s => s.setReg (ca.toNat / 8 * 8) v) := by
  obtain ⟨at_, hat⟩ : ∃ x, x = ca.toNat / 8 * 8 := ⟨_, rfl⟩
  rw [← hat] at o ⊢
  have hp : at_ / 4096 < 0x60 := by omega
  have hk : pageKind (at_ / 4096) = some (.tile, at_ / 4096) := if_pos hp
  have f : fieldsOf .tile (at_ % 4096) = [⟨63, 0, .rw⟩] := by rcases o with o | o <;> rw [o] <;> decide
  have ok (s : State) (old new : Word) : fieldOk s .tile (at_ / 4096) (at_ % 4096) 63 old new = true := by
    rcases o with o | o <;> rw [o] <;> rfl
  refine takes_of_eq ((exec_registerWrite r a ca .b8 v).trans ?_)
  rw [show ca.toNat / Size.bytes .b8 * Size.bytes .b8 = at_ from hat.symm, ctlStore, ctlCounted_plain (.inl (by omega)),
    ctlPut_core a v (by rw [hk]; rfl) (by rw [State.accessed_stopped, show at_ / 4096 = ca.toNat / 4096 by omega, stop])
      (by rw [remote_of_page hk]; rfl) (by decide), wreq_b8 (by omega),
    blockWrite_tile (p := at_ / 4096) (o := at_ % 4096) (by omega) (by simp only [ctl]; omega) (by omega) (by omega),
    if_neg (by omega), if_neg (by omega), regWrite_full hk f (ok _)]

/-- Every write that acts through one register. -/
theorem controlWrites : Says.ControlWrites := by
  refine ⟨fun a t v s r => ⟨dbellSet_takes a t v s r, fun h => ?_, fun h => ?_⟩, devPlaceWrite_takes,
    fun a page code last s r hl c u => undefinedCommand_logs a page code last s r hl c u, fun a ca sz v s r k stop => ?_⟩
  · exact takes_of_eq (by rw [exec_ipiSet a t v s r, if_pos h]; rfl)
  · exact takes_of_eq (by rw [exec_ipiSet a t v s r, if_neg (by rw [h]; decide)]; rfl)
  · have n : (match sz with | .b1 => 1 | .b2 => 2 | .b4 => 4 | .b8 => 8) = Size.bytes sz := by cases sz <;> rfl
    obtain ⟨h1, h2, h3, h4, h5⟩ := registerWrite_by_size a ca sz v s r k stop
    intro n' at_ own evctl
    have e : n' = Size.bytes sz := n
    simp only [own, evctl, at_, e]
    refine ⟨h1, h2, h3, h4, h5, fun h8 t o => ?_⟩
    cases sz with
    | b8 => exact registerWrite_count a ca v s r stop t o
    | b1 => exact absurd h8 (by decide)
    | b2 => exact absurd h8 (by decide)
    | b4 => exact absurd h8 (by decide)

end Sys2Proof.Machine
end

section
/-! PROOFS. What follows a row of the device where nothing is due: each round leaves the state as it is, but that a quiescing Mason is
quiesced (spec/10 Table 10-15). -/

namespace Sys2Proof.Machine

/-- Nothing is due: no message, ticket, migration, answer, completion record, quench, record, snapshot or resynchronisation waits, no
tile waits or has an entry's or a checkstop's stores to write, no course drains, and no link command waits for its end. -/
structure AtRest (s : State) : Prop where
  loopq : s.loopq = []
  tickets : s.mason.tickets = []
  migs : s.mason.migs = []
  dels : s.mason.dels = []
  commits : s.mason.commits = []
  quenched : s.mason.quenched = []
  comps : s.mason.comps = []
  stageFull : s.mason.stageFull = false
  waiting : s.hwj.waiting = []
  snapFirst : s.hwj.snapFirst = false
  resyncLeft : s.hwj.resyncLeft = []
  courses : ∀ c, (s.course c).runHi = [] ∧ (s.course c).runLo = [] ∧ cstate s c ≠ 1
  tiles : ∀ t, (∀ pd n, (s.tile t).run ≠ .swsWait pd n) ∧ (∀ p, (s.tile t).run ≠ .jsyncWait p) ∧
    (∀ e ∈ (s.tile t).sbuf, e.frame = false) ∧
    ((s.tile t).run = .checkstop → (s.tile t).sbuf = [] ∧ (96 ≤ t.val ∨ retired s t = true))
  links : ∀ k : LinkId, s.fld (ctl (pMort + k.val) 0xF8) 7 0 = 1 → linkState s k = 1 ∨ linkState s k = 3

/-- The registers that what is due depends on stand behind the headers of the pages of the Mason, of the journal unit and of the
links, or are the links' CMDSTAT; the Mason's own state is apart. -/
def DueReg (r : Nat) : Prop := 0x90 ≤ r / 4096 ∧ 0xF8 ≤ r % 4096 ∧ r ≠ masonReg 0x100

theorem dueReg_ctl {p o : Nat} (hp : 0x90 ≤ p) (ho : 0xF8 ≤ o) (h : o < 4096) (n : ¬ (p = pMason ∧ o = 0x100)) :
    DueReg (ctl p o) := by
  refine ⟨by rwa [ctl_div h], by rwa [ctl_mod h], fun e => n ?_⟩
  exact (ctl_inj h (by decide)).mp e

/-- What is due depends neither on posted writes nor on other registers. -/
theorem AtRest.of_same {s u : State} (h : AtRest s) (rest : u = { s with regs := u.regs, posted := u.posted })
    (regs : ∀ r, DueReg r → u.reg r = s.reg r) : AtRest u := by
  have hm : u.mason = s.mason := by rw [rest]
  have hh : u.hwj = s.hwj := by rw [rest]
  have hc (c : CourseId) : u.course c = s.course c := by rw [rest]; rfl
  have ht (t : TileId) : u.tile t = s.tile t := by rw [rest]; rfl
  have hs (c : CourseId) : cstate u c = cstate s c := by
    unfold cstate masonReg State.fld
    rw [regs _ (dueReg_ctl (by decide) (by omega) (by omega) (by omega))]
  have hr (t : TileId) : retired u t = retired s t := by
    unfold retired hwjReg
    rw [regs _ (dueReg_ctl (by decide) (by omega) (by omega) (by decide +revert))]
  have hl (k : LinkId) {o : Nat} (hi lo : Nat) (l : 0xF8 ≤ o) (g : o < 4096) :
      u.fld (ctl (pMort + k.val) o) hi lo = s.fld (ctl (pMort + k.val) o) hi lo := by
    unfold State.fld
    rw [regs _ (dueReg_ctl (by unfold pMort; omega) l g (by unfold pMort pMason; omega))]
  have hk (k : LinkId) : linkState u k = linkState s k := hl k (o := 0x100) 2 0 (by decide) (by decide)
  obtain ⟨h1, h2, h3, h4, h5, h6, h7, h8, h9, h10, h11, h12, h13, h14⟩ := h
  exact ⟨by rw [rest]; exact h1, by rwa [hm], by rwa [hm], by rwa [hm], by rwa [hm], by rwa [hm], by rwa [hm], by rwa [hm],
    by rwa [hh], by rwa [hh], by rwa [hh], fun c => by rw [hc, hs]; exact h12 c, fun t => by rw [ht, hr]; exact h13 t,
    fun k e => by rw [hk]; exact h14 k (by rwa [hl k _ _ (by decide) (by decide)] at e)⟩

theorem DueReg.ne_ctl {r p o : Nat} (d : DueReg r) (h : o < 0xF8) : r ≠ ctl p o := by
  rintro rfl
  have := d.2.1
  rw [ctl_mod (by omega)] at this
  omega

theorem DueReg.not_counter {r : Nat} (d : DueReg r) (p : Nat) : isCounter p r = false := by
  simp [isCounter, d.ne_ctl]

/-- Counting on the DEV page makes nothing due. -/
theorem AtRest.of_counts {s u : State} (h : AtRest s) (c : CountsOnly 0xFF s u) : AtRest u :=
  h.of_same (by rw [c.rest]) fun r d => c.regs r (d.not_counter _)

/-- The events of STAT bits make nothing due, whatever doorbell they ring. -/
theorem AtRest.of_statsSet {s u : State} {p n : Nat} {v : Word} (h : AtRest s) (e : StatsSet s u p n v) : AtRest u := by
  refine h.of_same (by rw [e.rest]) fun r d => ?_
  have bell : r ≠ s.bellReg p := by
    rintro rfl
    have := d.1
    rw [State.bellReg, ctl_div (by decide)] at this
    exact absurd this (Nat.not_le.mpr (Nat.lt_of_lt_of_le (Nat.mod_lt _ (by decide)) (by decide)))
  exact e.frame r (d.ne_ctl (by decide)) (d.ne_ctl (by decide)) (d.ne_ctl (by decide)) bell (d.not_counter _) (d.not_counter _)

/-- The Mason's own state makes nothing due. -/
theorem AtRest.setMasonState {s : State} (h : AtRest s) (v : Nat) : AtRest (s.setFld (masonReg 0x100) 2 0 v) :=
  h.of_same rfl fun _ d => State.reg_setFld_ne _ _ _ _ d.2.2

/-- A change of the Mason that changes nothing. -/
theorem State.modMason_same {s : State} {f : Mason → Mason} (h : f s.mason = s.mason) : s.modMason f = s := by
  rw [State.modMason, h]

section
variable {s : State} (h : AtRest s)
include h

theorem AtRest.deliverLoop (n : Nat) : deliverLoop n s = s := by
  cases n with
  | zero => rfl
  | succ n => rw [Machine.deliverLoop, h.loopq]

theorem AtRest.migPump : migPump s = s := by rw [Machine.migPump, h.migs]; rfl

theorem AtRest.resyncPump : resyncPump s = s := by
  unfold Machine.resyncPump
  rw [h.resyncLeft]
  split
  · exact ite_self _
  · rfl

theorem AtRest.firstSnapshot : firstSnapshot s = s := if_neg (by rw [h.snapFirst]; decide)

theorem AtRest.journalPump : journalPump s = s := by rw [Machine.journalPump, pumpJournal, h.waiting]

theorem AtRest.replyPump : replyPump s = s := by
  unfold Machine.replyPump
  extract_lets open_ ks cs s1 s2
  have hk : ks = [] := by simp [ks, h.dels]
  have hc : cs = [] := by simp [cs, h.commits]
  have h1 : s1 = s := by simp [s1, hk]
  have h2 : s2 = s := by
    rw [show s2 = s1.modMason _ from rfl, h1]
    refine State.modMason_same (congrArg (fun l => { s.mason with commits := l }) (?_ : _ = s.mason.commits))
    rw [h.commits]
    rfl
  rw [hc, h2]
  rfl

theorem AtRest.sessionPump : sessionPump s = s := by rw [Machine.sessionPump, h.tickets]; rfl

theorem AtRest.boundTo (t : TileId) : boundTo s t = [] := by rw [Machine.boundTo, h.tickets]; rfl

theorem AtRest.askFills (t : TileId) : askFills s t = s := by
  unfold Machine.askFills
  split
  next pd n e => exact absurd e ((h.tiles t).1 pd n)
  next => simp [h.boundTo]

theorem AtRest.bindCourse (c : CourseId) : bindCourse s c = s := by
  obtain ⟨hi, lo, -⟩ := h.courses c
  unfold Machine.bindCourse
  split
  · rfl
  · rw [hi, lo, List.append_nil, bindList]
    exact List.foldl_fixed' h.askFills _

theorem AtRest.serveTakes (c : CourseId) : serveTakes s c = s := by
  refine List.foldl_fixed' (fun t => ?_) _
  have : readyTicket s t = none := by rw [readyTicket, h.boundTo]; rfl
  rw [this]
  exact ite_self _

theorem AtRest.masonPump : masonPump s = s := by
  have : rebind s = s := by
    rw [rebind, placeAdmitted, h.tickets]
    exact List.foldl_fixed' h.bindCourse _
  rw [Machine.masonPump, this]
  exact List.foldl_fixed' h.serveTakes _

theorem AtRest.stageCheck : stageCheck s = s := by
  have : staged s = 0 := by rw [staged, h.tickets]; rfl
  rw [Machine.stageCheck, this, if_neg (by decide), if_pos (by decide)]
  exact State.modMason_same (by rw [← h.stageFull])

theorem AtRest.fencedPump : fencedPump s = s := by
  unfold Machine.fencedPump
  split
  · simp only [h.comps, List.filter_nil, List.foldl_nil]
    refine State.modMason_same (congrArg (fun l => { s.mason with comps := l }) (?_ : _ = s.mason.comps))
    rw [h.comps]
    rfl
  · rfl

theorem AtRest.mortPump : mortPump s = s := by
  refine List.foldl_fixed' (fun k => if_neg ?_) _
  rintro ⟨e, n1, n3⟩
  rcases h.links k e with l | l
  · exact n1 l
  · exact n3 l

theorem AtRest.drainedCheck : drainedCheck s = s :=
  List.foldl_fixed' (fun c => if_neg fun e => (h.courses c).2.2 e.1) _

theorem AtRest.quiescedCheck :
    quiescedCheck s = if masonState s = 2 then s.setFld (masonReg 0x100) 2 0 3 else s := by
  simp [Machine.quiescedCheck, h.migs, h.tickets]

theorem AtRest.unquenchCheck : unquenchCheck s = s := by
  have : stageShown s = false := by rw [stageShown, h.stageFull]; rfl
  simp only [Machine.unquenchCheck, this, h.quenched, List.filter_nil, List.foldl_nil, Bool.false_eq_true, if_false]
  refine State.modMason_same (congrArg (fun l => { s.mason with quenched := l }) (?_ : _ = s.mason.quenched))
  rw [h.quenched]
  rfl

theorem AtRest.jsyncPump : jsyncPump s = s := by
  refine List.foldl_fixed' (fun t => ?_) _
  unfold jsyncTile
  split
  next p e => exact absurd e ((h.tiles t).2.1 p)
  next => rfl

/-- One round of what is due. -/
theorem AtRest.settleOnce : settleOnce s = if masonState s = 2 then s.setFld (masonReg 0x100) 2 0 3 else s := by
  unfold Machine.settleOnce
  simp only [h.deliverLoop, h.migPump, h.resyncPump, h.firstSnapshot, h.journalPump, h.replyPump, h.sessionPump, h.masonPump,
    h.stageCheck, h.fencedPump, h.mortPump, h.drainedCheck, h.quiescedCheck]
  split
  · rw [(h.setMasonState 3).unquenchCheck, (h.setMasonState 3).jsyncPump]
  · rw [h.unquenchCheck, h.jsyncPump]

theorem AtRest.settleDev : settleDev s = if masonState s = 2 then s.setFld (masonReg 0x100) 2 0 3 else s := by
  rw [Machine.settleDev, h.settleOnce]
  split
  · have : masonState (s.setFld (masonReg 0x100) 2 0 3) = 3 := State.fld_setFld_self _ _ _ (by decide)
    rw [(h.setMasonState 3).settleOnce, this, if_neg (by decide)]
  next n => rw [h.settleOnce, if_neg n]

theorem AtRest.stopCheck (t : TileId) : stopCheck s t = s := by
  obtain ⟨-, -, frames, stop⟩ := h.tiles t
  unfold Machine.stopCheck
  split
  next e =>
    obtain ⟨empty, out⟩ := stop e
    have : drainTile s t = s := by rw [drainTile, empty]; rfl
    rw [this, if_pos (by simpa [isKeyst] using out)]
  next =>
    rw [frameOut, if_neg (by simpa using frames)]

/-- All that is due, and tiles in checkstop. -/
theorem AtRest.settle : settle s = if masonState s = 2 then s.setFld (masonReg 0x100) 2 0 3 else s := by
  rw [Machine.settle, h.settleDev]
  split
  · exact List.foldl_fixed' (h.setMasonState 3).stopCheck _
  · exact List.foldl_fixed' h.stopCheck _

theorem AtRest.settle_posted : (Machine.settle s).posted = s.posted := by
  rw [h.settle]
  split <;> rfl

end

/-- Where nothing is due, what follows a row changes nothing but that a quiescing Mason is quiesced. -/
theorem nothingDue : Says.NothingDue := fun _ h1 h2 h3 h4 h5 h6 h7 h8 h9 h10 h11 h12 h13 h14 =>
  AtRest.settle ⟨h1, h2, h3, h4, h5, h6, h7, h8, h9, h10, h11, h12, h13, h14⟩

end Sys2Proof.Machine
end

section
/-! PROOFS. STAT_SET and IENA as writes (spec/13 R419–R421), and the writes of the CAL page that wait for a tick (spec/01 R32). -/

namespace Sys2Proof.Machine

/-- STAT_SET of a page that can be reached: the events of the bits it names, and then what is due. -/
theorem statSet_leads {a : Agent} {page : BitVec 8} {v : Word} {k : Kind} {inst : Nat} {s : State}
    (r : Says.reaches s page.toNat) (hk : pageKind page.toNat = some (k, inst)) (c : page.toNat ≠ pCal) :
    Says.leads (.statSet a page v) s (StatsSet s · page.toNat k.stats v) := by
  refine ⟨_, (devRow_running r.1 _).trans ?_, StatsSet.fold s.accessed_counts page.toNat v k.stats_le⟩
  rw [rowWrite_reaches a v r (by rw [hk]; rfl) c (by decide) (by decide) (.inr (.inl (by rw [ctl_mod (by decide)]; decide))),
    blockWrite_stat hk rfl]
  simp only [BitVec.and_allOnes]

/-! ## IENA -/

/-- The enables of the `n` STAT bits that a block has, as a write of `v` leaves them (spec/13 R421). -/
def enabled (old v : Word) (n : Nat) : Word := (old &&& ~~~BitVec.ofNat 64 (2 ^ n - 1)) ||| BitVec.ofNat 64 (v.toNat % 2 ^ n)

theorem getLsbD_enabled (old v : Word) (n : Nat) {i : Nat} (h : i < 64) :
    (enabled old v n).getLsbD i = if i < n then v.getLsbD i else old.getLsbD i := by
  simp only [enabled, BitVec.getLsbD_or, BitVec.getLsbD_and, BitVec.getLsbD_not, BitVec.getLsbD_ofNat,
    Nat.testBit_two_pow_sub_one, Nat.testBit_mod_two_pow, h, decide_true, Bool.true_and, BitVec.testBit_toNat]
  by_cases l : i < n <;> simp [l]

/-- A bit that a write of IENA enables is set in STAT already. -/
def newlyEnabled (old v stat : Word) (n : Nat) : Prop :=
  ∃ i, i < n ∧ v.getLsbD i = true ∧ old.getLsbD i = false ∧ stat.getLsbD i = true

/-- What the model compares is whether there is such a bit. -/
theorem newlyEnabled_iff {old v stat : Word} {n : Nat} (hn : n ≤ 16) :
    enabled old v n &&& ~~~old &&& stat ≠ 0 ↔ newlyEnabled old v stat n := by
  have bit {i : Nat} (h : i < 64) : (enabled old v n &&& ~~~old &&& stat).getLsbD i =
      (decide (i < n) && v.getLsbD i && !old.getLsbD i && stat.getLsbD i) := by
    simp only [BitVec.getLsbD_and, BitVec.getLsbD_not, getLsbD_enabled _ _ _ h, h, decide_true, Bool.true_and]
    by_cases l : i < n <;> simp [l]
  constructor
  · intro ne
    by_contra no
    refine ne (BitVec.eq_of_getLsbD_eq fun i h => ?_)
    rw [bit h, BitVec.ofNat_eq_ofNat, BitVec.getLsbD_zero]
    by_contra b
    simp only [Bool.not_eq_false, Bool.and_eq_true, decide_eq_true_eq, Bool.not_eq_true'] at b
    exact no ⟨i, b.1.1.1, b.1.1.2, b.1.2, b.2⟩
  · rintro ⟨i, l, hv, ho, hs⟩ e
    have := bit (show i < 64 by omega)
    rw [e] at this
    simp [l, hv, ho, hs] at this

/-- What a write of IENA leaves (spec/13 R421): the enables of the `n` STAT bits, and a doorbell rung where one of them is new and its
STAT bit is set. -/
structure EnablesSet (s u : State) (p n : Nat) (v : Word) : Prop where
  enable : u.reg (ctl p 0x28) = enabled (s.reg (ctl p 0x28)) v n
  rings : newlyEnabled (s.reg (ctl p 0x28)) v (s.reg (ctl p 0x18)) n → u.reg (s.bellReg p) = s.rung p
  quiet : ¬ newlyEnabled (s.reg (ctl p 0x28)) v (s.reg (ctl p 0x18)) n →
    u.reg (s.bellReg p) = s.reg (s.bellReg p)
  frame : ∀ r, r ≠ ctl p 0x28 → r ≠ s.bellReg p → isCounter 0xFF r = false → u.reg r = s.reg r
  rest : u = { s with regs := u.regs }

/-- The field of IENA is the STAT bits that the block defines. -/
theorem regWrite_iena {s : State} {src p inst : Nat} {v : Word} {k : Kind} (hk : pageKind p = some (k, inst)) :
    regWrite s src ⟨ctl p 0x28, BitVec.allOnes 64, v, v⟩ =
      s.setReg (ctl p 0x28) (enabled (s.reg (ctl p 0x28)) v k.stats) := by
  have hp : pageKind (ctl p 0x28 / 4096) = some (k, inst) := by rw [ctl_div (by decide), hk]
  have ho : ctl p 0x28 % 4096 = 0x28 := ctl_mod (by decide)
  have b := k.stats_le
  rw [regWrite_accepted hp fun f _ => accepts_of_fieldOk fun _ _ => by
    rw [ho]; exact fieldOk_header (by decide) (by decide) (.inl (by decide)) ..]
  simp only [ho, show fieldsOf k 0x28 = if k.stats = 0 then [] else [⟨k.stats - 1, 0, .rw⟩] from rfl]
  refine congrArg (s.setReg _) (BitVec.eq_of_getLsbD_eq fun i h => ?_)
  rw [getLsbD_enabled _ _ _ h]
  split
  next z => rw [written_nil, z, if_neg (Nat.not_lt_zero _)]
  next z =>
    rw [written_rw _ _ _ (Nat.zero_le _), maskPut_allOnes]
    simp only [maskPut, BitVec.getLsbD_or, BitVec.getLsbD_and, BitVec.getLsbD_not, getLsbD_fieldMask h, h, decide_true,
      Bool.true_and, Nat.zero_le, true_and, show i < k.stats - 1 + 1 ↔ i < k.stats by omega]
    by_cases l : i < k.stats <;> simp [l]

theorem ienaOp_sets {s s0 : State} (c : CountsOnly 0xFF s s0) {src p inst : Nat} {v : Word} {k : Kind}
    (hk : pageKind p = some (k, inst)) :
    EnablesSet s (ienaOp s0 src p ⟨ctl p 0x28, BitVec.allOnes 64, v, v⟩) p k.stats v := by
  have hdr {o : Nat} (ho : o < 0xA0) : s0.reg (ctl p o) = s.reg (ctl p o) :=
    c.regs _ (isCounter_of_off _ _ (by omega) (by omega))
  have stays {o : Nat} (ho : o < 0x28) (w : Word) : (s0.setReg (ctl p 0x28) w).reg (ctl p o) = s.reg (ctl p o) := by
    rw [State.reg_setReg_ne _ _ (by unfold ctl; omega), hdr (by omega)]
  have fld (hi lo : Nat) (w : Word) : (s0.setReg (ctl p 0x28) w).fld (ctl p 0x10) hi lo = s.fld (ctl p 0x10) hi lo := by
    rw [State.fld, stays (by decide), State.fld]
  have bellReg (w : Word) : (s0.setReg (ctl p 0x28) w).bellReg p = s.bellReg p := by rw [State.bellReg, fld, State.bellReg]
  have bell (w : Word) : (s0.setReg (ctl p 0x28) w).reg (s.bellReg p) = s.reg (s.bellReg p) := by
    rw [State.reg_setReg_ne _ _ (s.bellReg_ne p p (by decide)).symm, c.regs _ (s.isCounter_bellReg ..)]
  have rung (w : Word) : (s0.setReg (ctl p 0x28) w).rung p = s.rung p := by rw [State.rung, bellReg, bell, fld, State.rung]
  have frame {r : Nat} (w : Word) (h : r ≠ ctl p 0x28) (n : isCounter 0xFF r = false) :
      (s0.setReg (ctl p 0x28) w).reg r = s.reg r := by rw [State.reg_setReg_ne _ _ h, c.regs _ n]
  unfold ienaOp
  simp only [regWrite_iena hk, State.reg_setReg_self, stays (show 0x18 < 0x28 by decide), hdr (show 0x28 < 0xA0 by decide)]
  split
  next x =>
    rw [newlyEnabled_iff k.stats_le] at x
    refine ⟨?_, fun _ => ?_, fun n => absurd x n, fun r h hb n => ?_, ?_⟩
    · rw [reg_bell, bellReg, if_neg (s.bellReg_ne p p (by decide)), State.reg_setReg_self]
    · rw [reg_bell, bellReg, if_pos rfl, rung]
    · rw [reg_bell, bellReg, if_neg hb, frame _ h n]
    · exact regsRest_trans c.rest rfl
  next x =>
    rw [newlyEnabled_iff k.stats_le] at x
    exact ⟨State.reg_setReg_self .., fun y => absurd y x, fun _ => bell _, fun r h _ n => frame _ h n,
      regsRest_trans c.rest rfl⟩

/-- IENA_WRITE of a page that can be reached. -/
theorem ienaWrite_leads {a : Agent} {page : BitVec 8} {v : Word} {k : Kind} {inst : Nat} {s : State}
    (r : Says.reaches s page.toNat) (hk : pageKind page.toNat = some (k, inst)) (c : page.toNat ≠ pCal) :
    Says.leads (.ienaWrite a page v) s (EnablesSet s · page.toNat k.stats v) := by
  refine ⟨_, (devRow_running r.1 _).trans ?_, ienaOp_sets s.accessed_counts hk (src := agentCode a)⟩
  rw [rowWrite_reaches a v r (by rw [hk]; rfl) c (by decide) (by decide) (.inr (.inl (by rw [ctl_mod (by decide)]; decide))),
    blockWrite_iena (by rw [hk]; rfl) rfl]

/-! ## The CAL page -/

/-- On page 0D0h, which is the CAL page, the three writes wait. -/
theorem calWrites_wait (a : Agent) (v : Word) (code : BitVec 8) (s : State) (r : Says.running s)
    (stop : s.stopped.contains pCal = false) (post : ∀ w ∈ s.posted, w.ca / 4096 ≠ pCal) :
    let waits (c : Instr) (off : Nat) (v : Word) : Prop :=
      Says.takes c s (fun s => { s with posted := s.posted ++ [{ a := a, ca := ctl pCal off, sz := .b8, v := v }] })
    waits (.statSet a 0xD0 v) 0x20 v ∧ waits (.ienaWrite a 0xD0 v) 0x28 v ∧
      waits (.undefinedCommand a 0xD0 code) 0xF0 (BitVec.ofNat 64 code.toNat) := by
  have row {o : Nat} (ho : o < 4096) (v : Word) := rowWrite_cal a v stop post ho
  refine ⟨takes_of_eq ((devRow_running r _).trans ?_), takes_of_eq ((devRow_running r _).trans ?_),
    takes_of_eq ((devRow_running r _).trans ?_)⟩
  · exact congrArg (fun u => Host.Outcome.next (settle u)) (row (by decide) v)
  · exact congrArg (fun u => Host.Outcome.next (settle u)) (row (by decide) v)
  · rw [BitVec.ofNat_toNat]
    exact congrArg (fun u => Host.Outcome.next (settle u)) (row (by decide) (code.setWidth 64))

end Sys2Proof.Machine
end

section
/-! PROOFS. Registers by their access codes and reserved encodings, through stores to core-domain pages (spec/00 R12–R14; spec/13
R417, Maps 13-1, 13-3 and 13-8, Layout 13-6). -/

namespace Sys2Proof.Machine

/-! ## What the fields of EVSEL take -/

/-- The highest bit of QUAL that the page defines (spec/13 Table 13-11). -/
def qualHi (k : Kind) : Nat := if k = .tile ∨ k = .keyt then 10 else 11

theorem qualHi_cases (k : Kind) : qualHi k = 10 ∧ (k = .tile ∨ k = .keyt) ∨ qualHi k = 11 ∧ ¬ (k = .tile ∨ k = .keyt) := by
  unfold qualHi
  split
  next e => exact .inl ⟨rfl, e⟩
  next e => exact .inr ⟨rfl, e⟩

theorem fields_evsel (k : Kind) {o : Nat} (l : 0x80 ≤ o) (g : o < 0xA0) :
    fieldsOf k o = [⟨qualHi k, 8, .rw⟩, ⟨7, 0, .rw⟩] := by
  unfold fieldsOf headerFields
  rw [if_pos (by omega), if_neg (by omega), if_neg (by omega), if_neg (by omega), if_neg (by omega), if_pos ⟨l, g⟩, qualHi]

/-- What EVSEL's fields are judged on. -/
theorem candidate_evsel (k : Kind) (old v : Word) :
    bitsNat (candidate [⟨qualHi k, 8, .rw⟩, ⟨7, 0, .rw⟩] old (BitVec.allOnes 64) v) (qualHi k) 8 = bitsNat v (qualHi k) 8 ∧
      bitsNat (candidate [⟨qualHi k, 8, .rw⟩, ⟨7, 0, .rw⟩] old (BitVec.allOnes 64) v) 7 0 = v.toNat % 256 := by
  have q : 8 ≤ qualHi k ∧ qualHi k < 64 := by rcases qualHi_cases k with ⟨e, _⟩ | ⟨e, _⟩ <;> omega
  obtain ⟨c1, c2⟩ := candidate_fields old v q.1 (show 0 ≤ 7 by decide) q.2 (by decide)
  exact ⟨c1, c2.trans (by rw [bitsNat, Nat.pow_zero, Nat.div_one]; rfl)⟩

theorem accepts_src (s : State) (k : Kind) (p inst : Nat) (v : Word) {o : Nat} (l : 0x80 ≤ o) (g : o < 0xA0) :
    accepts s k inst ⟨ctl p o, BitVec.allOnes 64, v, v⟩ ⟨7, 0, .rw⟩ = srcOk k (v.toNat % 256) := by
  have mod : ctl p o % 4096 = o := ctl_mod (by omega)
  have m : bitsNat (BitVec.allOnes 64) 7 0 ≠ 0 := by decide
  rw [accepts_rw m, mod, fields_evsel k l g]
  unfold fieldOk
  rw [if_pos (by omega), if_neg (by omega), if_neg (by omega),
    if_pos ⟨l, g, rfl⟩, (candidate_evsel k _ v).2]

theorem accepts_qual (s : State) (k : Kind) (p inst : Nat) (v : Word) {o : Nat} (l : 0x80 ≤ o) (g : o < 0xA0) :
    accepts s k inst ⟨ctl p o, BitVec.allOnes 64, v, v⟩ ⟨qualHi k, 8, .rw⟩ = qualOk k (v.toNat / 256 % 16) := by
  have mod : ctl p o % 4096 = o := ctl_mod (by omega)
  have hi : qualHi k ≠ 63 ∧ qualHi k ≠ 7 := by rcases qualHi_cases k with ⟨e, _⟩ | ⟨e, _⟩ <;> omega
  have m : bitsNat (BitVec.allOnes 64) (qualHi k) 8 ≠ 0 := by
    rcases qualHi_cases k with ⟨e, _⟩ | ⟨e, _⟩ <;> rw [e] <;> decide
  rw [accepts_rw m, mod, fields_evsel k l g]
  unfold fieldOk
  rw [if_pos (by omega), if_neg (by omega), if_neg (by omega), if_neg (by omega),
    if_pos ⟨l, g⟩]
  rcases qualHi_cases k with ⟨_, t⟩ | ⟨e, _⟩
  · rcases t with rfl | rfl <;> rfl
  · have c := (candidate_evsel k (s.reg (ctl p o)) v).1
    rw [e] at c ⊢
    rw [c, bitsNat]
    rfl

theorem srcOk_common (k : Kind) {src : Nat} (h : src ≤ 1 ∨ (0x10 ≤ src ∧ src ≤ 0x1F)) : srcOk k src = true := by
  unfold srcOk
  rw [decide_eq_true h, Bool.true_or]

theorem srcOk_reserved (k : Kind) {src : Nat} (h : (2 ≤ src ∧ src < 0x10) ∨ 0x44 ≤ src) : srcOk k src = false := by
  have upTo (n : Nat) (hn : n < 0x44) : decide (0x20 ≤ src ∧ src ≤ n) = false := decide_eq_false (by omega)
  have keyt : decide (0x40 ≤ src ∧ src ≤ 0x43) = false := decide_eq_false (by omega)
  unfold srcOk
  rw [decide_eq_false (by omega), Bool.false_or]
  cases k <;> simp only [upTo _ (by decide : (0x37 : Nat) < 0x44), upTo _ (by decide : (0x28 : Nat) < 0x44),
    upTo _ (by decide : (0x25 : Nat) < 0x44), upTo _ (by decide : (0x22 : Nat) < 0x44), upTo _ (by decide : (0x2C : Nat) < 0x44),
    upTo _ (by decide : (0x26 : Nat) < 0x44), upTo _ (by decide : (0x27 : Nat) < 0x44), upTo _ (by decide : (0x21 : Nat) < 0x44),
    keyt, Bool.false_and, Bool.or_false]

/-! ## Pages of the core domain -/

/-- Page `p` is of the core domain, its block is `inst` of kind `k`, and its clock and the device run. -/
structure CorePage (s : State) (p : Nat) (k : Kind) (inst : Nat) : Prop where
  running : Says.running s
  kind : pageKind p = some (k, inst)
  near : remotePage p = false
  clocked : s.stopped.contains p = false

section
variable {s : State} {p inst : Nat} {k : Kind} (h : CorePage s p k inst) (a : Agent) (v : Word)
include h

theorem CorePage.some : (pageKind p).isSome = true := by rw [h.kind]; rfl

theorem CorePage.not_remote : k.remote = false := by rw [← remote_of_page h.kind, h.near]

/-- A store of 4 or 8 bytes reaches its block. -/
theorem CorePage.exec_write {o : Nat} {sz : Size} (z : 4 ≤ Size.bytes sz) (ho : o < 4096) (al : o % Size.bytes sz = 0)
    (n : NoDevCounter (ctl p o)) :
    exec (.registerWrite a (BitVec.ofNat 20 (ctl p o)) sz v) s =
      .next (settle (blockWrite s.accessed a (wreq (ctl p o) sz v))) := by
  have hp := pageKind_lt h.some
  have e : (BitVec.ofNat 20 (ctl p o)).toNat / Size.bytes sz * Size.bytes sz = ctl p o := by
    rw [BitVec.toNat_ofNat, Nat.mod_eq_of_lt (by unfold ctl; omega)]
    cases sz <;> simp only [Size.bytes, ctl] at al ⊢ <;> omega
  rw [exec_registerWrite h.running, e, ctlStore, ctlCounted_plain n, ctlPut_core a v (by rw [ctl_div ho]; exact h.some)
    (by rw [State.accessed_stopped, ctl_div ho, h.clocked]) (by rw [ctl_div ho, h.near]) z]

/-- A header register whose fields all take what is written. -/
theorem CorePage.becomes {o : Nat} {w : Word} (ho : o < 0x100) (h8 : o % 8 = 0) (n : NoDevCounter (ctl p o))
    (b : o ≠ 0x20 ∧ o ≠ 0x28 ∧ o ≠ 0xF0)
    (ok : ∀ f ∈ fieldsOf k o, accepts s.accessed k inst ⟨ctl p o, BitVec.allOnes 64, v, v⟩ f = true)
    (e : written (fieldsOf k o) (s.reg (ctl p o)) (BitVec.allOnes 64) v = w) :
    Says.takes (.registerWrite a (BitVec.ofNat 20 (ctl p o)) .b8 v) s (fun s => s.setReg (ctl p o) w) := by
  have ho' : o < 4096 := by omega
  refine takes_of_eq ((h.exec_write a v (sz := .b8) (by decide) ho' h8 n).trans ?_)
  rw [wreq_b8 (by unfold ctl; omega), blockWrite_header h.some rfl ho b,
    regWrite_accepted (by rw [ctl_div ho', h.kind]) (by rwa [ctl_mod ho'])]
  simp only [ctl_mod ho', State.reg_accessed s ho' n, e]

/-- A header register one of whose two fields refuses a reserved encoding: the other takes what is written, and the write is
logged (spec/00 R14). -/
theorem CorePage.refused {o h1 l1 h2 l2 : Nat} {w : Word} (ho : o < 0x100) (h8 : o % 8 = 0) (n : NoDevCounter (ctl p o))
    (b : o ≠ 0x20 ∧ o ≠ 0x28 ∧ o ≠ 0xF0) (o1 : l1 ≤ h1) (o2 : l2 ≤ h2)
    (f : fieldsOf k o = [⟨h1, l1, .rw⟩, ⟨h2, l2, .rw⟩])
    (ok : (accepts s.accessed k inst ⟨ctl p o, BitVec.allOnes 64, v, v⟩ ⟨h1, l1, .rw⟩ = false ∧
        accepts s.accessed k inst ⟨ctl p o, BitVec.allOnes 64, v, v⟩ ⟨h2, l2, .rw⟩ = true ∧
        maskPut (s.reg (ctl p o)) v (fieldMask h2 l2) = w) ∨
      (accepts s.accessed k inst ⟨ctl p o, BitVec.allOnes 64, v, v⟩ ⟨h1, l1, .rw⟩ = true ∧
        accepts s.accessed k inst ⟨ctl p o, BitVec.allOnes 64, v, v⟩ ⟨h2, l2, .rw⟩ = false ∧
        maskPut (s.reg (ctl p o)) v (fieldMask h1 l1) = w)) :
    ∃ s0 u, CountsOnly 0xFF s s0 ∧ exec (.registerWrite a (BitVec.ofNat 20 (ctl p o)) .b8 v) s = .next (settle u) ∧
      Says.logged (s0.setReg (ctl p o) w) u p 1 (o / 8) (Says.agent a) v := by
  have ho' : o < 4096 := by omega
  refine ⟨s.accessed, _, s.accessed_counts, h.exec_write a v (sz := .b8) (by decide) ho' h8 n, ?_⟩
  rw [wreq_b8 (by unfold ctl; omega), blockWrite_header h.some rfl ho b, regWrite_eq (by rw [ctl_div ho', h.kind])]
  simp only [ctl_mod ho', ctl_div ho', State.reg_accessed s ho' n, f, List.foldl_cons, List.foldl_nil, List.all_cons,
    List.all_nil]
  obtain ⟨w1, w2⟩ := written_other (s.reg (ctl p o)) v o1 o2
  rcases ok with ⟨k1, k2, e⟩ | ⟨k1, k2, e⟩
  · rw [k1, k2, writeField_refused, writeField_rw _ _ _ _ o2, w2, e, agentCode_eq]
    exact logged_logErr ..
  · rw [k1, k2, writeField_refused, writeField_rw _ _ _ _ o1, w1, e, agentCode_eq]
    exact logged_logErr ..

/-! ## Header registers outside CTRL and EVSEL -/

/-- Registers of RO and RSVD bits alone. -/
theorem CorePage.keeps {o : Nat} (ho : o < 0x100) (h8 : o % 8 = 0) (n : NoDevCounter (ctl p o))
    (b : o ≠ 0x20 ∧ o ≠ 0x28 ∧ o ≠ 0xF0) (f : fieldsOf k o = []) :
    Says.takes (.registerWrite a (BitVec.ofNat 20 (ctl p o)) .b8 v) s (fun t => t.setReg (ctl p o) (s.reg (ctl p o))) :=
  h.becomes a v ho h8 n b (by rw [f]; nofun) (by rw [f, written_nil])

/-- Registers of one W1C field. -/
theorem CorePage.clears {o hi lo : Nat} {m : Word} (ho : o < 0x100) (h8 : o % 8 = 0) (n : NoDevCounter (ctl p o))
    (b : o ≠ 0x20 ∧ o ≠ 0x28 ∧ o ≠ 0xF0) (l : lo ≤ hi) (f : fieldsOf k o = [⟨hi, lo, .w1c⟩])
    (hm : fieldMask hi lo = m) :
    Says.takes (.registerWrite a (BitVec.ofNat 20 (ctl p o)) .b8 v) s
      (fun t => t.setReg (ctl p o) (s.reg (ctl p o) &&& ~~~(v &&& m))) :=
  h.becomes a v ho h8 n b (by rw [f]; intro g hg; rw [List.mem_singleton.mp hg]; exact accepts_w1c ..)
    (by rw [f, written_w1c _ _ _ l, BitVec.and_allOnes, hm])

/-- EVCTL: OVF bits are cleared, enables written (spec/13 Map 13-8). -/
theorem CorePage.evctl (n : p ≠ 0xFF) :
    Says.takes (.registerWrite a (BitVec.ofNat 20 (ctl p 0xC0)) .b8 v) s
      (fun t => t.setReg (ctl p 0xC0) (maskPut (s.reg (ctl p 0xC0)) v 0xF &&& ~~~(v &&& 0xF0))) := by
  have f : fieldsOf k 0xC0 = [⟨7, 4, .w1c⟩, ⟨3, 0, .rw⟩] := rfl
  have mod : ctl p 0xC0 % 4096 = 0xC0 := ctl_mod (by decide)
  refine h.becomes a v (by decide) (by decide) (.inl (by rw [ctl_div (by decide)]; exact n)) (by decide) (fun g _ =>
    accepts_of_fieldOk fun _ _ => by rw [mod]; exact fieldOk_header (by decide) (by decide) (.inr (by decide)) ..) ?_
  rw [f, written_w1c_rw _ _ (by decide) (by decide) (by decide)]
  rfl

/-! ## CTRL -/

theorem CorePage.fields_ctrl : fieldsOf k 0x10 = [⟨63, 57, .rw⟩, ⟨55, 50, .rw⟩] := by
  have := h.not_remote
  revert this
  cases k <;> decide

/-- The field ITGT takes the pages of tiles alone. -/
theorem CorePage.accepts_itgt :
    accepts s.accessed k inst ⟨ctl p 0x10, BitVec.allOnes 64, v, v⟩ ⟨63, 57, .rw⟩ = decide (v.toNat / 2 ^ 57 ≤ 0x63) := by
  have mod : ctl p 0x10 % 4096 = 0x10 := ctl_mod (by decide)
  have m : bitsNat (BitVec.allOnes 64) 63 57 ≠ 0 := by decide
  rw [accepts_rw m, mod, h.fields_ctrl]
  simp only [fieldOk, if_pos (show 0x10 < 0x100 by decide), and_self, if_true,
    (candidate_fields _ v (show 57 ≤ 63 by decide) (show 50 ≤ 55 by decide) (by decide) (by decide)).1]
  rw [bitsNat, Nat.mod_eq_of_lt (by have := v.isLt; omega)]

omit h in
theorem accepts_ibit :
    accepts s.accessed k inst ⟨ctl p 0x10, BitVec.allOnes 64, v, v⟩ ⟨55, 50, .rw⟩ = true :=
  accepts_of_fieldOk fun _ _ => by
    rw [show ctl p 0x10 % 4096 = 0x10 from ctl_mod (by decide)]
    rfl

theorem CorePage.ctrl (ok : v.toNat / 2 ^ 57 ≤ 0x63) :
    Says.takes (.registerWrite a (BitVec.ofNat 20 (ctl p 0x10)) .b8 v) s
      (fun t => t.setReg (ctl p 0x10) (maskPut (s.reg (ctl p 0x10)) v 0xFEFC000000000000)) := by
  refine h.becomes a v (by decide) (by decide) (.inr (.inl (by rw [ctl_mod (by decide)]; decide))) (by decide) ?_ ?_
  · rw [h.fields_ctrl]
    intro g hg
    rcases List.mem_cons.mp hg with rfl | hg
    · rw [h.accepts_itgt, decide_eq_true ok]
    · rw [List.mem_singleton.mp hg, accepts_ibit]
  · rw [h.fields_ctrl, written_rw_rw _ _ (by decide) (by decide)]
    rfl

theorem CorePage.ctrl_refused (bad : 0x63 < v.toNat / 2 ^ 57) :
    ∃ s0 u, CountsOnly 0xFF s s0 ∧ exec (.registerWrite a (BitVec.ofNat 20 (ctl p 0x10)) .b8 v) s = .next (settle u) ∧
      Says.logged (s0.setReg (ctl p 0x10) (maskPut (s.reg (ctl p 0x10)) v 0x00FC000000000000)) u p 1 (0x10 / 8)
        (Says.agent a) v :=
  h.refused a v (by decide) (by decide) (.inr (.inl (by rw [ctl_mod (by decide)]; decide))) (by decide) (by decide) (by decide)
    h.fields_ctrl (.inl ⟨by rw [h.accepts_itgt, decide_eq_false (by omega)], accepts_ibit v, rfl⟩)

/-! ## EVSEL -/

/-- The bits of QUAL that the page defines. -/
theorem CorePage.qualMask : fieldMask (qualHi k) 8 = if p < 0x64 then 0x700 else 0xF00 := by
  rcases qualHi_cases k with ⟨e, t⟩ | ⟨e, t⟩
  · rw [e, if_pos ((pageKind_tile h.kind).mpr t)]; rfl
  · rw [e, if_neg (fun l => t ((pageKind_tile h.kind).mp l))]; rfl

theorem CorePage.qualOk_zero {q : Nat} (z : q = 0 ∨ p < 0x64) : qualOk k q = true := by
  rcases z with rfl | t
  · cases k <;> rfl
  · rcases (pageKind_tile h.kind).mp t with rfl | rfl <;> rfl

theorem CorePage.qualOk_reserved {q : Nat} (l : 0 < q) (g : q < 8) (t : 0x64 ≤ p) : qualOk k q = false := by
  have n : ¬ (k = .tile ∨ k = .keyt) := fun x => by have := (pageKind_tile h.kind).mpr x; omega
  have z : decide (q = 0) = false := decide_eq_false (by omega)
  unfold qualOk
  split
  · exact absurd (.inl rfl) n
  · exact absurd (.inr rfl) n
  · exact decide_eq_false (by omega)
  · exact decide_eq_false (by omega)
  · exact z

theorem CorePage.evsel {o : Nat} (l : 0x80 ≤ o) (g : o < 0xA0) (h8 : o % 8 = 0) (q : v.toNat / 256 % 16 = 0 ∨ p < 0x64)
    (src : v.toNat % 256 ≤ 1 ∨ (0x10 ≤ v.toNat % 256 ∧ v.toNat % 256 ≤ 0x1F)) :
    Says.takes (.registerWrite a (BitVec.ofNat 20 (ctl p o)) .b8 v) s
      (fun t => t.setReg (ctl p o) (maskPut (s.reg (ctl p o)) v ((if p < 0x64 then 0x700 else 0xF00) ||| 0xFF))) := by
  have q8 : 8 ≤ qualHi k := by rcases qualHi_cases k with ⟨e, _⟩ | ⟨e, _⟩ <;> omega
  refine h.becomes a v (by omega) h8 (.inr (.inl (by rw [ctl_mod (by omega)]; exact g))) (by omega) ?_ ?_
  · rw [fields_evsel k l g]
    intro f hf
    rcases List.mem_cons.mp hf with rfl | hf
    · rw [accepts_qual _ _ _ _ _ l g, h.qualOk_zero q]
    · rw [List.mem_singleton.mp hf, accepts_src _ _ _ _ _ l g, srcOk_common _ src]
  · rw [fields_evsel k l g, written_rw_rw _ _ q8 (by decide), h.qualMask]
    rfl

theorem CorePage.evsel_src_refused {o : Nat} (l : 0x80 ≤ o) (g : o < 0xA0) (h8 : o % 8 = 0)
    (q : v.toNat / 256 % 16 = 0 ∨ p < 0x64) (src : (2 ≤ v.toNat % 256 ∧ v.toNat % 256 < 0x10) ∨ 0x44 ≤ v.toNat % 256) :
    ∃ s0 u, CountsOnly 0xFF s s0 ∧ exec (.registerWrite a (BitVec.ofNat 20 (ctl p o)) .b8 v) s = .next (settle u) ∧
      Says.logged (s0.setReg (ctl p o) (maskPut (s.reg (ctl p o)) v (if p < 0x64 then 0x700 else 0xF00))) u p 1 (o / 8)
        (Says.agent a) v := by
  have q8 : 8 ≤ qualHi k := by rcases qualHi_cases k with ⟨e, _⟩ | ⟨e, _⟩ <;> omega
  refine h.refused a v (by omega) h8 (.inr (.inl (by rw [ctl_mod (by omega)]; exact g))) (by omega) q8 (by decide)
    (fields_evsel k l g) (.inr ⟨?_, ?_, ?_⟩)
  · rw [accepts_qual _ _ _ _ _ l g, h.qualOk_zero q]
  · rw [accepts_src _ _ _ _ _ l g, srcOk_reserved _ src]
  · rw [h.qualMask]

theorem CorePage.evsel_qual_refused {o : Nat} (l : 0x80 ≤ o) (g : o < 0xA0) (h8 : o % 8 = 0) (q0 : 0 < v.toNat / 256 % 16)
    (q8 : v.toNat / 256 % 16 < 8) (t : 0x64 ≤ p) (src : v.toNat % 256 ≤ 1) :
    ∃ s0 u, CountsOnly 0xFF s s0 ∧ exec (.registerWrite a (BitVec.ofNat 20 (ctl p o)) .b8 v) s = .next (settle u) ∧
      Says.logged (s0.setReg (ctl p o) (maskPut (s.reg (ctl p o)) v 0xFF)) u p 1 (o / 8) (Says.agent a) v := by
  have b : 8 ≤ qualHi k := by rcases qualHi_cases k with ⟨e, _⟩ | ⟨e, _⟩ <;> omega
  refine h.refused a v (by omega) h8 (.inr (.inl (by rw [ctl_mod (by omega)]; exact g))) (by omega) b (by decide)
    (fields_evsel k l g) (.inl ⟨?_, ?_, rfl⟩)
  · rw [accepts_qual _ _ _ _ _ l g, h.qualOk_reserved q0 q8 t]
  · rw [accepts_src _ _ _ _ _ l g, srcOk_common _ (.inl src)]

/-! ## Stores of 4 bytes -/

/-- A store to the upper half of STAT clears nothing; one to the lower half clears what it names. -/
theorem CorePage.stat_upper :
    Says.takes (.registerWrite a (BitVec.ofNat 20 (ctl p 0x18)) .b4 v) s
      (fun t => t.setReg (ctl p 0x18) (s.reg (ctl p 0x18))) := by
  have mod : ctl p 0x18 % 4096 = 0x18 := ctl_mod (by decide)
  have n : NoDevCounter (ctl p 0x18) := .inr (.inl (by rw [mod]; decide))
  have f : fieldsOf k 0x18 = [⟨15, 0, .w1c⟩] := rfl
  refine takes_of_eq ((h.exec_write a v (by decide) (by decide) (by decide) n).trans ?_)
  rw [wreq_b4_high (by unfold ctl; omega), blockWrite_header h.some rfl (by decide) (by decide),
    regWrite_accepted (by rw [ctl_div (by decide), h.kind]) (by rw [mod, f]; intro g hg; rw [List.mem_singleton.mp hg]; rfl)]
  simp only [mod, f, written_w1c _ _ _ (Nat.zero_le 15), State.reg_accessed s (by decide) n, BitVec.and_assoc,
    show 0xFFFFFFFF00000000#64 &&& fieldMask 15 0 = 0#64 by decide, BitVec.and_zero, BitVec.ofNat_eq_ofNat,
    BitVec.not_zero, BitVec.and_allOnes]

theorem CorePage.stat_lower :
    Says.takes (.registerWrite a (BitVec.ofNat 20 (ctl p 0x1C)) .b4 v) s
      (fun t => t.setReg (ctl p 0x18) (t.reg (ctl p 0x18) &&& ~~~(v &&& 0xFFFF))) := by
  have mod : ctl p 0x18 % 4096 = 0x18 := ctl_mod (by decide)
  have n : NoDevCounter (ctl p 0x1C) := .inr (.inl (by rw [ctl_mod (by decide)]; decide))
  have f : fieldsOf k 0x18 = [⟨15, 0, .w1c⟩] := rfl
  refine takes_of_eq ((h.exec_write a v (by decide) (by decide) (by decide) n).trans ?_)
  rw [show ctl p 0x1C = ctl p 0x18 + 4 by unfold ctl; omega, wreq_b4_low (by unfold ctl; omega),
    blockWrite_header h.some rfl (by decide) (by decide),
    regWrite_accepted (by rw [ctl_div (by decide), h.kind]) (by rw [mod, f]; intro g hg; rw [List.mem_singleton.mp hg]; rfl)]
  simp only [mod, f, written_w1c _ _ _ (Nat.zero_le 15), BitVec.and_assoc,
    show (0xFFFFFFFF : Word) &&& ((0xFFFFFFFF : Word) &&& fieldMask 15 0) = 0xFFFF by decide]

/-- A store to the upper half of CMD issues no command. -/
theorem CorePage.cmd_upper :
    Says.takes (.registerWrite a (BitVec.ofNat 20 (ctl p 0xF0)) .b4 v) s id := by
  have n : NoDevCounter (ctl p 0xF0) := .inr (.inr (by rw [ctl_mod (by decide)]; decide))
  have upper : (0xFFFFFFFF00000000 : Word).getLsbD 0 ≠ true := by decide
  refine takes_of_eq ((h.exec_write a v (by decide) (by decide) (by decide) n).trans ?_)
  rw [wreq_b4_high (by unfold ctl; omega), blockWrite_cmd h.kind rfl, if_neg upper]
  rfl

end

/-- DEV.PLACE is RW1 by a store as well. -/
theorem CorePage.place {s : State} {inst : Nat} {k : Kind} (h : CorePage s 0xFF k inst) (a : Agent) (v : Word) :
    (s.placeSet = true → Says.takes (.registerWrite a (BitVec.ofNat 20 (ctl 0xFF 0x108)) .b8 v) s id) ∧
    (s.placeSet = false → Says.takes (.registerWrite a (BitVec.ofNat 20 (ctl 0xFF 0x108)) .b8 v) s (fun s =>
      (List.finRange 16).foldl autoTrain (s.setReg (ctl 0xFF 0x108) (BitVec.ofNat 64 (2 ^ 15 + v.toNat % 512))))) := by
  have e := h.exec_write a v (o := 0x108) (sz := .b8) (by decide) (by decide) (by decide) (.inr (.inr (by decide)))
  rw [wreq_b8 (by decide), blockWrite_place rfl covers_bit0, BitVec.and_allOnes, placeOp_eq, State.accessed_placeSet] at e
  constructor <;> intro set
  · exact takes_of_eq (by rw [e, if_pos set]; rfl)
  · exact takes_of_eq (by rw [e, if_neg (by rw [set]; decide)])

/-- The registers of the header, and DEV.PLACE, by their access codes. -/
theorem registerFields : Says.RegisterFields := by
  intro a page off v s run some near clocked p o old wr becomes refused put src qual
  obtain ⟨⟨k, inst⟩, kind⟩ := Option.isSome_iff_exists.mp some
  have h : CorePage s p k inst := ⟨run, kind, near, clocked⟩
  have low {o : Nat} (l : o < 0xA0) : NoDevCounter (ctl p o) := .inr (.inl (by rw [ctl_mod (by omega)]; exact l))
  have high {o : Nat} (l : 0xC7 < o) (g : o < 4096) : NoDevCounter (ctl p o) := .inr (.inr (by rw [ctl_mod g]; exact l))
  simp only [becomes, refused, put, old, wr, src, qual]
  clear qual src put refused becomes wr old
  clear_value p o
  refine ⟨?_, fun n hn e => ?_, fun n hn e => ?_, fun e => ?_, ?_, ?_, ?_, fun n hn e q => ⟨fun x => ?_, fun x => ?_⟩,
    fun n hn e q0 q8 t x => ?_, ?_, ?_, ?_, ?_⟩
  · rintro rfl
    exact h.clears a v (by decide) (by decide) (low (by decide)) (by decide) (by decide) rfl (by decide)
  · have f : fieldsOf k o = [⟨63, 63, .w1c⟩] := by
      unfold fieldsOf headerFields
      rw [if_pos (by omega), if_neg (by omega), if_neg (by omega), if_neg (by omega), if_pos (by omega)]
    exact h.clears a v (by omega) (by omega) (low (by omega)) (by omega) (by decide) f (by decide)
  · have f : fieldsOf k o = [] := by
      unfold fieldsOf headerFields
      rw [if_pos (by omega), if_neg (by omega), if_neg (by omega), if_neg (by omega), if_neg (by omega), if_neg (by omega),
        if_neg (by omega), if_neg (by omega)]
    refine h.keeps a v (by omega) (by omega) ?_ (by omega) f
    rcases e with e | e
    · exact low (by omega)
    · exact high (by omega) (by omega)
  · have f : fieldsOf k o = [] := by rcases e with rfl | rfl | rfl | rfl | rfl | rfl <;> rfl
    refine h.keeps a v (by omega) (by omega) ?_ (by omega) f
    rcases e with rfl | rfl | rfl | rfl | rfl | rfl
    · exact low (by decide)
    · exact low (by decide)
    · exact low (by decide)
    · exact low (by decide)
    · exact high (by decide) (by decide)
    · exact high (by decide) (by decide)
  · rintro rfl n
    exact h.evctl a v n
  · rintro rfl ok
    exact h.ctrl a v ok
  · rintro rfl bad
    exact h.ctrl_refused a v bad
  · exact h.evsel a v (by omega) (by omega) (by omega) q x
  · exact h.evsel_src_refused a v (by omega) (by omega) (by omega) q x
  · exact h.evsel_qual_refused a v (by omega) (by omega) (by omega) q0 q8 t x
  · rintro rfl
    exact h.stat_upper a v
  · rintro rfl
    exact h.stat_lower a v
  · rintro rfl
    exact h.cmd_upper a v
  · rintro hp rfl
    rw [hp] at h ⊢
    exact h.place a v

end Sys2Proof.Machine
end

section
/-! PROOFS. Where the statement of control register writes fails: its clause on the CAL page writes to page 0E8h, which is the CLK
page (spec/01 Table 1-3; CAL is 0D0h), and so to a page of the core domain, where nothing waits. The rest of it holds: `controlWrites`,
`registerFields`, `nothingDue`, STAT_SET and IENA of the other pages (`statSet_leads`, `ienaWrite_leads`), and the clause on the CAL
page itself, of page 0D0h (`calWrites_wait`). -/

namespace Sys2Proof.Machine

/-- After reset nothing is due. -/
theorem reset_atRest : AtRest State.reset := by
  have held : ∀ t, (State.reset.tile t).run = .held ∧ (State.reset.tile t).sbuf = [] := by decide +kernel
  have courses : ∀ c, (State.reset.course c).runHi = [] ∧ (State.reset.course c).runLo = [] ∧ cstate State.reset c ≠ 1 := by
    decide +kernel
  have links : ∀ k : LinkId, State.reset.fld (ctl (pMort + k.val) 0xF8) 7 0 ≠ 1 := by decide +kernel
  refine ⟨rfl, rfl, rfl, rfl, rfl, rfl, rfl, rfl, rfl, rfl, rfl, courses, fun t => ?_, fun k e => absurd e (links k)⟩
  obtain ⟨run, sbuf⟩ := held t
  rw [run, sbuf]
  exact ⟨nofun, nofun, nofun, nofun⟩

/-- After reset the device runs (its tiles are held), and no write is posted. -/
theorem reset_running : Says.running State.reset := ⟨rfl, rfl, rfl⟩

/-- STAT_SET of page 0E8h, from the state after reset, posts nothing: the STAT bit of the CLK page is set at once. -/
theorem statSet_clk_takes_effect :
    ∃ u, exec (.statSet .jtag 0xE8 1) State.reset = .next (settle u) ∧ (settle u).posted = [] ∧
      (u.reg (ctl pClk 0x18)).getLsbD 0 = true := by
  obtain ⟨u, e, h⟩ := statSet_leads (a := .jtag) (page := 0xE8) (v := 1) (k := .clk) (inst := 0)
    ⟨reset_running, rfl, nofun⟩ rfl (by decide)
  refine ⟨u, e, ?_, (h.stat 0 (by decide)).trans (by decide +kernel)⟩
  rw [(reset_atRest.of_statsSet h).settle_posted, h.rest]
  rfl

/-- Refutes O44: its clause on the CAL page names page 0E8h, the CLK page, where CAL is page 0D0h. From the state after reset
STAT_SET of page 0E8h with bit 0 takes effect at once, where the clause has it posted to the CAL page. -/
theorem not_controlSpaceWrites : ¬ Obligations.ControlSpaceWrites := by
  unfold Obligations.ControlSpaceWrites
  rintro ⟨-, -, ⟨cal, -⟩, -⟩
  obtain ⟨⟨s0, counts, posts⟩, -, -⟩ := cal .jtag 1 0 State.reset reset_running rfl nofun
  obtain ⟨u, effect, none, -⟩ := statSet_clk_takes_effect
  have waits : AtRest { s0 with posted := s0.posted ++ [{ a := .jtag, ca := ctl pCal 0x20, sz := .b8, v := 1 }] } :=
    (reset_atRest.of_counts counts).of_same rfl fun _ _ => rfl
  rw [effect, Host.Outcome.next.injEq] at posts
  rw [posts, waits.settle_posted] at none
  exact List.append_ne_nil_of_right_ne_nil _ (List.cons_ne_nil _ _) none

end Sys2Proof.Machine
end

section
/-! PROOFS. Accesses that no block answers: of a page index without a block and of a page whose clock has stopped (spec/01 R31,
R43). -/

namespace Sys2Proof.Machine

/-- `u` is `s` with one entry in the error log of the DEV page and its own event counters counted, before the entry or after it. -/
def Noted (s u : State) (kind page src : Nat) (data : Word) : Prop :=
  ∃ s0 u1, CountsOnly 0xFF s s0 ∧ Says.logged s0 u1 0xFF kind page src data ∧ CountsOnly 0xFF u1 u

theorem Noted.rest {s u : State} {kind page src : Nat} {data : Word} (h : Noted s u kind page src data) :
    u = { s with regs := u.regs } := by
  obtain ⟨s0, u1, before, entry, after⟩ := h
  exact regsRest_trans (regsRest_trans before.rest entry.1) after.rest

theorem Noted.counted {s u v : State} {kind page src : Nat} {data : Word} (h : Noted s u kind page src data)
    (c : CountsOnly 0xFF u v) : Noted s v kind page src data := by
  obtain ⟨s0, u1, before, entry, after⟩ := h
  exact ⟨s0, u1, before, entry, after.trans c⟩

/-- An access to a page index without a block is noted with kind 05h. -/
theorem noted_unassigned {s s0 : State} (c : CountsOnly 0xFF s s0) (a : Agent) (ca : Nat) :
    Noted s (unassigned s0 a ca) 5 (ca / 4096) (Says.agent a) (ctlPa ca) := by
  rw [← agentCode_eq]
  exact ⟨s0, _, c, logged_logErr .., CountsOnly.count ..⟩

/-- An access to a page without a running clock is noted with kind 06h. -/
theorem noted_unclocked {s s0 : State} (c : CountsOnly 0xFF s s0) (a : Agent) (ca : Nat) :
    Noted s (unclocked s0 a ca) 6 (ca / 4096) (Says.agent a) (ctlPa ca) := by
  rw [← agentCode_eq]
  exact ⟨s0, _, c, logged_logErr .., CountsOnly.count ..⟩

/-- What is noted is noted wherever the count of the access comes (spec/13 R425, R427). -/
theorem noted_ctlCounted {s : State} {ca kind page src : Nat} {data : Word} {f : State → State}
    (h : ∀ c, CountsOnly 0xFF s c → Noted s (f c) kind page src data) : Noted s (ctlCounted ca f s) kind page src data := by
  unfold ctlCounted
  extract_lets c set r
  split
  · exact (h s (.refl _ _)).counted (CountsOnly.count ..)
  · split
    · exact (h c s.accessed_counts).counted (CountsOnly.setReg _ _ (isCounter_ctl _))
    · exact h c s.accessed_counts

/-! ## Stores and loads -/

theorem ctlPut_unassigned {ca : Nat} (s : State) (a : Agent) (sz : Size) (v : Word) (k : pageKind (ca / 4096) = none) :
    ctlPut a ca sz v s = unassigned s a ca := by
  unfold ctlPut
  exact if_pos (by rw [k]; rfl)

theorem ctlPut_unclocked {s : State} {ca : Nat} (a : Agent) (sz : Size) (v : Word) (k : (pageKind (ca / 4096)).isSome = true)
    (stop : s.stopped.contains (ca / 4096) = true) : ctlPut a ca sz v s = unclocked s a ca := by
  have k' : ¬ (pageKind (ca / 4096)).isNone = true := by simpa [Option.isSome_iff_ne_none] using k
  unfold ctlPut
  exact (if_neg k').trans (if_pos stop)

theorem ctlLoad_unassigned {ca : Nat} (s : State) (a : Agent) (n : Nat) (k : pageKind (ca / 4096) = none) :
    ctlLoad s a ca n = (List.replicate n 0, unassigned s.accessed a ca) := by
  unfold ctlLoad
  exact if_pos (by rw [k]; rfl)

theorem ctlLoad_unclocked {s : State} {ca : Nat} (a : Agent) (n : Nat) (k : (pageKind (ca / 4096)).isSome = true)
    (stop : s.stopped.contains (ca / 4096) = true) :
    ctlLoad s a ca n = (List.replicate n 0xFF, unclocked s.accessed a ca) := by
  have k' : ¬ (pageKind (ca / 4096)).isNone = true := by simpa [Option.isSome_iff_ne_none] using k
  unfold ctlLoad
  exact (if_neg k').trans (if_pos (s.accessed_stopped.symm ▸ stop))

/-- What an access that no block answers leads to: it is noted, a read with its aligned address, and a read answers with `b` in
every byte; nothing else differs. -/
def Unanswered (s u : State) (a : Agent) (ca : Nat) (write : Bool) (sz : Size) (kind : Nat) (b : Byte) : Prop :=
  ∃ at_, (write = false → at_ = ca / Size.bytes sz * Size.bytes sz) ∧
    Noted s { u with reply := s.reply, replyEp := s.replyEp } kind (ca / 4096) (Says.agent a) (ctlPa at_) ∧
    u.reply = if write then s.reply else some (List.replicate (Size.bytes sz) b)

/-- A probe by store and by load, where both are only noted. -/
theorem probe_unanswered {s : State} {a : Agent} {ca : BitVec 20} {sz : Size} {kind : Nat} {b : Byte} (write : Bool)
    (put : ∀ c, CountsOnly 0xFF s c → Noted s (ctlPut a ca.toNat sz 0 c) kind (ca.toNat / 4096) (Says.agent a) (ctlPa ca.toNat))
    (load : ∀ at_, at_ / 4096 = ca.toNat / 4096 → ∃ u, ctlLoad s a at_ (Size.bytes sz) = (List.replicate (Size.bytes sz) b, u) ∧
      Noted s u kind (at_ / 4096) (Says.agent a) (ctlPa at_)) :
    Unanswered s (probe s a ca write sz) a ca.toNat write sz kind b := by
  unfold probe
  cases write with
  | true =>
    have noted : Noted s (ctlStore s a ca.toNat sz 0) kind _ _ _ := noted_ctlCounted put
    have same : { ctlStore s a ca.toNat sz 0 with reply := s.reply, replyEp := s.replyEp } = ctlStore s a ca.toNat sz 0 := by
      rw [noted.rest]
    refine ⟨ca.toNat, nofun, ?_, ?_⟩
    · rw [if_pos rfl, same]
      exact noted
    · rw [if_pos rfl, noted.rest, if_pos rfl]
  | false =>
    obtain ⟨u, e, noted⟩ := load _ (aligned_page ca.toNat sz)
    have same : { u with reply := s.reply, replyEp := s.replyEp } = u := by rw [noted.rest]
    rw [aligned_page] at noted
    refine ⟨_, fun _ => rfl, ?_, ?_⟩
    · rw [if_neg (by decide), e]
      exact same.symm ▸ noted
    · rw [if_neg (by decide), e]
      rfl

theorem unassigned_unanswered (s : State) (a : Agent) (ca : BitVec 20) (write : Bool) (sz : Size)
    (k : pageKind (ca.toNat / 4096) = none) : Unanswered s (probe s a ca write sz) a ca.toNat write sz 5 0 := by
  refine probe_unanswered write (fun c h => ?_) fun at_ e => ⟨_, ctlLoad_unassigned s a _ (by rw [e, k]), ?_⟩
  · rw [ctlPut_unassigned c a sz 0 k]
    exact noted_unassigned h a _
  · exact noted_unassigned s.accessed_counts a at_

theorem unclocked_unanswered (s : State) (a : Agent) (ca : BitVec 20) (write : Bool) (sz : Size)
    (k : (pageKind (ca.toNat / 4096)).isSome = true) (stop : s.stopped.contains (ca.toNat / 4096) = true) :
    Unanswered s (probe s a ca write sz) a ca.toNat write sz 6 0xFF := by
  refine probe_unanswered write (fun c h => ?_) fun at_ e => ⟨_, ctlLoad_unclocked a _ (by rw [e, k]) (by rw [e, stop]), ?_⟩
  · rw [ctlPut_unclocked a sz 0 k (by rw [h.stopped, stop])]
    exact noted_unclocked h a _
  · exact noted_unclocked s.accessed_counts a at_

/-! ## The rows -/

theorem exec_unassignedPageAccess {s : State} (r : Says.running s) (a : Agent) (ca : BitVec 20) (write : Bool) (sz : Size)
    (k : pageKind (ca.toNat / 4096) = none) :
    exec (.unassignedPageAccess a ca write sz) s = .next (settle (probe s a ca write sz)) := by
  refine (devRow_running r _).trans ?_
  rw [if_pos (by rw [k]; rfl)]

theorem exec_unclockedPageAccess {s : State} (r : Says.running s) (a : Agent) (ca : BitVec 20) (write : Bool) (sz : Size)
    (stop : s.stopped.contains (ca.toNat / 4096) = true) :
    exec (.unclockedPageAccess a ca write sz) s = .next (settle (probe s a ca write sz)) := by
  refine (devRow_running r _).trans ?_
  rw [if_pos stop]

end Sys2Proof.Machine
end

section
/-! PROOFS. Posted writes that take effect, and snapshots of event counters: copies, captures, holds (spec/01 R27, R32, R33; spec/13
R428, R429). -/

namespace Sys2Proof.Machine

/-! ## The oldest posted write of a page (spec/01 R27, R28, R32) -/

theorem postedEffect_cal (s : State) : postedEffect s pCal = s := by rw [postedEffect, if_pos rfl]

theorem postedEffect_oldest {s : State} {p : Nat} {w : Posted} (c : p ≠ pCal)
    (e : s.posted.find? (fun w => decide (w.ca / 4096 = p)) = some w) (stop : s.stopped.contains p = false) :
    postedEffect s p = blockWrite { s with posted := s.posted.erase w } w.a (wreq w.ca w.sz w.v) := by
  simp only [postedEffect, if_neg c, e, stop, Bool.false_eq_true, if_false]

/-! ## Copies of counters -/

theorem RegsOnly.snapPage (s : State) (p : Nat) : RegsOnly s (snapPage s p) :=
  RegsOnly.foldl _ (fun _ _ => RegsOnly.setReg ..) _ _

/-- Four copies, one after the other: no SNAP register is a counter. -/
theorem reg_snapPage (s : State) (p : Nat) :
    (∀ n, n < 4 → (snapPage s p).reg (ctl p (0xC8 + 8 * n)) = s.reg (ctl p (0xA0 + 8 * n))) ∧
      ∀ r, (∀ n, n < 4 → r ≠ ctl p (0xC8 + 8 * n)) → (snapPage s p).reg r = s.reg r := by
  suffices copies : ∀ k, k ≤ 4 → ∀ u, u = (List.range k).foldl
      (fun s n => s.setReg (ctl p (0xC8 + 8 * n)) (s.reg (ctl p (0xA0 + 8 * n)))) s →
      (∀ n, n < k → u.reg (ctl p (0xC8 + 8 * n)) = s.reg (ctl p (0xA0 + 8 * n))) ∧
        ∀ r, (∀ n, n < k → r ≠ ctl p (0xC8 + 8 * n)) → u.reg r = s.reg r from copies 4 (le_refl 4) _ rfl
  intro k
  induction k with
  | zero => exact fun _ u e => ⟨nofun, fun r _ => by rw [e]; rfl⟩
  | succ k ih =>
    intro hk u e
    obtain ⟨copied, kept⟩ := ih (by omega) _ rfl
    rw [List.range_succ, List.foldl_append, List.foldl_cons, List.foldl_nil] at e
    rw [e]
    refine ⟨fun n hn => ?_, fun r hr => ?_⟩
    · by_cases h : n = k
      · rw [h, State.reg_setReg_self]
        exact kept _ fun m hm => by unfold ctl; omega
      · rw [State.reg_setReg_ne _ _ (by unfold ctl; omega), copied n (by omega)]
    · rw [State.reg_setReg_ne _ _ (hr k (by omega)), kept r fun m hm => hr m (by omega)]

theorem snapPage_copies (s : State) (p : Nat) {n : Nat} (h : n < 4) :
    (snapPage s p).reg (ctl p (0xC8 + 8 * n)) = s.reg (ctl p (0xA0 + 8 * n)) := (reg_snapPage s p).1 n h

theorem snapPage_keeps (s : State) (p : Nat) {r : Nat} (h : ∀ n, n < 4 → r ≠ ctl p (0xC8 + 8 * n)) :
    (snapPage s p).reg r = s.reg r := (reg_snapPage s p).2 r h

/-- A register outside the SNAP registers of its page. -/
theorem ctl_ne_snap {p q o : Nat} (ho : o < 4096) (h : o < 0xC8 ∨ 0xE0 < o) : ∀ n, n < 4 → ctl p o ≠ ctl q (0xC8 + 8 * n) := by
  intro n hn
  rw [Ne, ctl_inj ho (by omega)]
  omega

theorem snapPages_keeps (l : List Nat) (s : State) {r : Nat} (h : ∀ q ∈ l, ∀ n, n < 4 → r ≠ ctl q (0xC8 + 8 * n)) :
    (l.foldl snapPage s).reg r = s.reg r := by
  induction l generalizing s with
  | nil => rfl
  | cons q l ih =>
    rw [List.foldl_cons, ih _ fun p hp => h p (List.mem_cons_of_mem _ hp), snapPage_keeps _ _ (h q List.mem_cons_self)]

/-- Every page of a list copies its own counters, in whichever order. -/
theorem snapPages_copies (l : List Nat) (s : State) {p n : Nat} (hp : p ∈ l) (hn : n < 4) :
    (l.foldl snapPage s).reg (ctl p (0xC8 + 8 * n)) = s.reg (ctl p (0xA0 + 8 * n)) := by
  induction l generalizing s with
  | nil => cases hp
  | cons q l ih =>
    rw [List.foldl_cons]
    by_cases later : p ∈ l
    · rw [ih _ later, snapPage_keeps _ _ (ctl_ne_snap (by omega) (by omega))]
    · obtain rfl : p = q := (List.mem_cons.mp hp).resolve_right later
      rw [snapPages_keeps l _ fun q hq m _ e => later (by
        have := ((ctl_inj (by omega) (by omega)).mp e).1
        rwa [this]), snapPage_copies _ _ hn]

theorem mem_pagesWhere_near {p : Nat} :
    p ∈ pagesWhere false ↔ p < 256 ∧ (pageKind p).isSome = true ∧ remotePage p = false := by
  simp [pagesWhere]

/-- A page of a remote domain has a block. -/
theorem mem_pagesWhere_far {p : Nat} : p ∈ pagesWhere true ↔ p < 256 ∧ remotePage p = true := by
  have block (h : remotePage p = true) : (pageKind p).isSome = true := by
    unfold remotePage at h
    split at h
    next e => rw [e]; rfl
    next => cases h
  simp only [pagesWhere, List.mem_filter, List.mem_range, Bool.and_eq_true, beq_iff_eq]
  exact ⟨fun ⟨l, _, h⟩ => ⟨l, h⟩, fun ⟨l, h⟩ => ⟨l, block h, h⟩⟩

/-! ## Captures of remote pages (spec/01 R33) -/

theorem captureOp_idle {s : State} {p : Nat} (h : p ∉ s.capturing) : captureOp s p = s := by
  unfold captureOp
  exact if_neg (by simp [h])

/-- The last capture ends the snapshot. -/
def endSnapshot (s : State) : State := if s.capturing.isEmpty then s.setFld (ctl 0xFF 0x148) 63 63 0 else s

theorem RegsOnly.endSnapshot (s : State) : RegsOnly s (endSnapshot s) := by
  unfold Machine.endSnapshot
  split
  · exact RegsOnly.setFld ..
  · exact RegsOnly.refl s

theorem capturing_endSnapshot (s : State) : (endSnapshot s).capturing = s.capturing := by rw [(RegsOnly.endSnapshot s).1]

theorem reg_endSnapshot (s : State) {r : Nat} (h : r ≠ ctl 0xFF 0x148) : (endSnapshot s).reg r = s.reg r := by
  unfold endSnapshot
  split
  · exact State.reg_setFld_ne _ _ _ _ h
  · rfl

theorem endSnapshot_done {s : State} (h : s.capturing = []) : ((endSnapshot s).reg (ctl 0xFF 0x148)).getLsbD 63 = false := by
  rw [endSnapshot, if_pos (by rw [h]; rfl), State.setFld, State.reg_setReg_self, getLsbD_setBits _ _ _ _ (by decide),
    if_pos (by decide), Nat.zero_testBit]

/-- A page with its capture done waits neither for the snapshot nor to begin a hold. -/
def State.doneWith (s : State) (p : Nat) : State :=
  { s with capturing := s.capturing.filter (fun q => q ≠ p), holdWait := s.holdWait.filter (fun q => q ≠ p) }

@[simp] theorem State.reg_doneWith (s : State) (p r : Nat) : (s.doneWith p).reg r = s.reg r := rfl
@[simp] theorem State.capturing_doneWith (s : State) (p : Nat) : (s.doneWith p).capturing = s.capturing.filter (fun q => q ≠ p) := rfl

theorem captureOp_pending {s : State} {p : Nat} (h : p ∈ s.capturing) (stop : p ∉ s.stopped) :
    captureOp s p = endSnapshot ((snapPage s p).doneWith p) := by
  unfold captureOp
  rw [if_pos (by simp [h, stop])]
  rfl

/-- A page that has captured is done with the snapshot, and the last one ends it. -/
theorem captureOp_captures {s : State} {p : Nat} (h : p ∈ s.capturing) (stop : p ∉ s.stopped) :
    (∀ n, n < 4 → (captureOp s p).reg (ctl p (0xC8 + 8 * n)) = s.reg (ctl p (0xA0 + 8 * n))) ∧
      (captureOp s p).capturing = s.capturing.filter (fun q => q ≠ p) ∧
      ((captureOp s p).capturing = [] → ((captureOp s p).reg (ctl 0xFF 0x148)).getLsbD 63 = false) ∧
      (captureOp s p).tiles = s.tiles ∧ (captureOp s p).mem = s.mem := by
  rw [captureOp_pending h stop]
  have copied := RegsOnly.snapPage s p
  have ended := RegsOnly.endSnapshot ((snapPage s p).doneWith p)
  rw [capturing_endSnapshot]
  refine ⟨fun n hn => ?_, ?_, endSnapshot_done, ended.tiles.trans copied.tiles, ended.mem.trans copied.mem⟩
  · rw [reg_endSnapshot _ (ctl_ne_snap (by decide) (by decide) n hn).symm, State.reg_doneWith, snapPage_copies s p hn]
  · rw [State.capturing_doneWith, copied.1]

/-! ## EVSNAP (spec/13 R428, R429) -/

/-- A snapshot begins: SEQ and SNAPTB step, and BUSY stands until the remote pages have captured. -/
def beginSnapshot (s : State) : State :=
  let s := s.setFld (ctl 0xFF 0x148) 47 0 (s.fld (ctl 0xFF 0x148) 47 0 + 1)
  (s.setReg (ctl 0xFF 0x150) s.clk.tb).setFld (ctl 0xFF 0x148) 63 63 1

/-- The pages of a list are left to capture. -/
def State.leftTo (s : State) (l : List Nat) : State := { s with capturing := l }

@[simp] theorem State.reg_leftTo (s : State) (l : List Nat) (r : Nat) : (s.leftTo l).reg r = s.reg r := rfl
@[simp] theorem State.capturing_leftTo (s : State) (l : List Nat) : (s.leftTo l).capturing = l := rfl
@[simp] theorem State.tiles_leftTo (s : State) (l : List Nat) : (s.leftTo l).tiles = s.tiles := rfl
@[simp] theorem State.mem_leftTo (s : State) (l : List Nat) : (s.leftTo l).mem = s.mem := rfl

/-- What EVSNAP with SNAP does where no snapshot is under way. -/
def snapAll (s : State) : State := (beginSnapshot ((pagesWhere false).foldl snapPage s)).leftTo (pagesWhere true)

/-- What HOLD and RELEASE do. -/
def holdOp (s : State) (src : Nat) (v raw : Word) : State :=
  if v.getLsbD 1 && v.getLsbD 2 then s.logErr 0xFF 1 0x28 src raw
  else if v.getLsbD 1 then
    { s.setFld (ctl 0xFF 0x148) 62 62 1 with
      holdWait := if (s.reg (ctl 0xFF 0x148)).getLsbD 62 then s.holdWait else s.capturing }
  else if v.getLsbD 2 then { s.setFld (ctl 0xFF 0x148) 62 62 0 with holdWait := [] }
  else s

/-- EVSNAP is SNAP, then HOLD and RELEASE. -/
theorem evsnapOp_eq (s : State) (src : Nat) (v raw : Word) :
    evsnapOp s src v raw =
      if v.getLsbD 0 && (s.reg (ctl 0xFF 0x148)).getLsbD 63 then s.logErr 0xFF 8 0 src raw
      else holdOp (if v.getLsbD 0 then snapAll s else s) src v raw := rfl

theorem evsnapOp_busy {s : State} {v : Word} (src : Nat) (raw : Word) (v0 : v.getLsbD 0 = true)
    (busy : (s.reg (ctl 0xFF 0x148)).getLsbD 63 = true) : evsnapOp s src v raw = s.logErr 0xFF 8 0 src raw := by
  rw [evsnapOp_eq, v0, busy, Bool.and_self, if_pos rfl]

theorem evsnapOp_snap {s : State} {v : Word} (src : Nat) (raw : Word) (v0 : v.getLsbD 0 = true) (v1 : v.getLsbD 1 = false)
    (v2 : v.getLsbD 2 = false) (idle : (s.reg (ctl 0xFF 0x148)).getLsbD 63 = false) : evsnapOp s src v raw = snapAll s := by
  simp only [evsnapOp_eq, holdOp, v0, v1, v2, idle, Bool.and_false, Bool.false_eq_true, if_true, if_false]

/-- Without SNAP no counter is copied. -/
theorem evsnapOp_noSnap (s : State) {v : Word} (src : Nat) (raw : Word) (v0 : v.getLsbD 0 = false) :
    evsnapOp s src v raw = holdOp s src v raw := by
  simp only [evsnapOp_eq, v0, Bool.false_and, Bool.false_eq_true, if_false]

theorem holdOp_both (s : State) {v : Word} (src : Nat) (raw : Word) (v1 : v.getLsbD 1 = true) (v2 : v.getLsbD 2 = true) :
    holdOp s src v raw = s.logErr 0xFF 1 0x28 src raw := by
  rw [holdOp, v1, v2, Bool.and_self, if_pos rfl]

theorem State.setFld_bit62_one (s : State) (r : Nat) : s.setFld r 62 62 1 = s.setReg r (s.reg r ||| BitVec.ofNat 64 (2 ^ 62)) := by
  rw [← setBit_true]
  rfl

theorem State.setFld_bit62_zero (s : State) (r : Nat) :
    s.setFld r 62 62 0 = s.setReg r (s.reg r &&& ~~~BitVec.ofNat 64 (2 ^ 62)) := by
  have put : BitVec.ofNat 64 (0 % 2 ^ (62 + 1 - 62) * 2 ^ 62) = 0#64 := by decide
  have mask : BitVec.ofNat 64 ((2 ^ (62 + 1 - 62) - 1) * 2 ^ 62) = BitVec.ofNat 64 (2 ^ 62) := by decide
  rw [State.setFld, setBits, put, mask, BitVec.or_zero]

/-- HOLD sets HELD; the pages that have still to capture go on until they have, unless a hold stands already. -/
theorem holdOp_hold (s : State) {v : Word} (src : Nat) (raw : Word) (v1 : v.getLsbD 1 = true) (v2 : v.getLsbD 2 = false) :
    holdOp s src v raw = { s.setReg (ctl 0xFF 0x148) (s.reg (ctl 0xFF 0x148) ||| BitVec.ofNat 64 (2 ^ 62)) with
      holdWait := if (s.reg (ctl 0xFF 0x148)).getLsbD 62 then s.holdWait else s.capturing } := by
  rw [holdOp, v1, v2, if_neg (by decide), if_pos rfl, State.setFld_bit62_one]

/-- RELEASE clears HELD. -/
theorem holdOp_release (s : State) {v : Word} (src : Nat) (raw : Word) (v1 : v.getLsbD 1 = false) (v2 : v.getLsbD 2 = true) :
    holdOp s src v raw = { s.setReg (ctl 0xFF 0x148) (s.reg (ctl 0xFF 0x148) &&& ~~~BitVec.ofNat 64 (2 ^ 62)) with
      holdWait := [] } := by
  rw [holdOp, v1, v2, if_neg (by decide), if_neg (by decide), if_pos rfl, State.setFld_bit62_zero]

/-! ## What a snapshot leaves -/

section
variable (s : State)

theorem RegsOnly.beginSnapshot : RegsOnly s (beginSnapshot s) :=
  ((RegsOnly.setFld ..).trans (RegsOnly.setReg ..)).trans (RegsOnly.setFld ..)

theorem RegsOnly.snapPages (l : List Nat) : RegsOnly s (l.foldl Machine.snapPage s) :=
  RegsOnly.foldl _ RegsOnly.snapPage _ _

theorem reg_beginSnapshot {r : Nat} (h : r ≠ ctl 0xFF 0x148) (k : r ≠ ctl 0xFF 0x150) : (beginSnapshot s).reg r = s.reg r := by
  rw [beginSnapshot, State.reg_setFld_ne _ _ _ _ h, State.reg_setReg_ne _ _ k, State.reg_setFld_ne _ _ _ _ h]

theorem beginSnapshot_seq :
    (beginSnapshot s).fld (ctl 0xFF 0x148) 47 0 = (s.fld (ctl 0xFF 0x148) 47 0 + 1) % 2 ^ 48 := by
  rw [beginSnapshot, State.fld_setFld_apart _ _ _ (by decide) (by decide) (by decide), State.fld,
    State.reg_setReg_ne _ _ (by decide), ← State.fld, State.fld_setFld_self _ _ _ (by decide)]

theorem beginSnapshot_busy : ((beginSnapshot s).reg (ctl 0xFF 0x148)).getLsbD 63 = true := by
  rw [beginSnapshot, State.setFld, State.reg_setReg_self, getLsbD_setBits _ _ _ _ (by decide), if_pos (by decide)]
  decide

theorem beginSnapshot_time : (beginSnapshot s).reg (ctl 0xFF 0x150) = s.clk.tb := by
  rw [beginSnapshot, State.reg_setFld_ne _ _ _ _ (by decide), State.reg_setReg_self]
  rfl

theorem reg_snapAll (r : Nat) : (snapAll s).reg r = (beginSnapshot ((pagesWhere false).foldl snapPage s)).reg r :=
  State.reg_leftTo ..

theorem snapAll_copies {p n : Nat} (hp : p < 256) (k : (pageKind p).isSome = true) (near : remotePage p = false) (hn : n < 4) :
    (snapAll s).reg (ctl p (0xC8 + 8 * n)) = s.reg (ctl p (0xA0 + 8 * n)) := by
  rw [reg_snapAll, reg_beginSnapshot _ (ctl_ne_snap (by decide) (by decide) n hn).symm
    (ctl_ne_snap (by decide) (by decide) n hn).symm, snapPages_copies _ _ (mem_pagesWhere_near.mpr ⟨hp, k, near⟩) hn]

theorem snapAll_seq : (snapAll s).fld (ctl 0xFF 0x148) 47 0 = (s.fld (ctl 0xFF 0x148) 47 0 + 1) % 2 ^ 48 := by
  have kept : ((pagesWhere false).foldl snapPage s).fld (ctl 0xFF 0x148) 47 0 = s.fld (ctl 0xFF 0x148) 47 0 := by
    rw [State.fld, snapPages_keeps _ _ fun q _ => ctl_ne_snap (by decide) (by decide), State.fld]
  rw [State.fld, reg_snapAll, ← State.fld, beginSnapshot_seq, kept]

theorem snapAll_busy : ((snapAll s).reg (ctl 0xFF 0x148)).getLsbD 63 = true := by rw [reg_snapAll, beginSnapshot_busy]

theorem snapAll_time : (snapAll s).reg (ctl 0xFF 0x150) = s.clk.tb := by
  rw [reg_snapAll, beginSnapshot_time, (RegsOnly.snapPages s _).1]

theorem snapAll_capturing {p : Nat} : p ∈ (snapAll s).capturing ↔ p < 256 ∧ remotePage p = true := by
  rw [snapAll, State.capturing_leftTo, mem_pagesWhere_far]

theorem snapAll_frame : (snapAll s).tiles = s.tiles ∧ (snapAll s).mem = s.mem := by
  have h := (RegsOnly.snapPages s (pagesWhere false)).trans (RegsOnly.beginSnapshot _)
  rw [snapAll, State.tiles_leftTo, State.mem_leftTo]
  exact ⟨h.tiles, h.mem⟩

end

/-! ## The rows of the DEV page -/

theorem getLsbD_or_set (v : Word) {m : Word} {i : Nat} (h : m.getLsbD i = true) : (v ||| m).getLsbD i = true := by
  rw [BitVec.getLsbD_or, h, Bool.or_true]

theorem getLsbD_or_clear {v : Word} (m : Word) {i : Nat} {b : Bool} (h : v.getLsbD i = b) (k : m.getLsbD i = false) :
    (v ||| m).getLsbD i = b := by
  rw [BitVec.getLsbD_or, h, k, Bool.or_false]

theorem blockWrite_evsnap {s : State} {a : Agent} {w : WReq} (e : w.ca8 = ctl 0xFF 0x140) (m : w.mask.getLsbD 0 = true) :
    blockWrite s a w = evsnapOp s (agentCode a) (w.val &&& w.mask) w.raw := by
  unfold blockWrite devWrite
  simp only [e, ctl_div (show 0x140 < 4096 by decide), ctl_mod (show 0x140 < 4096 by decide), m,
    show pageKind 0xFF = some (.dev, 0) from rfl, Nat.reduceEqDiff, Nat.reduceLT, if_true, if_false]

theorem blockWrite_pop {s : State} {a : Agent} {w : WReq} (e : w.ca8 = ctl 0xFF 0x158) (m : (w.val &&& w.mask).getLsbD 0 = true) :
    blockWrite s a w = popOp s := by
  unfold blockWrite devWrite
  simp only [e, ctl_div (show 0x158 < 4096 by decide), ctl_mod (show 0x158 < 4096 by decide), m,
    show pageKind 0xFF = some (.dev, 0) from rfl, Nat.reduceEqDiff, Nat.reduceLT, if_true, if_false]

/-- A write of a register of the DEV page behind its header. -/
theorem rowWrite_dev {s : State} (a : Agent) (v : Word) (r : Says.reaches s 0xFF) {o : Nat} (ho : o < 4096) (h8 : o % 8 = 0)
    (h : 0xC7 < o) : rowWrite s a (ctl pDev o) v = blockWrite s.accessed a ⟨ctl 0xFF o, BitVec.allOnes 64, v, v⟩ :=
  rowWrite_reaches a v r rfl (by decide) ho h8 (.inr (.inr (by rwa [ctl_mod ho])))

theorem rowWrite_evsnap {s : State} (a : Agent) (v : Word) (r : Says.reaches s 0xFF) :
    rowWrite s a (ctl pDev 0x140) v = evsnapOp s.accessed (agentCode a) v v := by
  rw [rowWrite_dev a v r (by decide) (by decide) (by decide), blockWrite_evsnap rfl covers_bit0, BitVec.and_allOnes]

/-- The rows of EVSNAP write the bit of their name. -/
theorem exec_evsnapSnap {s : State} (a : Agent) (v : Word) (r : Says.reaches s 0xFF) :
    exec (.evsnapSnap a v) s = .next (settle (evsnapOp s.accessed (agentCode a) (v ||| 1) (v ||| 1))) :=
  (devRow_running r.1 _).trans (by rw [rowWrite_evsnap a _ r])

theorem exec_evsnapHold {s : State} (a : Agent) (v : Word) (r : Says.reaches s 0xFF) :
    exec (.evsnapHold a v) s = .next (settle (evsnapOp s.accessed (agentCode a) (v ||| 2) (v ||| 2))) :=
  (devRow_running r.1 _).trans (by rw [rowWrite_evsnap a _ r])

theorem exec_evsnapRelease {s : State} (a : Agent) (v : Word) (r : Says.reaches s 0xFF) :
    exec (.evsnapRelease a v) s = .next (settle (evsnapOp s.accessed (agentCode a) (v ||| 4) (v ||| 4))) :=
  (devRow_running r.1 _).trans (by rw [rowWrite_evsnap a _ r])

theorem mcQueuePop_takes (a : Agent) (v : Word) (s : State) (r : Says.reaches s 0xFF) :
    Says.takes (.mcQueuePop a v) s (fun s => { s with mcq := s.mcq.tail }) := by
  refine takes_of_eq ((devRow_running r.1 _).trans ?_)
  rw [rowWrite_dev a _ r (by decide) (by decide) (by decide),
    blockWrite_pop rfl (by rw [BitVec.and_allOnes]; exact getLsbD_or_set _ (by decide)), popOp, List.drop_one]

end Sys2Proof.Machine
end

section
/-! PROOFS. Pages and snapshots, row by row (spec/01 R27–R33, R43; spec/13 R428, R429, R433): what each row leads to, from the lemmas on
accesses that no block answers, on posted writes and on EVSNAP. -/

namespace Sys2Proof.Machine

/-- What no block answers, in the words of the statement. -/
theorem unanswered_leads {c : Instr} {s u : State} {a : Agent} {ca : Nat} {write : Bool} {sz : Size} {kind n : Nat} {b : Byte}
    (e : exec c s = .next (settle u)) (hn : n = Size.bytes sz) (h : Unanswered s u a ca write sz kind b) :
    ∃ at_, (write = false → at_ = ca / n * n) ∧ ∃ s0 u1 u, CountsOnly 0xFF s s0 ∧
      Says.logged s0 u1 0xFF kind (ca / 4096) (Says.agent a) (ctlPa at_) ∧
      CountsOnly 0xFF u1 { u with reply := u1.reply, replyEp := u1.replyEp } ∧
      exec c s = .next (settle u) ∧ u.reply = (if write then s.reply else some (List.replicate n b)) := by
  obtain ⟨at_, aligned, ⟨s0, u1, before, entry, after⟩, reply⟩ := h
  have rest : u1 = { s with regs := u1.regs } := regsRest_trans before.rest entry.1
  refine ⟨at_, hn ▸ aligned, s0, u1, u, before, entry, ?_, e, hn ▸ reply⟩
  rwa [show u1.reply = s.reply by rw [rest], show u1.replyEp = s.replyEp by rw [rest]]

/-- Posted writes and captures of a page. -/
theorem remote_rows (page : BitVec 8) (s : State) (r : Says.running s) :
    (∀ w, s.posted.find? (fun w => decide (w.ca / 4096 = page.toNat)) = some w → s.stopped.contains page.toNat = false →
      page.toNat ≠ pCal → exec (.remoteWriteTakesEffect page) s =
        .next (settle (blockWrite { s with posted := s.posted.erase w } w.a (wreq w.ca w.sz w.v)))) ∧
    (page.toNat = pCal → exec (.remoteWriteTakesEffect page) s = .next (settle s)) ∧
    (page.toNat ∈ s.capturing → page.toNat ∉ s.stopped →
      Says.leads (.remoteSnapshotCapture page) s (fun u =>
        (∀ n, n < 4 → u.reg (ctl page.toNat (0xC8 + 8 * n)) = s.reg (ctl page.toNat (0xA0 + 8 * n))) ∧
        u.capturing = s.capturing.filter (fun q => q ≠ page.toNat) ∧
        (u.capturing = [] → (u.reg (ctl 0xFF 0x148)).getLsbD 63 = false) ∧ u.tiles = s.tiles ∧ u.mem = s.mem)) ∧
    (page.toNat ∉ s.capturing → exec (.remoteSnapshotCapture page) s = .next (settle s)) := by
  have effect : exec (.remoteWriteTakesEffect page) s = .next (settle (postedEffect s page.toNat)) := devRow_running r _
  have capture : exec (.remoteSnapshotCapture page) s = .next (settle (captureOp s page.toNat)) := devRow_running r _
  refine ⟨fun w oldest stop c => ?_, fun c => ?_, fun h stop => ⟨_, capture, captureOp_captures h stop⟩, fun h => ?_⟩
  · rw [effect, postedEffect_oldest c oldest stop]
  · rw [effect, c, postedEffect_cal]
  · rw [capture, captureOp_idle h]

/-- The status of EVSNAP is no counter. -/
theorem reg_accessed_evstat (s : State) : s.accessed.reg (ctl 0xFF 0x148) = s.reg (ctl 0xFF 0x148) :=
  State.reg_accessed _ (by decide) (.inr (.inr (by decide)))

section
variable (a : Agent) (v : Word) (s : State) (r : Says.reaches s 0xFF)
include r

/-- EVSNAP with SNAP where no snapshot is under way (spec/13 R428). -/
theorem evsnapSnap_snaps (v1 : v.getLsbD 1 = false) (v2 : v.getLsbD 2 = false)
    (idle : (s.reg (ctl 0xFF 0x148)).getLsbD 63 = false) :
    ∃ s0 u, CountsOnly 0xFF s s0 ∧ exec (.evsnapSnap a v) s = .next (settle u) ∧
      (∀ p n, p < 256 → (pageKind p).isSome = true → remotePage p = false → n < 4 →
        u.reg (ctl p (0xC8 + 8 * n)) = s0.reg (ctl p (0xA0 + 8 * n))) ∧
      u.fld (ctl 0xFF 0x148) 47 0 = (s.fld (ctl 0xFF 0x148) 47 0 + 1) % 2 ^ 48 ∧
      (u.reg (ctl 0xFF 0x148)).getLsbD 63 = true ∧ u.reg (ctl 0xFF 0x150) = s.clk.tb ∧
      (∀ p, p ∈ u.capturing ↔ p < 256 ∧ remotePage p = true) ∧ u.tiles = s.tiles ∧ u.mem = s.mem := by
  have e : exec (.evsnapSnap a v) s = .next (settle (snapAll s.accessed)) := by
    rw [exec_evsnapSnap a v r, evsnapOp_snap _ _ (getLsbD_or_set _ (by decide)) (getLsbD_or_clear _ v1 (by decide))
      (getLsbD_or_clear _ v2 (by decide)) (by rw [reg_accessed_evstat, idle])]
  obtain ⟨tiles, mem⟩ := snapAll_frame s.accessed
  refine ⟨s.accessed, _, s.accessed_counts, e, fun p n hp k near hn => snapAll_copies _ hp k near hn, ?_, snapAll_busy _, ?_,
    fun p => snapAll_capturing _, tiles.trans s.accessed_counts.tiles, mem.trans ?_⟩
  · rw [snapAll_seq, State.fld, reg_accessed_evstat, State.fld]
  · rw [snapAll_time, s.accessed_counts.rest]
  · rw [s.accessed_counts.rest]

/-- SNAP while a snapshot is under way (spec/13 R429). -/
theorem evsnapSnap_logs (busy : (s.reg (ctl 0xFF 0x148)).getLsbD 63 = true) :
    ∃ s0 u d, CountsOnly 0xFF s s0 ∧ exec (.evsnapSnap a v) s = .next (settle u) ∧
      Says.logged s0 u 0xFF 8 0 (Says.agent a) d := by
  refine ⟨s.accessed, _, v ||| 1, s.accessed_counts, exec_evsnapSnap a v r, ?_⟩
  rw [evsnapOp_busy _ _ (getLsbD_or_set _ (by decide)) (by rw [reg_accessed_evstat, busy]), agentCode_eq]
  exact logged_logErr ..

theorem evsnapHold_takes (v0 : v.getLsbD 0 = false) (v2 : v.getLsbD 2 = false) :
    Says.takes (.evsnapHold a v) s (fun s =>
      { s.setReg (ctl 0xFF 0x148) (s.reg (ctl 0xFF 0x148) ||| BitVec.ofNat 64 (2 ^ 62)) with
        holdWait := if (s.reg (ctl 0xFF 0x148)).getLsbD 62 then s.holdWait else s.capturing }) := by
  refine takes_of_eq ((exec_evsnapHold a v r).trans ?_)
  rw [evsnapOp_noSnap _ _ _ (getLsbD_or_clear _ v0 (by decide)),
    holdOp_hold _ _ _ (getLsbD_or_set _ (by decide)) (getLsbD_or_clear _ v2 (by decide))]

/-- HOLD and RELEASE at once (spec/00 R14, spec/13 R429). -/
theorem evsnapHold_logs (v0 : v.getLsbD 0 = false) (v2 : v.getLsbD 2 = true) :
    ∃ s0 u d, CountsOnly 0xFF s s0 ∧ exec (.evsnapHold a v) s = .next (settle u) ∧
      Says.logged s0 u 0xFF 1 0x28 (Says.agent a) d := by
  refine ⟨s.accessed, _, v ||| 2, s.accessed_counts, exec_evsnapHold a v r, ?_⟩
  rw [evsnapOp_noSnap _ _ _ (getLsbD_or_clear _ v0 (by decide)),
    holdOp_both _ _ _ (getLsbD_or_set _ (by decide)) (getLsbD_or_clear _ v2 (by decide)), agentCode_eq]
  exact logged_logErr ..

theorem evsnapRelease_takes (v0 : v.getLsbD 0 = false) (v1 : v.getLsbD 1 = false) :
    Says.takes (.evsnapRelease a v) s (fun s =>
      { s.setReg (ctl 0xFF 0x148) (s.reg (ctl 0xFF 0x148) &&& ~~~BitVec.ofNat 64 (2 ^ 62)) with holdWait := [] }) := by
  refine takes_of_eq ((exec_evsnapRelease a v r).trans ?_)
  rw [evsnapOp_noSnap _ _ _ (getLsbD_or_clear _ v0 (by decide)),
    holdOp_release _ _ _ (getLsbD_or_clear _ v1 (by decide)) (getLsbD_or_set _ (by decide))]

end

theorem timerExpiry_reaches {t : TileId} {s : State} (r : Says.running s) (seeded : s.clk.seeded = true)
    (ahead : s.clk.tb < (s.tile t).tcmp) :
    exec (.timerExpiry t) s = .next (settle { s with clk := { s.clk with tb := (s.tile t).tcmp } }) := by
  refine (devRow_running r _).trans ?_
  rw [if_pos (by rw [seeded, decide_eq_true ahead]; rfl)]

/-- Settles O43: each row from what its operation does to the state in which the access has been counted. -/
theorem pagesAndSnapshots : Obligations.PagesAndSnapshots := by
  unfold Obligations.PagesAndSnapshots
  refine ⟨fun a ca write sz s r => ?_, remote_rows, fun a v s r => ⟨evsnapSnap_snaps a v s r, evsnapHold_takes a v s r,
    evsnapHold_logs a v s r, evsnapSnap_logs a v s r, evsnapRelease_takes a v s r, mcQueuePop_takes a v s r⟩,
    fun t s r seeded ahead => timerExpiry_reaches r seeded ahead⟩
  have hn : (match sz with | .b1 => 1 | .b2 => 2 | .b4 => 4 | .b8 => 8) = Size.bytes sz := by cases sz <;> rfl
  exact ⟨fun k => unanswered_leads (exec_unassignedPageAccess r a ca write sz k) hn (unassigned_unanswered s a ca write sz k),
    fun k stop => unanswered_leads (exec_unclockedPageAccess r a ca write sz stop) hn
      (unclocked_unanswered s a ca write sz k stop)⟩

end Sys2Proof.Machine
end

section
/-! PROOFS. How an instruction ends otherwise than by falling through: a branch taken, an exception. -/

namespace Sys2Proof.Machine

/-- An instruction that branches with its tile `x`, and with events counted. -/
theorem tileOp_to {s s1 : State} {t : TileId} (h : Runs s t) (i : Insn) (body : State → R Flow) (x : Tile) (a : Word)
    (hl : i.load = false) (hL : i.long = false) (leg : i.legal = true) (gd : (s.tile t).guard i.g = true)
    (pr : i.present = true) (c : CountsOnly (tilePage t) (s.setTile t x) s1)
    (hb : body (s.ran t (s.tile t).ready) = .ok (.to a) s1) :
    TileOnly s (tileOp s t i body) t (x.stepped (s.tile t).lvl a) := by
  rw [tileOp_run h i body hl hL leg gd pr, hb]
  simp only [finish]
  have c' := c.trans (CountsOnly.tCount s1 t (s.tile t).lvl 0x22 1)
  have k := (c'.setTile t (x.stepped (s.tile t).lvl a)).trans (by
    have r := retire_only (Machine.tCount s1 t (s.tile t).lvl 0x22 1) t (s.tile t).lvl a
    rwa [c'.tile, State.tile_setTile_self] at r)
  rw [State.setTile_setTile] at k
  have o := TileOnly.of_counts k
  rw [replayAfter_same (by rw [o.replaying, h.2.2.2.1])]
  exact o

theorem State.replaying_ran {s : State} {t : TileId} (x : Tile) : (s.ran t x).replaying t = s.replaying t := by
  have c := s.ran_only t x
  rw [replaying_counts c, State.replaying_setTile]

/-- The room for records does not depend on what event counters hold. -/
theorem ringsFull_counts {s s' : State} {t : TileId} (h : CountsOnly (tilePage t) s s') (n : Nat) :
    ringsFull s' t n = ringsFull s t n := by
  have hc : ∀ c, s'.course c = s.course c := fun c => by rw [h.rest]; rfl
  unfold ringsFull recording State.fld
  rw [h.regs (ringsReg _ 0x100) (isCounter_of_off _ _ (by decide) (by decide)),
    h.regs (ringsReg _ 0x108) (isCounter_of_off _ _ (by decide) (by decide)), hc]

theorem xentWaits_ran {s : State} {t : TileId} (h : Runs s t) (x : Tile) : xentWaits (s.ran t x) t = false := by
  have k : ringsStalls (s.ran t x) t 32 = false := by
    unfold ringsStalls
    rw [ringsFull_counts (s.ran_only t x)]
    exact ringsFull_mono (by decide) h.2.2.1
  simp [xentWaits, k]

/-- An instruction that raises an exception, with its tile `x`. -/
theorem tileOp_raises {s : State} {t : TileId} (h : Runs s t) (i : Insn) (body : State → R Flow) (x : Tile) (e : Exc)
    (hl : i.load = false) (hL : i.long = false) (leg : i.legal = true) (gd : (s.tile t).guard i.g = true)
    (pr : i.present = true) (hb : body (s.ran t (s.tile t).ready) = .exc e (s.ran t x)) :
    tileOp s t i body = stopCheck (enter (s.ran t x) t e false x.pc) t := by
  have hr : (s.ran t x).replaying t = false := by rw [State.replaying_ran, h.2.2.2.1]
  rw [tileOp_run h i body hl hL leg gd pr, hb]
  simp only [xentWaits_ran h, raiseAt, replayTile_false hr, State.tile_ran_self, Bool.false_eq_true, if_false]

end Sys2Proof.Machine
end

section
/-! PROOFS. DIVFIN. -/

namespace Sys2Proof.Machine

theorem toInt_eq_neg_one (b : Word) : b.toInt = -1 ↔ b = BitVec.allOnes 64 := by
  rw [show (-1 : Int) = (BitVec.allOnes 64).toInt by decide, BitVec.toInt_inj]

theorem toInt_eq_min (a : Word) : a.toInt = -(2 ^ 63) ↔ a = 0x8000000000000000#64 := by
  rw [show (-(2 ^ 63) : Int) = (0x8000000000000000#64).toInt by decide, BitVec.toInt_inj]

theorem getLsbD_63_iff (a : Word) : a.getLsbD 63 = true ↔ a.toInt < 0 := by
  rw [← BitVec.msb_eq_getLsbD_last a (w := 64), BitVec.msb_eq_toInt]; simp

@[simp] theorem State.modTile_ran (s : State) (t : TileId) (x : Tile) (f : Tile → Tile) :
    (s.ran t x).modTile t f = s.ran t (f x) := by
  rw [State.modTile, State.tile_ran_self, State.ran_setTile]

theorem divfinFn_zero (sgn : Bool) (q r a : Word) : divfinFn sgn q r a 0 = (a, 0, 3) := rfl

theorem divfinFn_overflow {sgn : Bool} {a b : Word} (q r : Word) (hb : b ≠ 0)
    (ho : sgn = true ∧ a.toInt = -(2 ^ 63) ∧ b.toInt = -1) : divfinFn sgn q r a b = (a, 0, 2) := by
  rw [toInt_eq_min, toInt_eq_neg_one] at ho
  rw [divfinFn, if_neg hb, if_pos ho]

theorem divfinFn_signs {sgn : Bool} {a b : Word} (q r : Word) (hb : b ≠ 0)
    (ho : ¬ (sgn = true ∧ a.toInt = -(2 ^ 63) ∧ b.toInt = -1)) :
    divfinFn sgn q r a b = (if sgn = true ∧ (a.toInt < 0 ↔ 0 ≤ b.toInt) then BitVec.ofInt 64 (-q.toInt) else q,
      if sgn = true ∧ a.toInt < 0 then BitVec.ofInt 64 (-r.toInt) else r, 0) := by
  have hs : a.getLsbD 63 ≠ b.getLsbD 63 ↔ (a.toInt < 0 ↔ 0 ≤ b.toInt) := by
    rw [Ne, Bool.eq_iff_iff, getLsbD_63_iff, getLsbD_63_iff]
    omega
  rw [toInt_eq_min, toInt_eq_neg_one] at ho
  rw [divfinFn, if_neg hb, if_neg ho]
  simp only [hs, getLsbD_63_iff, BitVec.ofInt_neg, BitVec.ofInt_toInt]

/-- The tile with the event of a division noted in ISTAT. -/
def divNoted (n : Nat) (x : Tile) : Tile :=
  if n = 3 then x.orI iDZ else if n = 2 then x.orI iDOVF else x

theorem divNoted_pc (n : Nat) (x : Tile) : (divNoted n x).pc = x.pc := by
  unfold divNoted
  split
  · rfl
  split <;> rfl

/-- How DIVFIN ends, for each event that `divfinFn` finds. -/
theorem divfin_ends {s : State} {t : TileId} {g : Guard} {sgn : Bool} {rd ra rb : BitVec 5} {q r : Word} {n : Nat}
    (h : Runs s t) (hg : (s.tile t).guard g = true) (hp : gPair rd = true)
    (hz : divfinFn sgn ((s.tile t).ready.g rd) ((s.tile t).ready.g (rd + 1)) ((s.tile t).ready.g ra)
      ((s.tile t).ready.g rb) = (q, r, n)) :
    let x := (s.tile t).ready
    let y := divNoted n x
    let trap := (n = 3 ∧ x.cur.istat.getLsbD 18 = true) ∨ (n = 2 ∧ x.cur.istat.getLsbD 17 = true)
    (¬ trap → Gives (.divfin t g sgn rd ra rb) s t
      (((y.setG rd q).setG (rd + 1) r).stepped (s.tile t).lvl ((s.tile t).pc + 4))) ∧
    (trap → exec (.divfin t g sgn rd ra rb) s = .next (stopCheck (enter (s.ran t y) t (exc 0x0B n q) false x.pc) t)) := by
  intro x y trap
  have hs : (if n = 3 then (s.ran t x).modTile t (fun x => x.orI iDZ)
      else if n = 2 then (s.ran t x).modTile t (fun x => x.orI iDOVF) else s.ran t x) = s.ran t y := by
    simp only [State.modTile_ran, y, divNoted]
    split
    · rfl
    split <;> rfl
  have hb : divfinBody t sgn rd ra rb (s.ran t x) = if trap then .exc (exc 0x0B n q) (s.ran t y)
      else .ok .next (s.ran t ((y.setG rd q).setG (rd + 1) r)) := by
    simp only [divfinBody, State.tile_ran_self, x, hz]
    rw [hs, State.modTile_ran]
  refine ⟨fun ht => ⟨_, rfl, ?_⟩, fun ht => ?_⟩
  · exact tileOp_tile h _ _ _ rfl rfl hp hg rfl rfl (by rw [hb, if_neg ht])
  · show Host.Outcome.next (tileOp s t _ _) = _
    rw [tileOp_raises h _ _ y (exc 0x0B n q) rfl rfl hp hg rfl (by rw [hb, if_pos ht]), divNoted_pc]

/-- Settles O4: the three events of `divfinFn`, each as `divfin_ends` ends it. -/
theorem divisionFinishes : Obligations.DivisionFinishes := by
  intro t g sgn rd ra rb s h hg hev h2 x a b zero ovf y q r trap
  have hp : gPair rd = true := by
    simp only [gPair, decide_eq_true_eq]
    exact ⟨fun e => by simp [e] at h2, hev⟩
  suffices k : ∃ n, divfinFn sgn (x.g rd) (x.g (rd + 1)) a b = (q, r, n) ∧ y = divNoted n x ∧
      (n = 3 ∧ zero ∨ n = 2 ∧ ¬ zero ∧ ovf ∨ n = 0 ∧ ¬ zero ∧ ¬ ovf) by
    obtain ⟨n, hf, hy, hn⟩ := k
    have ht : trap ↔ (n = 3 ∧ x.cur.istat.getLsbD 18 = true) ∨ (n = 2 ∧ x.cur.istat.getLsbD 17 = true) := by
      obtain ⟨rfl, hz⟩ | ⟨rfl, hz, ho⟩ | ⟨rfl, hz, ho⟩ := hn
      · simp [trap, hz]
      · simp [trap, hz, ho]
      · simp [trap, hz, ho]
    have hc : n ≠ 0 → n = if zero then 3 else 2 := by
      obtain ⟨rfl, hz⟩ | ⟨rfl, hz, _⟩ | ⟨rfl, _⟩ := hn
      · exact fun _ => (if_pos hz).symm
      · exact fun _ => (if_neg hz).symm
      · exact fun h0 => absurd rfl h0
    obtain ⟨k1, k2⟩ := divfin_ends h hg hp hf
    rw [← ht, ← hy] at k1 k2
    refine ⟨k1, fun t' => (k2 t').trans ?_⟩
    rw [← hc (by rintro rfl; simp at ht; exact ht t')]
    rfl
  by_cases hz : zero
  · exact ⟨3, by simp only [q, r, hz, true_or, if_true]; rw [show b = 0 from hz, divfinFn_zero],
      by simp only [y, hz]; rfl, .inl ⟨rfl, hz⟩⟩
  by_cases ho : ovf
  · exact ⟨2, by simp only [q, r, ho, or_true, if_true]; exact divfinFn_overflow _ _ hz ho,
      by simp only [y, hz, ho]; rfl, .inr (.inl ⟨rfl, hz, ho⟩)⟩
  · exact ⟨0, by simp only [q, r, hz, ho, or_false, if_false]; exact divfinFn_signs _ _ hz ho,
      by simp only [y, hz, ho]; rfl, .inr (.inr ⟨rfl, hz, ho⟩)⟩

end Sys2Proof.Machine
end

section
/-! PROOFS. Branches and jumps. -/

namespace Sys2Proof.Machine

/-- The target of a branch in numbers (R70). -/
theorem bTarget_eq (pc : Word) (off : BitVec 18) : bTarget pc off = BitVec.ofInt 64 ((pc.toNat : Int) + 4 * off.toInt) := by
  have h : off.signExtend 64 = BitVec.ofInt 64 off.toInt := rfl
  rw [bTarget, h, BitVec.ofInt_add, BitVec.ofInt_mul, BitVec.ofInt_natCast, BitVec.ofNat_toNat, BitVec.setWidth_eq,
    BitVec.mul_comm]
  rfl

/-- A branch from a word-aligned address has a word-aligned target. -/
theorem bTarget_aligned {pc : Word} (off : BitVec 18) (h : pc.toNat % 4 = 0) : (bTarget pc off).toNat % 4 = 0 := by
  rw [bTarget_eq, BitVec.toNat_ofInt]
  omega

/-- Where the body branches to `a` when that is aligned and else raises ALIGN, with events counted. -/
theorem tileOp_jumps {s s1 : State} {t : TileId} (h : Runs s t) {g : Guard} {body : State → R Flow} {x : Tile} {a : Word}
    (gd : (s.tile t).guard g = true) (c : CountsOnly (tilePage t) (s.setTile t x) s1)
    (hb : body (s.ran t (s.tile t).ready) = if a.toNat % 4 = 0 then .ok (.to a) s1
      else .exc { code := 4, sub := 2, faddr := a } (s.ran t (s.tile t).ready)) :
    (a.toNat % 4 = 0 → TileOnly s (tileOp s t { g := g, branch := true } body) t (x.stepped (s.tile t).lvl a)) ∧
    (a.toNat % 4 ≠ 0 → tileOp s t { g := g, branch := true } body =
      stopCheck (enter (s.ran t (s.tile t).ready) t { code := 4, sub := 2, faddr := a } false (s.tile t).pc) t) := by
  refine ⟨fun ha => ?_, fun ha => ?_⟩
  · exact tileOp_to h _ body x a rfl rfl rfl gd rfl c (by rw [hb, if_pos ha])
  · rw [tileOp_raises h _ body _ _ rfl rfl rfl gd rfl (by rw [hb, if_neg ha]), Tile.ready_pc]

theorem jumpTo_eq (a : Word) (s : State) (k : State → State) :
    jumpTo a s k = if a.toNat % 4 = 0 then .ok (.to a) (k s) else .exc { code := 4, sub := 2, faddr := a } s := by
  rw [jumpTo, ite_not]

/-- A return pops the stack of a keystone tile, and counts. -/
theorem rpop_only (s : State) (t : TileId) (x : Tile) (a : Word) :
    CountsOnly (tilePage t) (s.setTile t (if isKeyst t then { x with rstack := x.rstack.drop 1 } else x))
      (rpop (s.ran t x) t a) := by
  unfold rpop
  split
  case isFalse => exact s.ran_only t x
  rw [State.tile_ran_self]
  split
  next hr =>
    rw [show { x with rstack := x.rstack.drop 1 } = x by rw [hr, List.drop_nil, ← hr]]
    exact (s.ran_only t x).trans (CountsOnly.tCount ..)
  next b r hr =>
    have k := (s.ran_only t x).trans (CountsOnly.tCount (s.ran t x) t x.lvl (if b = a then 0x41 else 0x42) 1)
    rw [State.modTile, k.tile, State.tile_setTile_self, hr]
    simpa only [State.setTile_setTile, List.drop_succ_cons, List.drop_zero] using k.setTile t { x with rstack := r }

/-- Settles O8: the two branches, whose target is aligned, and the two jumps. -/
theorem branchesGoToTarget : Obligations.BranchesGoToTarget := by
  intro c s t g a x hc h hg hpc
  have hpc' : (s.tile t).ready.pc.toNat % 4 = 0 := by rwa [Tile.ready_pc]
  have key : ∀ {body : State → R Flow} {s1 : State}, exec c s = next (tileOp s t { g := g, branch := true } body) →
      CountsOnly (tilePage t) (s.setTile t x) s1 →
      body (s.ran t (s.tile t).ready) = (if a.toNat % 4 = 0 then .ok (.to a) s1
        else .exc { code := 4, sub := 2, faddr := a } (s.ran t (s.tile t).ready)) →
      (a.toNat % 4 = 0 → Gives c s t (x.stepped (s.tile t).lvl a)) ∧ (a.toNat % 4 ≠ 0 → exec c s =
        .next (stopCheck (enter (s.ran t (s.tile t).ready) t { code := 4, sub := 2, faddr := a } false
          (s.tile t).pc) t)) := by
    intro body s1 he hs hb
    obtain ⟨k1, k2⟩ := tileOp_jumps h hg hs hb
    exact ⟨fun ha => ⟨_, he, k1 ha⟩, fun ha => by rw [he, next, k2 ha]⟩
  have hk : isKeyst t = true ↔ 96 ≤ t.val := by simp [isKeyst]
  have link : ∀ (b : Word) (y : Tile),
      rpush t b y = if 96 ≤ t.val then { y with rstack := (b :: y.rstack).take 8 } else y := fun b y => by
    simp only [rpush, hk]
  unfold Says.branch at hc
  split at hc <;> simp only [Option.some.injEq, Prod.mk.injEq, reduceCtorEq] at hc
  case h_1 t g off =>
    obtain ⟨rfl, rfl, rfl, rfl⟩ := hc
    refine key rfl (s.ran_only _ _) ?_
    rw [← bTarget_eq, if_pos (bTarget_aligned _ hpc'), State.tile_ran_self]
  case h_2 t g off =>
    obtain ⟨rfl, rfl, rfl, rfl⟩ := hc
    refine key rfl (s.ran_only _ _) ?_
    rw [← bTarget_eq, if_pos (bTarget_aligned _ hpc')]
    simp only [State.tile_ran_self, State.modTile_ran, link]
  case h_3 t g ra =>
    obtain ⟨rfl, rfl, rfl, rfl⟩ := hc
    by_cases h31 : ra = 31
    · refine key rfl (s1 := rpop (s.ran t (s.tile t).ready) t ((s.tile t).ready.g ra)) ?_ ?_
      · simpa only [h31, true_and, hk] using rpop_only s t _ _
      · simp only [jumpTo_eq, State.tile_ran_self, h31, if_true]
    · refine key rfl (s.ran_only _ _) ?_
      simp only [jumpTo_eq, State.tile_ran_self, h31, if_false, false_and]
  case h_4 t g rd ra =>
    obtain ⟨rfl, rfl, rfl, rfl⟩ := hc
    refine key rfl (s.ran_only _ _) ?_
    simp only [jumpTo_eq, State.tile_ran_self, State.modTile_ran, link]

end Sys2Proof.Machine
end

section
/-! PROOFS. Integer division: the division step in numbers, and what 32 of them leave. -/

namespace Sys2Proof.Machine

/-- The digit of a division step, for a partial dividend below four divisors. -/
theorem dstep_digit {x d : Nat} (hx : x < 4 * d) :
    (if 3 * d ≤ x then 3 else if 2 * d ≤ x then 2 else if d ≤ x then 1 else 0) = x / d := by
  symm
  split
  · exact Nat.div_eq_of_lt_le (by omega) (by omega)
  split
  · exact Nat.div_eq_of_lt_le (by omega) (by omega)
  split
  · exact Nat.div_eq_of_lt_le (by omega) (by omega)
  · exact Nat.div_eq_of_lt (by omega)

/-- A division step takes the two top bits of the quotient into the remainder and divides that by `d`. -/
theorem dstepFn_toNat {q r d : Nat} (hq : q < 2 ^ 64) (hr : r < d) (hd : d < 2 ^ 64) :
    let z := dstepFn (BitVec.ofNat 64 q) (BitVec.ofNat 64 r) d
    z.1.toNat = q % 2 ^ 62 * 4 + (4 * r + q / 2 ^ 62) / d ∧ z.2.toNat = (4 * r + q / 2 ^ 62) % d := by
  have hx : 4 * (BitVec.ofNat 64 r).toNat + bitsNat (BitVec.ofNat 64 q) 63 62 = 4 * r + q / 2 ^ 62 := by
    simp only [bitsNat, BitVec.toNat_ofNat]
    omega
  have hl : bitsNat (BitVec.ofNat 64 q) 61 0 = q % 2 ^ 62 := by
    simp only [bitsNat, BitVec.toNat_ofNat]
    omega
  have hlt : (4 * r + q / 2 ^ 62) / d < 4 := (Nat.div_lt_iff_lt_mul (by omega)).2 (by omega)
  have hmod : (4 * r + q / 2 ^ 62) % d < d := Nat.mod_lt _ (by omega)
  have hsub : 4 * r + q / 2 ^ 62 - (4 * r + q / 2 ^ 62) / d * d = (4 * r + q / 2 ^ 62) % d := by
    rw [Nat.mod_eq_sub_div_mul]
  unfold dstepFn
  simp only [hx, hl, dstep_digit (by omega : 4 * r + q / 2 ^ 62 < 4 * d), hsub]
  rw [BitVec.toNat_ofNat, BitVec.toNat_ofNat, Nat.mod_eq_of_lt (by omega), Nat.mod_eq_of_lt (hmod.trans hd)]
  exact ⟨rfl, rfl⟩

/-- The invariant of the division: of the quotient register, the dividend's `2n` bits `u` that are still to come stand above
the quotient's bits `v` so far. -/
theorem steps_eq {d : Nat} (hd : d < 2 ^ 64) {n m r u v : Nat} (hm : 2 * n + m = 64) (hr : r < d)
    (hu : u < 4 ^ n) (hv : v < 2 ^ m) :
    Says.steps n (u * 2 ^ m + v) r d = (v * 4 ^ n + (r * 4 ^ n + u) / d, (r * 4 ^ n + u) % d) := by
  induction n generalizing m r u v with
  | zero =>
    obtain rfl : u = 0 := by simpa using hu
    simp [Says.steps, Nat.div_eq_of_lt hr, Nat.mod_eq_of_lt hr]
  | succ n ih =>
    have hpow : (4 : Nat) ^ n * 2 ^ (m + 2) = 2 ^ 64 := by
      rw [show (4 : Nat) = 2 ^ 2 by rfl, ← Nat.pow_mul, ← Nat.pow_add]
      congr 1; omega
    have hm2 : (2 : Nat) ^ (m + 2) = 2 ^ m * 4 := by ring
    have hn4 : (4 : Nat) ^ (n + 1) = 4 ^ n * 4 := pow_succ ..
    have hn0 : 0 < (4 : Nat) ^ n := by positivity
    have hsplit : (4 : Nat) ^ n * 2 ^ m = 2 ^ 62 := by
      rw [hm2, ← Nat.mul_assoc] at hpow
      omega
    have hu' : u % 4 ^ n < 4 ^ n := Nat.mod_lt _ hn0
    have hq : u * 2 ^ m + v = u / 4 ^ n * 2 ^ 62 + (u % 4 ^ n * 2 ^ m + v) := by
      conv_lhs => rw [← Nat.div_add_mod u (4 ^ n)]
      rw [← hsplit]; ring
    have hlow : u % 4 ^ n * 2 ^ m + v < 2 ^ 62 := by
      rw [← hsplit]; nlinarith
    have htop : u / 4 ^ n < 4 := (Nat.div_lt_iff_lt_mul hn0).2 (by omega)
    have hdiv : (u * 2 ^ m + v) / 2 ^ 62 = u / 4 ^ n := by omega
    have hmod : (u * 2 ^ m + v) % 2 ^ 62 = u % 4 ^ n * 2 ^ m + v := by omega
    obtain ⟨h1, h2⟩ := dstepFn_toNat (q := u * 2 ^ m + v) (by omega) hr hd
    rw [hdiv] at h1 h2
    rw [hmod] at h1
    have hk : (4 * r + u / 4 ^ n) / d < 4 := (Nat.div_lt_iff_lt_mul (by omega)).2 (by omega)
    have hsum : r * 4 ^ (n + 1) + u =
        (4 * r + u / 4 ^ n) % d * 4 ^ n + u % 4 ^ n + d * ((4 * r + u / 4 ^ n) / d * 4 ^ n) := by
      calc r * 4 ^ (n + 1) + u = (4 * r + u / 4 ^ n) * 4 ^ n + u % 4 ^ n := by
            conv_lhs => rw [← Nat.div_add_mod u (4 ^ n)]
            ring
        _ = (d * ((4 * r + u / 4 ^ n) / d) + (4 * r + u / 4 ^ n) % d) * 4 ^ n + u % 4 ^ n := by
            rw [Nat.div_add_mod]
        _ = _ := by ring
    have hnext : (u % 4 ^ n * 2 ^ m + v) * 4 + (4 * r + u / 4 ^ n) / d =
        u % 4 ^ n * 2 ^ (m + 2) + (4 * v + (4 * r + u / 4 ^ n) / d) := by
      rw [hm2]; ring
    simp only [Says.steps]
    rw [h1, h2, hnext, ih (by omega) (Nat.mod_lt _ (by omega)) hu' (by omega), hsum,
      Nat.add_mul_div_left _ _ (by omega), Nat.add_mul_mod_self_left]
    congr 1
    rw [hn4]; ring

/-- Settles O5: the invariant `steps_eq` at 32 steps, where the whole dividend is still to come. -/
theorem thirtyTwoStepsDivide : Obligations.ThirtyTwoStepsDivide := by
  intro a d ha hd0 hd
  simpa using steps_eq hd (n := 32) (m := 0) (r := 0) (u := a) (v := 0) rfl hd0 ha (by decide)

end Sys2Proof.Machine
end

section
/-! PROOFS. Stores that go to memory: the store buffer drained, and the fences. -/

namespace Sys2Proof.Machine

/-! ## One store -/

/-- A store buffer entry written to memory, with no write set. -/
def State.plainStore (s : State) (e : StoreEntry) : State := (s.setBytes e.pa e.bytes).unpoison e.pa e.bytes.length

theorem State.plainStore_rest (s : State) (e : StoreEntry) :
    s.plainStore e = { s with mem := (s.setBytes e.pa e.bytes).mem, poison := (s.plainStore e).poison } := by
  unfold plainStore
  rw [State.setBytes_rest]
  rfl

@[simp] theorem State.plainStore_poison (s : State) (e : StoreEntry) : (s.plainStore e).poison =
    s.poison.filter (fun l => !decide (e.pa ≤ l * 128 ∧ l * 128 + 128 ≤ e.pa + e.bytes.length)) := by
  unfold plainStore
  rw [State.setBytes_rest]
  rfl

@[simp] theorem State.plainStore_byte (s : State) (e : StoreEntry) (a : Nat) :
    (s.plainStore e).byte a = (s.setBytes e.pa e.bytes).byte a := rfl

@[simp] theorem State.plainStore_tiles (s : State) (e : StoreEntry) : (s.plainStore e).tiles = s.tiles := by
  rw [State.plainStore_rest]
@[simp] theorem State.plainStore_regs (s : State) (e : StoreEntry) : (s.plainStore e).regs = s.regs := by
  rw [State.plainStore_rest]
@[simp] theorem State.plainStore_tile (s : State) (e : StoreEntry) (t : TileId) : (s.plainStore e).tile t = s.tile t := by
  rw [State.plainStore_rest]; rfl
/-- What is written to memory depends on memory alone. -/
theorem State.setBytes_mem_congr {s s' : State} (h : s'.mem = s.mem) (a : Nat) (bs : List Byte) :
    (s'.setBytes a bs).mem = (s.setBytes a bs).mem := by
  induction bs generalizing s s' a with
  | nil => exact h
  | cons b r ih => exact ih (by simp only [State.setByte, h]) _

/-- Which addresses are memory depends on control registers. -/
theorem plainPa_congr {s s' : State} (hr : s'.regs = s.regs) (pa : Nat) :
    plainPa s' pa = plainPa s pa := by
  unfold plainPa regionOf ddrTop State.ddrBytes State.fld State.reg
  rw [hr]

/-- A store to memory that joins no write set. -/
theorem storeEffect_plain {s : State} {t : TileId} {e : StoreEntry} (hp : plainPa s e.pa = true)
    (hb : e.brick = true → (s.tile t).tk = none) : storeEffect s t e = s.plainStore e := by
  have hs : (if e.brick then brickWrite s (s.tile t).tk e.pa e.bytes.length else s) = s := by
    split
    · rw [hb ‹_›]; rfl
    · rfl
  unfold storeEffect
  split
  next h => simp [plainPa, h] at hp
  next h => simp [plainPa, h] at hp
  · rw [hs]; rfl

/-- The oldest store leaves the buffer for memory. -/
theorem drainOne_plain {s : State} {t : TileId} {e : StoreEntry} {r : List StoreEntry} (hs : (s.tile t).sbuf = e :: r)
    (hp : plainPa s e.pa = true) (hb : e.brick = true → (s.tile t).tk = none) :
    drainOne s t = (s.modTile t (fun x => { x with sbuf := r })).plainStore e := by
  unfold drainOne
  rw [hs]
  exact storeEffect_plain ((plainPa_congr rfl _).trans hp) (by simpa using hb)

/-! ## A store buffer -/

/-- Store buffer entries written to memory in their order, with no write set. -/
def State.plainStores (s : State) (es : List StoreEntry) : State := es.foldl State.plainStore s

theorem State.plainStores_cons (s : State) (e : StoreEntry) (es : List StoreEntry) :
    s.plainStores (e :: es) = (s.plainStore e).plainStores es := rfl

theorem State.plainStores_rest (s : State) (es : List StoreEntry) :
    s.plainStores es = { s with mem := (s.plainStores es).mem, poison := (s.plainStores es).poison } := by
  have key : ∃ m p, s.plainStores es = { s with mem := m, poison := p } := by
    induction es generalizing s with
    | nil => exact ⟨_, _, rfl⟩
    | cons e es ih =>
      obtain ⟨m, p, h⟩ := ih (s.plainStore e)
      exact ⟨m, p, by rw [State.plainStores_cons, h, State.plainStore_rest]⟩
  obtain ⟨m, p, h⟩ := key
  rw [h]

theorem State.plainStores_mem {s s' : State} (h : s'.mem = s.mem) (es : List StoreEntry) :
    (s'.plainStores es).mem = (es.foldl (fun s e => s.setBytes e.pa e.bytes) s).mem := by
  induction es generalizing s s' with
  | nil => exact h
  | cons e es ih => exact ih (State.setBytes_mem_congr h _ _)

theorem State.plainStores_mem_congr {s s' : State} (h : s'.mem = s.mem) (es : List StoreEntry) :
    (s'.plainStores es).mem = (s.plainStores es).mem :=
  (State.plainStores_mem h es).trans (State.plainStores_mem (s' := s) rfl es).symm

theorem State.plainStores_poison (s : State) (es : List StoreEntry) :
    (s.plainStores es).poison = es.foldl (fun l e =>
      l.filter (fun n => !decide (e.pa ≤ n * 128 ∧ n * 128 + 128 ≤ e.pa + e.bytes.length))) s.poison := by
  induction es generalizing s with
  | nil => rfl
  | cons e es ih => rw [State.plainStores_cons, ih, State.plainStore_poison, List.foldl_cons]

theorem State.plainStores_tile (s : State) (es : List StoreEntry) (t : TileId) : (s.plainStores es).tile t = s.tile t := by
  rw [State.plainStores_rest]; rfl

theorem State.plainStores_setTile (s : State) (es : List StoreEntry) (t : TileId) (x : Tile) :
    (s.plainStores es).setTile t x = (s.setTile t x).plainStores es := by
  have hp : ((s.setTile t x).plainStores es).poison = (s.plainStores es).poison := by
    rw [State.plainStores_poison, State.plainStores_poison]; rfl
  have hm : ((s.setTile t x).plainStores es).mem = (s.plainStores es).mem := State.plainStores_mem_congr (by rfl) es
  rw [State.plainStores_rest (s.setTile t x), hp, hm, State.plainStores_rest s]
  rfl

theorem State.modTile_same {s : State} {t : TileId} {f : Tile → Tile} (h : f (s.tile t) = s.tile t) :
    s.modTile t f = s := by
  rw [State.modTile, h]
  unfold State.setTile State.tile
  rw [Vector.get_eq_getElem]
  simp only [Vector.set_getElem_self]

theorem State.plainStores_modTile (s : State) (es : List StoreEntry) (t : TileId) (f : Tile → Tile) :
    (s.plainStores es).modTile t f = (s.modTile t f).plainStores es := by
  rw [State.modTile, State.plainStores_tile, State.plainStores_setTile]
  rfl

/-- A buffer whose entries are all written to memory, drained. -/
theorem drainN_plain {s : State} {t : TileId} {es : List StoreEntry} (hq : (s.tile t).sbuf = es)
    (hp : ∀ e ∈ es, plainPa s e.pa = true ∧ (e.brick = true → (s.tile t).tk = none)) :
    drainN t es.length s = (s.modTile t (fun x => { x with sbuf := [] })).plainStores es := by
  induction es generalizing s with
  | nil =>
    have h : { (s.tile t) with sbuf := [] } = s.tile t := by rw [← hq]
    exact (State.modTile_same (f := fun x => { x with sbuf := [] }) h).symm
  | cons e es ih =>
    have h1 := hp e List.mem_cons_self
    have hd : drainOne s t = (s.plainStore e).modTile t (fun x => { x with sbuf := es }) := by
      rw [drainOne_plain hq h1.1 h1.2]
      exact (State.plainStores_modTile s [e] t _).symm
    have ht : (drainOne s t).tile t = { (s.tile t) with sbuf := es } := by
      rw [hd, State.tile_modTile_self, State.plainStore_tile]
    have hpa : ∀ a, plainPa (drainOne s t) a = plainPa s a := fun a => by
      rw [hd]; exact plainPa_congr (s.plainStore_regs e) a
    rw [List.length_cons, drainN, ih (by rw [ht]) (fun d hd => by
      rw [hpa, ht]; exact hp d (List.mem_cons_of_mem _ hd)), hd, State.modTile_modTile]
    exact congrArg (State.plainStores · es) (State.plainStores_modTile s [e] t _)

theorem drainTile_plain {s : State} {t : TileId} (hp : Says.plainBuffer s t = true) :
    drainTile s t = (s.modTile t (fun x => { x with sbuf := [] })).plainStores (s.tile t).sbuf := by
  refine drainN_plain rfl fun e he => ?_
  have h := List.all_eq_true.1 hp e he
  simp only [Bool.and_eq_true, Bool.or_eq_true, Bool.not_eq_true', Option.isNone_iff_eq_none] at h
  exact ⟨h.1, fun hb => h.2.resolve_left (by simp [hb])⟩

/-! ## Fences -/

theorem CountsOnly.plainStores {p : Nat} {s s' : State} (h : CountsOnly p s s') (es : List StoreEntry) :
    CountsOnly p (s.plainStores es) (s'.plainStores es) := by
  obtain ⟨rest, regs⟩ := h
  generalize s'.regs = r at rest
  subst rest
  have hm : (({ s with regs := r } : State).plainStores es).mem = (s.plainStores es).mem :=
    State.plainStores_mem_congr (by rfl) es
  have hp : (({ s with regs := r } : State).plainStores es).poison = (s.plainStores es).poison := by
    rw [State.plainStores_poison, State.plainStores_poison]
  have hr : ∀ s : State, (s.plainStores es).regs = s.regs := fun s => by rw [State.plainStores_rest]
  refine ⟨?_, fun a ha => ?_⟩
  · rw [hr, State.plainStores_rest { s with regs := r }, hm, hp]
    conv_rhs => rw [State.plainStores_rest s]
  · unfold State.reg
    rw [hr, hr]
    exact regs a ha

/-- Stores written to memory, a change of the tile, and counting. -/
theorem TileWrites.of_counts {s s' : State} {t : TileId} {x : Tile} {es : List StoreEntry}
    (h : CountsOnly (tilePage t) ((s.setTile t x).plainStores es) s') : TileWrites s s' t x es where
  tile := by rw [h.tile, State.plainStores_tile, State.tile_setTile_self]
  others u hu := by rw [h.tile, State.plainStores_tile, State.tile_setTile_ne _ _ hu]
  regs a ha := by rw [h.regs a ha, State.plainStores_rest]; rfl
  bytes a := by
    unfold State.byte
    rw [h.rest]
    exact congrArg (assocFind · a memDefault) (State.plainStores_mem (by rfl) es)
  poison := by
    rw [h.rest]
    exact State.plainStores_poison (s.setTile t x) es
  rest := by rw [h.rest, State.plainStores_rest]; rfl

theorem TileWrites.replaying {s s' : State} {t : TileId} {x : Tile} {es : List StoreEntry} (h : TileWrites s s' t x es) :
    s'.replaying t = s.replaying t := by
  unfold State.replaying State.fld
  rw [h.regs _ (not_counter_rings t _)]

/-- Which addresses are memory does not depend on what a tile's event counters hold. -/
theorem plainPa_counts {s s' : State} {t : TileId} {x : Tile} (h : CountsOnly (tilePage t) (s.setTile t x) s') (a : Nat) :
    plainPa s' a = plainPa s a := by
  have h1 : s'.reg (ctl pDev 0x130) = s.reg (ctl pDev 0x130) :=
    h.regs _ (isCounter_of_off _ _ (by decide) (by decide))
  have h2 : s'.reg (ctl pHbmc 0x120) = s.reg (ctl pHbmc 0x120) :=
    h.regs _ (isCounter_of_off _ _ (by decide) (by decide))
  unfold plainPa regionOf ddrTop State.ddrBytes State.fld
  rw [h1, h2]

@[simp] theorem Tile.ready_tk (x : Tile) : x.ready.tk = x.tk := foldl_setG_frame Tile.tk (fun _ _ _ => rfl) _ _

/-- An instruction that writes to memory and changes its tile. -/
theorem tileOp_stores {s : State} {t : TileId} {g : Guard} {body : State → R Flow} {y : Tile} {es : List StoreEntry}
    (h : Runs s t) (hg : (s.tile t).guard g = true)
    (hb : body (s.ran t (s.tile t).ready) = .ok .next ((s.ran t y).plainStores es)) :
    TileWrites s (tileOp s t { g := g } body) t (y.stepped (s.tile t).lvl ((s.tile t).pc + 4)) es := by
  rw [tileOp_run h _ _ rfl rfl rfl hg rfl, hb]
  have c := retire_only ((s.ran t y).plainStores es) t (s.tile t).lvl ((s.tile t).pc + 4)
  rw [State.plainStores_tile, State.tile_ran_self, State.plainStores_setTile, State.ran_setTile] at c
  have w := TileWrites.of_counts (((s.ran_only t _).plainStores es).trans c)
  simp only [finish, Bool.false_eq_true, if_false]
  rw [← replayAfter_same (w.replaying.trans h.2.2.2.1)] at w
  exact w

/-- A fence on a buffer whose entries are all written to memory. -/
theorem tileOp_drains {s : State} {t : TileId} {g : Guard} (h : Runs s t) (hg : (s.tile t).guard g = true)
    (hp : Says.plainBuffer s t = true) :
    TileWrites s (tileOp s t { g := g } (fun s => .ok .next (drainTile s t))) t
      (({ (s.tile t).ready with sbuf := [] } : Tile).stepped (s.tile t).lvl ((s.tile t).pc + 4)) (s.tile t).sbuf := by
  have hr : Says.plainBuffer (s.ran t (s.tile t).ready) t = true := by
    have k : ∀ a, plainPa (s.ran t (s.tile t).ready) a = plainPa s a := plainPa_counts (s.ran_only t _)
    simpa only [Says.plainBuffer, State.tile_ran_self, Tile.ready_sbuf, Tile.ready_tk, k] using hp
  refine tileOp_stores h hg ?_
  rw [drainTile_plain hr, State.modTile_ran, State.tile_ran_self, Tile.ready_sbuf]

/-- Settles O12: either fence is an instruction whose effect is to write the store buffer. -/
theorem fencesWriteTheBuffer : Obligations.FencesWriteTheBuffer := by
  rintro c s t g (rfl | rfl) h hg hp
  · exact ⟨_, rfl, tileOp_drains h hg hp⟩
  · exact ⟨_, rfl, tileOp_drains h hg hp⟩

end Sys2Proof.Machine
end

section
/-! PROOFS. A load miss answered, and the oldest store of a buffer written. -/

namespace Sys2Proof.Machine

/-! ## Load misses -/

/-- The places of the load misses of a window, oldest first: its LRS entries. -/
def missPlaces (w : List WinEntry) : List Nat :=
  (List.range w.length).filter (fun k => (w[k]?.map (fun e => e.miss)).getD false)

theorem missPlaces_cons (e : WinEntry) (w : List WinEntry) :
    missPlaces (e :: w) = (if e.miss then [0] else []) ++ (missPlaces w).map (· + 1) := by
  unfold missPlaces
  rw [List.length_cons, List.range_succ_eq_map, List.filter_cons, List.filter_map]
  cases h : e.miss <;> simp [h, Function.comp_def]

/-- LRS entry `i` completes where it stands in the window. -/
theorem missDone_eq (w : List WinEntry) (i : Nat) :
    missDone w i = match (missPlaces w)[i]? with
      | some k => w.modify k (fun e => { e with miss := false })
      | none => w := by
  induction w generalizing i with
  | nil => rfl
  | cons e w ih =>
    rw [missPlaces_cons, missDone]
    by_cases hm : e.miss = true
    · cases i with
      | zero => simp [hm]
      | succ i =>
        simp only [hm, Bool.not_true, Bool.false_eq_true, if_false, Nat.add_one_ne_zero, if_true, Nat.add_sub_cancel,
          List.singleton_append, List.getElem?_cons_succ, List.getElem?_map, ih]
        cases (missPlaces w)[i]? <;> rfl
    · simp only [hm, Bool.not_false, if_true, Bool.false_eq_true, if_false, List.nil_append, List.getElem?_map, ih]
      cases (missPlaces w)[i]? <;> rfl

/-- The complete loads at the head of a window. -/
theorem span_done {l done rest : List WinEntry} (h : l = done ++ rest) (hd : ∀ e ∈ done, e.miss = false)
    (hr : ∀ e, rest.head? = some e → e.miss = true) :
    l.takeWhile (fun e => !e.miss) = done ∧ l.dropWhile (fun e => !e.miss) = rest := by
  have ht : rest.takeWhile (fun e => !e.miss) = [] ∧ rest.dropWhile (fun e => !e.miss) = rest := by
    cases rest with
    | nil => exact ⟨rfl, rfl⟩
    | cons e r => simp [hr e rfl]
  subst h
  rw [List.takeWhile_append_of_pos (by simpa using hd), List.dropWhile_append_of_pos (by simpa using hd), ht.1, ht.2]
  simp

theorem foldl_setG_window (l : List WinEntry) (x : Tile) (w : List WinEntry) :
    l.foldl (fun x e => x.setG e.rt e.value) { x with window := w } =
      { l.foldl (fun x e => x.setG e.rt e.value) x with window := w } := by
  have key : ∀ (y : Tile) (r : BitVec 5) (v : Word),
      ({ y with window := w } : Tile).setG r v = { y.setG r v with window := w } := fun _ _ _ => rfl
  induction l generalizing x with
  | nil => rfl
  | cons e l ih => rw [List.foldl_cons, key, ih]; rfl

/-- What an answered load miss leaves of its tile. -/
theorem lrsDeliver_eq {x : Tile} {i : Nat} {done rest : List WinEntry} (h : missDone x.window i = done ++ rest)
    (hd : ∀ e ∈ done, e.miss = false) (hr : ∀ e, rest.head? = some e → e.miss = true) :
    lrsDeliver x i = { done.foldl (fun y e => y.setG e.rt e.value) x with
      window := rest, icnt := x.icnt + (if x.lvl = .ledger then done.length else 0) } := by
  obtain ⟨h1, h2⟩ := span_done h hd hr
  unfold lrsDeliver Tile.retireDone Tile.icntAfter
  simp only [h1, h2, foldl_setG_window]
  split <;> rfl

/-- An answered load miss changes its tile, and counters. -/
theorem loadMissComplete_only (t : TileId) (i : Fin 4) (s : State) :
    ∃ s', exec (.loadMissComplete t i) s = .next s' ∧ TileOnly s s' t (lrsDeliver (s.tile t) i.val) := by
  refine ⟨_, rfl, TileOnly.of_counts ?_⟩
  have c : CountsOnly (tilePage t) s (if lrsRetires (s.tile t) i.val = 0 then s
      else tCount s t (s.tile t).lvl 0x20 (lrsRetires (s.tile t) i.val)) := by
    split
    · exact .refl _ _
    · exact CountsOnly.tCount ..
  rw [State.modTile, c.tile]
  exact c.setTile t _

/-! ## The oldest store, with no write set to join -/

/-- A store that leaves the buffer for memory. -/
theorem TileStores.of_plainStore (s : State) (t : TileId) (x : Tile) (e : StoreEntry) :
    TileStores s ((s.setTile t x).plainStore e) t x e.pa e.bytes where
  tile := by rw [State.plainStore_tile, State.tile_setTile_self]
  others u hu := by rw [State.plainStore_tile, State.tile_setTile_ne _ _ hu]
  regs a _ := by rw [State.plainStore_rest]; rfl
  stored i h := State.byte_setBytes_in _ _ _ _ h
  kept a h := State.byte_setBytes_out (s.setTile t x) _ _ _ (by omega)
  poison := State.plainStore_poison _ _
  rest := by rw [State.plainStore_rest]; rfl

theorem storeBufferDrain_nil {t : TileId} {s : State} (h : (s.tile t).sbuf = []) :
    exec (.storeBufferDrain t) s = .next s := by
  have hd : drainOne s t = s := by unfold drainOne; rw [h]
  show next (whenLive s fun s => drainOne s t) = _
  rw [whenLive, hd, ite_self]
  rfl

theorem storeBufferDrain_live {t : TileId} {s : State} (h : s.live = true) :
    exec (.storeBufferDrain t) s = .next (drainOne s t) := by
  show next (whenLive s fun s => drainOne s t) = _
  rw [whenLive, if_pos h]
  rfl

/-- The first half of O11: no ticket's write set. -/
theorem storesAndMissesFinish_plain : Says.StoresAndMissesFinish := by
  intro t s
  refine ⟨storeBufferDrain_nil, fun e r hl hq hp hb => ?_, ?_⟩
  · exact ⟨_, (storeBufferDrain_live hl).trans (by rw [drainOne_plain hq hp hb]; rfl), TileStores.of_plainStore ..⟩
  · intro i done rest w misses h hd hr
    obtain ⟨s', h1, h2⟩ := loadMissComplete_only t i s
    refine ⟨s', h1, ?_⟩
    rwa [lrsDeliver_eq ((missDone_eq _ _).trans h) hd hr] at h2

/-! ## A ticket's write set -/

/-- A mask built bit by bit from the places for which `p` holds. -/
theorem foldl_mask_bit (p : Nat → Prop) [DecidablePred p] (l : List Nat) (m : BitVec 16) (j : Fin 16) :
    (l.foldl (fun m i => if p i then m ||| BitVec.ofNat 16 (2 ^ i) else m) m).getLsbD j.val =
      (m.getLsbD j.val || decide (j.val ∈ l ∧ p j.val)) := by
  have hbit : ∀ i, (BitVec.ofNat 16 (2 ^ i)).getLsbD j.val = decide (i = j.val) := fun i => by
    rw [BitVec.getLsbD_ofNat, Nat.testBit_two_pow, decide_eq_true j.isLt, Bool.true_and]
  induction l generalizing m with
  | nil => simp
  | cons i l ih =>
    rw [List.foldl_cons, ih]
    by_cases hp : p i
    · rw [if_pos hp, BitVec.getLsbD_or, hbit, Bool.or_assoc, ← Bool.decide_or]
      congr 1
      refine decide_eq_decide.2 ?_
      rw [List.mem_cons]
      grind
    · rw [if_neg hp]
      congr 1
      refine decide_eq_decide.2 ?_
      rw [List.mem_cons]
      grind

/-- Every doubleword of a line that some of `n` bytes at `a` lie in is in the mask. -/
theorem dwMask_bit (line a n : Nat) (j : Fin 16) : (dwMask line a n).getLsbD j.val =
    decide (line * 128 + 8 * j.val < a + n ∧ a < line * 128 + 8 * j.val + 8) := by
  unfold dwMask
  rw [foldl_mask_bit (fun i => line * 128 + 8 * i < a + n ∧ a < line * 128 + 8 * i + 8)]
  simp

/-- Bytes within one line have that line alone. -/
theorem linesOf_one {a n : Nat} (h : a / 128 = (a + n - 1) / 128) : linesOf a n = [a / 128] := by
  have hc : ceilDiv (a % 128 + max n 1) 128 = 1 := by
    unfold ceilDiv; omega
  unfold linesOf
  rw [hc]
  rfl

/-- A ticket as it joins `mask` of a line to its write set: at `place` of its slot where the line is new. -/
def TicketRec.join (first : Bool) (line : Nat) (mask : BitVec 16) (key : Fin 4) (q : TicketRec) : TicketRec :=
  { q with ws := if first then q.ws ++ [{ line := line, mask := mask, key := key, place := key.val * 32 + line % 32 }]
    else q.ws.map (fun w => if w.line = line then { w with mask := w.mask ||| mask } else w) }

theorem TicketRec.join_arrival (first : Bool) (line : Nat) (mask : BitVec 16) (key : Fin 4) (q : TicketRec) :
    (q.join first line mask key).arrival = q.arrival := rfl

/-- The line copied to its before-image, where `first`. -/
def State.imaged (s : State) (first : Bool) (line dst : Nat) : State := if first then s.copyLine line dst else s

/-- The first write of a ticket to a line. -/
def TicketRec.firstTo (q : TicketRec) (line : Nat) : Bool := !q.ws.any (fun w => decide (w.line = line))

theorem State.bytes_mem_congr {s s' : State} (h : s'.mem = s.mem) (a n : Nat) : s'.bytes a n = s.bytes a n := by
  induction n generalizing a with
  | zero => rfl
  | succ n ih => rw [State.bytes, State.bytes, ih, State.byte, State.byte, h]

theorem State.imaged_mem {s s' : State} (h : s'.mem = s.mem) (first : Bool) (line dst : Nat) :
    (s'.imaged first line dst).mem = (if first then s.setBytes (dst * 128) (s.bytes (line * 128) 128) else s).mem := by
  cases first with
  | false => exact h
  | true =>
    show (s'.setBytes (dst * 128) (s'.bytes (line * 128) 128)).mem = _
    rw [State.bytes_mem_congr h]
    exact State.setBytes_mem_congr h _ _

theorem State.imaged_rest (s : State) (first : Bool) (line dst : Nat) : s.imaged first line dst =
    { s with mem := (s.imaged first line dst).mem, poison := (s.imaged first line dst).poison } := by
  cases first with
  | false => rfl
  | true =>
    simp only [State.imaged, State.copyLine, if_true]
    rw [State.setBytes_rest]

/-- Poison travels with a line to its before-image. -/
theorem State.mem_imaged_poison (s : State) (first : Bool) (line dst l : Nat) :
    l ∈ (s.imaged first line dst).poison ↔ if first = true ∧ l = dst then line ∈ s.poison else l ∈ s.poison := by
  cases first with
  | false => simp [State.imaged]
  | true =>
    simp only [State.imaged, State.copyLine, if_true, true_and]
    rw [State.setBytes_rest]
    by_cases hd : l = dst <;> by_cases hp : line ∈ s.poison <;> simp [hd, hp]

/-- A ticket that has a slot writes doublewords of a line. -/
theorem touchLine_counts {s : State} {k line sl : Nat} {m : BitVec 16} {q : TicketRec} (hq : ticketOf s k = some q)
    (hs : q.slot = some sl) :
    CountsOnly (pCourse + q.course.val)
      (modTicket (s.imaged (q.firstTo line) line (biLine s q.course sl ((keyOfLine q line).val * 32 + line % 32))) k
        (TicketRec.join (q.firstTo line) line m (keyOfLine q line))) (touchLine s k line m) := by
  unfold touchLine TicketRec.firstTo State.imaged
  rw [hq]
  cases h : q.ws.any (fun w => decide (w.line = line)) with
  | true =>
    simp only [h, Bool.not_true, Bool.false_eq_true, if_false, if_true]
    exact .refl _ _
  | false =>
    simp only [h, Bool.not_false, Bool.false_eq_true, if_false, if_true, hs]
    exact CountsOnly.count ..

theorem ticketOf_modTicket_self {s : State} {k : Nat} {f : TicketRec → TicketRec} {q : TicketRec}
    (hf : ∀ x, (f x).arrival = x.arrival) (hq : ticketOf s k = some q) : ticketOf (modTicket s k f) k = some (f q) := by
  unfold ticketOf at hq ⊢
  unfold modTicket State.modMason
  rw [List.find?_map, Option.map_eq_some_iff]
  have hp : (fun x : TicketRec => decide (x.arrival = k)) ∘ (fun x => if x.arrival = k then f x else x) =
      fun x => decide (x.arrival = k) := by
    funext x
    simp only [Function.comp]
    split
    next h => rw [hf]
    · rfl
  refine ⟨q, by rw [hp, hq], if_pos ?_⟩
  simpa using List.find?_some hq

theorem ticketOf_modTicket_ne {s : State} {k j : Nat} {f : TicketRec → TicketRec}
    (hf : ∀ x, (f x).arrival = x.arrival) (hj : j ≠ k) : ticketOf (modTicket s k f) j = ticketOf s j := by
  unfold ticketOf modTicket State.modMason
  rw [List.find?_map]
  have hp : (fun x : TicketRec => decide (x.arrival = j)) ∘ (fun x => if x.arrival = k then f x else x) =
      fun x => decide (x.arrival = j) := by
    funext x
    simp only [Function.comp]
    split
    next h => rw [hf]
    · rfl
  rw [hp]
  cases h : s.mason.tickets.find? (fun x => decide (x.arrival = j)) with
  | none => rfl
  | some q =>
    have hq : q.arrival = j := by simpa using List.find?_some h
    rw [Option.map_some, if_neg (by rw [hq]; exact hj)]

/-- The key of a line's frame, where the ticket has one. -/
theorem keyOfLine_spec (q : TicketRec) (line : Nat) (i : Fin 4)
    (h : (q.frames.get i).getLsbD 63 = true ∧ (q.frames.get i).toNat / 4096 % 2 ^ 36 = line / 32) :
    (q.frames.get (keyOfLine q line)).getLsbD 63 = true ∧
      (q.frames.get (keyOfLine q line)).toNat / 4096 % 2 ^ 36 = line / 32 := by
  unfold keyOfLine
  cases hk : (List.finRange 4).find? (fun i =>
      decide ((q.frames.get i).getLsbD 63 = true ∧ bitsNat (q.frames.get i) 47 12 = line / 32)) with
  | none =>
    have hi := List.find?_eq_none.1 hk i (List.mem_finRange i)
    exact absurd (decide_eq_true h) hi
  | some j => simpa [bitsNat] using List.find?_some hk

/-- The oldest store, through a brick, of a tile that runs ticket `k`: what it leaves, but for events counted. -/
def State.ticketed (s : State) (t : TileId) (e : StoreEntry) (r : List StoreEntry) (k sl : Nat) (q : TicketRec) : State :=
  let line := e.pa / 128
  let key := keyOfLine q line
  let s := (s.setTile t { (s.tile t) with sbuf := r }).imaged (q.firstTo line) line
    (biLine s q.course sl (key.val * 32 + line % 32))
  (modTicket s k (TicketRec.join (q.firstTo line) line (dwMask line e.pa e.bytes.length) key)).plainStore e

theorem drainOne_ticketed {s : State} {t : TileId} {e : StoreEntry} {r : List StoreEntry} {k sl : Nat} {q : TicketRec}
    (hs : (s.tile t).sbuf = e :: r) (hp : plainPa s e.pa = true) (hb : e.brick = true) (hk : (s.tile t).tk = some k)
    (hq : ticketOf s k = some q) (hsl : q.slot = some sl) (h1 : e.pa / 128 = (e.pa + e.bytes.length - 1) / 128) :
    CountsOnly (pCourse + q.course.val) (s.ticketed t e r k sl q) (drainOne s t) := by
  have hd : drainOne s t = (touchLine (s.setTile t { (s.tile t) with sbuf := r }) k (e.pa / 128)
      (dwMask (e.pa / 128) e.pa e.bytes.length)).plainStore e := by
    unfold drainOne
    rw [hs]
    show storeEffect (s.setTile t { (s.tile t) with sbuf := r }) t e = _
    have hp' : plainPa (s.setTile t { (s.tile t) with sbuf := r }) e.pa = true := (plainPa_congr rfl _).trans hp
    unfold storeEffect
    split
    next h => simp [plainPa, h] at hp'
    next h => simp [plainPa, h] at hp'
    · rw [if_pos hb, State.tile_setTile_self, hk, brickWrite, linesOf_one h1]
      rfl
  have c : CountsOnly _ _ (touchLine (s.setTile t { (s.tile t) with sbuf := r }) k (e.pa / 128)
    (dwMask (e.pa / 128) e.pa e.bytes.length)) := touchLine_counts hq hsl
  rw [hd]
  exact c.plainStores [e]

/-- What `State.ticketed` changes. -/
theorem State.ticketed_rest (s : State) (t : TileId) (e : StoreEntry) (r : List StoreEntry) (k sl : Nat) (q : TicketRec) :
    s.ticketed t e r k sl q = { s with
      tiles := (s.ticketed t e r k sl q).tiles, mem := (s.ticketed t e r k sl q).mem,
      poison := (s.ticketed t e r k sl q).poison,
      mason := { s.mason with tickets := (s.ticketed t e r k sl q).mason.tickets } } := by
  unfold State.ticketed
  dsimp only
  rw [State.plainStore_rest, State.imaged_rest]
  rfl

theorem State.ticketed_tile (s : State) (t u : TileId) (e : StoreEntry) (r : List StoreEntry) (k sl : Nat) (q : TicketRec) :
    (s.ticketed t e r k sl q).tile u = (s.setTile t { (s.tile t) with sbuf := r }).tile u := by
  unfold State.ticketed
  dsimp only
  rw [State.plainStore_tile, State.imaged_rest]
  rfl

theorem State.ticketed_ticketOf (s : State) (t : TileId) (e : StoreEntry) (r : List StoreEntry) (k sl j : Nat)
    (q : TicketRec) : ticketOf (s.ticketed t e r k sl q) j = ticketOf (modTicket s k (TicketRec.join (q.firstTo (e.pa / 128))
      (e.pa / 128) (dwMask (e.pa / 128) e.pa e.bytes.length) (keyOfLine q (e.pa / 128)))) j := by
  unfold State.ticketed
  dsimp only
  rw [State.plainStore_rest, State.imaged_rest]
  rfl

theorem State.ticketed_byte (s : State) (t : TileId) (e : StoreEntry) (r : List StoreEntry) (k sl : Nat) (q : TicketRec)
    (a : Nat) : (s.ticketed t e r k sl q).byte a =
      ((if q.firstTo (e.pa / 128) then s.setBytes (biLine s q.course sl ((keyOfLine q (e.pa / 128)).val * 32 +
        e.pa / 128 % 32) * 128) (s.bytes (e.pa / 128 * 128) 128) else s).setBytes e.pa e.bytes).byte a := by
  unfold State.ticketed
  dsimp only
  rw [State.plainStore_byte]
  unfold State.byte
  refine congrArg (assocFind · a memDefault) (State.setBytes_mem_congr ?_ _ _)
  exact State.imaged_mem (s' := s.setTile t { (s.tile t) with sbuf := r }) (s := s) rfl _ _ _

/-- Lines that the store does not cover whole. -/
theorem State.mem_ticketed_poison (s : State) (t : TileId) (e : StoreEntry) (r : List StoreEntry) (k sl : Nat)
    (q : TicketRec) {l : Nat} (h1 : e.pa / 128 = (e.pa + e.bytes.length - 1) / 128) (hl : l ≠ e.pa / 128) :
    l ∈ (s.ticketed t e r k sl q).poison ↔ if q.firstTo (e.pa / 128) = true ∧
      l = biLine s q.course sl ((keyOfLine q (e.pa / 128)).val * 32 + e.pa / 128 % 32) then e.pa / 128 ∈ s.poison
      else l ∈ s.poison := by
  have hc : ¬ (e.pa ≤ l * 128 ∧ l * 128 + 128 ≤ e.pa + e.bytes.length) := by omega
  unfold State.ticketed
  dsimp only
  rw [State.plainStore_poison, List.mem_filter]
  simp only [hc, decide_false, Bool.not_false, and_true]
  exact State.mem_imaged_poison ..

/-- The second half of O11: what `State.ticketed` leaves, with events of the course's page counted. -/
theorem ticketedStores : Says.TicketedStores := by
  intro t s e r k q sl hl hs hp hb hk hq hsl h0 h1 line first slot
  have hc := drainOne_ticketed hs hp hb hk hq hsl h1
  have hm : (drainOne s t).mason = (s.ticketed t e r k sl q).mason := by rw [hc.rest]
  have hfirst : q.firstTo line = true ↔ first := by simp [TicketRec.firstTo, first]
  have hslot : biLine s q.course sl ((keyOfLine q line).val * 32 + line % 32) =
      slot + (keyOfLine q line).val * 32 + line % 32 := (Nat.add_assoc ..).symm
  refine ⟨drainOne s t, dwMask line e.pa e.bytes.length, keyOfLine q line, storeBufferDrain_live hl,
    dwMask_bit _ _ _, ?_, ?_, keyOfLine_spec q line, ?_, ?_, ?_, ?_, ?_, ?_, ?_⟩
  · rw [hc.tile, State.ticketed_tile, State.tile_setTile_self]
  · intro u hu
    rw [hc.tile, State.ticketed_tile, State.tile_setTile_ne _ _ hu]
  · rw [show ticketOf (drainOne s t) k = ticketOf (s.ticketed t e r k sl q) k by unfold ticketOf; rw [hm],
      State.ticketed_ticketOf, ticketOf_modTicket_self (TicketRec.join_arrival _ _ _ _) hq]
    simp only [← hfirst]
    rfl
  · intro j hj
    rw [show ticketOf (drainOne s t) j = ticketOf (s.ticketed t e r k sl q) j by unfold ticketOf; rw [hm],
      State.ticketed_ticketOf, ticketOf_modTicket_ne (TicketRec.join_arrival _ _ _ _) hj]
  · intro a
    rw [show (drainOne s t).byte a = (s.ticketed t e r k sl q).byte a by rw [hc.rest]; rfl, State.ticketed_byte]
    simp only [← hslot, ← hfirst]
    rfl
  · intro a ha _
    rw [hc.regs a ha, State.ticketed_rest]
    rfl
  · intro l hl1 hl2
    rw [show (drainOne s t).poison = (s.ticketed t e r k sl q).poison by rw [hc.rest],
      State.mem_ticketed_poison s t e r k sl q h1 hl1, if_neg (fun h => hl2 (hfirst.1 h.1) (h.2.trans hslot))]
  · intro hf hne
    rw [show (drainOne s t).poison = (s.ticketed t e r k sl q).poison by rw [hc.rest],
      State.mem_ticketed_poison s t e r k sl q h1 hne, if_pos ⟨hfirst.2 hf, hslot.symm⟩]
  · rw [hc.rest, State.ticketed_rest]

/-- Settles O11: its two halves. -/
theorem storesAndMissesFinish : Obligations.StoresAndMissesFinish := ⟨storesAndMissesFinish_plain, ticketedStores⟩

end Sys2Proof.Machine
end


section
/-! PROOFS. What every operation of the model keeps (O59): the relation from a state to a later one, its rules for the
operations of the state, and its rules for results. In this section and in those that follow `Elab.async false` only keeps
Lean from using many threads at once, as in the tests. -/

namespace Sys2Proof.Machine

set_option Elab.async false

/-- A tile after an operation: its return stack stays within its 8 entries (spec/03 R108), and its commit window, its LRS and
its Kiln queue have not grown. -/
structure TileKeeps (x y : Tile) : Prop where
  rstackFits : x.rstack.length ≤ 8 → y.rstack.length ≤ 8
  windowLe : y.window.length ≤ x.window.length
  lrsLe : y.lrs.length ≤ x.lrs.length
  queueLe : y.kiln.queue.length ≤ x.kiln.queue.length

/-- A state after operations that let no load and no Kiln instruction issue: memory and the control registers stay canonical, the
machine-check queue and the standby store stay within their bounds, and so does every tile. -/
structure Keeps (s s' : State) : Prop where
  canonMem : Memory.wf s.mem = true → Memory.wf s'.mem = true
  canonRegs : risingFrom 0 s.regs = true → risingFrom 0 s'.regs = true
  mcqFits : s.mcq.length ≤ 32 → s'.mcq.length ≤ 32
  storeFits : s.sby.store.length ≤ 16 → s'.sby.store.length ≤ 16
  tileKeeps : ∀ t, TileKeeps (s.tile t) (s'.tile t)

/-! ## Tiles -/

namespace TileKeeps

variable {x y z : Tile}

theorem refl (x : Tile) : TileKeeps x x := ⟨id, le_rfl, le_rfl, le_rfl⟩

theorem trans (h : TileKeeps x y) (k : TileKeeps y z) : TileKeeps x z :=
  ⟨fun l => k.rstackFits (h.rstackFits l), k.windowLe.trans h.windowLe, k.lrsLe.trans h.lrsLe, k.queueLe.trans h.queueLe⟩

/-- The return stack, the commit window and the Kiln queue are as they were. -/
theorem same (h : TileKeeps x y) (hr : z.rstack = y.rstack := by rfl) (hw : z.window = y.window := by rfl)
    (hq : z.kiln.queue = y.kiln.queue := by rfl) : TileKeeps x z :=
  h.trans ⟨fun l => hr ▸ l, hw ▸ le_rfl, by rw [Tile.lrs, hw]; rfl, hq ▸ le_rfl⟩

/-- Fields of a literal tile that the invariant does not speak of. -/
theorem other (h : TileKeeps x y) {run pc lvl ie ticket bank banks bb bwin exS exK tcmp iens mcPend efwin ef sbuf units long itlb
    dtlb tk icnt tcc kcnt recWait kiln} (hq : kiln.queue = y.kiln.queue := by rfl) :
    TileKeeps x { y with run, pc, lvl, ie, ticket, bank, banks, bb, bwin, exS, exK, tcmp, iens, mcPend, efwin, ef, sbuf, units,
                         long, itlb, dtlb, tk, icnt, tcc, kcnt, recWait, kiln } := h.same (hq := hq)

theorem ite {c : Prop} [Decidable c] (hy : TileKeeps x y) (hz : TileKeeps x z) : TileKeeps x (if c then y else z) := by
  split
  · exact hy
  · exact hz

/-- The commit window is empty. -/
theorem emptied (h : TileKeeps x y) (hw : z.window = [] := by rfl) (hr : z.rstack = y.rstack := by rfl)
    (hq : z.kiln.queue = y.kiln.queue := by rfl) : TileKeeps x z :=
  h.trans ⟨fun l => hr ▸ l, by simp [hw], by simp [Tile.lrs, hw], hq ▸ le_rfl⟩

theorem foldl {α : Type} {f : Tile → α → Tile} {l : List α} (h : TileKeeps x y)
    (hf : ∀ z i, TileKeeps x z → TileKeeps x (f z i)) : TileKeeps x (l.foldl f y) := by
  induction l generalizing y with
  | nil => exact h
  | cons i l ih => exact ih (hf _ _ h)

end TileKeeps

/-! ## States -/

namespace Keeps

variable {s₀ s s' : State}

theorem of_tiles (e : s'.tiles = s.tiles) (t : TileId) : TileKeeps (s.tile t) (s'.tile t) := by
  simp only [State.tile, e, TileKeeps.refl]

theorem refl (s : State) : Keeps s s := ⟨id, id, id, id, fun _ => .refl _⟩

theorem trans (h : Keeps s₀ s) (k : Keeps s s') : Keeps s₀ s' :=
  ⟨fun l => k.canonMem (h.canonMem l), fun l => k.canonRegs (h.canonRegs l), fun l => k.mcqFits (h.mcqFits l),
    fun l => k.storeFits (h.storeFits l), fun t => (h.tileKeeps t).trans (k.tileKeeps t)⟩

/-- Fields that the invariant does not speak of may change. -/
theorem same (h : Keeps s₀ s) (hm : s'.mem = s.mem := by rfl) (hr : s'.regs = s.regs := by rfl)
    (hq : s'.mcq = s.mcq := by rfl) (hs : s'.sby.store = s.sby.store := by rfl) (ht : s'.tiles = s.tiles := by rfl) :
    Keeps s₀ s' :=
  h.trans ⟨fun l => hm ▸ l, fun l => hr ▸ l, fun l => hq ▸ l, fun l => hs ▸ l, of_tiles ht⟩

/-- The standby store is empty. -/
theorem emptyStore (h : Keeps s₀ s) (hs : s'.sby.store = [] := by rfl) (hm : s'.mem = s.mem := by rfl)
    (hr : s'.regs = s.regs := by rfl) (hq : s'.mcq = s.mcq := by rfl) (ht : s'.tiles = s.tiles := by rfl) : Keeps s₀ s' :=
  h.trans ⟨fun l => hm ▸ l, fun l => hr ▸ l, fun l => hq ▸ l, fun _ => by simp [hs], of_tiles ht⟩

/-- Control registers may change as they do in another state that is kept. -/
theorem withRegs (h : Keeps s₀ s) (k : Keeps s₀ s') : Keeps s₀ { s with regs := s'.regs } :=
  ⟨h.canonMem, k.canonRegs, h.mcqFits, h.storeFits, h.tileKeeps⟩

/-- Fields of a literal state that the invariant does not speak of. -/
theorem other (h : Keeps s₀ s) {pending freeCtr courses poison posted stopped capturing holdWait calShadow reply replyEp mason hwj
    links e2e loopq clk sby fuses tap boot dmaKeys aer pcieDown} (hs : sby.store = s.sby.store := by rfl) :
    Keeps s₀ { s with pending, freeCtr, courses, poison, posted, stopped, capturing, holdWait, calShadow, reply, replyEp, mason,
                      hwj, links, e2e, loopq, clk, sby, fuses, tap, boot, dmaKeys, aer, pcieDown } := h.same (hs := hs)

theorem of_regsOnly (h : Keeps s₀ s) (r : RegsOnly s s') : Keeps s₀ s' :=
  h.trans ⟨fun l => by rw [r.mem]; exact l, r.2, fun l => by rw [r.mcq]; exact l, fun l => by rw [r.sby]; exact l,
    of_tiles r.tiles⟩

theorem ite {c : Prop} [Decidable c] {x y : State} (hx : Keeps s₀ x) (hy : Keeps s₀ y) : Keeps s₀ (if c then x else y) := by
  split
  · exact hx
  · exact hy

theorem foldl {α : Type} {f : State → α → State} {l : List α} (h : Keeps s₀ s)
    (hf : ∀ s i, Keeps s₀ s → Keeps s₀ (f s i)) : Keeps s₀ (l.foldl f s) := by
  induction l generalizing s with
  | nil => exact h
  | cons i l ih => exact ih (hf _ _ h)

theorem foldlSnd {α β : Type} {f : β × State → α → β × State} {l : List α} {p : β × State} (h : Keeps s₀ p.2)
    (hf : ∀ p i, Keeps s₀ p.2 → Keeps s₀ (f p i).2) : Keeps s₀ (l.foldl f p).2 := by
  induction l generalizing p with
  | nil => exact h
  | cons i l ih => exact ih (hf _ _ h)

theorem getD {o : Option State} (h : Keeps s₀ s) (ho : ∀ s', o = some s' → Keeps s₀ s') : Keeps s₀ (o.getD s) := by
  cases o with
  | none => exact h
  | some s' => exact ho s' rfl

/-- Go on from a state that is kept. -/
theorem andThen (h : Keeps s₀ s) (f : Keeps s₀ s → Keeps s₀ s') : Keeps s₀ s' := f h

/-- The state of a pair that an equation names. -/
theorem snd {α : Type} {p : α × State} {a : α} (h : Keeps s₀ p.2) (e : p = (a, s)) : Keeps s₀ s := by
  rw [e] at h; exact h

/-- The state of a triple that an equation names. -/
theorem third {α β : Type} {p : α × β × State} {a : α} {b : β} (h : Keeps s₀ p.2.2) (e : p = (a, b, s)) : Keeps s₀ s := by
  rw [e] at h; exact h

theorem putMem (h : Keeps s₀ s) (hm : Memory.wf s.mem = true → Memory.wf s'.mem = true)
    (e : s' = { s with mem := s'.mem } := by rfl) : Keeps s₀ s' :=
  h.trans ⟨hm, fun l => by rw [e]; exact l, fun l => by rw [e]; exact l, fun l => by rw [e]; exact l,
    fun t => by rw [e]; exact .refl _⟩

/-! ## Memory -/

theorem setByte (h : Keeps s₀ s) {a : Nat} {b : Byte} : Keeps s₀ (s.setByte a b) := h.putMem (Memory.wf_setByte s a b)

theorem setBytes (h : Keeps s₀ s) {a : Nat} {bs : List Byte} : Keeps s₀ (s.setBytes a bs) :=
  h.putMem (Memory.wf_setBytes s a bs) (State.setBytes_rest s a bs)

theorem setMemNat (h : Keeps s₀ s) {a n v : Nat} : Keeps s₀ (s.setMemNat a n v) := h.setBytes
theorem setDword (h : Keeps s₀ s) {a : Nat} {v : Word} : Keeps s₀ (s.setDword a v) := h.setMemNat
theorem fill (h : Keeps s₀ s) {a n : Nat} {b : Byte} : Keeps s₀ (s.fill a n b) := h.setBytes
theorem unpoison (h : Keeps s₀ s) {a n : Nat} : Keeps s₀ (s.unpoison a n) := h.same
theorem zeroRange (h : Keeps s₀ s) {a n : Nat} : Keeps s₀ (s.zeroRange a n) := by
  have k : Keeps s₀ { s with mem := s.mem.filter (fun c => decide (c.1 < a ∨ a + n ≤ c.1)) } :=
    h.putMem (fun l => Memory.wf_filter _ l)
  exact k.unpoison

/-! ## Tiles, courses, links, units -/

theorem drew (h : Keeps s₀ s) : Keeps s₀ s.drew := h.same
theorem modCourse (h : Keeps s₀ s) {c : CourseId} {f : Course → Course} : Keeps s₀ (s.modCourse c f) := h.same
theorem modLink (h : Keeps s₀ s) {k : LinkId} {f : Link → Link} : Keeps s₀ (s.modLink k f) := h.same
theorem modMason (h : Keeps s₀ s) {f : Mason → Mason} : Keeps s₀ (s.modMason f) := h.same
theorem modHwj (h : Keeps s₀ s) {f : Hwj → Hwj} : Keeps s₀ (s.modHwj f) := h.same

theorem setTile (h : Keeps s₀ s) {t : TileId} {x : Tile} (hx : TileKeeps (s.tile t) x) : Keeps s₀ (s.setTile t x) := by
  refine h.trans ⟨id, id, id, id, fun u => ?_⟩
  by_cases e : u = t
  · rw [e, State.tile_setTile_self]; exact hx
  · rw [State.tile_setTile_ne _ _ e]; exact .refl _

theorem modTile (h : Keeps s₀ s) {t : TileId} {f : Tile → Tile}
    (hf : ∀ x, TileKeeps x (f x) := by exact fun _ => (TileKeeps.refl _).same) : Keeps s₀ (s.modTile t f) :=
  h.setTile (hf _)

/-- A tile is put that keeps the bounds of the tile at the start. -/
theorem putTile (h : Keeps s₀ s) {t : TileId} {x : Tile} (hx : TileKeeps (s₀.tile t) x) : Keeps s₀ (s.setTile t x) := by
  refine ⟨h.canonMem, h.canonRegs, h.mcqFits, h.storeFits, fun u => ?_⟩
  by_cases e : u = t
  · rw [e, State.tile_setTile_self]; exact hx
  · rw [State.tile_setTile_ne _ _ e]; exact h.tileKeeps u

/-- Every tile of the device changes alike. -/
theorem mapTiles (h : Keeps s₀ s) {f : Tile → Tile} (hf : ∀ x, TileKeeps x (f x))
    (e : s' = { s with tiles := s.tiles.map f }) : Keeps s₀ s' :=
  h.trans ⟨fun l => by rw [e]; exact l, fun l => by rw [e]; exact l, fun l => by rw [e]; exact l, fun l => by rw [e]; exact l,
    fun t => by rw [e]; simpa [State.tile, Vector.get_eq_getElem] using hf _⟩

/-! ## Control registers -/

theorem setReg (h : Keeps s₀ s) {a : Nat} {v : Word} : Keeps s₀ (s.setReg a v) := h.of_regsOnly (.setReg ..)
theorem setFld (h : Keeps s₀ s) {a hi lo v : Nat} : Keeps s₀ (s.setFld a hi lo v) := h.setReg
theorem incSat (h : Keeps s₀ s) {a w n : Nat} : Keeps s₀ (s.incSat a w n) := h.setReg
theorem resetRegs (h : Keeps s₀ s) {p : Nat → Bool} : Keeps s₀ (s.resetRegs p) :=
  h.of_regsOnly ⟨rfl, State.rising_resetRegs s p⟩
theorem bell (h : Keeps s₀ s) {t b : Nat} : Keeps s₀ (s.bell t b) := h.setReg
theorem evCountQ (h : Keeps s₀ s) {p src k : Nat} {q : Nat → Bool} : Keeps s₀ (s.evCountQ p src q k) :=
  h.of_regsOnly (.evCountQ ..)
theorem evCount (h : Keeps s₀ s) {p src k : Nat} : Keeps s₀ (s.evCount p src k) := h.evCountQ
theorem raise (h : Keeps s₀ s) {p k : Nat} : Keeps s₀ (s.raise p k) := h.of_regsOnly (.raise ..)
theorem logErr (h : Keeps s₀ s) {p kind d src : Nat} {v : Word} : Keeps s₀ (s.logErr p kind d src v) :=
  h.of_regsOnly (.logErr ..)
theorem cmdStat (h : Keeps s₀ s) {p code st : Nat} : Keeps s₀ (s.cmdStat p code st) := h.setReg
theorem cmdDone (h : Keeps s₀ s) {p st : Nat} : Keeps s₀ (s.cmdDone p st) := h.setFld

/-! ## The machine-check queue and the standby store -/

theorem tiles_standbyPush (s : State) (m : Word × Word) : (s.standbyPush m).tiles = s.tiles := by
  unfold State.standbyPush
  split <;> rfl

theorem tiles_mcPush (s : State) (k p i : Nat) : (s.mcPush k p i).tiles = s.tiles := by
  unfold State.mcPush
  split
  · exact tiles_standbyPush ..
  · rfl

theorem standbyPush (h : Keeps s₀ s) {m : Word × Word} : Keeps s₀ (s.standbyPush m) := by
  refine h.trans ⟨fun l => ?_, fun l => ?_, fun l => ?_, State.store_standbyPush s m,
    of_tiles (tiles_standbyPush s m)⟩
  · rwa [State.mem_standbyPush]
  · rwa [State.regs_standbyPush]
  · rwa [State.mcq_standbyPush]

theorem mcPush (h : Keeps s₀ s) {k p i : Nat} : Keeps s₀ (s.mcPush k p i) := by
  refine h.trans ⟨fun l => ?_, State.rising_mcPush s k p i, State.mcq_mcPush s k p i, State.store_mcPush s k p i,
    of_tiles (tiles_mcPush s k p i)⟩
  rwa [State.mem_mcPush]

theorem command (h : Keeps s₀ s) {p src code st : Nat} {d a : Bool} {run : State → State}
    (hr : ∀ s, Keeps s₀ s → Keeps s₀ (run s)) : Keeps s₀ (s.command p src code d a st run) :=
  .ite h.logErr (.ite h.cmdStat.logErr (.ite h.cmdStat.logErr (hr _ h.cmdStat)))

end Keeps

/-! ## The invariant -/

namespace Keeps

variable {s₀ s s' : State}

/-- What keeps the bounds keeps the invariant. -/
theorem inv (h : Keeps s₀ s) (i : Says.Inv s₀) : Says.Inv s := by
  obtain ⟨hm, hr, hq, hs, ht⟩ := i
  refine ⟨h.canonMem hm, h.canonRegs hr, h.mcqFits hq, h.storeFits hs, fun t => ?_⟩
  obtain ⟨h1, h2, h3, h4⟩ := ht t
  have k := h.tileKeeps t
  exact ⟨k.rstackFits h1, k.windowLe.trans h2, k.lrsLe.trans h3, k.queueLe.trans h4⟩

/-- A tile with a longer commit window or Kiln queue that is within its bounds is put. -/
theorem inv_setTile (i : Says.Inv s) {t : TileId} {x : Tile} (hr : x.rstack.length ≤ 8) (hw : x.window.length ≤ 8)
    (hl : x.lrs.length ≤ 4) (hq : x.kiln.queue.length ≤ 16) : Says.Inv (s.setTile t x) := by
  obtain ⟨hm, hg, hc, hs, ht⟩ := i
  refine ⟨hm, hg, hc, hs, fun u => ?_⟩
  by_cases e : u = t
  · rw [e, State.tile_setTile_self]
    exact ⟨hr, hw, hl, hq⟩
  · rw [State.tile_setTile_ne _ _ e]
    exact ht u

/-- A property that whatever keeps the bounds keeps, such as the invariant. -/
def Closed (P : State → Prop) : Prop := ∀ x y, Keeps x y → P x → P y

theorem closed_keeps (s₀ : State) : Closed (Keeps s₀) := fun _ _ k h => h.trans k

theorem closed_inv : Closed Says.Inv := fun _ _ k i => k.inv i

end Keeps

/-! ## Results -/

/-- Every state that a result can leave has `P`. -/
inductive R.All {α : Type} (P : State → Prop) : R α → Prop
  | ok {a : α} {s : State} : P s → R.All P (.ok a s)
  | exc {e : Exc} {s : State} : P s → R.All P (.exc e s)
  | halt {s : State} : P s → R.All P (.halt s)

namespace R.All

variable {α β : Type} {P : State → Prop} {s : State}

theorem bind {r : R α} {f : α → State → R β} (h : R.All P r) (hf : ∀ a s, P s → R.All P (f a s)) :
    R.All P (r.bind f) := by
  cases h with
  | ok h => exact hf _ _ h
  | exc h => exact .exc h
  | halt h => exact .halt h

/-- The first computation keeps `P`, which gives `Q`; the second is only known to keep `Q`. -/
theorem bind_to {Q : State → Prop} {r : R α} {f : α → State → R β} (h : R.All P r) (hp : ∀ s, P s → Q s)
    (hf : ∀ a s, P s → R.All Q (f a s)) : R.All Q (r.bind f) := by
  cases h with
  | ok h => exact hf _ _ h
  | exc h => exact .exc (hp _ h)
  | halt h => exact .halt (hp _ h)

theorem ite {c : Prop} [Decidable c] {x y : R α} (hx : R.All P x) (hy : R.All P y) : R.All P (if c then x else y) := by
  split
  · exact hx
  · exact hy

theorem mono {Q : State → Prop} {r : R α} (h : R.All P r) (hp : ∀ s, P s → Q s) : R.All Q r := by
  cases h with
  | ok h => exact .ok (hp _ h)
  | exc h => exact .exc (hp _ h)
  | halt h => exact .halt (hp _ h)

theorem of_ok {r : R α} {a : α} (h : R.All P r) (e : r = .ok a s) : P s := by subst e; cases h; assumption
theorem of_exc {r : R α} {x : Exc} (h : R.All P r) (e : r = .exc x s) : P s := by subst e; cases h; assumption
theorem of_halt {r : R α} (h : R.All P r) (e : r = .halt s) : P s := by subst e; cases h; assumption

end R.All

/-- What a part of a unit leaves: a state that keeps the bounds, and a value with `Q`. -/
inductive UAll {α : Type} (s₀ : State) (Q : α → Prop) : URes α → Prop
  | ok {a : α} {u : USt} {s : State} : Q a → Keeps s₀ s → UAll s₀ Q (.ok a u s)
  | exc {e : Exc} {u : USt} {s : State} : Keeps s₀ s → UAll s₀ Q (.exc e u s)
  | halt {s : State} : Keeps s₀ s → UAll s₀ Q (.halt s)

/-- A part of a unit keeps the bounds, and its value has `Q`. -/
structure UKeeps {α : Type} (Q : α → Prop) (m : UM α) : Prop where
  all : ∀ (s₀ s : State) (u : USt), Keeps s₀ s → UAll s₀ Q (m u s)

theorem UKeeps.ret {α : Type} {Q : α → Prop} {a : α} (h : Q a) : UKeeps Q (UM.ret a) := ⟨fun _ _ _ k => .ok h k⟩

/-- What a unit leaves keeps the bounds of a tile. -/
def OutKeeps (o : UOut) : Prop := ∀ x, TileKeeps x (o.f x)

/-- The first or the second way that something goes. -/
theorem of_inl {α β : Type} {P : α → Prop} {Q : β → Prop} {x : α ⊕ β} {a : α} (h : Sum.elim P Q x) (e : x = .inl a) : P a := by
  rw [e] at h; exact h

theorem of_inr {α β : Type} {P : α → Prop} {Q : β → Prop} {x : α ⊕ β} {b : β} (h : Sum.elim P Q x) (e : x = .inr b) : Q b := by
  rw [e] at h; exact h

/-- Every next state that a command answers has `P`. -/
def Answers (P : State → Prop) (o : Host.Outcome State Fault Refusal) : Prop := ∀ s, o = .next s → P s

theorem Answers.next {P : State → Prop} {s : State} (h : P s) : Answers P (Machine.next s) := by
  rintro _ ⟨⟩; exact h

end Sys2Proof.Machine
end

section
/-! PROOFS. What the operations of one tile keep of its bounds (O59): registers, the commit window, the frames, and its Kiln
file. -/

namespace Sys2Proof.Machine

set_option Elab.async false

namespace TileKeeps

variable {x y : Tile}

/-! ## Registers -/

theorem modBankAt (h : TileKeeps x y) {b : Fin 16} {f : Bank → Bank} : TileKeeps x (y.modBankAt b f) := h.same
theorem modBank (h : TileKeeps x y) {f : Bank → Bank} : TileKeeps x (y.modBank f) := h.same
theorem putBank (h : TileKeeps x y) {b : Fin 16} {k : Bank} : TileKeeps x (y.putBank b k) := h.same
theorem setG (h : TileKeeps x y) {r : BitVec 5} {v : Word} : TileKeeps x (y.setG r v) := h.same
theorem setD (h : TileKeeps x y) {r : BitVec 4} {v : BitVec 128} : TileKeeps x (y.setD r v) := h.same
theorem setP (h : TileKeeps x y) {r : BitVec 3} {v : Bool} : TileKeeps x (y.setP r v) := by
  unfold Tile.setP
  exact .ite h h.modBank
theorem setPair (h : TileKeeps x y) {d : BitVec 4} {v : BitVec 128 × BitVec 128} : TileKeeps x (y.setPair d v) := h.setD.setD
theorem orI (h : TileKeeps x y) {m : Word} : TileKeeps x (y.orI m) := h.modBank
theorem orD (h : TileKeeps x y) {m : BitVec 8} : TileKeeps x (y.orD m) := h.modBank
theorem orF (h : TileKeeps x y) {m : BitVec 5} : TileKeeps x (y.orF m) := h.modBank
theorem setEx (h : TileKeeps x y) {l : Level} {f : ExRegs → ExRegs} : TileKeeps x (y.setEx l f) := by
  unfold Tile.setEx
  exact .ite h.same h.same
theorem efStep (h : TileKeeps x y) : TileKeeps x y.efStep := by
  unfold Tile.efStep
  exact .ite h.same h
theorem efWrite (h : TileKeeps x y) {v : Word} : TileKeeps x (efWrite y v) := by
  unfold Machine.efWrite
  exact efStep (.ite h.same (.ite h.same h))
theorem bwStep (h : TileKeeps x y) : TileKeeps x y.bwStep := by
  unfold Tile.bwStep
  exact .ite h.same h
theorem ddivsWrite (h : TileKeeps x y) {z : Bool} {dq dp : BitVec 4} {w v : Dec} : TileKeeps x (ddivsWrite z dq dp w v y) := by
  unfold Machine.ddivsWrite
  exact h.setPair.setD
theorem xAdvance (h : TileKeeps x y) {ga gb : BitVec 5} {n left : Nat} {neg : Bool} :
    TileKeeps x (xAdvance ga gb n left neg y) := by
  unfold Machine.xAdvance
  exact h.setG.setG
theorem cpsEnd (h : TileKeeps x y) {p : BitVec 3} {r : BitVec 5} : TileKeeps x (cpsEnd p r y) := h.setG.setP
theorem cpsHit (h : TileKeeps x y) {p : BitVec 3} {r : BitVec 5} {b : Bool} : TileKeeps x (cpsHit p r b y) := h.setG.setP
theorem ttsEnd (h : TileKeeps x y) {p : BitVec 3} {r : BitVec 5} : TileKeeps x (ttsEnd p r y) := h.setG.setP
theorem edMark (h : TileKeeps x y) {m : Option (BitVec 5)} {v : Option Word} : TileKeeps x (edMark m v y) := by
  unfold Machine.edMark
  split
  · exact h.setG
  · exact h

/-! ## The commit window, the return stack, and the Kiln queue -/

/-- Loads that retire leave the window. -/
theorem discardWindow (h : TileKeeps x y) : TileKeeps x y.discardWindow := by
  unfold Tile.discardWindow
  split
  · exact h
  · exact h.emptied

theorem completeLrs (h : TileKeeps x y) : TileKeeps x y.completeLrs :=
  (h.foldl (f := fun z (e : WinEntry) => z.setG e.rt e.value) fun _ _ k => k.setG).emptied

/-- No Kiln instruction is queued. -/
theorem emptyQueue (h : TileKeeps x y) (hq : z.kiln.queue = [] := by rfl) (hr : z.rstack = y.rstack := by rfl)
    (hw : z.window = y.window := by rfl) : TileKeeps x z :=
  h.trans ⟨fun l => hr ▸ l, hw ▸ le_rfl, by rw [Tile.lrs, hw]; rfl, by simp [hq]⟩

/-- The return stack is empty. -/
theorem cleared {z : Tile} (h : TileKeeps x y) (hr : z.rstack = [] := by rfl) (hw : z.window = y.window := by rfl)
    (hq : z.kiln.queue = y.kiln.queue := by rfl) : TileKeeps x z :=
  h.trans ⟨fun _ => by simp [hr], hw ▸ le_rfl, by rw [Tile.lrs, hw]; rfl, hq ▸ le_rfl⟩

/-- The Kiln file changes, and its queue does not grow. -/
theorem withKiln (h : TileKeeps x y) {k : KFile} (hk : k.queue.length ≤ y.kiln.queue.length) :
    TileKeeps x { y with kiln := k } := h.trans ⟨id, le_rfl, le_rfl, hk⟩

theorem reteTile (h : TileKeeps x y) {bs : List Byte} : TileKeeps x (reteTile y bs) := by
  unfold Machine.reteTile
  exact setG (setG (setG (setG (h.setEx.cleared))))

theorem rpush (h : TileKeeps x y) {t : TileId} {a : Word} : TileKeeps x (rpush t a y) := by
  unfold Machine.rpush
  exact .ite (h.trans ⟨fun _ => by simp, le_rfl, le_rfl, le_rfl⟩) h

theorem courseReset (h : TileKeeps x y) : TileKeeps x y.courseReset := h.trans ⟨id, le_rfl, le_rfl, Nat.zero_le _⟩

/-- A miss that completes leaves the LRS, and the window keeps its length. -/
theorem missDone_le (l : List WinEntry) (i : Nat) : (missDone l i).length ≤ l.length ∧
    ((missDone l i).filter (fun e => e.miss)).length ≤ (l.filter (fun e => e.miss)).length := by
  induction l generalizing i with
  | nil => exact ⟨le_rfl, le_rfl⟩
  | cons e l ih =>
    unfold missDone
    split
    · have := ih i
      simp_all
    · split
      · simp_all
      · have := ih (i - 1)
        simp_all

theorem retireDone (h : TileKeeps x y) : TileKeeps x y.retireDone := by
  have k : TileKeeps x ((y.window.takeWhile (fun e => !e.miss)).foldl (fun z e => z.setG e.rt e.value) y) :=
    h.foldl fun _ _ k => k.setG
  have d := (List.dropWhile_sublist (fun e : WinEntry => !e.miss) (l := y.window))
  exact ⟨k.rstackFits, d.length_le.trans h.windowLe, (d.filter _).length_le.trans h.lrsLe, k.queueLe⟩

theorem lrsDeliver (h : TileKeeps x y) {i : Nat} : TileKeeps x (lrsDeliver y i) := by
  unfold Machine.lrsDeliver
  obtain ⟨hw, hl⟩ := missDone_le y.window i
  have k : TileKeeps y { y with window := missDone y.window i } := ⟨id, hw, hl, le_rfl⟩
  exact (h.trans k).retireDone

end TileKeeps

/-! ## The registers of a Kiln file -/

@[simp] theorem KFile.queue_setV (x : KFile) (r : BitVec 5) (v : BitVec 4096) : (x.setV r v).queue = x.queue := rfl
@[simp] theorem KFile.queue_orV (x : KFile) (m : Word) : (x.orV m).queue = x.queue := rfl
@[simp] theorem KFile.queue_withRegs (x : KFile) (u : KRegs) : (x.withRegs u).queue = x.queue := rfl
@[simp] theorem KFile.queue_setM (x : KFile) (r : BitVec 3) (v : BitVec 512) : (x.setM r v).queue = x.queue := by
  unfold KFile.setM
  split <;> rfl

@[simp] theorem KFile.queue_kSetReg (x : KFile) (op : KOp) (q : Nat) (v : BitVec 4096) : (kSetReg x op q v).queue = x.queue := by
  unfold kSetReg
  split
  · exact KFile.queue_setM ..
  · rfl

@[simp] theorem KFile.queue_kBin (x : KFile) (f : KBin) (e : ElemB) (vd va vb : BitVec 5) (m : BitVec 2) :
    (kBin x f e vd va vb m).queue = x.queue := by
  cases f
  case cmpeq | cmplt | cmpltu => exact KFile.queue_setM ..
  all_goals rfl

/-- A decimal result, where it is one, has the queue of what is put. -/
theorem queue_kDecOut {x : KFile} {checks : List (Nat × Nat × Nat × Nat)} {z : Bool} {w : Nat} {ls : List Nat}
    {res : Nat → Dec × Bool} {put : (Nat → Nat) → KFile} {q : List KEntry} {f : KFile}
    (e : kDecOut x checks z w ls res put = .inr f) (hp : ∀ g, (put g).queue = q) : f.queue = q := by
  unfold kDecOut at e
  split at e
  · cases e
  · dsimp only at e
    split at e
    · split at e
      · cases e
      · cases e; exact hp _
    · cases e; exact hp _

theorem queue_kFp {x f : KFile} {g : KFp} {vd va vb : BitVec 5} {m : BitVec 2} (e : kFp x g vd va vb m = .inr f) :
    f.queue = x.queue := by
  unfold kFp at e
  dsimp only at e
  split at e
  · cases e
  · split at e <;> cases e
    · exact KFile.queue_setM ..
    · rfl

theorem queue_kDcmp {x f : KFile} {c : KDCmp} {d : Bool} {md : BitVec 3} {va vb : BitVec 5} {m : BitVec 2}
    (e : kDcmp x c d md va vb m = .inr f) : f.queue = x.queue := by
  unfold kDcmp at e
  dsimp only at e
  split at e <;> cases e
  exact KFile.queue_setM ..

/-- An instruction that makes no memory access changes registers of its file, never the queue. -/
theorem queue_kExec {x f : KFile} {e : KEntry} (h : kExec x e = .inr f) : f.queue = x.queue := by
  unfold kExec at h
  split at h
  case h_1 => cases h; exact KFile.queue_kBin ..
  case h_2 | h_3 | h_4 | h_5 | h_6 | h_7 =>
    dsimp only [kDec, kDdot, kDmulw, kDsum, kDwid, kDnar] at h
    exact queue_kDecOut h fun _ => rfl
  case h_8 => exact queue_kDcmp h
  case h_9 => cases h; exact KFile.queue_setM ..
  case h_10 => exact queue_kFp h
  case h_11 => cases h; exact KFile.queue_setM ..
  case h_12 => cases h; rfl
  case h_13 => exact queue_kDecOut h fun _ => rfl
  case h_14 | h_15 | h_16 => cases h; rfl
  case h_17 => cases h; exact KFile.queue_setM ..
  all_goals cases h; rfl

theorem queue_kLoadAll (s : State) (op : KOp) (p : List KAcc) (x : KFile) : (kLoadAll s op p x).queue = x.queue := by
  unfold kLoadAll
  induction p generalizing x with
  | nil => rfl
  | cons r p ih => rw [List.foldl_cons, ih, KFile.queue_kSetReg]

theorem length_kMark (p : List KAcc) (u : KRegs) (l : List KEntry) : (kMark p u l).length = l.length := by
  induction l with
  | nil => rfl
  | cons e l ih =>
    unfold kMark
    split
    · rfl
    · simp [ih]

/-- The head of a list of Kiln entries, where there is one, has issued. -/
def Issued (l : List KEntry) : Prop := ∀ e, l.head? = some e → e.plan.isSome

theorem issued_kIssued (s : State) (t : TileId) : Issued (kIssued s t) := by
  intro e he
  have := List.mem_of_head? he
  simpa using (List.mem_filter.mp this).2

theorem issued_kMark (p : List KAcc) (u : KRegs) (l : List KEntry) : Issued (kMark p u l) := by
  cases l with
  | nil => simp [Issued, kMark]
  | cons e l =>
    unfold kMark
    split
    · simp [Issued]
    · rename_i hp
      simpa [Issued, Option.isSome_iff_ne_none] using hp

end Sys2Proof.Machine
end

section
/-! PROOFS. What translation, the control pages and the recorders keep (O59). -/

namespace Sys2Proof.Machine
namespace Keeps

set_option Elab.async false

variable {s₀ s : State}

/-! ## Translation -/

theorem installTlb (h : Keeps s₀ s) {t : TileId} {w : TlbOf} {e : TlbEntry} : Keeps s₀ (installTlb s t w e) := by
  fun_cases Machine.installTlb s t w e
  · exact h.modCourse.modTile
  · exact h.modCourse.modTile
  · exact h.modCourse

theorem dropTlb (h : Keeps s₀ s) {t : TileId} {e : TlbEntry} : Keeps s₀ (dropTlb s t e) := by
  unfold Machine.dropTlb
  exact h.modCourse.modTile

theorem findTlb (h : Keeps s₀ s) {t : TileId} {w : TlbOf} {vpn ast : Nat} : Keeps s₀ (findTlb s t w vpn ast).2 := by
  fun_cases Machine.findTlb s t w vpn ast
  case case1 => exact h
  all_goals
    dsimp +zetaDelta only
    refine evCount ?_
    split
    exacts [h.evCount, h.evCount, h]

theorem useTlb (h : Keeps s₀ s) {t : TileId} {w : TlbOf} {c : Ctx} {k : Acc} {va : Word} {n : Nat} {e : TlbEntry} {nread : Nat}
    {retry : Bool} : Sum.elim (R.All (Keeps s₀)) (Keeps s₀) (useTlb s t w c k va n e nread retry) := by
  fun_cases Machine.useTlb s t w c k va n e nread retry
  · exact .exc h
  · exact .exc h
  · exact .exc h
  · exact .ok h.installTlb
  · exact .ok h.dropTlb.setDword.installTlb
  · exact h.dropTlb
  · exact .ok h

theorem translate_fresh (h : Keeps s₀ s) {t : TileId} {w : TlbOf} {c : Ctx} {k : Acc} {va : Word} {n : Nat} {r : R Xl}
    (e : r = (match walk s (va.toNat / 0x4000) c.ast with
      | .fault code sub nr idx => .exc { code, sub, faddr := va, finfo := memInfo c k false nr idx } s
      | .hit e nr =>
        match Machine.useTlb (Machine.installTlb s t w e) t w c k va n e nr false with
        | .inl r => r
        | .inr s => .halt s)) : R.All (Keeps s₀) r := by
  subst e
  split
  · exact .exc h
  · split
    next e => exact of_inl h.installTlb.useTlb e
    next e => exact .halt (of_inr h.installTlb.useTlb e)

theorem translate (h : Keeps s₀ s) {t : TileId} {w : TlbOf} {c : Ctx} {k : Acc} {va : Word} {n : Nat} :
    R.All (Keeps s₀) (translate s t w c k va n) := by
  fun_cases Machine.translate s t w c k va n
  · exact .exc h
  · exact .exc h
  · exact .exc h
  · exact .ok h
  · exact .exc h
  · exact .exc h
  · exact .ok h
  · exact of_inl (h.findTlb.snd ‹_›).useTlb ‹_›
  next e _ e' => exact (evCount (of_inr (h.findTlb.snd e).useTlb e')).translate_fresh rfl
  next e => exact (h.findTlb.snd e).evCount.translate_fresh rfl

/-! ## The registers of the control pages -/

theorem regWrite (h : Keeps s₀ s) {src : Nat} {w : WReq} : Keeps s₀ (regWrite s src w) := by
  fun_cases Machine.regWrite s src w
  · exact h
  · exact h.setReg
  · exact h.setReg.logErr

/-! ## The recorders -/

theorem modRings (h : Keeps s₀ s) {c : CourseId} {f : Rings → Rings} : Keeps s₀ (s.modRings c f) := h.modCourse

theorem ringsPush (h : Keeps s₀ s) {c : CourseId} {rec : List Byte} : Keeps s₀ (ringsPush s c rec) := by
  unfold Machine.ringsPush
  exact .ite h (.ite h.modRings (.ite h.modRings h.modRings.incSat.raise))

theorem recHold (h : Keeps s₀ s) {t : TileId} : Keeps s₀ (recHold s t) := h.modTile

theorem ringsEvent (h : Keeps s₀ s) {t : TileId} {rtype : Nat} {payload : List Byte} :
    Keeps s₀ (ringsEvent s t rtype payload) := by
  unfold Machine.ringsEvent
  exact .ite h (h.modTile.drew.ringsPush.andThen fun k => .ite k k.recHold)

theorem ringsRload (h : Keeps s₀ s) {t : TileId} {addr : Nat} {bs : List Byte} : Keeps s₀ (ringsRload s t addr bs) := by
  unfold Machine.ringsRload
  exact h.foldl (fun _ _ k => k.ringsEvent)

theorem ringsStream (h : Keeps s₀ s) {c : CourseId} {head : Nat} : Keeps s₀ (ringsStream s c head) := by
  fun_cases Machine.ringsStream s c head
  · exact h.evCount
  · exact h

theorem ringsPut (h : Keeps s₀ s) {c : CourseId} {rec : List Byte} : Keeps s₀ (ringsPut s c rec) := by
  unfold Machine.ringsPut
  exact .andThen (.evCount (.evCount
      (.incSat (.modRings (.setReg (.andThen (.ite h.ringsStream h.setReg.setBytes.unpoison) fun k => .ite k.setReg k))))))
      fun k => .ite k.raise.evCount k

theorem ringsWrite1 (h : Keeps s₀ s) {c : CourseId} {rec : List Byte} {s' : State} (e : ringsWrite1 s c rec = some s') :
    Keeps s₀ s' := by
  revert e
  fun_cases Machine.ringsWrite1 s c rec <;> rintro ⟨⟩
  · exact h.ringsPut
  · exact h.setFld.raise
  · exact (h.foldl fun _ _ k => k.ringsPut).ringsPut

theorem ringsFlush (h : Keeps s₀ s) {c : CourseId} {a : List (List Byte)} : Keeps s₀ (ringsFlush c a s) := by
  induction a generalizing s with
  | nil => exact h.modRings
  | cons rec rest ih =>
    unfold Machine.ringsFlush
    split
    · exact h.modRings
    next e =>
      have k := h.ringsWrite1 e
      exact .ite (ih k) k.modRings

theorem ringsIdle (h : Keeps s₀ s) {c : CourseId} : Keeps s₀ (ringsIdle s c) := by
  unfold Machine.ringsIdle
  exact h.modRings.setFld.cmdDone

theorem ringsDrain (h : Keeps s₀ s) {c : CourseId} : Keeps s₀ (ringsDrain s c) := by
  unfold Machine.ringsDrain
  exact (h.modRings.ringsFlush.modRings.andThen fun k => .ite k.ringsIdle (.ite k.cmdDone k)).andThen fun k => .ite (k.foldl
      (fun _ _ k1 => .ite k1.modTile k1)) k

theorem freshBanks (h : Keeps s₀ s) {c : CourseId} : Keeps s₀ (freshBanks s c) := h.foldl (fun _ _ k => k.modTile)

theorem ringsCkpt (h : Keeps s₀ s) {c : CourseId} {no : Nat} : Keeps s₀ (ringsCkpt s c no) := by
  unfold Machine.ringsCkpt
  exact h.ringsPush.setFld.modRings.freshBanks

theorem setBrickBit (h : Keeps s₀ s) {c : CourseId} {frame : Nat} {v : Bool} : Keeps s₀ (setBrickBit s c frame v) := by
  unfold Machine.setBrickBit
  exact h.setByte

theorem clearBrickBits (h : Keeps s₀ s) {frame : Nat} {but : Option CourseId} : Keeps s₀ (clearBrickBits s frame but) :=
  h.foldl (fun _ _ k => .ite k.setBrickBit k)

theorem ringsStartOp (h : Keeps s₀ s) {c : CourseId} : Keeps s₀ (ringsStartOp s c) := by
  unfold Machine.ringsStartOp
  exact .ite h.cmdDone ((h.foldl (fun _ _ k => k.setReg)).modRings.modMason.setFld.ringsCkpt.cmdDone)

theorem ringsRecDone (h : Keeps s₀ s) {c : CourseId} : Keeps s₀ (ringsRecDone s c) := .ite h.cmdDone h

theorem ringsCkptOp (h : Keeps s₀ s) {c : CourseId} : Keeps s₀ (ringsCkptOp s c) := h.ringsCkpt.ringsRecDone

theorem ringsMarkOp (h : Keeps s₀ s) {c : CourseId} : Keeps s₀ (ringsMarkOp s c) := h.ringsPush.ringsRecDone

theorem ringsStopOp (h : Keeps s₀ s) {c : CourseId} : Keeps s₀ (ringsStopOp s c) := .ite h.modRings.ringsDrain h.ringsIdle

theorem ringsSweepDone (h : Keeps s₀ s) {c : CourseId} : Keeps s₀ (ringsSweepDone s c) := by
  unfold Machine.ringsSweepDone
  exact .ite h.zeroRange.modRings.raise h

end Keeps
end Sys2Proof.Machine
end

section
/-! PROOFS. What links, the journal and exceptions keep (O59). -/

namespace Sys2Proof.Machine
namespace Keeps

set_option Elab.async false

variable {s₀ s : State}

/-! ## Links and messages -/

theorem sendUnit (h : Keeps s₀ s) {k : LinkId} {vc : Fin 4} {arb : Nat} : Keeps s₀ (sendUnit s k vc arb) := by
  unfold Machine.sendUnit
  exact h.modLink.evCountQ.evCountQ

theorem pumpUnits (h : Keeps s₀ s) {k : LinkId} {a : Nat} : Keeps s₀ (pumpUnits k a s) := by
  induction a generalizing s with
  | zero => exact h
  | succ f ih =>
    unfold Machine.pumpUnits
    split
    · exact ih h.sendUnit
    · exact h

theorem sendSymbols (h : Keeps s₀ s) {k : LinkId} : Keeps s₀ (sendSymbols s k) := .ite h h.modLink

theorem pumpLink (h : Keeps s₀ s) {k : LinkId} : Keeps s₀ (pumpLink s k) := by
  unfold Machine.pumpLink
  exact .ite h.sendSymbols.pumpUnits h

theorem dropMsg (h : Keeps s₀ s) {k : LinkId} {vc : Nat} : Keeps s₀ (dropMsg s k vc) := h.incSat.raise.evCountQ

theorem enqueueMsg (h : Keeps s₀ s) {k : LinkId} {m : Msg} : Keeps s₀ (enqueueMsg s k m) := h.modLink.pumpLink

theorem cannotEnter (h : Keeps s₀ s) {k : LinkId} {m : Msg} : Keeps s₀ (cannotEnter s k m) := .ite h.other h.dropMsg

theorem routeVia (h : Keeps s₀ s) {m : Msg} {seen : Bool} : Keeps s₀ (routeVia s m seen) := by
  fun_cases Machine.routeVia s m seen
  · exact h.other
  · exact h
  · exact h.enqueueMsg
  · exact h.cannotEnter
  · exact h.dropMsg
  · exact h.enqueueMsg.evCountQ
  · exact h.cannotEnter
  · exact h.dropMsg

theorem routeMsg (h : Keeps s₀ s) {m : Msg} : Keeps s₀ (routeMsg s m) := h.routeVia

theorem send (h : Keeps s₀ s) {ty : Nat} {dst : BitVec 9} {arg : Nat} {payload : List Word} :
    Keeps s₀ (s.send ty dst arg payload) :=
  h.routeMsg

theorem sendAllRoutes (h : Keeps s₀ s) {ty : Nat} {dst : BitVec 9} : Keeps s₀ (sendAllRoutes s ty dst) := by
  unfold Machine.sendAllRoutes
  exact .foldl (.ite h.enqueueMsg h) (fun _ _ k => .ite k.enqueueMsg k)

/-! ## The journal -/

theorem setHwjState (h : Keeps s₀ s) {n : Nat} : Keeps s₀ (setHwjState s n) := h.setFld

theorem setChain (h : Keeps s₀ s) {c seq : Nat} {h' : List Byte} : Keeps s₀ (setChain s c seq h') :=
  h.setReg.foldl (fun _ _ k => k.setReg)

theorem checkLow (h : Keeps s₀ s) {before : Nat} : Keeps s₀ (checkLow before s) := by
  unfold Machine.checkLow
  exact .ite h.raise h

theorem ringPut (h : Keeps s₀ s) {len : Nat} {mk : Nat → List Byte} : Keeps s₀ (ringPut s len mk) := by
  unfold Machine.ringPut
  exact .checkLow (.evCount (.evCount (.setReg (.setBytes (.ite h.setBytes.setReg h)))))

theorem trackRec (h : Keeps s₀ s) {r : JRec} : Keeps s₀ (trackRec s r) := h.modHwj

theorem putOwn (h : Keeps s₀ s) {h' : RecHdr} {body : List Byte} {track : JRec} : Keeps s₀ (putOwn s h' body track) := by
  fun_cases Machine.putOwn s h' body track
  · exact h.ringPut.setChain.trackRec.send
  · exact h.ringPut.setChain.trackRec
  · exact h.ringPut.setChain.trackRec

theorem setDurPos (h : Keeps s₀ s) : Keeps s₀ (setDurPos s) := by
  unfold Machine.setDurPos
  exact h.setReg

/-! ## Exceptions and interrupts -/

theorem enterFenced (h : Keeps s₀ s) {fromBuddy : Bool} : Keeps s₀ (enterFenced s fromBuddy) :=
  .ite h h.setHwjState.raise.mcPush

theorem stackCheck (h : Keeps s₀ s) {t : TileId} {l : Level} {x : Xl} {s' : State} (e : stackCheck s t l = .inr (x, s')) :
    Keeps s₀ s' := by
  revert e
  fun_cases Machine.stackCheck s t l <;> rintro ⟨⟩
  exact h.translate.of_ok ‹_›

theorem pushFrame (h : Keeps s₀ s) {t : TileId} {x : Xl} {f : List Word} : Keeps s₀ (pushFrame s t x f) := h.modTile

theorem mcRetarget (h : Keeps s₀ s) : Keeps s₀ (mcRetarget s) := by
  fun_cases Machine.mcRetarget s
  · exact h
  · exact h.setFld.logErr
  · exact h.enterFenced.logErr.standbyPush

theorem checkstop (h : Keeps s₀ s) {t : TileId} {reason mcsub : Nat} : Keeps s₀ (checkstop s t reason mcsub) := by
  unfold Machine.checkstop
  have k : Keeps s₀ (s.modTile t (fun x => { x.discardWindow with
      run := .checkstop, ef := checkstopRecord (s.modTile t Tile.discardWindow) t reason mcsub,
      kiln := { x.kiln with queue := [] } })) :=
    h.modTile fun x => (TileKeeps.refl x).discardWindow.emptyQueue
  exact .ite k.mcPush.mcRetarget k.mcPush

theorem stackfault (h : Keeps s₀ s) {t : TileId} {f : List Word} {l : Level} {sub : Nat} :
    Keeps s₀ (stackfault s t f l sub) := by
  unfold Machine.stackfault
  refine .ite h.checkstop ?_
  dsimp only
  split
  · exact h.modTile.checkstop
  next e => exact (h.modTile.stackCheck e).pushFrame.modTile fun x => (TileKeeps.refl x).cleared

theorem ringsEntry (h : Keeps s₀ s) {t : TileId} {async : Bool} {cause : Word} {e : Exc} {pc : Word} {units : Nat} :
    Keeps s₀ (ringsEntry s t async cause e pc units) := by
  unfold Machine.ringsEntry
  exact .ite h.ringsEvent h

theorem tCount (h : Keeps s₀ s) {t : TileId} {l : Level} {src k : Nat} : Keeps s₀ (tCount s t l src k) := h.evCountQ

theorem completeLoads (h : Keeps s₀ s) {t : TileId} : Keeps s₀ (completeLoads s t) :=
  (Keeps.ite h h.tCount).modTile fun x => (TileKeeps.refl x).completeLrs

theorem enter (h : Keeps s₀ s) {t : TileId} {e : Exc} {async : Bool} {pc : Word} : Keeps s₀ (enter s t e async pc) := by
  unfold Machine.enter
  dsimp only
  have k : ∀ {p : Prop} [Decidable p] {s1 : State}, Keeps s₀ s1 → ∀ n, Keeps s₀ (if p then { s1 with freeCtr := n } else s1) :=
    fun k _ => .ite k.other k
  split
  · exact (Keeps.ite (k h.completeLoads.tCount _).modTile (k h.completeLoads.tCount _).modTile.ringsEntry).stackfault
  next e =>
    refine ((k h.completeLoads.tCount _).modTile.stackCheck e).ringsEntry.pushFrame.modTile fun x => ?_
    exact (TileKeeps.refl x).setEx.cleared

theorem srcEntry (h : Keeps s₀ s) {t : TileId} {q : Src} : Keeps s₀ (srcEntry s t q).2 := by
  fun_cases Machine.srcEntry s t q
  case case4 => exact h.modTile.setFld
  case case6 =>
    dsimp only
    exact h.modTile
  all_goals exact h

theorem acceptInterrupt (h : Keeps s₀ s) {t : TileId} : Keeps s₀ (acceptInterrupt s t) := by
  fun_cases Machine.acceptInterrupt s t
  · exact h.recHold
  · exact (h.srcEntry.snd ‹_›).evCountQ.modTile.enter
  · exact h
  · exact h

end Keeps
end Sys2Proof.Machine
end

section
/-! PROOFS. What the operations of Mason on tickets keep (O59). -/

namespace Sys2Proof.Machine
namespace Keeps

set_option Elab.async false

variable {s₀ s : State}

theorem repairSlice (h : Keeps s₀ s) {k : Word} : Keeps s₀ (repairSlice s k) := by
  unfold Machine.repairSlice
  exact .ite h.other.raise h

theorem putSlice (h : Keeps s₀ s) {a : Nat} {k w : Word} : Keeps s₀ (putSlice s a k w) := by
  fun_cases Machine.putSlice s a k w
  · exact h.modHwj.send
  · exact h.setDword.setDword
  · exact h.setDword.setDword

theorem putAff (h : Keeps s₀ s) {a : Nat} {k w : Word} : Keeps s₀ (putAff s a k w) := h.putSlice

theorem cacheRoom (h : Keeps s₀ s) : Keeps s₀ (cacheRoom s) := by
  fun_cases Machine.cacheRoom s
  · exact h
  · exact h.modMason
  · exact h.modMason.repairSlice.putAff
  · exact h.modMason.repairSlice
  · exact h.modMason.repairSlice.send
  · exact h

theorem cacheEntry (h : Keeps s₀ s) {k w : Word} : Keeps s₀ (cacheEntry s k w) := by
  unfold Machine.cacheEntry
  exact .modMason (.ite h h.cacheRoom)

theorem putHint (h : Keeps s₀ s) {k : Nat} {d : BitVec 9} : Keeps s₀ (putHint s k d) := by
  unfold Machine.putHint
  exact .modMason (.ite h h.cacheRoom)

theorem uncache (h : Keeps s₀ s) {k : Word} : Keeps s₀ (uncache s k) := h.modMason

theorem markBrick (h : Keeps s₀ s) {n frame : Nat} {used : Bool} : Keeps s₀ (markBrick s n frame used) := by
  unfold Machine.markBrick
  exact h.setByte.setFld

theorem allocBrick (h : Keeps s₀ s) {n fr : Nat} {s' : State} (e : allocBrick s n = some (fr, s')) : Keeps s₀ s' := by
  unfold Machine.allocBrick at e
  dsimp only at e
  split at e
  · obtain ⟨_, _, e⟩ := Option.map_eq_some_iff.1 e
    cases e
    exact h.markBrick
  · cases e

theorem writeBack (h : Keeps s₀ s) {r : Nat} : Keeps s₀ (writeBack s r) := by
  unfold Machine.writeBack
  exact .ite h.setDword h

theorem putComp (h : Keeps s₀ s) {c : CompRec} : Keeps s₀ (putComp s c) := by
  unfold Machine.putComp
  exact h.setDword.setDword.setFld.modMason.writeBack.raise

theorem complete (h : Keeps s₀ s) {k : TicketRec} {status : Nat} {tile : Option TileId} {past : Bool} :
    Keeps s₀ (complete s k status tile past) := by
  fun_cases Machine.complete s k status tile past
  · exact h.putComp
  · exact h.modMason
  · exact h
  · exact h

theorem putUnit (h : Keeps s₀ s) {kind : Nat} {body : List Byte} {rcpt : Option (BitVec 9 × BitVec 4 × BitVec 48 × Nat)} :
    Keeps s₀ (putUnit s kind body rcpt) := by
  unfold Machine.putUnit
  exact h.putOwn.andThen fun k => .ite k.evCount (.ite k.evCount.modHwj k)

theorem journalOwn (h : Keeps s₀ s) {kind : Nat} {body : List Byte} {rcpt : Option (BitVec 9 × BitVec 4 × BitVec 48 × Nat)} :
    Keeps s₀ (journalOwn s kind body rcpt) := by
  unfold Machine.journalOwn
  exact .ite h.putUnit h.modHwj

theorem modTicket (h : Keeps s₀ s) {n : Nat} {f : TicketRec → TicketRec} : Keeps s₀ (modTicket s n f) := h.modMason

theorem dropTicket (h : Keeps s₀ s) {n : Nat} : Keeps s₀ (dropTicket s n) := by
  unfold Machine.dropTicket
  exact h.modMason.other

theorem stageCheck (h : Keeps s₀ s) : Keeps s₀ (stageCheck s) := .ite (.ite h h.modMason.raise) (.ite h.modMason h)

theorem addTicket (h : Keeps s₀ s) {k : TicketRec} : Keeps s₀ (addTicket s k) := by
  unfold Machine.addTicket
  exact h.modMason.andThen fun k1 => .ite k1.stageCheck k1

theorem refuse (h : Keeps s₀ s) {k : TicketRec} {status : Nat} : Keeps s₀ (refuse s k status) := by
  fun_cases Machine.refuse s k status
  · exact h.dropTicket.complete.evCount.raise.incSat.raise.logErr.journalOwn
  · exact h.dropTicket.complete.evCount.raise

theorem enqueueRun (h : Keeps s₀ s) {c : CourseId} {k : TicketRec} : Keeps s₀ (enqueueRun s c k) := h.modCourse

theorem askMover (h : Keeps s₀ s) {o : MoverOp} : Keeps s₀ (askMover s o) := h.modCourse

theorem bindTo (h : Keeps s₀ s) {k : TicketRec} {t : TileId} : Keeps s₀ (bindTo s k t) := by
  unfold Machine.bindTo
  exact h.modTicket.andThen fun k1 => .ite k1 k1.setBytes

theorem askFill (h : Keeps s₀ s) {t : TileId} {n : BitVec 18} {why : MoverFor} : Keeps s₀ (askFill s t n why) := by
  fun_cases Machine.askFill s t n why
  · exact h
  · exact h.askMover
  · exact h

theorem askSws (h : Keeps s₀ s) {t : TileId} {n : BitVec 18} : Keeps s₀ (askSws s t n) := by
  fun_cases Machine.askSws s t n
  · exact h
  · exact h.askMover
  · exact h

theorem askFills (h : Keeps s₀ s) {t : TileId} : Keeps s₀ (askFills s t) := by
  unfold Machine.askFills
  refine .foldl ?_ (fun _ _ k => k.askFill)
  split
  · exact h.askSws
  · exact h

theorem bindList (h : Keeps s₀ s) {c : CourseId} {a : List Nat} : Keeps s₀ (bindList c a s) := by
  fun_induction Machine.bindList c a s
  · exact h
  next ih => exact ih h.bindTo
  · exact h
  next ih => exact ih h
  next ih => exact ih h

theorem bindCourse (h : Keeps s₀ s) {c : CourseId} : Keeps s₀ (bindCourse s c) :=
  .ite h (h.bindList.foldl (fun _ _ k => k.askFills))

theorem placeAdmitted (h : Keeps s₀ s) : Keeps s₀ (placeAdmitted s) := h.foldl (fun _ _ k => .ite k.modTicket.enqueueRun k)

theorem rebind (h : Keeps s₀ s) : Keeps s₀ (rebind s) := h.placeAdmitted.foldl (fun _ _ k => k.bindCourse)

theorem recordDispatch (h : Keeps s₀ s) {t : TileId} {k : TicketRec} {bank : Fin 16} {pc : Word} {resumed : Bool} :
    Keeps s₀ (recordDispatch s t k bank pc resumed) := by
  fun_cases Machine.recordDispatch s t k bank pc resumed
  · exact h
  · refine .ringsEvent (Keeps.snd ?_ ‹_›)
    split
    · exact h
    · split
      · dsimp only
        exact h.drew
      · dsimp only
        exact h.drew
  · refine .foldl (.andThen (.ringsEvent (Keeps.snd ?_ ‹_›)) fun k1 => .ite k1.ringsEvent.modTile k1)
      (fun _ _ k1 => .ite k1.ringsEvent.setBrickBit k1)
    split
    · exact h
    · split
      · dsimp only
        exact h.drew
      · dsimp only
        exact h.modTicket.setFld

theorem dispatch (h : Keeps s₀ s) {t : TileId} {k : TicketRec} {bank : Fin 16} : Keeps s₀ (dispatch s t k bank) := by
  fun_cases Machine.dispatch s t k bank
  · exact (h.foldl (fun _ _ k1 => k1.repairSlice)).modCourse.modTicket.other.modTile.recordDispatch.evCount.modCourse.enter
  · exact (h.foldl (fun _ _ k1 => k1.repairSlice)).modCourse.modTicket.other.modTile.recordDispatch.evCount

theorem idle (h : Keeps s₀ s) {t : TileId} : Keeps s₀ (idle s t) := h.modTile

theorem nextTicket (h : Keeps s₀ s) {t : TileId} : Keeps s₀ (nextTicket s t) := by
  fun_cases Machine.nextTicket s t
  · exact h.modTile.dispatch
  · exact h.modTile.idle

theorem serveTakes (h : Keeps s₀ s) {c : CourseId} : Keeps s₀ (serveTakes s c) := by
  unfold Machine.serveTakes
  refine h.foldl (fun _ _ k => .ite ?_ k)
  split
  · exact k.tCount.dispatch
  · exact k

theorem masonPump (h : Keeps s₀ s) : Keeps s₀ (masonPump s) := h.rebind.foldl (fun _ _ k => k.serveTakes)

end Keeps
end Sys2Proof.Machine
end

section
/-! PROOFS. What commits, receipts and the recovery of the journal keep (O59). -/

namespace Sys2Proof.Machine
namespace Keeps

set_option Elab.async false

variable {s₀ s : State}

theorem setSendEnt (h : Keeps s₀ s) {c d : Nat} {e : SendEnt} : Keeps s₀ (setSendEnt s c d e) := h.modMason

theorem markRecv (h : Keeps s₀ s) {dest d : BitVec 9} {c : BitVec 4} {seq : Nat} : Keeps s₀ (markRecv s dest d c seq) := by
  unfold Machine.markRecv
  exact .ite h.modMason h.modHwj

theorem sendPend (h : Keeps s₀ s) {p : Pend} : Keeps s₀ (sendPend s p) := by
  unfold Machine.sendPend
  exact h.modMason.andThen fun k => .ite k.send k.send

theorem countPend (h : Keeps s₀ s) {c d : Nat} : Keeps s₀ (countPend s c d) := by
  unfold Machine.countPend
  exact h.setSendEnt

theorem ackCont (h : Keeps s₀ s) {src dest : BitVec 9} {course : BitVec 4} {seq : BitVec 48} :
    Keeps s₀ (ackCont s src dest course seq) := by
  unfold Machine.ackCont
  exact .ite (h.modMason.andThen fun k => .ite k.countPend k) h

theorem sendCack (h : Keeps s₀ s) {dest src : BitVec 9} {course : BitVec 4} {seq : BitVec 48} :
    Keeps s₀ (sendCack s dest src course seq) := by
  fun_cases Machine.sendCack s dest src course seq
  · exact h.send.send
  · exact h.send
  · exact h.send.modHwj
  · exact h.send.send
  · exact h.send

theorem receiptDone (h : Keeps s₀ s) {src : BitVec 9} {course : BitVec 4} {seq : BitVec 48} :
    Keeps s₀ (receiptDone s src course seq) := by
  unfold Machine.receiptDone
  exact h.modHwj.markRecv.sendCack

theorem copyLine (h : Keeps s₀ s) {src dst : Nat} : Keeps s₀ (s.copyLine src dst) := by
  unfold Machine.State.copyLine
  exact h.setBytes.other

theorem touchLine (h : Keeps s₀ s) {n line : Nat} {m : BitVec 16} : Keeps s₀ (touchLine s n line m) := by
  fun_cases Machine.touchLine s n line m
  · exact h
  · exact h.modTicket
  · refine .evCount (.modTicket ?_)
    dsimp +zetaDelta only
    split
    · exact h.copyLine
    · exact h

theorem brickWrite (h : Keeps s₀ s) {tk : Option Nat} {a n : Nat} : Keeps s₀ (brickWrite s tk a n) := by
  fun_cases Machine.brickWrite s tk a n
  · exact h.foldl (fun _ _ k => k.touchLine)
  · exact h

theorem restoreWs (h : Keeps s₀ s) {k : TicketRec} : Keeps s₀ (restoreWs s k) := by
  fun_cases Machine.restoreWs s k
  · exact h
  · exact h.foldl (fun _ _ k1 => k1.copyLine.andThen fun k2 => .ite k2.other k2)

theorem runDevice (h : Keeps s₀ s) {t : Ticket} : Keeps s₀ (runDevice s t).2 := by
  fun_cases Machine.runDevice s t
  · exact h.repairSlice
  · exact h.repairSlice.drew
  · exact h

theorem runDevices (h : Keeps s₀ s) {a : List Ticket} : Keeps s₀ (runDevices a s).2 := by
  fun_induction Machine.runDevices a s
  · exact h
  next ih =>
    dsimp only
    exact ih h.runDevice

theorem fixSeqs (h : Keeps s₀ s) {k : TicketRec} {pos : Nat} : Keeps s₀ (fixSeqs s k pos).2 := by
  unfold Machine.fixSeqs
  refine foldlSnd (p := ([], _)) h.runDevices fun _ _ k => ?_
  dsimp only
  exact k.setSendEnt.modMason

theorem leavePost (h : Keeps s₀ s) {n : Nat} {t : Option TileId} : Keeps s₀ (leavePost s n t) := by
  fun_cases Machine.leavePost s n t
  · exact h.evCountQ.nextTicket
  · exact h
  · exact h

theorem freeTicketSlot (h : Keeps s₀ s) {k : TicketRec} : Keeps s₀ (freeTicketSlot s k) := by
  fun_cases Machine.freeTicketSlot s k
  · exact h.modCourse
  · exact h

theorem endRecord (h : Keeps s₀ s) {t : TileId} {k : TicketRec} {how status : Nat} {pos : Option Nat} :
    Keeps s₀ (endRecord s t k how status pos) := by
  unfold Machine.endRecord
  exact h.ringsEvent

theorem endOf (h : Keeps s₀ s) {k : TicketRec} {status : Nat} {pos : Option Nat} : Keeps s₀ (endOf s k status pos) := by
  fun_cases Machine.endOf s k status pos
  · exact h.endRecord
  · exact h

theorem commitTicket (h : Keeps s₀ s) {n : Nat} {rec : Option JRec} : Keeps s₀ (commitTicket s n rec) := by
  unfold Machine.commitTicket
  split
  · exact h
  extract_lets _ _ s3 s4 s5 s6 t s7
  have h3 : Keeps s₀ s3 := h.endOf.freeTicketSlot.dropTicket
  have h4 : Keeps s₀ s4 := h3.incSat
  have h5 : Keeps s₀ s5 := by
    unfold s5
    split
    · exact (Keeps.ite h4.incSat h4).foldl fun _ _ k => .ite k.incSat.raise.logErr.journalOwn.ackCont k.sendPend.evCount
    · exact h3
  have h6 : Keeps s₀ s6 := by
    unfold s6
    split
    · exact h5.receiptDone
    · exact h5
  have h7 : Keeps s₀ s7 := .ite h6 h6.complete
  exact h7.leavePost

theorem failTicket (h : Keeps s₀ s) {n status : Nat} {pos : Option Nat} : Keeps s₀ (failTicket s n status pos) := by
  fun_cases Machine.failTicket s n status pos
  · exact h
  · refine .leavePost (.incSat (.logErr (.raise (.andThen (.dropTicket (.freeTicketSlot ?_)) fun k => .ite k k.complete))))
    dsimp +zetaDelta only
    split
    · exact h.endOf.restoreWs.journalOwn.foldl (fun _ _ k => k.modMason.sendPend)
    · exact h.endOf.restoreWs

theorem recReady (h : Keeps s₀ s) {r : JRec} : Keeps s₀ (recReady s r) := by
  unfold Machine.recReady
  refine .ite (.modHwj ?_) h
  split
  · exact h.commitTicket
  · split
    · exact h.receiptDone
    · exact h

theorem postTake (h : Keeps s₀ s) {k : TicketRec} : Keeps s₀ (postTake s k) := by
  fun_cases Machine.postTake s k
  exact (h.fixSeqs.snd ‹_›).modTicket.putOwn.evCount

theorem putCopy (h : Keeps s₀ s) {src : BitVec 9} {bytes : List Byte} : Keeps s₀ (putCopy s src bytes) := by
  unfold Machine.putCopy
  exact h.ringPut.evCount.trackRec

theorem pumpJournal (h : Keeps s₀ s) {a : Nat} : Keeps s₀ (pumpJournal a s) := by
  fun_induction Machine.pumpJournal a s
  · exact h
  · exact h
  next ih => exact ih h.modHwj
  next ih => exact ih h.modHwj.failTicket
  next ih => exact ih h.modHwj.postTake
  · exact h
  next ih => exact ih h.modHwj.putCopy
  · exact h
  next ih => exact ih h.modHwj.putUnit
  · exact h

theorem journalPump (h : Keeps s₀ s) : Keeps s₀ (journalPump s) := h.pumpJournal

theorem postStep2 (h : Keeps s₀ s) {t : TileId} {n : Nat} : Keeps s₀ (postStep2 s t n) := by
  fun_cases Machine.postStep2 s t n
  · exact h
  · exact h.modTicket.modTile.commitTicket
  · exact h.modTicket.modTile.failTicket
  · exact h.modTicket.modTile.modHwj.journalPump

theorem applyExtents (h : Keeps s₀ s) {src : BitVec 9} {keys : List Word} {a a1 a2 : Nat} :
    Keeps s₀ (applyExtents src keys a a1 a2 s) := by
  fun_induction Machine.applyExtents src keys a a1 a2 s
  · exact h
  next ih =>
    refine ih ?_
    dsimp +zetaDelta only
    split
    · exact h.setBytes
    · exact h

theorem applySnapshot (h : Keeps s₀ s) {a : Nat} : Keeps s₀ (applySnapshot s a) := by
  unfold Machine.applySnapshot
  exact .ite h (h.foldl (fun _ _ k => k.modHwj))

theorem applyCopy (h : Keeps s₀ s) {a spos : Nat} : Keeps s₀ (applyCopy s a spos) := by
  unfold Machine.applyCopy
  exact .ite h.modHwj (.ite h.applySnapshot
      (.ite h.modHwj (.ite (.foldl (.applyExtents (.ite h.modHwj h)) (fun _ _ k => k.modHwj)) h)))

theorem applyPump (h : Keeps s₀ s) {a : Nat} : Keeps s₀ (applyPump a s) := by
  fun_induction Machine.applyPump a s
  · exact h
  · exact h
  next ih => exact ih h.applyCopy.modHwj
  · exact h

theorem durableStep (h : Keeps s₀ s) : Keeps s₀ (durableStep s) := by
  fun_cases Machine.durableStep s
  · exact h
  · exact .modHwj (.applyPump (.modHwj (.send (.setDurPos (.modHwj (.ite h.drew h))))))
  · exact .failTicket (.raise (.modHwj (.setDurPos (.modHwj (.ite h.drew h)))))
  · exact .recReady (.setDurPos (.modHwj (.ite h.drew h)))
  · exact .recReady (.setDurPos (.modHwj (.ite h.drew h)))

theorem mirrorAck (h : Keeps s₀ s) {pos : Nat} : Keeps s₀ (mirrorAck s pos) := by
  fun_cases Machine.mirrorAck s pos
  · exact h.evCount
  · exact h.evCount.modHwj.recReady

theorem decideWaiting (h : Keeps s₀ s) : Keeps s₀ (decideWaiting s) := by
  unfold Machine.decideWaiting
  refine (h.foldl (fun _ _ k => .ite ?_ k)).foldl (fun _ _ k => ?_)
  · dsimp only
    split
    · split
      · exact .ite k.modHwj.failTicket k.modHwj.recReady
      · exact k.modHwj
    · exact k.modHwj.recReady
  · split
    · exact .ite k.modHwj.failTicket k
    · exact k

theorem entryLands (h : Keeps s₀ s) {a : Nat} {k w : Word} : Keeps s₀ (entryLands s a k w) := by
  fun_cases Machine.entryLands s a k w
  · exact h.setDword.setDword.cacheEntry
  · exact h.setDword.setDword
  · exact h.setDword.setDword

theorem flushDrep (h : Keeps s₀ s) : Keeps s₀ (flushDrep s) := by
  unfold Machine.flushDrep
  exact h.modHwj.foldl (fun _ _ k => k.entryLands)

theorem enterDegraded (h : Keeps s₀ s) : Keeps s₀ (enterDegraded s) := h.setHwjState.flushDrep.decideWaiting.journalPump

theorem renameDev (h : Keeps s₀ s) {a b : BitVec 9} : Keeps s₀ (renameDev s a b) := by
  unfold Machine.renameDev
  exact h.modMason

theorem dropCopies (h : Keeps s₀ s) : Keeps s₀ (dropCopies s) := h.modHwj

theorem promote (h : Keeps s₀ s) {a : BitVec 9} : Keeps s₀ (promote s a) := by
  unfold Machine.promote
  refine ((((h.setHwjState.applyPump.dropCopies.renameDev.modHwj.foldl (fun _ _ k => .ite ?_ k)).modMason.modHwj.foldl
      (fun _ _ k => k.sendPend)).foldl (fun _ _ k => .ite k.send k)).foldl
      (fun _ _ k => .ite k.sendPend k.sendPend.incSat)).raise
  split
  · exact k.setDword.clearBrickBits.cacheEntry
  · exact k.logErr.setDword.setDword

theorem snapshot (h : Keeps s₀ s) : Keeps s₀ (snapshot s) := by
  unfold Machine.snapshot
  exact h.foldl (fun _ _ k => k.journalOwn)

theorem ringInitOp (h : Keeps s₀ s) : Keeps s₀ (ringInitOp s) := by
  unfold Machine.ringInitOp
  exact ((h.zeroRange.foldl (fun _ _ k => k.setReg)).foldl (fun _ _ k => k.setChain)).setHwjState.modHwj.journalOwn.cmdDone

theorem rebuild (h : Keeps s₀ s) {recs : List Nat} : Keeps s₀ (rebuild s recs) := by
  unfold Machine.rebuild
  extract_lets kind own voids voided mine live parts partNo starts snap s1 s2 rcpt s3
  clear_value snap
  have h1 : Keeps s₀ s1 := by
    unfold s1
    split
    · exact h
    · exact (h.foldl fun _ _ k => k.setSendEnt).foldl fun _ _ k => k.modMason
  have hr (s : State) (o : Nat) (k : Keeps s₀ s) : Keeps s₀ (rcpt s o) := by
    unfold rcpt
    dsimp only
    split
    · split
      · exact k.markRecv.modMason
      · exact k.markRecv
    · exact k.markRecv
  have h3 : Keeps s₀ s3 := by
    refine h1.modHwj.foldl fun s p k => ?_
    dsimp only
    split
    · exact hr _ _ k
    split
    · refine Keeps.foldl (.ite (hr _ _ k) k) fun s i k => ?_
      exact .ite k.setSendEnt k.setSendEnt.modMason
    · exact k
  exact h3.foldl fun _ _ k => k.countPend

theorem stepPastRecords (h : Keeps s₀ s) {recs : List Nat} : Keeps s₀ (stepPastRecords s recs) := by
  unfold Machine.stepPastRecords
  exact .ite h.other h

theorem ringOpenOp (h : Keeps s₀ s) : Keeps s₀ (ringOpenOp s) := by
  fun_cases Machine.ringOpenOp s
  · exact h.cmdDone
  · refine .cmdDone (.modHwj (.setHwjState (.stepPastRecords (.rebuild (.foldl ?_ (fun _ _ k => ?_))))))
    · dsimp +zetaDelta only
      split
      · exact h.setReg.setReg.setReg.raise.logErr
      · exact h.setReg.setReg.setReg
    · split <;> exact k.setChain

theorem drainWrite (h : Keeps s₀ s) {src : Nat} {v : Word} : Keeps s₀ (drainWrite s src v) :=
  .ite h.setReg.journalOwn.journalPump h.logErr

end Keeps
end Sys2Proof.Machine
end

section
/-! PROOFS. What the routing of tickets and bricks keeps (O59). -/

namespace Sys2Proof.Machine
namespace Keeps

set_option Elab.async false

variable {s₀ s : State}

theorem createBrick (h : Keeps s₀ s) {k : Word} {n : Nat} : Keeps s₀ (createBrick s k n).2 := by
  fun_cases Machine.createBrick s k n
  · dsimp only
    exact h.raise
  · exact h
  · dsimp only
    exact (h.allocBrick ‹_›).fill.unpoison.putSlice.cacheEntry.modMason.clearBrickBits

theorem forwardTicket (h : Keeps s₀ s) {k : TicketRec} {d : BitVec 9} {tomb hint : Bool} {entry : Word} :
    Keeps s₀ (forwardTicket s k d tomb hint entry) := by
  unfold Machine.forwardTicket
  exact .ite h.refuse (((h.dropTicket.evCount.andThen fun k1 => .ite k1.evCount k1).andThen fun k1 => .ite k1.putHint k1).send)

theorem sendBcmd (h : Keeps s₀ s) {d : BitVec 9} {k : Word} {c : BrickCmd} : Keeps s₀ (sendBcmd s d k c) := h.send

theorem askSlice (h : Keeps s₀ s) {k : Word} : Keeps s₀ (askSlice s k) := .ite h h.modMason.sendBcmd

theorem recache (h : Keeps s₀ s) {k w : Word} : Keeps s₀ (recache s k w) := .ite h.cacheEntry h

theorem again (h : Keeps s₀ s) {src : BitVec 9} {ty : Nat} {payload : List Word} : Keeps s₀ (again s src ty payload) := h.other

theorem arrive (h : Keeps s₀ s) {k : TicketRec} : Keeps s₀ (arrive s k) := by
  fun_cases Machine.arrive s k
  · exact h.addTicket.refuse
  · exact h.addTicket.refuse
  · exact h.addTicket
  · exact h.addTicket.refuse
  · exact h.addTicket
  · exact h.addTicket.forwardTicket
  · exact h.addTicket.refuse
  · exact h.addTicket
  · exact h.addTicket.repairSlice
  · exact h.addTicket.repairSlice.createBrick.snd ‹_›
  · exact (h.addTicket.repairSlice.createBrick.snd ‹_›).refuse
  · exact h.addTicket.repairSlice.refuse
  · exact h.addTicket.repairSlice.refuse
  · exact h.addTicket.repairSlice.refuse
  · exact h.addTicket.repairSlice.askSlice
  · exact h.addTicket.repairSlice.forwardTicket

theorem sendMig (h : Keeps s₀ s) {d : BitVec 9} {m : MigMsg} : Keeps s₀ (sendMig s d m) := h.send

theorem modMig (h : Keeps s₀ s) {k : Word} {f : Mig → Mig} : Keeps s₀ (modMig s k f) := h.modMason

theorem dropMig (h : Keeps s₀ s) {k : Word} : Keeps s₀ (dropMig s k) := h.modMason

theorem startMig (h : Keeps s₀ s) {k : Word} {d : BitVec 9} {course : BitVec 4} {pull : Bool} :
    Keeps s₀ (startMig s k d course pull) := by
  fun_cases Machine.startMig s k d course pull
  · exact h
  · exact h
  · exact h.cacheEntry.modMason.evCount

theorem abortMig (h : Keeps s₀ s) {k : Word} : Keeps s₀ (abortMig s k) := by
  unfold Machine.abortMig
  refine .evCount (.raise (.dropMig ?_))
  split
  · exact h.cacheEntry
  · exact h

theorem refuseOldest (h : Keeps s₀ s) {k : Word} {status : Nat} : Keeps s₀ (refuseOldest s k status) := by
  fun_cases Machine.refuseOldest s k status
  · exact h.refuse
  · exact h

theorem refuseAll (h : Keeps s₀ s) {k : Word} {status : Nat} : Keeps s₀ (refuseAll s k status) :=
  h.foldl (fun _ _ k1 => k1.refuse)

theorem endTomb (h : Keeps s₀ s) {key : Nat} : Keeps s₀ (endTomb s key) := by
  fun_cases Machine.endTomb s key
  · exact h.modMason.markBrick
  · exact h

theorem addTomb (h : Keeps s₀ s) {t : Tomb} : Keeps s₀ (addTomb s t) := by
  unfold Machine.addTomb
  refine .clearBrickBits (.modMason ?_)
  split
  · exact h.endTomb.endTomb
  · exact h.endTomb

theorem delReply (h : Keeps s₀ s) {k : Word} {st : BitVec 8} {res : Word} : Keeps s₀ (delReply s k st res) :=
  h.modMason.foldl (fun _ _ k1 => k1.sendBcmd)

theorem replyPump (h : Keeps s₀ s) : Keeps s₀ (replyPump s) := by
  unfold Machine.replyPump
  exact (h.foldl (fun _ _ k => k.delReply)).modMason.foldl (fun _ _ k => k.sendMig)

theorem finishDel (h : Keeps s₀ s) {k : Word} : Keeps s₀ (finishDel s k) := by
  fun_cases Machine.finishDel s k
  · exact h.dropMig.repairSlice
  · exact h.dropMig.repairSlice.refuseAll.addTomb.uncache.putSlice
  · exact h.dropMig.repairSlice.refuseAll.addTomb.uncache.delReply
  · exact h.dropMig.repairSlice.refuseAll.addTomb.uncache.sendMig

theorem migPump (h : Keeps s₀ s) : Keeps s₀ (migPump s) := by
  unfold Machine.migPump
  refine h.foldl (fun _ _ k => .ite (.ite ?_ (.ite k.finishDel k)) k)
  split
  · exact k.modMig.sendMig
  · exact k.dropMig

theorem commitEntry (h : Keeps s₀ s) {src : BitVec 9} {k w : Word} : Keeps s₀ (commitEntry s src k w) := by
  fun_cases Machine.commitEntry s src k w
  · exact h.repairSlice
  · exact h.repairSlice.putSlice.modMason
  · exact h.repairSlice.putSlice.modMason

theorem endMark (h : Keeps s₀ s) {src : BitVec 9} {k : Word} : Keeps s₀ (endMark s src k) := by
  fun_cases Machine.endMark s src k
  · exact h
  · exact h
  · exact h.endTomb.cacheEntry.dropMig.modMason.foldl (fun _ _ k1 => k1.modMason.addTicket)

theorem pullRequest (h : Keeps s₀ s) {k : Word} {d : BitVec 9} {create : Option (BitVec 4)} {ent : Word} :
    Keeps s₀ (pullRequest s k d create ent) := by
  fun_cases Machine.pullRequest s k d create ent
  · exact h.repairSlice.recache.again
  · exact h.repairSlice.recache
  · dsimp +zetaDelta only
    split
    · exact h.repairSlice.recache.andThen fun k1 => .ite k1.sendMig k1.startMig
    · exact h.repairSlice.recache
  · exact h.repairSlice.recache.sendMig
  · exact h.repairSlice.recache.sendMig
  · exact h.repairSlice.recache.sendMig
  · exact h.repairSlice.recache.sendMig
  · exact h.repairSlice.recache.sendMig
  · exact h.repairSlice.recache.sendMig
  · exact (h.repairSlice.recache.createBrick.snd ‹_›).again
  · dsimp +zetaDelta only
    split
    · exact .ite ((h.repairSlice.recache.createBrick.snd ‹_›).sendMig) ((h.repairSlice.recache.createBrick.snd ‹_›).startMig)
    · exact h.repairSlice.recache.createBrick.snd ‹_›
  · exact (h.repairSlice.recache.createBrick.snd ‹_›).sendMig

theorem migStep (h : Keeps s₀ s) {src : BitVec 9} {m : MigMsg} : Keeps s₀ (migStep s src m) := by
  fun_cases Machine.migStep s src m
  · exact h.pullRequest
  · exact h.repairSlice.putAff
  · exact h.repairSlice
  · exact h.repairSlice
  · exact (h.dropMig.allocBrick ‹_›).modMason.sendMig
  · exact (h.dropMig.andThen fun k => .ite k.refuseOldest k).sendMig
  · exact h.modMig.send
  · exact h
  · exact h
  · exact h.abortMig
  · exact h
  · exact h.modMig.sendMig
  · exact h
  · exact h
  · exact h.again
  · dsimp +zetaDelta only
    split
    · exact .ite h (.ite (.ite h.dropMig.askSlice h.dropMig.recache) h.modMig)
    · exact h
  · refine .commitEntry ?_
    dsimp +zetaDelta only
    split
    · exact .ite h (.ite (.ite h.dropMig.askSlice h.dropMig.recache) h.modMig)
    · exact h
  · exact (h.sendMig.dropMig.uncache.evCount.addTomb.foldl (fun _ _ k => k.forwardTicket)).send
  · exact h.cacheEntry.dropMig
  · exact h
  · exact h
  · exact h.dropMig.refuseOldest
  · exact h
  · exact h.abortMig
  · exact h.dropMig.andThen fun k => .ite k.refuseOldest k
  · exact (h.dropMig.andThen fun k => .ite k.refuseOldest k).markBrick
  · exact h

theorem landCopy (h : Keeps s₀ s) {fr : Nat} {data : List Byte} : Keeps s₀ (landCopy s fr data) := by
  unfold Machine.landCopy
  exact h.drew.setBytes.unpoison.other

theorem brickCopyIn (h : Keeps s₀ s) {src : BitVec 9} {k : Word} {data : List Byte} : Keeps s₀ (brickCopyIn s src k data) := by
  fun_cases Machine.brickCopyIn s src k data
  · exact h
  · refine .sendMig ?_
    dsimp +zetaDelta only
    split
    · exact h.landCopy.clearBrickBits.modMig.andThen fun k1 => .ite k1.send k1
    · exact h.landCopy.clearBrickBits.modMig
  · exact h

theorem resyncIn (h : Keeps s₀ s) {src : BitVec 9} {k : Word} {data : List Byte} : Keeps s₀ (resyncIn s src k data) := by
  fun_cases Machine.resyncIn s src k data
  · exact h.landCopy.modHwj.applyPump
  · exact h

theorem pinCopy (h : Keeps s₀ s) {k : Word} {v : Bool} : Keeps s₀ (pinCopy s k v) := by
  fun_cases Machine.pinCopy s k v
  · exact h.modMig.cacheEntry
  · exact h.modMig

theorem moveCourse (h : Keeps s₀ s) {k w : Word} {c : Nat} : Keeps s₀ (moveCourse s k w c) := by
  fun_cases Machine.moveCourse s k w c
  · exact h.putSlice
  · exact h.putSlice.cacheEntry
  · exact h
  · exact h.modMason.sendMig

theorem hintHere (h : Keeps s₀ s) {k : Word} {d : BitVec 9} {course : BitVec 4} : Keeps s₀ (hintHere s k d course) := by
  fun_cases Machine.hintHere s k d course
  · exact h
  · exact h.moveCourse
  · exact h.startMig
  · exact h

theorem slicedReply (h : Keeps s₀ s) {k : Word} {st : Nat} {res : Word} : Keeps s₀ (slicedReply s k st res) := by
  fun_cases Machine.slicedReply s k st res
  · exact h.modMig.endMark
  · exact .refuseOldest (.raise (.dropMig (.ite h h.markBrick)))
  · exact .raise (.dropMig (.ite h h.markBrick))
  · exact h
  · exact h.clearBrickBits.cacheEntry
  · exact h.refuseAll.logErr.sendMig
  · exact h

theorem brickReply (h : Keeps s₀ s) {src : BitVec 9} {k : Word} {st : BitVec 8} {res : Word} :
    Keeps s₀ (brickReply s src k st res) := by
  fun_cases Machine.brickReply s src k st res
  · exact h.modMason
  · exact h.modMason.delReply
  · exact h.modMason.slicedReply
  · exact .modMason (.cmdDone (.ite h.setReg.putHint h))
  · exact h
  · exact h

theorem toHome (h : Keeps s₀ s) {k : Word} {d : BitVec 9} {c : BrickCmd} : Keeps s₀ (toHome s k d c) := h.modMason.sendBcmd

theorem brickHere (h : Keeps s₀ s) {k : Word} {c : BrickCmd} : Keeps s₀ (brickHere s k c) := by
  fun_cases Machine.brickHere s k c
  · exact h.pinCopy
  · exact h.pinCopy
  · exact h.hintHere
  · exact h
  · exact h.modMason
  · exact h

theorem brickSlice (h : Keeps s₀ s) {k : Word} {a : Nat} {w : Word} {c : BrickCmd} : Keeps s₀ (brickSlice s k a w c) := by
  fun_cases Machine.brickSlice s k a w c
  · exact h.putSlice
  · exact h.putSlice
  · exact h.putSlice.modMason
  · exact h
  · exact h

theorem brickChange (h : Keeps s₀ s) {src : BitVec 9} {k : Word} {c : BrickCmd} : Keeps s₀ (brickChange s src k c) := by
  fun_cases Machine.brickChange s src k c
  · exact h.again
  · exact h.sendBcmd
  · exact h.sendBcmd
  · exact h.modMason.brickSlice
  · exact h.modMason.brickSlice.brickHere
  · exact h.modMason.brickSlice.toHome
  · exact h.recache.sendBcmd
  · exact h.recache.modMason.brickHere
  · exact h.recache.modMason.brickHere
  · exact h.recache.modMason.toHome
  · exact h.recache.sendBcmd
  · exact h.recache.modMason.toHome

theorem brickCmd (h : Keeps s₀ s) {src : BitVec 9} {k : Word} {c : BrickCmd} : Keeps s₀ (brickCmd s src k c) := by
  fun_cases Machine.brickCmd s src k c
  · exact h.repairSlice.brickReply
  · exact h.repairSlice.sendBcmd
  · exact h.repairSlice.sendBcmd
  · exact h.repairSlice.sendBcmd
  · exact h.repairSlice.sendBcmd
  · exact h.repairSlice.putSlice.modMason
  · exact h.repairSlice.raise.sendBcmd
  · exact h.repairSlice.brickChange
  · exact h.repairSlice.brickChange
  · exact h.repairSlice.brickChange
  · exact h.repairSlice.brickChange

theorem affinity (h : Keeps s₀ s) {key : Word} {origin : BitVec 9} : Keeps s₀ (affinity s key origin) := by
  fun_cases Machine.affinity s key origin
  · exact h
  · exact h.cacheEntry
  · exact h.cacheEntry.setReg.setReg.raise
  · exact h.cacheEntry.startMig
  · exact h.cacheEntry

theorem needBrick (h : Keeps s₀ s) {k : TicketRec} {key : Word} : Keeps s₀ (needBrick s k key).2 := by
  have hr : Keeps s₀ (Machine.repairSlice s key) := h.repairSlice
  unfold Machine.needBrick
  dsimp only
  split
  · exact hr
  split
  · split
    · split
      next e => exact hr.createBrick.snd e
      next e => exact (hr.createBrick.snd e).refuse
    · exact hr.refuse
  · split
    · exact hr.askSlice
    split
    · exact hr.forwardTicket
    split
    · exact hr.refuse
    · exact hr.modMason.sendMig
  · exact hr

theorem needBricks (h : Keeps s₀ s) {k : TicketRec} {a : List Word} : Keeps s₀ (needBricks k a s).2 := by
  fun_induction Machine.needBricks k a s
  · exact h
  next ih => exact ih (h.needBrick.snd ‹_›)
  · dsimp only
    exact h.needBrick.snd ‹_›

theorem clearHeld (h : Keeps s₀ s) {k : TicketRec} {c : CourseId} : Keeps s₀ (clearHeld s k c) :=
  h.foldl (fun _ _ k1 => .ite k1.clearBrickBits k1)

theorem loseTicket (h : Keeps s₀ s) {k : TicketRec} : Keeps s₀ (loseTicket s k).2 := by
  unfold Machine.loseTicket
  split
  · exact .ite h.drew.dropTicket.raise.logErr h.drew
  · exact h

theorem admitNow (h : Keeps s₀ s) {k : TicketRec} {w0 : Word} {sess : BitVec 18} : Keeps s₀ (admitNow s k w0 sess) := by
  unfold Machine.admitNow
  exact h.modTicket.clearHeld.evCount.evCount.evCount.foldl (fun _ _ k1 => k1.affinity)

theorem admitTicket (h : Keeps s₀ s) {n : Nat} : Keeps s₀ (admitTicket s n) := by
  fun_cases Machine.admitTicket s n
  · exact h
  · exact h
  · exact h.loseTicket.snd ‹_›
  · exact (h.loseTicket.snd ‹_›).refuse
  · exact (h.loseTicket.snd ‹_›).refuse
  · exact (h.loseTicket.snd ‹_›).forwardTicket
  · exact (h.loseTicket.snd ‹_›).refuse
  · exact (h.loseTicket.snd ‹_›).refuse
  · exact (h.loseTicket.snd ‹_›).needBricks.snd ‹_›
  · exact (h.loseTicket.snd ‹_›).needBricks.snd ‹_›
  · exact ((h.loseTicket.snd ‹_›).needBricks.snd ‹_›).admitNow
  · exact (h.loseTicket.snd ‹_›).needBricks.snd ‹_›

theorem sessionPump (h : Keeps s₀ s) : Keeps s₀ (sessionPump s) := h.foldl (fun _ _ k => .ite k.refuse k)

end Keeps
end Sys2Proof.Machine
end

section
/-! PROOFS. What the commands of Mason and of the journal keep (O59). -/

namespace Sys2Proof.Machine
namespace Keeps

set_option Elab.async false

variable {s₀ s : State}

/-! ## The commands of Mason -/

theorem ingressRead (h : Keeps s₀ s) {r : Fin 64} : Keeps s₀ (ingressRead s r) := by
  unfold Machine.ingressRead
  exact .ite (h.setFld.modMason.writeBack.evCount.andThen fun k => .ite k.raise.logErr k.arrive) h

theorem flushComps (h : Keeps s₀ s) {r : Fin 64} {a : Nat} : Keeps s₀ (flushComps r a s) := by
  fun_induction Machine.flushComps r a s
  · exact h
  next ih =>
    refine ih ?_
    dsimp +zetaDelta only
    split
    · split
      · exact h.modMason.putComp.andThen fun k => .ite k.leavePost k
      · exact h.modMason.putComp
    · exact h.modMason.putComp
  · exact h
  · exact h

theorem fencedPump (h : Keeps s₀ s) : Keeps s₀ (fencedPump s) := by
  unfold Machine.fencedPump
  refine .ite (h.modMason.foldl (fun _ _ k => ?_)) h
  split
  · split
    · exact .ite k.leavePost k
    · exact k
  · exact k

theorem ccntWrite (h : Keeps s₀ s) {src : Nat} {r : Fin 64} {w : WReq} : Keeps s₀ (ccntWrite s src r w) := by
  unfold Machine.ccntWrite
  exact .ite h.setFld.flushComps h.logErr

theorem ringIndex (h : Keeps s₀ s) {r : Fin 64} {hi lo v : Nat} : Keeps s₀ (ringIndex s r hi lo v) := by
  unfold Machine.ringIndex
  exact h.setFld.andThen fun k => .ite k k.writeBack

theorem ienWrite (h : Keeps s₀ s) {src : Nat} {r : Fin 64} {w : WReq} : Keeps s₀ (ienWrite s src r w) := by
  unfold Machine.ienWrite
  exact h.regWrite.andThen fun k => .ite k.ringIndex.modMason k

theorem cenWrite (h : Keeps s₀ s) {src : Nat} {r : Fin 64} {w : WReq} : Keeps s₀ (cenWrite s src r w) := by
  unfold Machine.cenWrite
  exact h.regWrite.andThen fun k => .ite k.setFld.ringIndex.modMason.flushComps k

theorem recvCont (h : Keeps s₀ s) {src : BitVec 9} {course : BitVec 4} {seq : BitVec 48} {tk : Ticket} {dest : BitVec 9} :
    Keeps s₀ (recvCont s src course seq tk dest) := by
  unfold Machine.recvCont
  exact .ite h.incSat.sendCack (.ite h.incSat (.ite h (.arrive (.ite h h.modHwj))))

theorem recvVoid (h : Keeps s₀ s) {src : BitVec 9} {course : BitVec 4} {seq : BitVec 48} {dest : BitVec 9} :
    Keeps s₀ (recvVoid s src course seq dest) := by
  unfold Machine.recvVoid
  exact .ite h.incSat.sendCack (.ite h.incSat (.ite h (.journalOwn (.logErr (.raise (.ite h h.modHwj))))))

theorem resendCont (h : Keeps s₀ s) {course : CourseId} {dest : BitVec 9} {seq : BitVec 48} :
    Keeps s₀ (resendCont s course dest seq) := by
  fun_cases Machine.resendCont s course dest seq
  · exact h.sendPend
  · exact h.sendPend.incSat
  · exact h

theorem spillBank (h : Keeps s₀ s) {t : TileId} {b : Fin 16} : Keeps s₀ (spillBank s t b) := by
  unfold Machine.spillBank
  dsimp only
  split
  · exact h
  · refine evCount (modTile ?_)
    exact h.setBytes.andThen fun k => k.other

theorem freeKiln (h : Keeps s₀ s) {t : TileId} : Keeps s₀ (freeKiln s t) := by
  unfold Machine.freeKiln
  exact h.other.modTile

theorem swsEnter (h : Keeps s₀ s) {t : TileId} {pd : BitVec 3} {b : Fin 16} : Keeps s₀ (swsEnter s t pd b) :=
  h.modTile (fun _ => (TileKeeps.refl _).same.setP)

theorem swsSwitch (h : Keeps s₀ s) {t : TileId} {pd : BitVec 3} {b : Fin 16} : Keeps s₀ (swsSwitch s t pd b) :=
  .swsEnter (.ite h h.freeKiln)

theorem stewardRetires (h : Keeps s₀ s) {t : TileId} : Keeps s₀ (stewardRetires s t) := h.evCountQ

theorem swsDone (h : Keeps s₀ s) {t : TileId} {pd : BitVec 3} {b : Fin 16} : Keeps s₀ (swsDone s t pd b) :=
  h.freeKiln.swsEnter.stewardRetires.modTile

theorem swsFault (h : Keeps s₀ s) {t : TileId} {code sub : Nat} {n : BitVec 18} : Keeps s₀ (swsFault s t code sub n) := by
  unfold Machine.swsFault
  exact h.modTile.enter

theorem fillEnd (h : Keeps s₀ s) {o : MoverOp} {bad : Option (Nat × BitVec 18)} : Keeps s₀ (fillEnd s o bad) := by
  fun_cases Machine.fillEnd s o bad
  · exact h.swsFault
  · exact h.modTile.swsFault
  · exact h.swsDone
  · exact h
  · exact h.modCourse
  · exact h
  · exact h

theorem moverStep (h : Keeps s₀ s) {c : CourseId} : Keeps s₀ (moverStep s c) := by
  fun_cases Machine.moverStep s c
  · exact h
  · exact h.modCourse.spillBank
  · exact h.modCourse
  · exact h.modCourse
  · exact h.modCourse.fillEnd
  · exact h.modCourse.fillEnd
  · exact h.modCourse.spillBank.modTile.modTile.evCount.fillEnd
  · exact h.modCourse.spillBank.spillBank.modTile.evCount.fillEnd
  · exact h.modCourse.spillBank.spillBank.fillEnd
  · exact h.modCourse.fillEnd
  · exact h.modCourse.spillBank.fillEnd
  · exact h.modCourse.spillBank.modTile.evCount.fillEnd
  · exact h.modCourse.spillBank.fillEnd

theorem sessInit (h : Keeps s₀ s) {n : BitVec 18} {ast : BitVec 16} {krr : BitVec 128} : Keeps s₀ (sessInit s n ast krr) := by
  unfold Machine.sessInit
  refine .other (.setBytes ?_)
  split
  · exact h.modTile
  · exact h

theorem sessFree (h : Keeps s₀ s) {n : BitVec 18} : Keeps s₀ (sessFree s n) := by
  unfold Machine.sessFree
  refine .setByte ?_
  split
  · exact h.spillBank
  · exact h

theorem poolDef (h : Keeps s₀ s) {a0 a1 a2 : Word} : Keeps s₀ (poolDef s a0 a1 a2) := by
  unfold Machine.poolDef
  exact .ite ((h.setReg.setReg.setReg.andThen fun k => .ite k k.zeroRange).cmdDone) h.cmdDone

theorem poolDel (h : Keeps s₀ s) {n : Nat} : Keeps s₀ (poolDel s n) := by
  unfold Machine.poolDel
  exact .ite h.cmdDone (.ite h.cmdDone ((h.foldl (fun _ _ k => k.setReg)).cmdDone))

theorem moveHomes (h : Keeps s₀ s) {c : CourseId} : Keeps s₀ (moveHomes s c) := by
  unfold Machine.moveHomes
  refine h.foldl (fun _ _ k => ?_)
  dsimp only
  split
  · exact k.repairSlice.andThen fun k1 => .ite k1.hintHere k1
  · exact k.repairSlice

theorem drainCourse (h : Keeps s₀ s) {c : CourseId} : Keeps s₀ (drainCourse s c) := by
  unfold Machine.drainCourse
  refine (h.setFld.foldl (fun _ _ k => ?_)).moveHomes
  dsimp only
  split
  · exact k.modCourse.modTicket.clearHeld
  · exact k.modCourse.modTicket

theorem drainedCheck (h : Keeps s₀ s) : Keeps s₀ (drainedCheck s) := by
  unfold Machine.drainedCheck
  exact h.foldl (fun _ _ k => .ite ((k.foldl
      (fun _ _ k1 => k1.foldl (fun _ _ k2 => k2.spillBank))).setFld.raise.andThen fun k1 => .ite k1.cmdDone.modMason k1) k)

theorem quiescedCheck (h : Keeps s₀ s) : Keeps s₀ (quiescedCheck s) := .ite h.setFld h

theorem unquenchCheck (h : Keeps s₀ s) : Keeps s₀ (unquenchCheck s) := by
  unfold Machine.unquenchCheck
  exact .ite h (h.modMason.foldl (fun _ _ k => k.send))

theorem brickOut (h : Keeps s₀ s) {c : BrickCmd} : Keeps s₀ (brickOut s c) := by
  unfold Machine.brickOut
  exact .ite h.cmdDone h.modMason.sendBcmd

theorem masonRun (h : Keeps s₀ s) {code : Nat} : Keeps s₀ (masonRun code s) := by
  fun_cases Machine.masonRun code s
  · exact h.setFld.cmdDone
  · exact h.cmdDone
  · exact h.setFld.cmdDone
  · exact h.setFld.cmdDone
  · exact h.cmdDone
  · exact h.modMason.cmdDone
  · exact h.poolDef
  · exact h.poolDel
  · exact h.cmdDone
  · exact h.sessInit.cmdDone
  · exact h.cmdDone
  · exact h.sessFree.cmdDone
  · exact h.cmdDone
  · refine .cmdDone ?_
    split
    · exact h.spillBank
    · exact h
  · exact h.brickOut
  · exact h.brickOut
  · exact h.brickOut
  · exact h.brickOut
  · exact h.brickOut
  · exact h.brickOut
  · exact h.drainCourse.modMason
  · exact h.cmdDone
  · exact h.setFld.cmdDone
  · exact h.cmdDone
  · exact (h.setFld.andThen fun k => .ite k.startMig k).cmdDone
  · exact h.cmdDone

theorem masonCmd (h : Keeps s₀ s) {src code : Nat} : Keeps s₀ (masonCmd s src code) := h.command (fun _ k => k.masonRun)

theorem balanceMove (h : Keeps s₀ s) {key : Word} {c : CourseId} : Keeps s₀ (balanceMove s key c) := by
  fun_cases Machine.balanceMove s key c
  · exact h.repairSlice
  · exact h.repairSlice
  · exact h.repairSlice.hintHere.modMason

theorem loseSession (h : Keeps s₀ s) {n : BitVec 18} : Keeps s₀ (loseSession s n) := by
  fun_cases Machine.loseSession s n
  · exact h.setByte.restoreWs.freeTicketSlot.refuse
  · exact h.setByte

theorem retireBank (h : Keeps s₀ s) {t : TileId} {b : Fin 16} : Keeps s₀ (retireBank t s b) := by
  fun_cases Machine.retireBank t s b
  · exact h
  · exact h.drew.modTile.loseSession
  · exact h.drew.spillBank

theorem retireTile (h : Keeps s₀ s) {t : TileId} : Keeps s₀ (retireTile s t) := by
  unfold Machine.retireTile
  refine .andThen (.mcPush (.raise (.setReg (.foldl ?_ (fun _ _ k => k.retireBank)))))
      fun k => .ite ((k.foldl (fun _ _ k1 => k1.failTicket)).drainCourse) k
  split
  · exact h.setReg.modCourse.modMason.failTicket
  · exact h.setReg.modCourse.modMason

/-! ## The commands of the journal -/

theorem resyncPump (h : Keeps s₀ s) : Keeps s₀ (resyncPump s) := by
  fun_cases Machine.resyncPump s
  · refine h.foldl (fun _ _ k => .ite k ?_)
    dsimp only
    split
    · exact k.modHwj.repairSlice.send
    · exact k.modHwj.repairSlice
  · exact h
  · exact h

theorem pairOp (h : Keeps s₀ s) : Keeps s₀ (pairOp s) := by
  unfold Machine.pairOp
  exact h.drew.andThen fun k => .ite k.cmdDone
      (((k.setReg.setHwjState.modHwj.foldl (fun _ _ k1 => .ite k1 k1.setDword.setDword)).foldl
      (fun _ _ k1 => k1.send)).snapshot.cmdDone)

theorem resyncDone (h : Keeps s₀ s) : Keeps s₀ (resyncDone s) := by
  unfold Machine.resyncDone
  exact .ite h.setHwjState.raise.modHwj.applyPump h

theorem sendCounted (h : Keeps s₀ s) {p : Pend} : Keeps s₀ (sendCounted s p) := .ite h.sendPend h.sendPend.incSat

theorem releaseHeld (h : Keeps s₀ s) : Keeps s₀ (releaseHeld s) := by
  unfold Machine.releaseHeld
  exact h.foldl (fun _ _ k => k.sendCounted)

theorem endFailed (h : Keeps s₀ s) {g : Mig} : Keeps s₀ (endFailed s g) := by
  fun_cases Machine.endFailed s g
  · exact h.abortMig
  · exact h
  · exact .andThen (.raise (.dropMig (.ite h h.markBrick))) fun k => .ite k.refuseOldest k
  · exact h.endMark
  · exact h.modMig.endMark
  · exact .andThen (.raise (.dropMig (.ite h h.markBrick))) fun k => .ite k.refuseOldest k
  · exact .andThen (.raise (.dropMig (.ite h h.markBrick))) fun k => .ite k.refuseOldest k
  · exact h.modMig.askSlice

theorem endMigs (h : Keeps s₀ s) {a : BitVec 9} {asked : List Mig} : Keeps s₀ (endMigs s a asked) := by
  unfold Machine.endMigs
  refine (h.modMason.foldl (fun _ _ k => k.endFailed)).foldl (fun _ _ k => ?_)
  split
  · exact k.sendMig
  · exact k

theorem takeOver (h : Keeps s₀ s) {a : BitVec 9} : Keeps s₀ (takeOver s a) := h.promote.endMigs

theorem hwjRun (h : Keeps s₀ s) {code : Nat} : Keeps s₀ (hwjRun code s) := by
  fun_cases Machine.hwjRun code s
  · exact h.ringInitOp
  · exact h.ringOpenOp
  · exact h.pairOp
  · refine .cmdDone (.journalPump (.setReg (.decideWaiting (.flushDrep (.setHwjState ?_)))))
    dsimp +zetaDelta only
    split
    · exact h.sendAllRoutes
    · exact h
  · exact h.takeOver.cmdDone
  · exact h.cmdDone
  · exact h.cmdDone
  · exact h.enterFenced.cmdDone.journalPump
  · exact h.releaseHeld.cmdDone

theorem hwjCmd (h : Keeps s₀ s) {src code : Nat} : Keeps s₀ (hwjCmd s src code) := h.command (fun _ k => k.hwjRun)

theorem sendHeartbeats (h : Keeps s₀ s) : Keeps s₀ (sendHeartbeats s) := h.foldl (fun _ _ k => k.send.evCount)

theorem declareFailed (h : Keeps s₀ s) {b : BitVec 9} : Keeps s₀ (declareFailed s b) := by
  unfold Machine.declareFailed
  exact h.raise.enterDegraded.modHwj.sendAllRoutes.mcPush.andThen fun k => .ite k.takeOver k

theorem heartbeat (h : Keeps s₀ s) : Keeps s₀ (heartbeat s) := by
  fun_cases Machine.heartbeat s
  · exact h
  · exact .journalPump (.enterFenced (.sendHeartbeats (.ite h.other h)))
  · exact .declareFailed (.setReg (.sendHeartbeats (.ite h.other h)))
  · exact .setReg (.sendHeartbeats (.ite h.other h))
  · exact .sendHeartbeats (.ite h.other h)

theorem hbIn (h : Keeps s₀ s) {src : BitVec 9} {tb : Word} {seen : Vector Word 8} : Keeps s₀ (hbIn s src tb seen) := by
  fun_cases Machine.hbIn s src tb seen
  · exact h
  · exact h.evCount.modHwj.setReg
  · exact h.evCount.modHwj

theorem breakIn (h : Keeps s₀ s) {src : BitVec 9} : Keeps s₀ (breakIn s src) := .ite h.modHwj.enterDegraded h

theorem fenceIn (h : Keeps s₀ s) {src : BitVec 9} : Keeps s₀ (fenceIn s src) := .ite h.enterFenced.journalPump h

theorem mirrorTimeout (h : Keeps s₀ s) : Keeps s₀ (mirrorTimeout s) := by
  unfold Machine.mirrorTimeout
  refine .ite (.enterDegraded ?_) h
  split
  · exact h.raise.sendAllRoutes
  · exact h.raise

theorem tkovIn (h : Keeps s₀ s) {a b : BitVec 9} : Keeps s₀ (tkovIn s a b) := by
  unfold Machine.tkovIn
  exact .ite h ((h.renameDev.endMigs.foldl (fun _ _ k => .ite k.putSlice k)).foldl (fun _ _ k => k.sendCounted))

theorem mrecIn (h : Keeps s₀ s) {src : BitVec 9} {rec : List Byte} : Keeps s₀ (mrecIn s src rec) := .ite h.modHwj.journalPump h

theorem mackIn (h : Keeps s₀ s) {src : BitVec 9} {pos : Word} : Keeps s₀ (mackIn s src pos) := .ite h.mirrorAck h

theorem drepIn (h : Keeps s₀ s) {src : BitVec 9} {off : Nat} {k w : Word} : Keeps s₀ (drepIn s src off k w) := by
  unfold Machine.drepIn
  exact .ite ((h.setDword.setDword.andThen fun k1 => .ite k1.fill k1).send) h

theorem dackIn (h : Keeps s₀ s) {src : BitVec 9} {off : Nat} : Keeps s₀ (dackIn s src off) := by
  fun_cases Machine.dackIn s src off
  · exact h.modHwj.entryLands
  · exact h
  · exact h

theorem cackIn (h : Keeps s₀ s) {src dest : BitVec 9} {course : BitVec 4} {seq : BitVec 48} :
    Keeps s₀ (cackIn s src dest course seq) := by
  unfold Machine.cackIn
  exact .andThen (.ite h.drew h) fun k => .ite k.ackCont k.modHwj

theorem ringFull (h : Keeps s₀ s) {t : TileId} : Keeps s₀ (ringFull s t) := by
  fun_cases Machine.ringFull s t
  · exact h.modHwj.failTicket.journalPump
  · exact h

theorem snapshotDue (h : Keeps s₀ s) : Keeps s₀ (snapshotDue s) := .ite h h.snapshot

end Keeps
end Sys2Proof.Machine
end

section
/-! PROOFS. What the messages of the fabric, and replay, keep (O59). -/

namespace Sys2Proof.Machine
namespace Keeps

set_option Elab.async false

variable {s₀ s : State}

/-! ## The messages of the fabric -/

theorem holdMsg (h : Keeps s₀ s) {m : Msg} : Keeps s₀ (holdMsg s m) := h.other

theorem quenchSource (h : Keeps s₀ s) {src : BitVec 9} : Keeps s₀ (quenchSource s src) := by
  unfold Machine.quenchSource
  exact .ite h h.modMason.send

theorem ticketIn (h : Keeps s₀ s) {m : Msg} {tk : Ticket} : Keeps s₀ (ticketIn s m tk) := by
  fun_cases Machine.ticketIn s m tk
  · refine .arrive (.evCount (Keeps.snd ?_ ‹_›))
    split
    · dsimp only
      exact h.recache.drew
    · dsimp only
      exact h.recache.drew.drew
  · exact h.holdMsg

theorem contIn (h : Keeps s₀ s) {m : Msg} {src : BitVec 9} {course : BitVec 4} {seq : BitVec 48} {tk : Ticket} :
    Keeps s₀ (contIn s m src course seq tk) :=
  .ite h.evCount.recvCont h.holdMsg

theorem setTadj (h : Keeps s₀ s) {v : ℤ} : Keeps s₀ (setTadj s v) := h.setReg

theorem setTstate (h : Keeps s₀ s) {v : Nat} : Keeps s₀ (setTstate s v) := h.setFld

theorem trspIn (h : Keeps s₀ s) {k : LinkId} {src : BitVec 9} {t1 t2 t3 cq cr t4 : Word} :
    Keeps s₀ (trspIn s k src t1 t2 t3 cq cr t4) := by
  unfold Machine.trspIn
  exact .ite h ((h.setReg.andThen fun k1 => .ite k1.setReg k1).other.setTadj.setFld.andThen fun k1 => .ite k1.setTstate
      (.ite k1.setTstate (.ite k1 k1.setTstate)))

theorem treqIn (h : Keeps s₀ s) {src : BitVec 9} {t1 corr : Word} : Keeps s₀ (treqIn s src t1 corr) := h.send

theorem floodTann (h : Keeps s₀ s) {num : Nat} {root : BitVec 9} {but : Option LinkId} : Keeps s₀ (floodTann s num root but) :=
  h.foldl (fun _ _ k => .ite k k.enqueueMsg)

theorem tannIn (h : Keeps s₀ s) {k : LinkId} {num : Nat} {root : BitVec 9} : Keeps s₀ (tannIn s k num root) := by
  fun_cases Machine.tannIn s k num root
  · refine .floodTann (.other (.andThen (.setFld (.ite h.setFld h)) fun k1 => .ite (.ite k1 k1.setFld.setFld) ?_))
    split
    · exact .ite k1.setFld k1
    · exact k1.setFld.setFld
  · refine .andThen (.setFld (.ite h.setFld h)) fun k1 => .ite (.ite k1 k1.setFld.setFld) ?_
    split
    · exact .ite k1.setFld k1
    · exact k1.setFld.setFld

theorem tannOut (h : Keeps s₀ s) : Keeps s₀ (tannOut s) := by
  unfold Machine.tannOut
  exact .ite h.setFld.setFld.other.floodTann h

theorem treqOut (h : Keeps s₀ s) : Keeps s₀ (treqOut s) := by
  fun_cases Machine.treqOut s
  · exact h.send
  · exact h

theorem holdover (h : Keeps s₀ s) : Keeps s₀ (holdover s) := by
  unfold Machine.holdover
  exact h.setTadj.setFld.setTstate

theorem trspLost (h : Keeps s₀ s) : Keeps s₀ (trspLost s) := .ite h.holdover h

theorem rootLost (h : Keeps s₀ s) : Keeps s₀ (rootLost s) := by
  unfold Machine.rootLost
  exact .ite h (h.setFld.andThen fun k => .ite k.holdover k)

theorem pumpAll (h : Keeps s₀ s) : Keeps s₀ (pumpAll s) := h.foldl (fun _ _ k => k.pumpLink)

theorem quenchIn (h : Keeps s₀ s) {k : LinkId} {src : BitVec 9} {w : Word} : Keeps s₀ (quenchIn s k src w) := by
  unfold Machine.quenchIn
  exact .ite h.other h.setReg.raise.modLink

theorem quenchEnd (h : Keeps s₀ s) {k : LinkId} {src : Option (BitVec 9)} : Keeps s₀ (quenchEnd s k src) := by
  unfold Machine.quenchEnd
  refine .pumpAll ?_
  split
  · exact h.other
  · exact h.setReg

theorem unquenchIn (h : Keeps s₀ s) {k : LinkId} {src : BitVec 9} {w : Word} : Keeps s₀ (unquenchIn s k src w) := h.quenchEnd

theorem deliver (h : Keeps s₀ s) {k : Option LinkId} {m : Msg} : Keeps s₀ (deliver s k m) := by
  fun_cases Machine.deliver s k m
  · exact .hbIn (.ite h.quenchSource h)
  · exact .breakIn (.ite h.quenchSource h)
  · exact .fenceIn (.ite h.quenchSource h)
  · exact .tkovIn (.ite h.quenchSource h)
  · exact .treqIn (.ite h.quenchSource h)
  · exact .trspIn (.ite h.quenchSource h)
  · exact .tannIn (.ite h.quenchSource h)
  · exact .quenchIn (.ite h.quenchSource h)
  · exact .unquenchIn (.ite h.quenchSource h)
  · exact .ticketIn (.ite h.quenchSource h)
  · exact .contIn (.ite h.quenchSource h)
  · exact .cackIn (.ite h.quenchSource h)
  · exact .recvVoid (.ite h.quenchSource h)
  · exact .brickCmd (.ite h.quenchSource h)
  · exact .migStep (.ite h.quenchSource h)
  · exact .endMark (.ite h.quenchSource h)
  · exact .mrecIn (.ite h.quenchSource h)
  · exact .mackIn (.ite h.quenchSource h)
  · exact .drepIn (.ite h.quenchSource h)
  · exact .dackIn (.ite h.quenchSource h)
  · exact .brickCopyIn (.ite h.quenchSource h)
  · exact .resyncIn (.ite h.quenchSource h)
  · exact .ite h.quenchSource h
  · exact .ite h.quenchSource h

theorem deliverLoop (h : Keeps s₀ s) {a : Nat} : Keeps s₀ (deliverLoop a s) := by
  fun_induction Machine.deliverLoop a s
  · exact h
  · exact h
  next ih => exact ih h.other.deliver

theorem addCorr (h : Keeps s₀ s) {m : Msg} : Keeps s₀ (addCorr s m).2 := by
  unfold Machine.addCorr
  dsimp only
  split
  · exact h.drew
  · split
    · exact h.drew
    · exact h

theorem receiveMsg (h : Keeps s₀ s) {k : LinkId} {m : Msg} : Keeps s₀ (receiveMsg s k m) := by
  fun_cases Machine.receiveMsg s k m
  · exact h
  · exact h.dropMsg
  · exact h.deliver
  · exact (h.addCorr.snd ‹_›).routeVia

theorem takeMsgs (h : Keeps s₀ s) {k : LinkId} {a : Nat} {a1 : List Word} : Keeps s₀ (takeMsgs k a a1 s).2.2 := by
  fun_induction Machine.takeMsgs k a a1 s
  · exact h
  · exact h
  · exact h
  · split <;> exact h
  next ih =>
    split
    · exact h
    · exact ih h.receiveMsg

theorem rxWords (h : Keeps s₀ s) {k : LinkId} {vc : Fin 4} {ws : List Word} : Keeps s₀ (rxWords s k vc ws) := by
  fun_cases Machine.rxWords s k vc ws
  exact (h.takeMsgs.third ‹_›).modLink

theorem setLink (h : Keeps s₀ s) {k : LinkId} {n : Nat} : Keeps s₀ (setLink s k n) := h.setFld

theorem startTrain (h : Keeps s₀ s) {k : LinkId} {again : Bool} : Keeps s₀ (startTrain s k again) := by
  unfold Machine.startTrain
  exact h.setLink.setFld.modLink

theorem flushLink (h : Keeps s₀ s) {k : LinkId} : Keeps s₀ (flushLink s k) := by
  unfold Machine.flushLink
  exact .foldl (.foldl (.foldl (.modLink (.ite h h.drew)) (fun _ _ k1 => k1.foldl (fun _ _ k2 => k2.dropMsg)))
      (fun _ _ k1 => .ite k1 k1.dropMsg)) (fun _ _ k1 => k1.routeVia)

theorem failLink (h : Keeps s₀ s) {k : LinkId} {cause : Nat} : Keeps s₀ (failLink s k cause) := by
  unfold Machine.failLink
  exact h.setLink.setFld.raise.andThen fun k1 => .ite k1.raise k1

theorem trainLimit (h : Keeps s₀ s) {k : LinkId} {step : TrainStep} : Keeps s₀ (trainLimit s k step) := by
  fun_cases Machine.trainLimit s k step
  · exact h.setLink.flushLink.raise.startTrain
  · exact h
  · exact h.failLink
  · exact h
  · exact h.failLink
  · exact h
  · exact h.failLink
  · exact h
  · exact h
  · exact h.setFld.raise.modLink
  · exact h.failLink
  · exact h
  · exact h.modLink
  · exact h.failLink

theorem negotiate (h : Keeps s₀ s) {k : LinkId} {n : BitVec 128} : Keeps s₀ (negotiate s k n) := by
  unfold Machine.negotiate
  exact .ite h.failLink (.ite h.failLink
      (.ite h.failLink ((h.setFld.setFld.setFld.andThen fun k1 => .ite k1.raise k1).modLink)))

theorem negoIn (h : Keeps s₀ s) {k : LinkId} {n : BitVec 128} : Keeps s₀ (negoIn s k n) := by
  fun_cases Machine.negoIn s k n
  · exact h
  · exact h.setFld
  · exact h.setFld
  · exact h.setFld.modLink.negotiate
  · exact h.setFld.modLink

theorem resendAll (h : Keeps s₀ s) {k : LinkId} : Keeps s₀ (resendAll s k) := h.foldl (fun _ _ k1 => k1.incSat.evCountQ)

theorem firstExchange (h : Keeps s₀ s) {k : LinkId} : Keeps s₀ (firstExchange s k) := by
  fun_cases Machine.firstExchange s k
  · exact h.treqOut
  · exact h
  · exact h

theorem linkUpOp (h : Keeps s₀ s) {k : LinkId} : Keeps s₀ (linkUpOp s k) := by
  unfold Machine.linkUpOp
  exact .ite h.resendAll.modLink.setLink.raise.pumpAll (.ite h.modLink.setLink.raise.pumpAll.firstExchange h)

theorem mortCmdEnds (h : Keeps s₀ s) {k : LinkId} : Keeps s₀ (mortCmdEnds s k) := by
  unfold Machine.mortCmdEnds
  exact .ite h.cmdDone h

theorem enterRetrain (h : Keeps s₀ s) {k : LinkId} : Keeps s₀ (enterRetrain s k) := .ite h.setLink.incSat.raise.modLink h

theorem crcBad (h : Keeps s₀ s) {k : LinkId} : Keeps s₀ (crcBad s k) := by
  unfold Machine.crcBad
  exact h.raise.modLink.andThen fun k1 => .ite k1.enterRetrain k1

theorem ackFlits (h : Keeps s₀ s) {k : LinkId} {ack : Nat} : Keeps s₀ (ackFlits s k ack) := by
  unfold Machine.ackFlits
  exact h.modLink

theorem flitIn (h : Keeps s₀ s) {k : LinkId} {raw : BitVec 2048} : Keeps s₀ (flitIn s k raw) := by
  unfold Machine.flitIn
  exact .ite h.crcBad (.ite h ((h.evCountQ.modLink.ackFlits.andThen fun k1 => .ite k1.resendAll k1).rxWords.pumpLink))

theorem unitIn (h : Keeps s₀ s) {k : LinkId} {u : RxUnit} : Keeps s₀ (unitIn s k u) := by
  fun_cases Machine.unitIn s k u
  · exact h
  · exact h.flitIn
  · exact h
  · exact h
  · exact h.crcBad
  · exact h.evCountQ.modLink.rxWords.pumpLink

theorem linkDown (h : Keeps s₀ s) {k : LinkId} : Keeps s₀ (linkDown s k) := by
  unfold Machine.linkDown
  exact h.setLink.flushLink.andThen fun k1 => .ite k1.raise k1

theorem quenchCmd (h : Keeps s₀ s) {k : LinkId} {code : Nat} : Keeps s₀ (quenchCmd s k code) := by
  unfold Machine.quenchCmd
  exact .ite h.cmdDone h.send.cmdDone

theorem mortRun (h : Keeps s₀ s) {k : LinkId} {code : Nat} : Keeps s₀ (mortRun k code s) := by
  fun_cases Machine.mortRun k code s
  · exact h.startTrain
  · exact h.linkDown.cmdDone
  · exact h.enterRetrain
  · exact h.setLink.cmdDone
  · exact h.quenchCmd

theorem mortCmd (h : Keeps s₀ s) {src : Nat} {k : LinkId} {code : Nat} : Keeps s₀ (mortCmd s src k code) :=
  h.command (fun _ k1 => k1.mortRun)

theorem autoTrain (h : Keeps s₀ s) {k : LinkId} : Keeps s₀ (autoTrain s k) := .ite h.startTrain h

theorem nosigAgain (h : Keeps s₀ s) {k : LinkId} : Keeps s₀ (nosigAgain s k) := .ite h.startTrain h

/-! ## Replay -/

theorem dropReplayed (h : Keeps s₀ s) {t : TileId} : Keeps s₀ (dropReplayed s t) := by
  fun_cases Machine.dropReplayed s t
  · exact h.freeTicketSlot.dropTicket
  · exact h

theorem replayLeaves (h : Keeps s₀ s) {c : CourseId} : Keeps s₀ (replayLeaves s c) := by
  fun_cases Machine.replayLeaves s c
  · exact h.dropReplayed.modTile
  · exact h.dropReplayed.idle
  · exact h

theorem replayEnd (h : Keeps s₀ s) {c : CourseId} {result pos : Nat} : Keeps s₀ (replayEnd s c result pos) := by
  unfold Machine.replayEnd
  exact h.replayLeaves.modRings.setFld.setFld.setFld.raise.andThen fun k => .ite k.raise k

theorem brickIn (h : Keeps s₀ s) {c : CourseId} {p : Nat} : Keeps s₀ (brickIn s c p) := by
  fun_cases Machine.brickIn s c p
  · exact h
  · exact h.replayEnd
  · exact h.replayEnd
  · exact h.setBytes.modRings

theorem loadSessin (h : Keeps s₀ s) {t : TileId} {bank : Fin 16} {sess : BitVec 18} {b : Bank} :
    Keeps s₀ (loadSessin s t bank sess b) := by
  unfold Machine.loadSessin
  refine .modTile ?_
  split
  · exact .ite h h.spillBank.spillBank
  · exact h.spillBank

theorem scanEnd (h : Keeps s₀ s) {c : CourseId} {a : Scan} : Keeps s₀ (scanEnd s c a) := by
  fun_cases Machine.scanEnd s c a <;> exact h.replayEnd

theorem dispatchInputs (h : Keeps s₀ s) {c : CourseId} {t : TileId} {bank : Fin 16} {sess : BitVec 18} {a a1 : Nat} :
    Keeps s₀ (dispatchInputs c t bank sess a a1 s).2.2 := by
  fun_induction Machine.dispatchInputs c t bank sess a a1 s
  · exact h
  · exact h
  next ih =>
    refine ih ?_
    dsimp +zetaDelta only
    split
    · exact h.loadSessin
    · exact h.replayEnd
  next ih => exact ih h.brickIn
  · exact h
  · exact h

theorem takeRec (h : Keeps s₀ s) {t : TileId} {ty : Nat} {ok : Nat → Bool} : Keeps s₀ (takeRec s t ty ok).2 := by
  fun_cases Machine.takeRec s t ty ok
  · dsimp only
    exact h.modRings
  · dsimp only
    exact h.replayEnd
  · dsimp only
    exact h.scanEnd

theorem replayTb (h : Keeps s₀ s) {t : TileId} : Keeps s₀ (replayTb s t).2 := by
  fun_cases Machine.replayTb s t <;> exact h.takeRec.snd ‹_›

theorem replayLoad (h : Keeps s₀ s) {t : TileId} {a a1 : Nat} : Keeps s₀ (replayLoad t a a1 s).2 := by
  fun_induction Machine.replayLoad t a a1 s
  · exact h
  · exact h
  next ih =>
    dsimp only
    exact (ih (h.takeRec.snd ‹_›)).snd ‹_›
  next ih =>
    dsimp only
    exact (ih (h.takeRec.snd ‹_›)).snd ‹_›
  · dsimp only
    exact h.takeRec.snd ‹_›

theorem replayResume (h : Keeps s₀ s) {t : TileId} : Keeps s₀ (replayResume s t) := by
  fun_cases Machine.replayResume s t
  · exact (h.takeRec.snd ‹_›).modTile
  · exact (h.takeRec.snd ‹_›).replayEnd
  · exact h.takeRec.snd ‹_›

theorem replayIntr (h : Keeps s₀ s) {t : TileId} {a : Nat} : Keeps s₀ (replayIntr t a s) := by
  fun_induction Machine.replayIntr t a s
  · exact h
  · exact h
  · exact h.replayEnd
  next ih => exact ih ((h.modRings.andThen fun k => .ite k.modTile k).replayResume)
  · exact h
  · exact h

theorem replayDispatch (h : Keeps s₀ s) {c : CourseId} {p : Nat} : Keeps s₀ (replayDispatch s c p) := by
  unfold Machine.replayDispatch
  extract_lets t w0 raw bank sess rq s1 s2 s3 prev s4 n sl rc s5
  have h3 : Keeps s₀ s3 := h.setFld.modRings.setBytes
  clear_value prev
  split
  · exact h.replayEnd
  split
  next n s5 e5 =>
    have h5 : Keeps s₀ s5 := by
      split at e5
      · cases e5; exact h3.modTicket
      · cases e5; exact h3.addTicket.modCourse.modTicket
    split
    next q nxt s7 e7 =>
      have h7 : Keeps s₀ s7 := h5.dispatchInputs.third e7
      split
      · exact h7
      extract_lets bb s8 s9
      have h9 : Keeps s₀ s9 := h7.modTicket.modRings.freeKiln
      refine .ite h7.scanEnd (.replayIntr (h9.modTile fun x => (TileKeeps.refl x).emptied))

theorem replayNext (h : Keeps s₀ s) {c : CourseId} {again : Bool} : Keeps s₀ (replayNext s c again) := by
  fun_cases Machine.replayNext s c again
  · exact h.modRings.replayDispatch
  · exact h.modRings.replayDispatch
  · exact h.modRings.replayEnd
  · exact h.modRings.replayEnd
  · exact h.modRings.replayDispatch
  · exact h.modRings.replayEnd
  · exact h.modRings.replayEnd

theorem replayXent (h : Keeps s₀ s) {t : TileId} {code : Nat} : Keeps s₀ (replayXent s t code) := by
  fun_cases Machine.replayXent s t code
  · exact (h.takeRec.snd ‹_›).modTile.replayResume
  · exact h.takeRec.snd ‹_›

theorem replayFinish (h : Keeps s₀ s) {t : TileId} {how : Nat} : Keeps s₀ (replayFinish s t how) := by
  fun_cases Machine.replayFinish s t how
  · exact h.replayEnd
  · exact h.takeRec.snd ‹_›
  · exact (h.takeRec.snd ‹_›).replayEnd
  · exact .replayNext (.andThen (.ite ((h.takeRec.snd ‹_›).modTicket)
      (.dropTicket (.freeTicketSlot (.ite ((h.takeRec.snd ‹_›).restoreWs) (h.takeRec.snd ‹_›))))) fun k => .ite k k.idle)

theorem replayOp (h : Keeps s₀ s) {c : CourseId} : Keeps s₀ (replayOp s c) := by
  fun_cases Machine.replayOp s c
  · exact h.cmdDone
  · exact h.cmdDone
  · exact h.setReg.setReg.setReg.setReg.setFld.modRings.cmdDone.replayDispatch
  · exact h.setReg.setReg.setReg.setReg.setFld.modRings.cmdDone.replayDispatch
  · exact h.setReg.setReg.setReg.setReg.setFld.modRings.cmdDone.replayEnd
  · exact h.setReg.setReg.setReg.setReg.setFld.modRings.cmdDone.replayEnd

theorem ringsStop (h : Keeps s₀ s) {c : CourseId} : Keeps s₀ (ringsStop s c) := h.replayLeaves.ringsStopOp

theorem ringsCmd (h : Keeps s₀ s) {src : Nat} {c : CourseId} {code : Nat} : Keeps s₀ (ringsCmd s src c code) := by
  unfold Machine.ringsCmd
  refine h.command (fun _ k => ?_)
  split
  · exact k.ringsStartOp
  · exact k.ringsCkptOp
  · exact k.ringsMarkOp
  · exact k.ringsStop
  · exact k.replayOp

end Keeps
end Sys2Proof.Machine
end

section
/-! PROOFS. What reset, boot, training and the board keep (O59). -/

namespace Sys2Proof.Machine
namespace Keeps

set_option Elab.async false

variable {s₀ s : State}

/-! ## Reset, boot and training -/

theorem whenLive (h : Keeps s₀ s) {f : State → State} (hf : ∀ s, Keeps s₀ s → Keeps s₀ (f s)) : Keeps s₀ (whenLive s f) :=
  .ite (hf _ h) h

theorem releaseReset (h : Keeps s₀ s) : Keeps s₀ (releaseReset s) := by
  unfold Machine.releaseReset
  exact h.other.foldl (fun _ _ k => .ite k.raise k)

theorem clearPages (h : Keeps s₀ s) : Keeps s₀ (clearPages s) := by
  have ht : ∀ t : TileId, (State.reset.tile t).rstack = [] ∧ (State.reset.tile t).window = [] ∧
      (State.reset.tile t).kiln.queue = [] := fun t => by
    simp [State.tile, State.reset, Vector.get_eq_getElem, Tile.reset, KFile.reset]
  refine h.trans ⟨Memory.wf_filter _, risingFrom_filter _, fun _ => Nat.zero_le _, id, fun t => ?_⟩
  obtain ⟨hr, hw, hq⟩ := ht t
  exact ⟨fun _ => hr ▸ Nat.zero_le _, by show (State.reset.tile t).window.length ≤ _; simp [hw],
    by show (State.reset.tile t).lrs.length ≤ _; simp [Tile.lrs, hw],
    by show (State.reset.tile t).kiln.queue.length ≤ _; simp [hq]⟩

theorem clearDevice (h : Keeps s₀ s) : Keeps s₀ (clearDevice s) := h.clearPages.releaseReset

theorem coldResetOp (h : Keeps s₀ s) : Keeps s₀ (coldResetOp s) := by
  unfold Machine.coldResetOp
  exact h.other.clearDevice

theorem holdTiles (h : Keeps s₀ s) : Keeps s₀ (holdTiles s) := h.mapTiles (fun x => (TileKeeps.refl x).other) rfl

theorem powerLossOp (h : Keeps s₀ s) : Keeps s₀ (powerLossOp s) := by
  unfold Machine.powerLossOp
  exact h.holdTiles.other

theorem holdReset (h : Keeps s₀ s) : Keeps s₀ (holdReset s) := by
  unfold Machine.holdReset
  exact h.holdTiles.other

theorem trySlot (h : Keeps s₀ s) {img : List Byte} {readable : Bool} : Keeps s₀ (trySlot s img readable).2 := by
  unfold Machine.trySlot
  dsimp only
  split
  · exact h
  · split
    · exact h
    · split
      · dsimp only
        exact h.setBytes
      · dsimp only
        exact h.setBytes

theorem setBootStat (h : Keeps s₀ s) {done : Bool} {slot a b : Nat} : Keeps s₀ (setBootStat s done slot a b) := h.setReg

theorem bootStop (h : Keeps s₀ s) {a b : Nat} : Keeps s₀ (bootStop s a b) := by
  unfold Machine.bootStop
  exact h.setBootStat.other

theorem setUcode (h : Keeps s₀ s) {p uabi ver : Nat} : Keeps s₀ (setUcode s p uabi ver) := h.setReg

theorem setLowest (h : Keeps s₀ s) : Keeps s₀ (setLowest s) := h.setFld

theorem startTile (h : Keeps s₀ s) {t : TileId} {pc : Word} : Keeps s₀ (startTile s t pc) := h.modTile

theorem bootFrom (h : Keeps s₀ s) {img : List Byte} : Keeps s₀ (bootFrom s img) := by
  unfold Machine.bootFrom
  exact ((h.foldl (fun _ _ k => k.setUcode)).foldl (fun _ _ k => k.setReg)).setBytes.setFld.setLowest.other.startTile

theorem bootRomOp (h : Keeps s₀ s) {density : Option Nat} {flash : List Byte} {readable : FlashReads} :
    Keeps s₀ (bootRomOp s density flash readable) := by
  fun_cases Machine.bootRomOp s density flash readable
  · exact h
  · exact h.other.bootStop
  · exact h.other.trySlot.bootFrom.setBootStat
  · exact h.other.trySlot.trySlot.bootFrom.setBootStat
  · exact h.other.trySlot.trySlot.bootStop

theorem releaseTile (h : Keeps s₀ s) {t : TileId} : Keeps s₀ (releaseTile s t) := .ite h.startTile h

theorem devStartOp (h : Keeps s₀ s) {v : Word} : Keeps s₀ (devStartOp s v) := by
  unfold Machine.devStartOp
  exact h.setReg.foldl (fun _ _ k => k.releaseTile)

theorem memCmd (h : Keeps s₀ s) {src page code : Nat} : Keeps s₀ (memCmd s src page code) := by
  unfold Machine.memCmd
  exact h.command (fun _ k => k.setFld)

theorem setNframe (h : Keeps s₀ s) : Keeps s₀ (setNframe s) := by
  fun_cases Machine.setNframe s
  · exact h.setFld
  · exact h
  · exact h

theorem trainDone (h : Keeps s₀ s) {c : Fin 9} {d : Dimms} : Keeps s₀ (trainDone s c d) := by
  unfold Machine.trainDone
  refine .ite h (andThen (s := _) ?_ fun k => .ite k k.setNframe)
  refine andThen (s := _) ?_ fun k => .ite k.other k
  split
  · exact h.setFld.cmdDone.andThen fun k => k.other
  · exact h.setFld.cmdDone

theorem courseCmd (h : Keeps s₀ s) {src : Nat} {c : CourseId} {code : Nat} : Keeps s₀ (courseCmd s src c code) := by
  unfold Machine.courseCmd
  exact h.command (fun _ k => .ite k.cmdDone k.modCourse.setFld)

theorem courseReset (h : Keeps s₀ s) {c : CourseId} : Keeps s₀ (courseReset s c) := by
  unfold Machine.courseReset
  exact ((h.resetRegs.modCourse.foldl (fun _ _ k => k.modTile (fun _ => .courseReset (.refl _)))).foldl
      (fun _ _ k => k.setReg)).andThen fun k => .ite (k.foldl (fun _ _ k1 => k1.releaseTile)) k

theorem reloadDone (h : Keeps s₀ s) {c : CourseId} : Keeps s₀ (reloadDone s c) := by
  fun_cases Machine.reloadDone s c
  · exact h
  · exact h.modCourse.drew.setReg.setFld.cmdDone
  · exact (h.modCourse.courseReset.foldl (fun _ _ k => k.setUcode)).setReg.setLowest.setReg.setFld.cmdDone

theorem calCmd (h : Keeps s₀ s) {src code : Nat} : Keeps s₀ (calCmd s src code) := h.command (fun _ k => k)

theorem clkCmd (h : Keeps s₀ s) {src code : Nat} : Keeps s₀ (clkCmd s src code) := h.command (fun _ k => k)

theorem pwrCmd (h : Keeps s₀ s) {src code : Nat} : Keeps s₀ (pwrCmd s src code) := h.command (fun _ k => k.clearDevice)

theorem seedTb (h : Keeps s₀ s) : Keeps s₀ (seedTb s) := by
  unfold Machine.seedTb
  exact .ite (h.other.andThen fun k => .ite k.cmdDone k) h

theorem calAdvance (h : Keeps s₀ s) {n : Nat} : Keeps s₀ (calAdvance s n) := by
  unfold Machine.calAdvance
  exact h.setReg.setReg

theorem calCount (h : Keeps s₀ s) : Keeps s₀ (calCount s) := by
  unfold Machine.calCount
  exact .ite h.other (h.calAdvance.andThen fun k => .ite k.other.calAdvance k)

theorem calSet (h : Keeps s₀ s) : Keeps s₀ (calSet s) := by
  unfold Machine.calSet
  exact .ite h.setReg.setReg.setReg.other.raise.cmdDone h

theorem stopPage (h : Keeps s₀ s) {p : Nat} {on : Bool} : Keeps s₀ (s.stopPage p on) := h.other

theorem oscStopOp (h : Keeps s₀ s) : Keeps s₀ (oscStopOp s) := h.raise.setReg.stopPage

theorem ppsEdgeOp (h : Keeps s₀ s) {falling : Bool} : Keeps s₀ (ppsEdgeOp s falling) := by
  unfold Machine.ppsEdgeOp
  exact .ite h (h.setReg.setReg.raise.evCount.andThen fun k => .ite k.other.setTadj k)

theorem ppsLostOp (h : Keeps s₀ s) : Keeps s₀ (ppsLostOp s) := by
  unfold Machine.ppsLostOp
  exact h.raise.andThen fun k => .ite k.setTadj k

theorem pllUnlockOp (h : Keeps s₀ s) {p : Pll} {stops : Bool} : Keeps s₀ (pllUnlockOp s p stops) := by
  unfold Machine.pllUnlockOp
  exact h.raise.evCount.andThen fun k => .ite k.other k

/-! ## PCI Express, memory and the board -/

theorem subDown (h : Keeps s₀ s) {p : Fin 2} {k : Fin 4} : Keeps s₀ (subDown s p k) := by
  unfold Machine.subDown
  exact .ite h.setReg.raise.other h

theorem subLinkUp (h : Keeps s₀ s) {p : Fin 2} {k : Fin 4} {gen : BitVec 3} {width : BitVec 5} :
    Keeps s₀ (subLinkUp s p k gen width) :=
  .ite h.setReg.raise h

theorem perstWriteOp (h : Keeps s₀ s) {src : Nat} {p : Fin 2} {w : WReq} : Keeps s₀ (perstWriteOp s src p w) := by
  unfold Machine.perstWriteOp
  exact h.regWrite.foldl (fun _ _ k => .ite k.subDown (.ite k.other k))

theorem windowLoad (h : Keeps s₀ s) {p : Fin 2} {a n : Nat} : Keeps s₀ (windowLoad s p a n).2 := by
  fun_cases Machine.windowLoad s p a n
  · exact h.other.evCount.evCount
  · exact h.raise

theorem windowStore (h : Keeps s₀ s) {p : Fin 2} {a : Nat} : Keeps s₀ (windowStore s p a) := by
  fun_cases Machine.windowStore s p a
  · exact h.evCount
  · exact h.raise

theorem dmaKey (h : Keeps s₀ s) {p : Fin 2} {i : Nat} : Keeps s₀ (dmaKey s p i).2 := by
  fun_cases Machine.dmaKey s p i
  · exact h
  · exact h.other.evCount

theorem dmaFrames (h : Keeps s₀ s) {p : Fin 2} {krr : BitVec 128} {wr : Bool} {a : List Nat} :
    Keeps s₀ (dmaFrames s p krr wr a).2 := by
  fun_induction Machine.dmaFrames s p krr wr a
  · exact h
  · dsimp only
    exact h.dmaKey.snd ‹_›
  next ih => exact ih (h.dmaKey.snd ‹_›)

theorem aerUnc (h : Keeps s₀ s) {p : Fin 2} {rid : BitVec 16} {addr : Word} {req : PcieReq} :
    Keeps s₀ (aerUnc s p rid addr req) := by
  unfold Machine.aerUnc
  exact h.raise.evCount.other

theorem dmaRefuse (h : Keeps s₀ s) {p : Fin 2} {rid : BitVec 16} {addr : Word} {req : PcieReq} :
    Keeps s₀ (dmaRefuse s p rid addr req) := by
  unfold Machine.dmaRefuse
  exact h.raise.evCount.aerUnc.other

theorem dmaRights (h : Keeps s₀ s) {p : Fin 2} {rid : BitVec 16} {a n : Nat} {wr : Bool} :
    Keeps s₀ (dmaRights s p rid a n wr).2 := by
  fun_cases Machine.dmaRights s p rid a n wr
  · exact h
  · exact h
  · exact h
  · exact h.dmaFrames
  · exact h.dmaFrames
  · exact h
  · exact h
  · exact h

theorem msiOp (h : Keeps s₀ s) {p : Fin 2} {rid : BitVec 16} {addr : Word} {data : List Byte} :
    Keeps s₀ (msiOp s p rid addr data) := by
  fun_cases Machine.msiOp s p rid addr data
  · exact h.bell.evCount.other
  · exact h.dmaRefuse
  · exact h.dmaRefuse

theorem inboundReq (h : Keeps s₀ s) {p : Fin 2} {rid : BitVec 16} {addr : Word} {a : PcieReq} :
    Keeps s₀ (inboundReq s p rid addr a) := by
  induction a with
  | write data =>
    exact .ite h.msiOp (.ite (h.dmaRights (n := data.length)).setBytes.unpoison.other h.dmaRights.dmaRefuse)
  | read n =>
    have k := (h.evCount (p := pPcie + p.val) (src := 0x21) (k := 1)).dmaRights (p := p) (rid := rid) (a := addr.toNat) (n := n)
        (wr := false)
    exact .ite h.evCount.dmaRefuse (.ite (.ite k.other.aerUnc k.other) k.dmaRefuse)
  | other k => exact h.dmaRefuse
  | intx => exact h.raise
  | correctable => exact h.raise.evCount
  | badEcrc req ih => exact .ite h.aerUnc ih

theorem inboundOp (h : Keeps s₀ s) {p : Fin 2} {rid : BitVec 16} {addr : Word} {req : PcieReq} :
    Keeps s₀ (inboundOp s p rid addr req) :=
  .ite h.evCount.inboundReq h

theorem eccFound (h : Keeps s₀ s) {page a : Nat} {e : Ecc} : Keeps s₀ (eccFound s page a e) := by
  fun_cases Machine.eccFound s page a e
  · exact h
  · exact h.setReg.setReg.raise.evCount
  · exact h.setReg.other.raise.evCount

theorem scrubOp (h : Keeps s₀ s) {c : Fin 9} {addr : BitVec 48} {e : Ecc} : Keeps s₀ (scrubOp s c addr e) := by
  unfold Machine.scrubOp
  exact .ite (.ite (.andThen (.ite h.evCount.evCount h.evCount.evCount.eccFound) fun k => .ite k.raise k) (.ite h h.eccFound)) h

theorem spiWrite (h : Keeps s₀ s) {src : Nat} {w : WReq} : Keeps s₀ (spiWrite s src w) := by
  unfold Machine.spiWrite
  exact .ite h.logErr (h.regWrite.andThen fun k => .ite k.setFld.other k)

theorem spiBufWrite (h : Keeps s₀ s) {src : Nat} {w : WReq} : Keeps s₀ (spiBufWrite s src w) := .ite h.logErr h.regWrite

theorem putRegByte (h : Keeps s₀ s) {ca i : Nat} {b : Byte} : Keeps s₀ (putRegByte s ca i b) := h.setFld

theorem spiDoneOp (h : Keeps s₀ s) {data : List Byte} : Keeps s₀ (spiDoneOp s data) := by
  unfold Machine.spiDoneOp
  exact .ite h (.ite h.setFld ((h.foldl (fun _ _ k => k.putRegByte)).other.andThen fun k => .ite k k.setFld))

theorem i2cWrite (h : Keeps s₀ s) {src : Nat} {w : WReq} : Keeps s₀ (i2cWrite s src w) := by
  unfold Machine.i2cWrite
  exact h.regWrite.andThen fun k => .ite k.logErr (.ite k.setFld.other k)

theorem i2cDoneOp (h : Keeps s₀ s) {nack : Bool} {data : Word} : Keeps s₀ (i2cDoneOp s nack data) := by
  unfold Machine.i2cDoneOp
  exact .ite h (h.setFld.setFld.andThen fun k => .ite k k.setFld)

theorem setThrottling (h : Keeps s₀ s) {on : Bool} : Keeps s₀ (setThrottling s on) := by
  unfold Machine.setThrottling
  exact h.other

theorem temperatureOp (h : Keeps s₀ s) {tj : BitVec 16} : Keeps s₀ (temperatureOp s tj) := by
  unfold Machine.temperatureOp
  exact (h.setReg.andThen fun k => .ite k.raise.setThrottling
      (.ite k.setFld.setThrottling k)).andThen fun k => .ite k.raise.holdReset.other k

theorem railWarnOp (h : Keeps s₀ s) : Keeps s₀ (railWarnOp s) := h.raise.evCount

theorem smbCmd (h : Keeps s₀ s) {code : Nat} {allowed : Bool} {run : State → State} (hrun : ∀ s, Keeps s₀ s → Keeps s₀ (run s))
    : Keeps s₀ (smbCmd s code allowed run) := by
  unfold Machine.smbCmd
  exact .ite h (.ite ((hrun _ h.evCount.other).other) h.evCount.other.other.logErr)

theorem smbReply (h : Keeps s₀ s) {bs : List Byte} : Keeps s₀ (smbReply s bs) := by
  unfold Machine.smbReply
  exact h.other

theorem standbyResetOp (h : Keeps s₀ s) {straps : StrapPair} : Keeps s₀ (standbyResetOp s straps) := by
  have k : Keeps s₀ (({ s with freeCtr := s.freeCtr + 2 } : State).resetRegs (fun ca => decide (ca / 4096 = pSmb))) :=
    h.other.resetRegs
  unfold Machine.standbyResetOp
  exact stopPage (s := _) k.emptyStore

theorem standbyLossOp (h : Keeps s₀ s) : Keeps s₀ (standbyLossOp s) := by
  unfold Machine.standbyLossOp
  exact h.other.stopPage

theorem calendarResetOp (h : Keeps s₀ s) : Keeps s₀ (calendarResetOp s) := by
  unfold Machine.calendarResetOp
  exact h.resetRegs.other

theorem tapSelect (h : Keeps s₀ s) {opcode : BitVec 8} : Keeps s₀ (tapSelect s opcode) := by
  unfold Machine.tapSelect
  exact h.other

theorem tapScan (h : Keeps s₀ s) {opcode : BitVec 8} {bsr : List (Signal × Bool)} : Keeps s₀ (tapScan s opcode bsr) := by
  unfold Machine.tapScan
  exact h.tapSelect.andThen fun k => .ite k k.other

end Keeps
end Sys2Proof.Machine
end

section
/-! PROOFS. What the accesses of control registers, the store buffer and the operands of a tile keep (O59). -/

namespace Sys2Proof.Machine
namespace Keeps

set_option Elab.async false

variable {s₀ s : State}

/-! ## What follows every command -/

theorem jsyncTile (h : Keeps s₀ s) {t : TileId} : Keeps s₀ (jsyncTile s t) := by
  fun_cases Machine.jsyncTile s t
  · exact h.tCount.modTile
  · exact h
  · exact h

theorem jsyncPump (h : Keeps s₀ s) : Keeps s₀ (jsyncPump s) := h.foldl (fun _ _ k => k.jsyncTile)

theorem firstSnapshot (h : Keeps s₀ s) : Keeps s₀ (firstSnapshot s) := .ite h.modHwj.snapshotDue h

theorem mortPump (h : Keeps s₀ s) : Keeps s₀ (mortPump s) := h.foldl (fun _ _ k => k.mortCmdEnds)

theorem settleOnce (h : Keeps s₀ s) : Keeps s₀ (settleOnce s) := by
  unfold Machine.settleOnce
  exact h.deliverLoop.migPump.resyncPump.firstSnapshot.journalPump.replyPump.sessionPump.masonPump.stageCheck.fencedPump
    |>.mortPump.drainedCheck.quiescedCheck.unquenchCheck.jsyncPump

theorem settleDev (h : Keeps s₀ s) : Keeps s₀ (settleDev s) := h.settleOnce.settleOnce

/-! ## The accesses of control registers and the store buffer -/

theorem statSetOp (h : Keeps s₀ s) {page : Nat} {bits : Word} : Keeps s₀ (statSetOp s page bits) := by
  fun_cases Machine.statSetOp s page bits
  · exact h
  · exact h.foldl (fun _ _ k => .ite k.raise k)

theorem ienaOp (h : Keeps s₀ s) {src page : Nat} {w : WReq} : Keeps s₀ (ienaOp s src page w) := by
  unfold Machine.ienaOp
  exact h.regWrite.andThen fun k => .ite k.bell k

theorem cmdOp (h : Keeps s₀ s) {src : Nat} {k : Kind} {inst code : Nat} : Keeps s₀ (cmdOp s src k inst code) := by
  fun_cases Machine.cmdOp s src k inst code
  · exact h.masonCmd
  · exact h.hwjCmd
  · exact h.mortCmd
  · exact h.ringsCmd
  · exact h.courseCmd
  · exact h.memCmd
  · exact h.memCmd
  · exact h.calCmd
  · exact h.clkCmd
  · exact h.pwrCmd
  · exact h

theorem placeOp (h : Keeps s₀ s) {v : Word} : Keeps s₀ (placeOp s v) := by
  unfold Machine.placeOp
  exact .ite h (h.setReg.foldl (fun _ _ k => k.autoTrain))

theorem snapPage (h : Keeps s₀ s) {p : Nat} : Keeps s₀ (snapPage s p) := h.foldl (fun _ _ k => k.setReg)

theorem evsnapOp (h : Keeps s₀ s) {src : Nat} {v raw : Word} : Keeps s₀ (evsnapOp s src v raw) := by
  unfold Machine.evsnapOp
  exact .ite h.logErr (.andThen (.ite ((h.foldl (fun _ _ k => k.snapPage)).setFld.setReg.setFld.other) h) fun k => .ite k.logErr
      (.ite k.setFld.other (.ite k.setFld.other k)))

theorem captureOp (h : Keeps s₀ s) {p : Nat} : Keeps s₀ (captureOp s p) := by
  unfold Machine.captureOp
  exact .ite (h.snapPage.other.andThen fun k => .ite k.setFld k) h

theorem popOp (h : Keeps s₀ s) : Keeps s₀ (popOp s) :=
  h.trans ⟨id, id, fun l => by
    show (s.mcq.drop 1).length ≤ 32
    rw [List.length_drop]; omega, id, fun _ => .refl _⟩

theorem dbellSetOp (h : Keeps s₀ s) {page : Nat} {bits : Word} : Keeps s₀ (dbellSetOp s page bits) := h.setReg

theorem ipiSetOp (h : Keeps s₀ s) {a : Agent} {page : Nat} : Keeps s₀ (ipiSetOp s a page) := by
  unfold Machine.ipiSetOp
  exact h.setReg

theorem ringPairOp (h : Keeps s₀ s) {src off : Nat} {w : WReq} : Keeps s₀ (ringPairOp s src off w) := by
  unfold Machine.ringPairOp
  exact .ite h.ienWrite (.ite h.cenWrite (.ite (.ite h.ccntWrite h) h.regWrite))

theorem devWrite (h : Keeps s₀ s) {src off : Nat} {w : WReq} : Keeps s₀ (devWrite s src off w) := by
  unfold Machine.devWrite
  exact .ite (.ite h.placeOp h) (.ite (.ite h.evsnapOp h)
      (.ite (.ite h.popOp h) (.ite (h.regWrite.andThen fun k => .ite k k.mcRetarget)
      (.ite (h.regWrite.andThen fun k => .ite k k.setFld)
      (.ite h.devStartOp (.ite h.spiWrite (.ite h.spiBufWrite h.regWrite)))))))

theorem blockWrite (h : Keeps s₀ s) {a : Agent} {w : WReq} : Keeps s₀ (blockWrite s a w) := by
  fun_cases Machine.blockWrite s a w
  · exact h
  · exact h.statSetOp
  · exact h.ienaOp
  · exact h.cmdOp
  · exact h
  · exact h.regWrite
  · exact h.dbellSetOp
  · exact h.ipiSetOp
  · exact h
  · exact h.regWrite
  · exact h.dbellSetOp
  · exact h.ipiSetOp
  · exact h
  · exact h.regWrite
  · exact h.ringPairOp
  · exact h.regWrite
  · exact h.drainWrite
  · exact h.regWrite.modHwj
  · exact h.regWrite
  · exact h.regWrite
  · exact h.regWrite.autoTrain
  · exact h.regWrite
  · exact h.perstWriteOp
  · exact h.regWrite
  · exact h.regWrite.ringsDrain
  · exact h.regWrite
  · exact h.i2cWrite
  · exact h.regWrite
  · exact h.devWrite
  · exact h.regWrite

theorem unassigned (h : Keeps s₀ s) {a : Agent} {ca : Nat} : Keeps s₀ (unassigned s a ca) := h.logErr.evCount

theorem unclocked (h : Keeps s₀ s) {a : Agent} {ca : Nat} : Keeps s₀ (unclocked s a ca) := h.logErr.evCount

theorem postedEffect (h : Keeps s₀ s) {page : Nat} : Keeps s₀ (postedEffect s page) := by
  fun_cases Machine.postedEffect s page
  · exact h
  · exact h.other.unclocked
  · exact h.other.blockWrite

theorem flushPosted (h : Keeps s₀ s) {page a : Nat} : Keeps s₀ (flushPosted page a s) := by
  fun_induction Machine.flushPosted page a s
  · exact h
  next ih => exact ih h.postedEffect

theorem ctlCounted (h : Keeps s₀ s) {ca : Nat} {f : State → State} (hf : ∀ s, Keeps s₀ s → Keeps s₀ (f s)) :
    Keeps s₀ (ctlCounted ca f s) := by
  unfold Machine.ctlCounted
  exact .ite ((hf _ h).evCount) (.ite ((hf _ h.evCount).setReg) (hf _ h.evCount))

theorem ctlPut (h : Keeps s₀ s) {a : Agent} {ca : Nat} {sz : Size} {v : Word} : Keeps s₀ (ctlPut a ca sz v s) := by
  unfold Machine.ctlPut
  exact .ite h.unassigned (.ite h.unclocked (.ite h.logErr (.ite h.other h.blockWrite)))

theorem ctlStore (h : Keeps s₀ s) {a : Agent} {ca : Nat} {sz : Size} {v : Word} : Keeps s₀ (ctlStore s a ca sz v) :=
  h.ctlCounted (fun _ k => k.ctlPut)

theorem calTickOp (h : Keeps s₀ s) : Keeps s₀ (calTickOp s) := by
  unfold Machine.calTickOp
  exact (h.other.stopPage.calCount.other.foldl (fun _ _ k => k.blockWrite.calSet)).other.whenLive (fun _ k => k.seedTb)

theorem efAuto (h : Keeps s₀ s) {page off : Nat} : Keeps s₀ (efAuto s page off) := by
  fun_cases Machine.efAuto s page off
  · exact h.setFld
  · exact h
  · exact h.setFld
  · exact h
  · exact h

theorem ctlLoad (h : Keeps s₀ s) {a : Agent} {ca n : Nat} : Keeps s₀ (ctlLoad s a ca n).2 := by
  unfold Machine.ctlLoad
  dsimp only
  split
  · exact h.evCount.unassigned
  · split
    · exact h.evCount.unclocked
    · exact .efAuto (.ite h.evCount.flushPosted h.evCount)

theorem rowWrite (h : Keeps s₀ s) {a : Agent} {ca : Nat} {v : Word} : Keeps s₀ (rowWrite s a ca v) := by
  unfold Machine.rowWrite
  exact h.ctlCounted (fun _ k => k.flushPosted.andThen fun k1 => .ite k1.unassigned
      (.ite k1.unclocked (.ite k1.other k1.blockWrite)))

theorem storeEffect (h : Keeps s₀ s) {t : TileId} {e : StoreEntry} : Keeps s₀ (storeEffect s t e) := by
  fun_cases Machine.storeEffect s t e
  · exact h.ctlStore.settleDev
  · exact h.windowStore
  · exact .unpoison (.setBytes (.ite h.brickWrite h))

theorem drainOne (h : Keeps s₀ s) {t : TileId} : Keeps s₀ (drainOne s t) := by
  fun_cases Machine.drainOne s t
  · exact h
  · exact h.modTile.storeEffect

theorem drainN (h : Keeps s₀ s) {t : TileId} {a : Nat} : Keeps s₀ (drainN t a s) := by
  fun_induction Machine.drainN t a s
  · exact h
  next ih => exact ih h.drainOne

theorem drainTile (h : Keeps s₀ s) {t : TileId} : Keeps s₀ (drainTile s t) := h.drainN

/-! ## Operand accesses -/

theorem brickXl (h : Keeps s₀ s) {t : TileId} {k : Acc} {slot : Fin 4} {off n : Nat} :
    R.All (Keeps s₀) (brickXl s t k slot off n) := by
  unfold Machine.brickXl
  exact .ite (.exc h) (.ite (.exc h) (.ite (.exc h) (.ok h)))

theorem place (h : Keeps s₀ s) {t : TileId} {c : Ctx} {k : Acc} {a : Addr} {n : Nat} :
    R.All (Keeps s₀) (place s t c k a n) := by
  fun_cases Machine.place s t c k a n
  · exact h.brickXl
  · exact h.translate

theorem scalarXl (h : Keeps s₀ s) {t : TileId} {k : Acc} {a : Addr} {n : Nat} : R.All (Keeps s₀) (scalarXl s t k a n) := by
  fun_cases Machine.scalarXl s t k a n
  · exact h.brickXl.bind (fun _ _ k1 => .ite (.exc k1) (.ok k1))
  · exact .exc h
  · exact h.translate

theorem readNormal (h : Keeps s₀ s) {t : TileId} {pa n : Nat} : R.All (Keeps s₀) (readNormal s t pa n) := by
  have mem : ∀ s1, Keeps s₀ s1 → R.All (Keeps s₀) (match poisonExc s1 pa n with
      | some e => .exc e s1
      | none => .ok (s1.bytes pa n) s1) := fun s1 k => by
    split
    exacts [.exc k, .ok k]
  have k : Keeps s₀ (if (s.tile t).sbuf.any (fun e => e.device) then Machine.drainTile s t else s) := .ite h.drainTile h
  unfold Machine.readNormal
  dsimp only
  split
  · exact mem _ k
  · split
    · exact .ite (.ok k) (mem _ k.drainN)
    · exact mem _ k

theorem readRecorded (h : Keeps s₀ s) {t : TileId} {a : Addr} {pa n : Nat} : R.All (Keeps s₀) (readRecorded s t a pa n) := by
  fun_cases Machine.readRecorded s t a pa n
  · exact .ok (h.drainTile.replayLoad.snd ‹_›)
  · exact .halt (h.drainTile.replayLoad.snd ‹_›)
  · exact .exc h.drainTile
  · exact .halt h.drainTile
  · exact .ok h.drainTile.ringsRload

theorem readDevice (h : Keeps s₀ s) {t : TileId} {pa n : Nat} : R.All (Keeps s₀) (readDevice s t pa n) := by
  fun_cases Machine.readDevice s t pa n
  · exact .halt h.drainTile
  · exact .ok (.ite ((h.drainTile.ctlLoad.snd ‹_›).ringsEvent) (h.drainTile.ctlLoad.snd ‹_›))
  · exact .ok (h.drainTile.windowLoad.snd ‹_›)
  · exact .exc h.drainTile
  · exact .ok h.drainTile

theorem readAt (h : Keeps s₀ s) {t : TileId} {a : Addr} {x : Xl} {n : Nat} : R.All (Keeps s₀) (readAt s t a x n) := by
  fun_cases Machine.readAt s t a x n
  · exact h.readNormal
  · exact h.readNormal
  · exact h.readNormal
  · exact h.readRecorded
  · exact h.readDevice

theorem pushStore (h : Keeps s₀ s) {t : TileId} {x : Xl} {bytes : List Byte} : Keeps s₀ (pushStore s t x bytes) := by
  unfold Machine.pushStore
  exact .modTile (.ite h.drainOne h)

theorem storeNow (h : Keeps s₀ s) {t : TileId} {x : Xl} {bytes : List Byte} : Keeps s₀ (storeNow s t x bytes) :=
  h.drainTile.storeEffect

theorem placePieces (h : Keeps s₀ s) {t : TileId} {c : Ctx} {k : Acc} {a : List (Addr × Nat)} :
    R.All (Keeps s₀) (placePieces s t c k a) := by
  fun_induction Machine.placePieces s t c k a
  · exact .ok h
  next ih => exact h.place.bind (fun _ _ k1 => (ih _ k1).bind (fun _ _ k2 => .ok k2))

theorem placeAll (h : Keeps s₀ s) {t : TileId} {c : Ctx} {k : Acc} {l : List (Addr × Nat)} :
    R.All (Keeps s₀) (placeAll s t c k l) := by
  fun_cases Machine.placeAll s t c k l
  · exact .exc (.ite (h.placePieces.of_exc ‹_›) (h.withRegs (h.placePieces.of_exc ‹_›)))
  · exact h.placePieces

theorem readPieces (h : Keeps s₀ s) {t : TileId} {a : List (Addr × Xl × Nat)} : R.All (Keeps s₀) (readPieces s t a) := by
  fun_induction Machine.readPieces s t a
  · exact .ok h
  next ih => exact h.readAt.bind (fun _ _ k => (ih _ k).bind (fun _ _ k1 => .ok k1))

theorem readAll (h : Keeps s₀ s) {t : TileId} {l : List (Addr × Xl × Nat)} : R.All (Keeps s₀) (readAll s t l) := by
  fun_cases Machine.readAll s t l
  · exact h.readPieces
  · exact .halt h
  · exact .exc h
  · exact h.drainTile.readPieces

theorem writeAll (h : Keeps s₀ s) {put : State → Xl → List Byte → State} {a : List (Addr × Xl × Nat)} {a1 : List Byte}
    (hput : ∀ s a b, Keeps s₀ s → Keeps s₀ (put s a b)) : Keeps s₀ (writeAll put a a1 s) := by
  fun_induction Machine.writeAll put a a1 s
  · exact h
  next ih => exact ih (hput _ _ _ h)

end Keeps
end Sys2Proof.Machine
end

section
/-! PROOFS. What the Kiln keeps (O59). A queue whose head is executed whole is shorter. -/

namespace Sys2Proof.Machine
namespace Keeps

set_option Elab.async false

variable {s₀ s : State}

theorem kPlan (h : Keeps s₀ s) {t : TileId} {e : KEntry} {ctx : Ctx} {a : List KEl} {a1 : List (Nat × Xl)} {a2 : List KAcc} :
    Keeps s₀ (kPlan t e ctx a a1 a2 s).2 := by
  fun_induction Machine.kPlan t e ctx a a1 a2 s
  · exact h
  · exact h
  · exact h
  next ih => exact ih h
  · exact h
  next ih => exact ih h
  next ih => exact ih (h.translate.of_ok ‹_›)
  · dsimp only
    exact h.translate.of_exc ‹_›
  · dsimp only
    exact h.translate.of_halt ‹_›

theorem kCount (h : Keeps s₀ s) {t : TileId} {src k : Nat} : Keeps s₀ (kCount s t src k) := h.evCountQ

theorem tile_kCount (s : State) (t u : TileId) (src k : Nat) : (Machine.kCount s t src k).tile u = s.tile u := by
  rw [State.tile, State.tile, Machine.kCount, (RegsOnly.evCountQ s _ src _ k).tiles]

theorem modKiln (h : Keeps s₀ s) {t : TileId} {f : KFile → KFile}
    (hf : (f (s.tile t).kiln).queue.length ≤ (s.tile t).kiln.queue.length := by exact le_rfl) : Keeps s₀ (s.modKiln t f) :=
  h.setTile ((TileKeeps.refl _).withKiln hf)

theorem kiln_modKiln (s : State) (t : TileId) (f : KFile → KFile) : ((s.modKiln t f).tile t).kiln = f (s.tile t).kiln := by
  simp [State.modKiln, State.modTile]

theorem kilnFault (h : Keeps s₀ s) {t : TileId} {e : KEntry} {f : KF} : Keeps s₀ (kilnFault s t e f) := by
  unfold Machine.kilnFault
  exact (h.modKiln (List.length_filter_le ..)).setReg.setReg.setReg.kCount.kCount.raise

theorem queue_kilnFault (s : State) (t : TileId) (e : KEntry) (f : KF) :
    ((Machine.kilnFault s t e f).tile t).kiln.queue = kIssued s t := by
  have raise (s : State) (p k : Nat) : (s.raise p k).tile t = s.tile t := by
    simp only [State.tile, (RegsOnly.raise s p k).tiles]
  have setReg (s : State) (a : Nat) (v : Word) : (s.setReg a v).tile t = s.tile t := rfl
  unfold Machine.kilnFault
  simp only [raise, setReg, tile_kCount, kiln_modKiln]

theorem kilnMcheck (h : Keeps s₀ s) {t : TileId} {keep : List KEntry} {sub : BitVec 8} {fa fi : Word}
    (hk : keep.length ≤ (s.tile t).kiln.queue.length) : Keeps s₀ (kilnMcheck s t keep sub fa fi) := by
  unfold Machine.kilnMcheck
  dsimp only
  refine h.kCount.setTile ?_
  rw [tile_kCount]
  exact ⟨id, le_rfl, le_rfl, hk⟩

theorem queue_kilnMcheck (s : State) (t : TileId) (keep : List KEntry) (sub : BitVec 8) (fa fi : Word) :
    ((Machine.kilnMcheck s t keep sub fa fi).tile t).kiln.queue = keep := by
  simp [Machine.kilnMcheck, State.modTile]

theorem kPop (h : Keeps s₀ s) {t : TileId} : Keeps s₀ (kPop s t) := h.modKiln (by simp)

theorem queue_kPop (s : State) (t : TileId) : ((Machine.kPop s t).tile t).kiln.queue = (s.tile t).kiln.queue.tail := by
  rw [Machine.kPop, kiln_modKiln]

theorem queue_kDone (s : State) (t : TileId) : ((Machine.kDone s t).tile t).kiln.queue =
    (kIssued s t).map (fun e => { e with ran := e.ran + 1 }) ++
      ((s.tile t).kiln.queue.filter (fun e => e.plan.isNone)).tail := by
  rw [Machine.kDone, kiln_modKiln]
  rfl

theorem length_issued (l : List KEntry) :
    (l.filter (fun e => e.plan.isSome)).length + (l.filter (fun e => e.plan.isNone)).length = l.length := by
  simpa using (List.length_eq_length_filter_add (l := l) (fun e => e.plan.isSome)).symm

theorem kDone (h : Keeps s₀ s) {t : TileId} : Keeps s₀ (kDone s t) := by
  refine h.modKiln ?_
  have := length_issued (s.tile t).kiln.queue
  simp
  omega

theorem kIssues (h : Keeps s₀ s) {t : TileId} : Keeps s₀ (kIssues s t) := h.kCount.modCourse

theorem tile_kIssues (s : State) (t u : TileId) : (Machine.kIssues s t).tile u = s.tile u := tile_kCount s t u 0x20 1

theorem kilnRun (h : Keeps s₀ s) {t : TileId} {e : KEntry} : Keeps s₀ (kilnRun s t e) := by
  unfold Machine.kilnRun
  dsimp only
  split
  next f hf => exact (h.kIssues.modKiln (by rw [queue_kExec hf])).kDone
  next => exact h.kIssues.kilnFault

theorem kilnIssueMem (h : Keeps s₀ s) {t : TileId} {e : KEntry} : Keeps s₀ (kilnIssueMem s t e) := by
  unfold Machine.kilnIssueMem
  dsimp only
  split
  next s1 e1 => exact (h.kIssues.withRegs (h.kIssues.kPlan.snd e1)).kilnFault
  next p s1 e1 => exact (h.kIssues.kPlan.snd e1).modKiln (length_kMark ..).le

theorem kStoreAll (h : Keeps s₀ s) {t : TileId} {l : List (Nat × List Byte × Bool)} : Keeps s₀ (kStoreAll t l s) := by
  unfold Machine.kStoreAll
  exact h.foldl (fun _ _ k => .unpoison (.setBytes (.ite k.brickWrite k)))

theorem kWritten (h : Keeps s₀ s) {t : TileId} {f : KFile → KFile} : Keeps s₀ (kWritten s t f) := h.modKiln (by simp)

theorem kilnLoadDone (h : Keeps s₀ s) {t : TileId} {o : KEntry} {p : List KAcc} {s' : State}
    (e : kilnLoadDone s t o p = some s') : Keeps s₀ s' := by
  revert e
  fun_cases Machine.kilnLoadDone s t o p <;> rintro ⟨⟩
  · exact h.replayEnd.modKiln (Nat.zero_le _)
  · exact h.kWritten.kPop
  · exact h.replayEnd.modKiln (Nat.zero_le _)
  · refine (h.kCount.modKiln (f := fun x => (o.undo.map x.withRegs).getD x) ?_).kilnMcheck (Nat.zero_le _)
    cases o.undo
    · exact le_rfl
    · exact le_rfl
  · exact h.kWritten.kPop.andThen fun k => .ite k.ringsEvent k

/-- A load that completes leaves the queue. -/
theorem length_kilnLoadDone {s' : State} {t : TileId} {o : KEntry} {p : List KAcc} (e : Machine.kilnLoadDone s t o p = some s')
    :
    (s'.tile t).kiln.queue.length ≤ (s.tile t).kiln.queue.length - 1 := by
  have hw (f : KFile → KFile) : ((Machine.kPop (Machine.kWritten s t f) t).tile t).kiln.queue.length =
      (s.tile t).kiln.queue.length - 1 := by simp [queue_kPop, Machine.kWritten, kiln_modKiln]
  revert e
  fun_cases Machine.kilnLoadDone s t o p <;> rintro ⟨⟩
  · simp [kiln_modKiln]
  · exact (hw _).le
  · simp [kiln_modKiln]
  · simp [queue_kilnMcheck]
  · rw [← hw (Machine.kLoadAll s o.op p)]
    exact (Keeps.ite (refl _).ringsEvent (refl _) : Keeps (Machine.kPop _ t) _).tileKeeps t |>.queueLe

theorem kilnDone (h : Keeps s₀ s) {t : TileId} {e : KEntry} {p : List KAcc} {s' : State} (e : kilnDone s t e p = some s') :
    Keeps s₀ s' := by
  unfold Machine.kilnDone at e
  split at e
  · cases e; exact h.kStoreAll.kPop
  · exact h.kilnLoadDone e

/-- A memory instruction that completes leaves the queue. -/
theorem length_kilnDone {s' : State} {t : TileId} {o : KEntry} {p : List KAcc} (e : Machine.kilnDone s t o p = some s') :
    (s'.tile t).kiln.queue.length ≤ (s.tile t).kiln.queue.length - 1 := by
  unfold Machine.kilnDone at e
  split at e
  · cases e
    rw [queue_kPop, List.length_tail]
    exact Nat.sub_le_sub_right ((refl s).kStoreAll.tileKeeps t).queueLe 1
  · exact length_kilnLoadDone e

theorem kilnBad (h : Keeps s₀ s) {t : TileId} : Keeps s₀ (kilnBad s t) := by
  have k : Keeps s₀ (s.modKiln t fun k => { k with ue := false }) := h.modKiln
  refine k.kilnMcheck ?_
  rw [kiln_modKiln]
  exact List.length_filter_le ..

theorem kilnGo (h : Keeps s₀ s) {t : TileId} {e : KEntry} : Keeps s₀ (kilnGo s t e) :=
  .ite h.kilnBad (.ite h.kilnIssueMem h.kilnRun)

/-- An instruction without accesses leaves the queue, or none is unissued. -/
theorem length_or_issued_kDone (s : State) (t : TileId) :
    ((Machine.kDone s t).tile t).kiln.queue.length ≤ (s.tile t).kiln.queue.length - 1 ∨
      Issued ((Machine.kDone s t).tile t).kiln.queue := by
  rw [queue_kDone]
  have hl := length_issued (s.tile t).kiln.queue
  cases hu : (s.tile t).kiln.queue.filter (fun e => e.plan.isNone) with
  | nil =>
    refine .inr fun e he => ?_
    obtain ⟨o, ho, rfl⟩ := Option.map_eq_some_iff.mp (by simpa using he)
    exact issued_kIssued s t o ho
  | cons o l =>
    refine .inl ?_
    simp [hu, kIssued] at hl ⊢
    omega

/-- After the oldest unissued instruction of a queue issues, the head has issued or an instruction has left the queue. -/
theorem length_or_issued_kilnGo (s : State) (t : TileId) (e : KEntry) :
    ((Machine.kilnGo s t e).tile t).kiln.queue.length ≤ (s.tile t).kiln.queue.length - 1 ∨
      Issued ((Machine.kilnGo s t e).tile t).kiln.queue := by
  unfold Machine.kilnGo
  split
  · right
    rw [Machine.kilnBad, queue_kilnMcheck]
    exact issued_kIssued s t
  split
  · right
    unfold Machine.kilnIssueMem
    dsimp only
    split
    · rw [queue_kilnFault]
      exact issued_kIssued _ _
    · rw [kiln_modKiln]
      exact issued_kMark _ _ _
  · unfold Machine.kilnRun
    dsimp only
    split
    next f hf =>
      have := length_or_issued_kDone ((Machine.kIssues s t).modKiln t fun _ => f) t
      rw [kiln_modKiln, queue_kExec hf, tile_kIssues] at this
      exact this
    next =>
      right
      rw [queue_kilnFault]
      exact issued_kIssued _ _

theorem kilnOthers (h : Keeps s₀ s) {t : TileId} : Keeps s₀ (kilnOthers s t) := by
  unfold Machine.kilnOthers
  refine h.foldl (fun _ _ k => ?_)
  split
  · exact .ite k.kilnGo k
  · exact k

theorem kilnHeadDone (h : Keeps s₀ s) {t : TileId} {s' : State} (e : kilnHeadDone s t = some s') : Keeps s₀ s' := by
  unfold Machine.kilnHeadDone at e
  split at e
  · cases e; exact h
  · split at e
    · exact h.kilnDone e
    · dsimp only at e
      split at e
      · split at e
        · exact h.kilnOthers.kilnGo.kilnDone e
        · cases e; exact h.kilnOthers.kilnGo
      · cases e; exact h.kilnOthers.kilnGo

/-- Once its head is executed whole, a queue is shorter. -/
theorem length_kilnHeadDone {s' : State} {t : TileId} (e : Machine.kilnHeadDone s t = some s') :
    (s'.tile t).kiln.queue.length ≤ (s.tile t).kiln.queue.length - 1 := by
  unfold Machine.kilnHeadDone at e
  split at e
  next h0 =>
    cases e
    simp [List.head?_eq_none_iff.mp h0]
  next o _ =>
    split at e
    · exact length_kilnDone e
    · dsimp only at e
      have hk : Keeps s (Machine.kilnGo (Machine.kilnOthers s t) t o) := (refl s).kilnOthers.kilnGo
      split at e
      next q hq =>
        split at e
        · exact (length_kilnDone e).trans (Nat.sub_le_sub_right (hk.tileKeeps t).queueLe 1)
        next hn =>
          cases e
          have hu := ((refl s).kilnOthers (t := t)).tileKeeps t |>.queueLe
          rcases length_or_issued_kilnGo (Machine.kilnOthers s t) t o with hl | hi
          · exact hl.trans (Nat.sub_le_sub_right hu 1)
          · have := hi q hq
            simp [hn] at this
      next h0 =>
        cases e
        simp [List.head?_eq_none_iff.mp h0]

theorem kilnDrainN (h : Keeps s₀ s) {t : TileId} {n : Nat} {s' : State} (e : kilnDrainN t n s = some s') : Keeps s₀ s' := by
  induction n generalizing s with
  | zero => cases e; exact h
  | succ n ih =>
    unfold Machine.kilnDrainN at e
    split at e
    next e1 => exact ih (h.kilnHeadDone e1) e
    · cases e

theorem kilnDrain (h : Keeps s₀ s) {t : TileId} {s' : State} (e : kilnDrain s t = some s') : Keeps s₀ s' := h.kilnDrainN e

theorem kilnRow (h : Keeps s₀ s) {t : TileId} {kind : KOp → Bool} : Keeps s₀ (kilnRow s t kind) := by
  fun_cases Machine.kilnRow s t kind
  · exact h.kilnGo
  · exact h
  · exact h

theorem kilnDeliver (h : Keeps s₀ s) {t : TileId} {x : Exc} {s' : State} (e : kilnDeliver s t = some (x, s')) :
    Keeps s₀ s' := by
  unfold Machine.kilnDeliver at e
  split at e
  · exact h.srcEntry.snd (Option.some.inj e)
  · cases e

end Keeps
end Sys2Proof.Machine
end

section
/-! PROOFS. What every instruction of a tile and the system instructions keep (O59). -/

namespace Sys2Proof.Machine
namespace Keeps

set_option Elab.async false

variable {s₀ s : State}

/-! ## What every instruction of a tile does -/

theorem retire (h : Keeps s₀ s) {t : TileId} {l : Level} {pc : Word} : Keeps s₀ (retire s t l pc) := h.tCount.modTile

theorem frameOut (h : Keeps s₀ s) {t : TileId} : Keeps s₀ (frameOut s t) := .ite h.drainTile h

theorem stopCheck (h : Keeps s₀ s) {t : TileId} : Keeps s₀ (stopCheck s t) := by
  unfold Machine.stopCheck
  exact .ite (h.drainTile.andThen fun k => .ite k k.retireTile.settleDev) h.frameOut

theorem settle (h : Keeps s₀ s) : Keeps s₀ (settle s) := h.settleDev.foldl (fun _ _ k => k.stopCheck)

theorem replayAfter (h : Keeps s₀ s) {t : TileId} : Keeps s₀ (replayAfter s t) := by
  fun_cases Machine.replayAfter s t
  · exact h
  · exact (h.completeLoads.andThen fun k => .ite (k.getD fun _ e => k.kilnDrain e) k).replayIntr
  · exact h.completeLoads

theorem raiseAt (h : Keeps s₀ s) {t : TileId} {e : Exc} : Keeps s₀ (raiseAt s t e) :=
  .ite h.replayXent.replayAfter h.enter.stopCheck

theorem replayRaise (h : Keeps s₀ s) {t : TileId} {s' : State} (e : replayRaise s t = some s') : Keeps s₀ s' := by
  revert e
  fun_cases Machine.replayRaise s t <;> rintro ⟨⟩
  · exact .replayEnd (.ite (h.getD fun _ e => h.kilnDrain e) h)
  · exact .replayAfter (.replayResume
      (.modTile (.modRings (.andThen (.ite (h.getD fun _ e => h.kilnDrain e) h) fun k => .ite k.modKiln k))))

theorem finish (h : Keeps s₀ s) {t : TileId} {l : Level} {pc : Word} {i : Insn} {a : Flow} :
    Keeps s₀ (finish s t l pc i a) := by
  fun_cases Machine.finish s t l pc i a
  · exact .retire (.ite h.tCount h)
  · exact h.modTile
  · exact h.tCount.retire
  · exact h.tCount.modTile
  · exact h.tCount.retire

/-- What every instruction does around its own effect keeps what the effect keeps. -/
theorem closed_tileOp {P : State → Prop} (hc : Closed P) (h : P s) {t : TileId} {i : Insn} {body : State → R Flow}
    (hb : ∀ s, P s → R.All P (body s)) : P (tileOp s t i body) := by
  have go {x y : State} (f : Keeps x x → Keeps x y) (hx : P x) : P y := hc _ _ (f (refl x)) hx
  unfold Machine.tileOp
  split
  · exact h
  dsimp only
  have h1 : P (Machine.frameOut s t) := go (fun k => k.frameOut) h
  split
  next e1 => exact go (fun k => k.replayRaise e1) h1
  · have raise {x' : State} (e : Exc) (hx' : P x') :
        P (if xentWaits x' t then Machine.frameOut s t else Machine.raiseAt x' t e) := by
      split
      · exact h1
      · exact go (fun k => k.raiseAt) hx'
    generalize hs : (if i.long = true then _ else _ : State) = s1
    have h2 : P s1 := by
      subst hs
      refine hc _ _ ?_ h1
      exact .andThen (.ite (refl _) (refl _).completeLoads) fun k => .ite k k.modTile
    split
    · exact raise _ h2
    split
    · exact go (fun k => (Keeps.andThen k.tCount fun k => Keeps.ite k.tCount k).retire.replayAfter) h2
    split
    · exact raise _ h2
    · have h3 := hb _ h2
      split
      next e3 => exact go (fun k => k.finish.replayAfter) (h3.of_ok e3)
      next e3 => exact raise _ (h3.of_exc e3)
      next e3 => exact h3.of_halt e3

theorem tileOp (h : Keeps s₀ s) {t : TileId} {i : Insn} {body : State → R Flow}
    (hb : ∀ s, Keeps s₀ s → R.All (Keeps s₀) (body s)) : Keeps s₀ (tileOp s t i body) :=
  closed_tileOp (closed_keeps s₀) h hb

theorem kilnWait (h : Keeps s₀ s) {t : TileId} {k : State → R Flow} (hk : ∀ s, Keeps s₀ s → R.All (Keeps s₀) (k s)) :
    R.All (Keeps s₀) (kilnWait s t k) := by
  unfold Machine.kilnWait
  split
  · exact hk _ h
  · split
    · exact .halt h.recHold
    next s1 e1 =>
      have k1 := h.kilnDrain e1
      split
      next e2 =>
        split
        · exact .halt k1
        · exact .exc (k1.kilnDeliver e2)
      · exact hk _ k1

theorem needSteward (h : Keeps s₀ s) {t : TileId} {k : State → R Flow} (hk : ∀ s, Keeps s₀ s → R.All (Keeps s₀) (k s)) :
    R.All (Keeps s₀) (needSteward s t k) :=
  .ite (.exc h) (hk _ h)

/-! ## Accesses of control pages -/

theorem probe (h : Keeps s₀ s) {a : Agent} {ca : BitVec 20} {write : Bool} {sz : Size} : Keeps s₀ (probe s a ca write sz) := by
  unfold Machine.probe
  exact .ite h.ctlStore h.ctlLoad.other

theorem checkstopOp (h : Keeps s₀ s) {t : TileId} {c : CsCond} : Keeps s₀ (checkstopOp s t c) := by
  unfold Machine.checkstopOp
  exact .ite h ((h.checkstop.andThen fun k => .ite k.replayFinish k).stopCheck)

/-! ## System instructions -/

theorem needKeystone (h : Keeps s₀ s) {t : TileId} {k : State → R Flow} (hk : ∀ s, Keeps s₀ s → R.All (Keeps s₀) (k s)) :
    R.All (Keeps s₀) (needKeystone s t k) :=
  .ite (hk _ h) (.exc h)

theorem onlySteward (h : Keeps s₀ s) {t : TileId} {k : State → R Flow} (hk : ∀ s, Keeps s₀ s → R.All (Keeps s₀) (k s)) :
    R.All (Keeps s₀) (onlySteward s t k) :=
  .ite (.exc h) (.ite (hk _ h) (.exc h))

theorem give (h : Keeps s₀ s) {t : TileId} {rd : BitVec 5} {v : Word} : R.All (Keeps s₀) (give t rd v s) := .ok h.modTile

theorem bwLoad (h : Keeps s₀ s) {t : TileId} {rd : BitVec 5} : R.All (Keeps s₀) (bwLoad t rd s) := by
  unfold Machine.bwLoad
  exact h.onlySteward (fun _ k => .ite (.halt k) ((k.modTile (fun _ => .bwStep (.refl _))).give))

theorem bwStore (h : Keeps s₀ s) {t : TileId} {v : Word} : R.All (Keeps s₀) (bwStore t v s) := by
  unfold Machine.bwStore
  refine h.onlySteward (fun _ k => .ite (.halt k) (.ite (.ok (k.modTile (fun _ => .bwStep (.refl _)))) ?_))
  split
  · exact .exc k
  · exact .ok (k.modTile (fun _ => (TileKeeps.refl _).same.bwStep))

theorem tbRead (h : Keeps s₀ s) {t : TileId} {rd : BitVec 5} : R.All (Keeps s₀) (tbRead t rd s) := by
  fun_cases Machine.tbRead t rd s
  · exact (h.replayTb.snd ‹_›).give
  · exact .halt (h.replayTb.snd ‹_›)
  · exact .halt h
  · exact h.ringsEvent.give

theorem mfBody (h : Keeps s₀ s) {t : TileId} {rd : BitVec 5} {num : BitVec 11} : R.All (Keeps s₀) (mfBody t rd num s) := by
  fun_cases Machine.mfBody t rd num s
  · exact h.give
  · exact h.give
  · exact h.onlySteward (fun _ k => k.give)
  · exact h.bwLoad
  · exact h.give
  · exact h.give
  · exact h.needSteward (fun _ k => k.give)
  · exact h.needSteward (fun _ k => k.give)
  · exact h.needSteward (fun _ k => k.give)
  · exact h.needKeystone (fun _ k => k.give)
  · exact h.needKeystone (fun _ k => k.give)
  · exact h.needKeystone (fun _ k => (k.modTile (fun _ => .efStep (.refl _))).give)
  · exact h.tbRead
  · exact h.give

theorem pstateWrite (h : Keeps s₀ s) {t : TileId} {v : Word} : R.All (Keeps s₀) (pstateWrite t v s) := by
  unfold Machine.pstateWrite
  refine .ite (.ite (.ok h) (.exc h)) (.ok (h.modTile fun x => ?_))
  cases isKeyst t
  exacts [(TileKeeps.refl x).same, (TileKeeps.refl x).cleared]

theorem put (h : Keeps s₀ s) {t : TileId} {f : Tile → Tile}
    (hf : ∀ x, TileKeeps x (f x) := by exact fun _ => (TileKeeps.refl _).same) :
    R.All (Keeps s₀) (put t f s) :=
  .ok (h.modTile hf)

theorem mtBody (h : Keeps s₀ s) {t : TileId} {num : BitVec 11} {ra : BitVec 5} : R.All (Keeps s₀) (mtBody t num ra s) := by
  fun_cases Machine.mtBody t num ra s
  · exact h.put
  · exact h.pstateWrite
  · exact h.onlySteward (fun _ k => k.put)
  · exact h.bwStore
  · exact .exc h
  · exact h.needSteward (fun _ k => k.put)
  · exact h.needSteward (fun _ k => k.put)
  · exact h.needSteward (fun _ k => k.put)
  · exact h.needKeystone (fun _ k => k.put)
  · exact h.needKeystone (fun _ k => k.put)
  · exact h.needKeystone (fun _ k => k.put (fun _ => .efWrite (.refl _)))
  · exact .exc h

theorem swsAsk (h : Keeps s₀ s) {t : TileId} {pd : BitVec 3} {n : BitVec 18} : Keeps s₀ (swsAsk s t pd n) := h.modTile.askSws

theorem swsBody (h : Keeps s₀ s) {t : TileId} {pd : BitVec 3} {ra : BitVec 5} : R.All (Keeps s₀) (swsBody t pd ra s) := by
  unfold Machine.swsBody
  refine h.onlySteward (fun _ k => k.kilnWait
      (fun _ k1 => .ite (.exc k1) (.ite (.exc k1) (.ite (.ok (k1.modTile (fun _ => .setP (.refl _)))) ?_))))
  split
  · exact .ite (.halt k1.swsAsk) (.ok k1.swsSwitch)
  · exact .halt k1.swsAsk

theorem yieldTicket (h : Keeps s₀ s) {t : TileId} {n : Nat} : Keeps s₀ (yieldTicket s t n) := by
  fun_cases Machine.yieldTicket s t n
  · exact h
  · exact h.drainTile.endRecord.modTicket.enqueueRun.tCount.nextTicket.settle

theorem yieldBody (h : Keeps s₀ s) {t : TileId} : R.All (Keeps s₀) (yieldBody t s) := by
  unfold Machine.yieldBody
  refine .ite (.exc h) (.ite (.exc h) (h.kilnWait (fun _ k => .ite (.halt k.drainTile.replayFinish) (.ite (.halt k) ?_))))
  split
  · exact .halt k.yieldTicket
  · exact .exc k

theorem trapEntry (h : Keeps s₀ s) {t : TileId} {code : Nat} {n : BitVec 12} : R.All (Keeps s₀) (trapEntry t code n s) := by
  unfold Machine.trapEntry
  exact .ite (.halt h) (.halt h.retire.raiseAt)

theorem reteGo (h : Keeps s₀ s) {t : TileId} {bs : List Byte} {s' : State} (k : Keeps s₀ s') :
    R.All (Keeps s₀) (reteGo t bs s' s) := by
  unfold Machine.reteGo
  have hy : TileKeeps (s₀.tile t) (reteTile (s.tile t) bs) := (h.tileKeeps t).reteTile
  have hr : Keeps s₀ ((Machine.retire s t (s.tile t).lvl (wordOf bs 0)).modTile t (fun _ =>
      { reteTile (s.tile t) bs with pc := wordOf bs 0, long := none, units := 0 })) := h.retire.putTile hy.other
  exact .ite (.exc h) (.ite (.exc h) (.ite (.halt k) (.halt (.ite hr.ringsEvent hr))))

theorem frameLoad (h : Keeps s₀ s) {t : TileId} {sp : Word} : R.All (Keeps s₀) (frameLoad t sp s) := by
  fun_cases Machine.frameLoad t sp s
  · exact .exc ((h.placeAll.bind (fun _ _ k => k.readAll)).of_exc ‹_›)
  · exact h.placeAll.bind (fun _ _ k => k.readAll)

theorem reteBody (h : Keeps s₀ s) {t : TileId} : R.All (Keeps s₀) (reteBody t s) := by
  unfold Machine.reteBody
  exact .ite (.exc h) (h.frameLoad.bind fun _ _ k => k.reteGo h)

/-! ## Long instructions -/

theorem longStart (h : Keeps s₀ s) {t : TileId} {r : BitVec 5} {k : State → R Flow}
    (hk : ∀ s, Keeps s₀ s → R.All (Keeps s₀) (k s)) : R.All (Keeps s₀) (longStart s t r k) := by
  unfold Machine.longStart
  exact hk _ (.modTile (.ite h.drainTile h) (fun _ => .ite ((TileKeeps.refl _).same) (.refl _)))

theorem unitPlace (h : Keeps s₀ s) {t : TileId} {k : Acc} {a : Addr} {n : Nat} : R.All (Keeps s₀) (unitPlace s t k a n) :=
  .ite (.ok h) h.placeAll

theorem unitRead (h : Keeps s₀ s) {t : TileId} {a : Addr} {n : Nat} : R.All (Keeps s₀) (unitRead s t a n) :=
  h.unitPlace.bind (fun _ _ k => k.readAll)

theorem unitWrite (h : Keeps s₀ s) {t : TileId} {l : List (Addr × Xl × Nat)} {bs : List Byte} : Keeps s₀ (unitWrite t l bs s) :=
  h.writeAll (fun _ _ _ k => k.storeNow)

theorem pushLines (h : Keeps s₀ s) {t : TileId} {x : Xl} {bs : List Byte} : Keeps s₀ (pushLines t s x bs) :=
  h.foldl (fun _ _ k => k.pushStore)

theorem wordXl (h : Keeps s₀ s) {t : TileId} {k : Acc} {w : Word} {n : Nat} : R.All (Keeps s₀) (wordXl s t k w n) := by
  unfold Machine.wordXl
  exact .ite (.exc h) (h.scalarXl.bind (fun _ _ k1 => .ok k1))

end Keeps
end Sys2Proof.Machine
end

section
/-! PROOFS. What the effects of ticket, branch, decimal, floating-point and integer instructions keep (O59). -/

namespace Sys2Proof.Machine
namespace Keeps

set_option Elab.async false

variable {s₀ s : State}

/-! ## Ticket instructions and commands of Mason -/

theorem takeBody (h : Keeps s₀ s) {t : TileId} : R.All (Keeps s₀) (takeBody t s) := by
  fun_cases Machine.takeBody t s
  · exact .exc h
  · exact .halt h.tCount.dispatch.settle
  · exact .halt h.modTile

theorem contBody (h : Keeps s₀ s) {t : TileId} {pd : BitVec 3} {ra : BitVec 5} : R.All (Keeps s₀) (contBody t pd ra s) := by
  unfold Machine.contBody
  refine .ite (.exc h) (h.wordXl.bind
      (fun _ _ k => k.readAt.bind (fun _ _ k1 => .ite (Keeps.put ?_ (fun _ => .setP (.refl _)))
      (k1.put (fun _ => .setP (.refl _))))))
  split
  · exact k1.modTicket
  · exact k1

/-! ## Events of the board -/

theorem smbTransferOp (h : Keeps s₀ s) {x : SmbTransfer} : Keeps s₀ (smbTransferOp s x) := by
  unfold Machine.smbTransferOp
  exact .ite h (.ite (.ite h.other h) (.ite h.evCount.evCount.other h))

theorem cpaccOp (h : Keeps s₀ s) {addr : BitVec 48} {write : Bool} {data : Word} : Keeps s₀ (cpaccOp s addr write data) := by
  unfold Machine.cpaccOp
  exact .ite h.other (.ite h.other (.ite h.ctlStore.other h.ctlLoad.other))

/-! ## Branches -/

theorem rpop (h : Keeps s₀ s) {t : TileId} {target : Word} : Keeps s₀ (rpop s t target) := by
  unfold Machine.rpop
  split
  · dsimp only
    split
    · exact h.tCount
    next a r e =>
      have k : Keeps s₀ (Machine.tCount s t (s.tile t).lvl (if a = target then 0x41 else 0x42) 1) := h.tCount
      obtain ⟨-, hw, hl, hq⟩ := k.tileKeeps t
      refine k.putTile ⟨fun l => ?_, hw, hl, hq⟩
      have := (h.tileKeeps t).rstackFits l
      rw [e, List.length_cons] at this
      exact Nat.le_of_succ_le this
  · exact h

theorem jumpTo (h : Keeps s₀ s) {a : Word} {k : State → State} (hk : ∀ s, Keeps s₀ s → Keeps s₀ (k s)) :
    R.All (Keeps s₀) (jumpTo a s k) :=
  .ite (.exc h) (.ok (hk _ h))

/-! ## Decimal instructions -/

theorem decOver (h : Keeps s₀ s) {t : TileId} {ov : Bool} {finfo : Word} {k : State → R Flow}
    (hk : ∀ s, Keeps s₀ s → R.All (Keeps s₀) (k s)) : R.All (Keeps s₀) (decOver t ov finfo k s) := by
  unfold Machine.decOver
  exact .ite (.ite (.exc h.modTile) (hk _ h.modTile)) (hk _ h)

theorem finishD (h : Keeps s₀ s) {t : TileId} {dd : BitVec 4} {v : Dec} : R.All (Keeps s₀) (finishD t dd v s) := by
  unfold Machine.finishD
  exact h.decOver (fun _ k => k.put)

theorem finishW (h : Keeps s₀ s) {t : TileId} {dp : BitVec 4} {v : Dec} : R.All (Keeps s₀) (finishW t dp v s) := by
  unfold Machine.finishW
  exact h.decOver (fun _ k => k.put)

theorem ddivsBody (h : Keeps s₀ s) {t : TileId} {dq dp dv : BitVec 4} : R.All (Keeps s₀) (ddivsBody t dq dp dv s) := by
  unfold Machine.ddivsBody
  exact .ite (.ite (.exc h.modTile) (.ok h.modTile)) (h.decOver (fun _ k => .ite (.ok k) k.put))

theorem orInx (h : Keeps s₀ s) {t : TileId} {inx : Bool} : Keeps s₀ (orInx s t inx) := .ite h.modTile h

theorem dshrBody (h : Keeps s₀ s) {t : TileId} {rm : RndSel} {dd da : BitVec 4} {n : BitVec 5} :
    R.All (Keeps s₀) (dshrBody t rm dd da n s) := by
  unfold Machine.dshrBody
  exact h.orInx.finishD

theorem cvdbBody (h : Keeps s₀ s) {t : TileId} {gd : BitVec 5} {da : BitVec 4} {n : BitVec 5} :
    R.All (Keeps s₀) (cvdbBody t gd da n s) := by
  unfold Machine.cvdbBody
  exact h.orInx.decOver (fun _ k => k.put)

theorem dmtrBody (h : Keeps s₀ s) {t : TileId} {dd : BitVec 4} {ga gb : BitVec 5} :
    R.All (Keeps s₀) (dmtrBody t dd ga gb s) := by
  fun_cases Machine.dmtrBody t dd ga gb s
  · exact .exc h
  · exact h.finishD

theorem packedRead (h : Keeps s₀ s) {t : TileId} {a : Addr} {n : Nat} : R.All (Keeps s₀) (packedRead s t a n) := by
  unfold Machine.packedRead
  refine h.unitRead.bind (fun _ _ k => ?_)
  split
  · exact .exc k
  · exact .ok k

theorem packedLoad (h : Keeps s₀ s) {t : TileId} {dd : BitVec 4} {a : Addr} {n : Nat} :
    R.All (Keeps s₀) (packedLoad t dd a n s) :=
  h.packedRead.bind (fun _ _ k => k.finishD)

theorem packedStore (h : Keeps s₀ s) {t : TileId} {ds : BitVec 4} {a : Addr} {n : Nat}
    {put_ : List (Addr × Xl × Nat) → List Byte → State → State} (hput_ : ∀ a b s, Keeps s₀ s → Keeps s₀ (put_ a b s)) :
    R.All (Keeps s₀) (packedStore t ds a n put_ s) := by
  unfold Machine.packedStore
  exact h.unitPlace.bind (fun _ _ k => k.decOver (fun _ k1 => .ok (hput_ _ _ _ k1)))

theorem daddmAt (h : Keeps s₀ s) {t : TileId} {dd : BitVec 4} {a : Addr} {n : Nat} {xl : Xl} :
    R.All (Keeps s₀) (daddmAt t dd a n xl s) := by
  unfold Machine.daddmAt
  refine h.drainTile.readAt.bind (fun _ _ k => ?_)
  split
  · exact .exc k
  · exact .ite (k.decOver (fun _ k1 => Keeps.put (.ite k1.brickWrite k1))) k.storeNow.put

theorem daddmBody (h : Keeps s₀ s) {t : TileId} {dd : BitVec 4} {a : Addr} {n : Nat} :
    R.All (Keeps s₀) (daddmBody t dd a n s) := by
  fun_cases Machine.daddmBody t dd a n s
  · exact h.brickXl.bind (fun _ _ k => .ite (.exc k) k.daddmAt)
  · exact .exc h
  · exact h.translate.bind (fun _ _ k => k.daddmAt)

theorem xStart (h : Keeps s₀ s) {t : TileId} {write : Bool} {ga gb : BitVec 5} {f : XDesc → Addr → State → R Flow}
    (hf : ∀ d a s, Keeps s₀ s → R.All (Keeps s₀) (f d a s)) : R.All (Keeps s₀) (xStart t write ga gb f s) := by
  unfold Machine.xStart
  refine .ite (.exc h) (h.longStart fun s k => ?_)
  dsimp only
  split
  · exact k.brickXl.bind fun _ _ k => hf _ _ _ k
  · exact hf _ _ _ k

theorem dldxUnit (h : Keeps s₀ s) {t : TileId} {dd : BitVec 4} {ga gb : BitVec 5} {d : XDesc} {a : Addr} :
    R.All (Keeps s₀) (dldxUnit t dd ga gb d a s) := by
  unfold Machine.dldxUnit
  refine h.unitRead.bind (fun _ _ k => ?_)
  dsimp only
  split
  · exact .exc k
  · exact k.decOver (fun _ k1 => .ok k1.modTile)

theorem xPacked {t : TileId} {ga gb : BitVec 5} {d : XDesc} {r : R Flow} (h : R.All (Keeps s₀) r) :
    R.All (Keeps s₀) (xPacked t ga gb d r) :=
  h.bind fun _ _ k => .ok (k.modTile fun x => (TileKeeps.refl x).xAdvance)

theorem dldxBody (h : Keeps s₀ s) {t : TileId} {dd : BitVec 4} {ga gb : BitVec 5} : R.All (Keeps s₀) (dldxBody t dd ga gb s) :=
  h.xStart fun _ _ _ k => .ite (xPacked k.packedLoad) k.dldxUnit

theorem dstxUnit (h : Keeps s₀ s) {t : TileId} {ds : BitVec 4} {ga gb : BitVec 5} {d : XDesc} {a : Addr} :
    R.All (Keeps s₀) (dstxUnit t ds ga gb d a s) := by
  unfold Machine.dstxUnit
  exact h.unitPlace.bind (fun _ _ k => k.decOver (fun _ k1 => .ok k1.unitWrite.modTile))

theorem dstxBody (h : Keeps s₀ s) {t : TileId} {ds : BitVec 4} {ga gb : BitVec 5} : R.All (Keeps s₀) (dstxBody t ds ga gb s) :=
  h.xStart fun _ _ _ k => .ite (xPacked (k.packedStore fun _ _ _ k => k.unitWrite)) k.dstxUnit

/-! ## Floating-point instructions -/

theorem finishF (h : Keeps s₀ s) {t : TileId} {c : BitVec 5} {res : Word} {put_ : Tile → Tile}
    (hf : ∀ x, TileKeeps x (put_ x) := by exact fun _ => (TileKeeps.refl _).same) : R.All (Keeps s₀)
        (finishF t c res put_ s) := by
  unfold Machine.finishF
  exact .ite (.exc h.modTile) (h.modTile.put hf)

theorem fdstepBody (h : Keeps s₀ s) {t : TileId} {rd rb : BitVec 5} : R.All (Keeps s₀) (fdstepBody t rd rb s) := by
  unfold Machine.fdstepBody
  exact .ite h.drew.drew.put h.put

theorem fdfinBody (h : Keeps s₀ s) {t : TileId} {rd : BitVec 5} : R.All (Keeps s₀) (fdfinBody t rd s) := by
  unfold Machine.fdfinBody
  exact h.drew.finishF

/-! ## Integer instructions -/

theorem ovBody (h : Keeps s₀ s) {t : TileId} {f : OvFn} {rd ra rb : BitVec 5} : R.All (Keeps s₀) (ovBody t f rd ra rb s) := by
  unfold Machine.ovBody
  exact .ite (.ite (.exc h.modTile) (.ok h.modTile.modTile)) (.ok h.modTile)

theorem divfinBody (h : Keeps s₀ s) {t : TileId} {sgn : Bool} {rd ra rb : BitVec 5} :
    R.All (Keeps s₀) (divfinBody t sgn rd ra rb s) := by
  unfold Machine.divfinBody
  exact .ite (.exc (.ite h.modTile (.ite h.modTile h))) (.ok (.modTile (.ite h.modTile (.ite h.modTile h))))

/-! ## Journal instructions and commands -/

theorem postBody2 (h : Keeps s₀ s) {t : TileId} : R.All (Keeps s₀) (postBody2 t s) := by
  unfold Machine.postBody2
  refine .ite (.exc h) (.ite (.exc h)
      (.ite (.exc h) (h.kilnWait (fun _ k => .ite (.halt k.drainTile.replayFinish.settle) (.ite (.halt k.drainTile) ?_)))))
  split
  · exact .halt k.drainTile.postStep2.settle
  · exact .exc k.drainTile

theorem jsyncBody (h : Keeps s₀ s) {t : TileId} : R.All (Keeps s₀) (jsyncBody t s) := by
  unfold Machine.jsyncBody
  exact .ite (.ok h.drainTile) (.ite (.halt h.drainTile) (.halt h.drainTile.modTile))

end Keeps
end Sys2Proof.Machine
end

section
/-! PROOFS. What the effects of Kiln and memory instructions keep (O59): where one joins the Kiln queue or the commit
window, there is room. -/

namespace Sys2Proof.Machine
namespace Keeps

set_option Elab.async false

variable {s₀ s : State}

/-! ## Kiln instructions -/

theorem orKilnFault {P : State → Prop} (hP : ∀ x, Keeps s x → P x) {t : TileId} {k : State → R Flow} (hk : R.All P (k s)) :
    R.All P (orKilnFault s t k) := by
  unfold Machine.orKilnFault
  split
  next e1 => exact .exc (hP _ ((refl s).kilnDeliver e1))
  · exact hk

theorem kilnEnter (i : Says.Inv s) {t : TileId} {op : KOp} : R.All Says.Inv (kilnEnter t op s) := by
  unfold Machine.kilnEnter
  dsimp only
  split
  · exact .halt ((refl s).recHold.inv i)
  next s1 e1 =>
    have room : Keeps s s1 ∧ (s1.tile t).kiln.queue.length ≤ 15 := by
      split at e1
      next =>
        have := length_kilnHeadDone e1
        have := (i.2.2.2.2 t).2.2.2
        exact ⟨(refl s).kilnHeadDone e1, by omega⟩
      next hf =>
        cases e1
        rw [decide_eq_true_eq, kilnSlots] at hf
        exact ⟨refl s, by omega⟩
    obtain ⟨hk, hq⟩ := room
    have i1 := hk.inv i
    obtain ⟨hr, hw, hl, -⟩ := i1.2.2.2.2 t
    split
    · exact (refl s1).kCount.put.mono fun _ k => k.inv i1
    · refine orKilnFault (fun _ k => k.inv i1) (.ok (inv_setTile i1 hr hw hl ?_))
      simp
      omega

theorem kilnBody (i : Says.Inv s) {t : TileId} {op : KOp} : R.All Says.Inv (kilnBody t op s) := by
  have body : R.All Says.Inv ((fun s : State =>
      if kMem op then
        match kAddrCheck s t op ((s.tile t).g (kGReg op)) with
        | some e => .exc e s
        | none => Machine.kilnEnter t op (Machine.drainTile s t)
      else Machine.kilnEnter t op s) s) := by
    dsimp only
    split
    · split
      · exact .exc i
      · exact kilnEnter ((refl s).drainTile.inv i)
    · exact kilnEnter i
  unfold Machine.kilnBody
  split
  · exact body
  · exact orKilnFault (fun _ k => k.inv i) body

theorem kilnComplete (h : Keeps s₀ s) {t : TileId} : Keeps s₀ (kilnComplete s t) := by
  fun_cases Machine.kilnComplete s t
  · exact h.recHold.getD fun _ e => h.kilnDone e
  · exact h
  · exact h

/-! ## Loads and stores -/

theorem loadReady (h : Keeps s₀ s) {t : TileId} {rt : BitVec 5} {m : MemRef} {hit : Bool} :
    Keeps s₀ (loadReady s t rt m hit) := by
  unfold Machine.loadReady
  exact .andThen (.ite h.completeLoads h) fun k => .ite k k.completeLoads

/-- A load that enters the commit window finds room in it and, when it misses, in the LRS. -/
theorem loadResult (i : Says.Inv s) {t : TileId} (hw : (s.tile t).window.length ≤ 7) {rt : BitVec 5} {v : Word} {miss : Bool} :
    R.All Says.Inv (loadResult s t rt v miss) := by
  unfold Machine.loadResult
  dsimp only
  generalize hs : (if (miss && decide (lrsSize ≤ (s.tile t).lrs.length)) = true then _ else _ : State) = s1
  have room : Keeps s s1 ∧ (miss = true → (s1.tile t).lrs.length ≤ 3) := by
    subst hs
    split
    next => exact ⟨(refl s).completeLoads, fun _ => by simp [Machine.completeLoads, State.modTile, Tile.completeLrs, Tile.lrs]⟩
    next hn =>
      refine ⟨refl s, fun hm => ?_⟩
      rw [hm, Bool.true_and, decide_eq_true_eq, lrsSize] at hn
      omega
  obtain ⟨hk, hl⟩ := room
  have i1 := hk.inv i
  obtain ⟨hr, -, hl4, hq⟩ := i1.2.2.2.2 t
  have hw1 := (hk.tileKeeps t).windowLe
  split
  · exact .ok (((refl s1).modTile fun x => (TileKeeps.refl x).setG).inv i1)
  · refine .ok (inv_setTile i1 hr ?_ ?_ hq)
    · simp
      omega
    · cases miss
      · simpa [Tile.lrs] using hl4
      · have := hl rfl
        simp [Tile.lrs] at this ⊢
        omega

/-- Before a load executes, the commit window is empty or has room. -/
theorem window_loadReady {t : TileId} {rt : BitVec 5} {m : MemRef} {hit : Bool} :
    ((Machine.loadReady s t rt m hit).tile t).window.length ≤ 7 := by
  have done (s : State) : ((Machine.completeLoads s t).tile t).window = [] := by
    simp [Machine.completeLoads, State.modTile, Tile.completeLrs]
  unfold Machine.loadReady
  dsimp only
  split
  next => split <;> simp [done]
  next hn =>
    split
    · simp only [loadWaits, Bool.or_eq_true, not_or] at hn
      have : ¬ 8 ≤ (s.tile t).window.length := of_decide_eq_false (Bool.eq_false_iff.mpr hn.1.2)
      omega
    · simp [done]

theorem loadBody (i : Says.Inv s) {t : TileId} {f : LoadFn} {rt : BitVec 5} {m : MemRef} {hit : Bool} :
    R.All Says.Inv (loadBody t f rt m hit s) := by
  have hw := window_loadReady (s := s) (t := t) (rt := rt) (m := m) (hit := hit)
  have i1 : Says.Inv (Machine.loadReady s t rt m hit) := (refl s).loadReady.inv i
  have go {x : State} (k : Keeps (Machine.loadReady s t rt m hit) x) {rt : BitVec 5} {v : Word} {miss : Bool} :
      R.All Says.Inv (Machine.loadResult x t rt v miss) :=
    loadResult (k.inv i1) ((k.tileKeeps t).windowLe.trans hw)
  unfold Machine.loadBody
  refine ((refl _).scalarXl.bind_to (fun _ k => k.inv i1) fun _ _ k => ?_)
  refine (readAt (.ite k.tCount k)).bind_to (fun _ k => k.inv i1) fun _ _ k => ?_
  exact go (.ite k.tCount k)

theorem storeBody (h : Keeps s₀ s) {t : TileId} {n : Nat} {rt : BitVec 5} {m : MemRef} :
    R.All (Keeps s₀) (storeBody t n rt m s) := by
  unfold Machine.storeBody
  exact h.scalarXl.bind (fun _ _ k => .ok k.pushStore)

/-! ## Atomics, fences and TLB maintenance -/

theorem atomicBody (h : Keeps s₀ s) {t : TileId} {n : Nat} {rd ra : BitVec 5} {f : Tile → Nat → Option Nat} :
    R.All (Keeps s₀) (atomicBody t n rd ra f s) := by
  unfold Machine.atomicBody
  refine h.wordXl.bind (fun _ _ k => k.drainTile.readAt.bind (fun _ _ k1 => Keeps.put ?_))
  split
  · exact k1.storeNow
  · exact .ite k1.brickWrite k1

theorem cacheBody (h : Keeps s₀ s) {t : TileId} {ra : BitVec 5} : R.All (Keeps s₀) (cacheBody t ra s) :=
  h.needSteward (fun _ k => k.translate.bind (fun _ _ k1 => .ok k1))

theorem dczBody (h : Keeps s₀ s) {t : TileId} {ra : BitVec 5} : R.All (Keeps s₀) (dczBody t ra s) :=
  h.needSteward (fun _ k => k.translate.bind (fun _ _ k1 => .ok k1.pushStore))

theorem performStores (h : Keeps s₀ s) {m : Nat → Nat → Bool} {t : TileId} : Keeps s₀ (performStores m s t) := by
  fun_cases Machine.performStores m s t
  · exact h.drainN
  · exact h

theorem performKiln (h : Keeps s₀ s) {t : TileId} {s' : State} (e : performKiln s t = some s') : Keeps s₀ s' := by
  unfold Machine.performKiln at e
  split at e
  · split at e
    · split at e
      · cases e; exact h
      · exact h.kilnDone e
    · cases e; exact h
  · cases e; exact h

/-- A fold that can fail, each of whose steps keeps the bounds. -/
theorem foldlBind {α : Type} {f : State → α → Option State} {l : List α} {o : Option State} (h : ∀ x, o = some x → Keeps s₀ x)
    (hf : ∀ x i y, Keeps s₀ x → f x i = some y → Keeps s₀ y) (y : State)
    (e : l.foldl (fun x i => x.bind (fun s => f s i)) o = some y) : Keeps s₀ y := by
  induction l generalizing o with
  | nil => exact h y e
  | cons i l ih =>
    refine ih (o := o.bind (fun s => f s i)) (fun x hx => ?_) e
    obtain ⟨z, hz, hx⟩ := Option.bind_eq_some_iff.mp hx
    exact hf z i x (h z hz) hx

theorem invalidate (h : Keeps s₀ s) {m : Nat → Nat → Bool} {s' : State} (e : invalidate m s = some s') : Keeps s₀ s' := by
  have k := h.mapTiles (f := fun x => { x with itlb := dropFrom m x.itlb, dtlb := dropFrom m x.dtlb })
    (fun x => (TileKeeps.refl x).other) rfl
  refine foldlBind (fun x hx => ?_) (fun x t y kx hy => ?_) s' e
  · cases hx
    exact k.other
  · exact kx.performStores.performKiln hy

/-! ## Link and fabric events -/

theorem msgIn (h : Keeps s₀ s) {k : LinkId} {ty : Nat} {src : BitVec 9} {arg : Nat} {ws : List Word} :
    Keeps s₀ (msgIn s k ty src arg ws) :=
  .ite h.receiveMsg h

/-! ## String units -/

theorem nextRload (h : Keeps s₀ s) {t : TileId} : Keeps s₀ (nextRload t s).2 := by
  fun_cases Machine.nextRload t s <;> exact h.takeRec.snd ‹_›

theorem uRecords (h : Keeps s₀ s) {t : TileId} {u : USt} : Keeps s₀ (uRecords s t u) := by
  unfold Machine.uRecords
  exact .andThen (.ite h h.ringsRload) fun k => .ite k k.ringsRload

theorem unitFault (h : Keeps s₀ s) {t : TileId} {e : Exc} {u : USt} {s' : State} (k : Keeps s₀ s') :
    Keeps s₀ (unitFault t e u s s') :=
  .ite (h.withRegs k) (h.withRegs k).modRings.uRecords

theorem unitRegs {x y : Tile} (h : TileKeeps x y) {i : SIns} {c : CW} {o : UOut} (ho : OutKeeps o) :
    TileKeeps x (unitRegs i c o y) := by
  unfold Machine.unitRegs
  refine .ite (h.trans (ho y)) (TileKeeps.setG ?_)
  exact .ite (h.trans (ho y)).setG.setG (h.trans (ho y)).setG

theorem runUnit (h : Keeps s₀ s) {t : TileId} {i : SIns} {c : CW} {m : UM UOut} (hm : UKeeps OutKeeps m) :
    R.All (Keeps s₀) (runUnit t i c m s) := by
  have k := hm.all s₀ s {} h
  unfold Machine.runUnit
  generalize m {} s = r at k
  cases k with
  | halt k => exact .halt k
  | exc k => exact .ite (.halt h) (.exc (h.unitFault k))
  | ok ho k =>
    refine .ite (.halt h) (.ite (.halt k.replayEnd) (.ok ?_))
    exact (k.uRecords.foldl fun _ _ k => k.storeNow).modTile fun x => unitRegs (.refl x) ho

theorem padUnit (h : Keeps s₀ s) {t : TileId} {i : SIns} {c : CW} : R.All (Keeps s₀) (padUnit t i c s) := by
  unfold Machine.padUnit
  exact .ok h.modTile

theorem strBody (h : Keeps s₀ s) {t : TileId} {i : SIns} {ending : Tile → Tile} {unit : Tile → CW → UM UOut}
    (he : ∀ x, TileKeeps x (ending x)) (hu : ∀ x c, UKeeps OutKeeps (unit x c)) :
    R.All (Keeps s₀) (strBody t i ending unit s) := by
  unfold Machine.strBody
  dsimp only
  split
  · exact .exc h
  split
  · exact .exc h
  refine .ite (.ok (h.modTile he)) (h.longStart fun s k => .ite k.padUnit (.ite (k.runUnit ?_) (k.runUnit (hu _ _))))
  exact .ret he

end Keeps
end Sys2Proof.Machine
end

section
/-! PROOFS. What the units of the string instructions keep (O59). -/

namespace Sys2Proof.Machine

namespace UKeeps

set_option Elab.async false

variable {α β : Type} {Q : α → Prop} {Q' : β → Prop}

theorem raise {e : Exc} : UKeeps Q (UM.raise e) := ⟨fun _ _ _ k => .exc k⟩

theorem bind {m : UM α} {f : α → UM β} (h : UKeeps Q m) (hf : ∀ a, Q a → UKeeps Q' (f a)) : UKeeps Q' (UM.bind m f) := by
  refine ⟨fun s₀ s u k => ?_⟩
  have hm := h.all s₀ s u k
  unfold UM.bind
  generalize m u s = r at hm
  cases hm with
  | ok ha k => exact (hf _ ha).all _ _ _ k
  | exc k => exact .exc k
  | halt k => exact .halt k

theorem ite {c : Prop} [Decidable c] {m n : UM α} (hm : UKeeps Q m) (hn : UKeeps Q n) : UKeeps Q (if c then m else n) := by
  split
  · exact hm
  · exact hn

theorem scan {f : Nat → UM (Option α)} (h : ∀ i, UKeeps (fun _ => True) (f i)) (n i : Nat) :
    UKeeps (fun _ => True) (UM.scan f n i) := by
  induction n generalizing i with
  | zero => exact ret trivial
  | succ n ih =>
    refine (h i).bind fun r _ => ?_
    split
    · exact ret trivial
    · exact ih _

theorem list {f : Nat → UM α} (h : ∀ i, UKeeps (fun _ => True) (f i)) (n i : Nat) : UKeeps (fun _ => True) (UM.list f n i) := by
  induction n generalizing i with
  | zero => exact ret trivial
  | succ n ih => exact (h i).bind fun _ _ => (ih _).bind fun _ _ => ret trivial

/-! ## The accesses of a unit -/

theorem uPlace (t : TileId) (k : Acc) (a : Addr) : UKeeps (fun _ => True) (uPlace t k a) := by
  refine ⟨fun s₀ s u h => ?_⟩
  unfold Machine.uPlace
  split
  next slot off =>
    have hx := h.brickXl (t := t) (k := k) (slot := slot) (off := off) (n := 1)
    generalize Machine.brickXl s t k slot off 1 = r at hx
    cases hx with
    | ok k => exact .ok trivial k
    | exc k => exact .exc k
    | halt k => exact .halt k
  next va =>
    dsimp only
    split
    · exact .ok trivial h
    · have hx := h.translate (t := t) (w := .data) (c := dataCtx s t) (k := k) (va := va) (n := 1)
      generalize Machine.translate s t .data (dataCtx s t) k va 1 = r at hx
      cases hx with
      | ok k => exact .ok trivial k
      | exc k => exact .exc k
      | halt k => exact .halt k

theorem replayByte (t : TileId) (isA : Bool) : UKeeps (fun _ => True) (replayByte t isA) := by
  refine ⟨fun s₀ s u h => ?_⟩
  unfold Machine.replayByte
  dsimp only
  split
  · exact .ok trivial h
  · exact .halt h.replayEnd
  · split
    next e => exact .ok trivial (h.nextRload.snd e)
    next e => exact .halt (h.nextRload.snd e).replayEnd
    next e => exact .halt (h.nextRload.snd e)

theorem uByte (t : TileId) (isA : Bool) (a : Addr) (x : Xl) : UKeeps (fun _ => True) (uByte t isA a x) := by
  refine ⟨fun s₀ s u h => ?_⟩
  unfold Machine.uByte
  split
  · exact (replayByte t isA).all s₀ s u h
  split
  · exact .ok trivial h
  split
  · exact .exc h
  · exact .ok trivial h

theorem uRead (t : TileId) (k : Acc) (isA : Bool) (a : Addr) : UKeeps (fun _ => True) (uRead t k isA a) :=
  (uPlace t k a).bind fun x _ => (uByte t isA a x).bind fun _ _ => ret trivial

theorem uWrite (x : Xl) (b : Byte) : UKeeps (fun _ => True) (uWrite x b) := ⟨fun _ _ _ k => .ok trivial k⟩

/-! ## Units -/

theorem throughUnit {c : CW} {max dir db : Nat} {f : Nat → UM (Option Unit)} (h : ∀ i, UKeeps (fun _ => True) (f i)) :
    UKeeps OutKeeps (throughUnit c max dir db f) := (scan h _ _).bind fun _ _ => ret fun x => .refl x

theorem stopUnit {c : CW} {db : Nat} {f : Nat → UM (Option α)} {hit : α → Tile → Tile} {ending : Tile → Tile}
    (h : ∀ i, UKeeps (fun _ => True) (f i)) (hh : ∀ a x, TileKeeps x (hit a x)) (he : ∀ x, TileKeeps x (ending x)) :
    UKeeps OutKeeps (stopUnit c db f hit ending) := by
  refine (scan h _ _).bind fun r _ => ?_
  split
  · exact ret fun x => hh _ x
  · refine ret fun x => ?_
    dsimp only
    split
    · exact he x
    · exact .refl x

theorem copyByte (t : TileId) (a b : Addr) (i : Nat) : UKeeps (fun _ => True) (copyByte t a b i) :=
  (uRead ..).bind fun _ _ => (uPlace ..).bind fun _ _ => (uWrite ..).bind fun _ _ => ret trivial

theorem cmpByte (t : TileId) (a b : Addr) (i : Nat) : UKeeps (fun _ => True) (cmpByte t a b i) :=
  (uRead ..).bind fun _ _ => (uRead ..).bind fun _ _ => ret trivial

theorem srchByte (t : TileId) (a : Addr) (ne : Bool) (ch : Byte) (i : Nat) : UKeeps (fun _ => True) (srchByte t a ne ch i) :=
  (uRead ..).bind fun _ _ => ret trivial

theorem trsByte (t : TileId) (a b : Addr) (i : Nat) : UKeeps (fun _ => True) (trsByte t a b i) :=
  (uRead ..).bind fun _ _ => (uRead ..).bind fun _ _ => (uWrite ..).bind fun _ _ => ret trivial

theorem ttsByte (t : TileId) (a b : Addr) (i : Nat) : UKeeps (fun _ => True) (ttsByte t a b i) :=
  (uRead ..).bind fun _ _ => (uRead ..).bind fun _ _ => ret trivial

theorem edByte (t : TileId) (a b : Addr) (fill : Nat) (e : Ed) : UKeeps (fun _ => True) (edByte t a b fill e) := by
  refine (uRead ..).bind fun x _ => .ite ((uRead ..).bind fun y _ => .ite raise ?_) ?_
  · exact (uWrite ..).bind fun _ _ => ret trivial
  · exact (uWrite ..).bind fun _ _ => ret trivial

theorem edLoop (t : TileId) (a b : Addr) (fill n i : Nat) (e : Ed) : UKeeps (fun _ => True) (edLoop t a b fill n i e) := by
  induction n generalizing i e with
  | zero => exact ret trivial
  | succ n ih => exact (edByte ..).bind fun _ _ => ih ..

theorem edUnit (t : TileId) (a b : Addr) (rl : BitVec 5) (mark : Option (BitVec 5)) (c : CW) :
    UKeeps OutKeeps (edUnit t a b rl mark c) := (edLoop ..).bind fun _ _ => ret fun x => (TileKeeps.refl x).edMark.setG

theorem chkdChar (t : TileId) (a : Addr) (k : Nat) : UKeeps (fun _ => True) (chkdChar t a k) :=
  (uRead ..).bind fun _ _ => .ite (ret trivial) raise

theorem chkdBcd (t : TileId) (a : Addr) (len j : Nat) : UKeeps (fun _ => True) (chkdBcd t a len j) :=
  (uRead ..).bind fun _ _ => .ite raise (.ite raise (ret trivial))

theorem chkdUnit {t : TileId} {a : Addr} {g : Nat} {f : Nat → Tile → Tile} {c : CW} (hf : ∀ m x, TileKeeps x (f m x)) :
    UKeeps OutKeeps (chkdUnit t a g f c) := by
  refine bind (Q := fun _ => True) ?_ fun l _ => ret fun x => hf _ x
  exact .ite (list (chkdBcd t a c.len) _ _) (list (chkdChar t a) _ _)

theorem bmapByte (t : TileId) (a : Addr) (k j : Nat) : UKeeps (fun _ => True) (bmapByte t a k j) :=
  (uRead ..).bind fun _ _ => ret trivial

theorem bmapUnit (t : TileId) (a : Addr) (pd : BitVec 3) (rx : BitVec 5) (k : Nat) (c : CW) :
    UKeeps OutKeeps (bmapUnit t a pd rx k c) := by
  refine (scan (bmapByte t a k) _ _).bind fun r _ => ret fun x => ?_
  dsimp only
  split
  · exact (TileKeeps.refl x).setG.setP
  · exact (TileKeeps.refl x).setG.setP

end UKeeps

end Sys2Proof.Machine
end

section
/-! PROOFS. Commands: accesses of control pages and system instructions (O59). -/

namespace Sys2Proof.Machine
namespace Keeps

set_option Elab.async false

variable {s₀ s : State}

/-! ## What every instruction of a tile does -/

theorem tileFn (h : Keeps s₀ s) {t : TileId} {i : Insn} {f : Tile → Tile}
    (hf : ∀ x, TileKeeps x (f x) := by exact fun _ => (TileKeeps.refl _).same) : Answers (Keeps s₀) (tileFn s t i f) :=
  .next (h.tileOp fun _ k => .ok (k.modTile hf))

/-! ## Accesses of control pages -/

theorem devRow (h : Keeps s₀ s) {f : State → State} (hf : ∀ s, Keeps s₀ s → Keeps s₀ (f s)) : Answers (Keeps s₀) (devRow s f) :=
  .next (h.whenLive (fun _ k => (hf _ k).settle))

theorem execRegisterWrite (h : Keeps s₀ s) {a : Agent} {ca : BitVec 20} {sz : Size} {v : Word} :
    Answers (Keeps s₀) (execRegisterWrite a ca sz v s) :=
  h.devRow (fun _ k => k.ctlStore)

theorem execDevPlaceWrite (h : Keeps s₀ s) {a : Agent} {v : Word} : Answers (Keeps s₀) (execDevPlaceWrite a v s) :=
  h.devRow (fun _ k => k.rowWrite)

theorem execUnassignedPageAccess (h : Keeps s₀ s) {a : Agent} {ca : BitVec 20} {write : Bool} {sz : Size} :
    Answers (Keeps s₀) (execUnassignedPageAccess a ca write sz s) :=
  h.devRow (fun _ k => .ite k.probe k)

theorem execUnclockedPageAccess (h : Keeps s₀ s) {a : Agent} {ca : BitVec 20} {write : Bool} {sz : Size} :
    Answers (Keeps s₀) (execUnclockedPageAccess a ca write sz s) :=
  h.devRow (fun _ k => .ite k.probe k)

theorem execRemoteWriteTakesEffect (h : Keeps s₀ s) {page : BitVec 8} :
    Answers (Keeps s₀) (execRemoteWriteTakesEffect page s) :=
  h.devRow (fun _ k => k.postedEffect)

theorem execEvsnapSnap (h : Keeps s₀ s) {a : Agent} {v : Word} : Answers (Keeps s₀) (execEvsnapSnap a v s) :=
  h.devRow (fun _ k => k.rowWrite)

theorem execEvsnapHold (h : Keeps s₀ s) {a : Agent} {v : Word} : Answers (Keeps s₀) (execEvsnapHold a v s) :=
  h.devRow (fun _ k => k.rowWrite)

theorem execEvsnapRelease (h : Keeps s₀ s) {a : Agent} {v : Word} : Answers (Keeps s₀) (execEvsnapRelease a v s) :=
  h.devRow (fun _ k => k.rowWrite)

theorem execRemoteSnapshotCapture (h : Keeps s₀ s) {page : BitVec 8} : Answers (Keeps s₀) (execRemoteSnapshotCapture page s) :=
  h.devRow (fun _ k => k.captureOp)

theorem execStatSet (h : Keeps s₀ s) {a : Agent} {page : BitVec 8} {v : Word} : Answers (Keeps s₀) (execStatSet a page v s) :=
  h.devRow (fun _ k => k.rowWrite)

theorem execIenaWrite (h : Keeps s₀ s) {a : Agent} {page : BitVec 8} {v : Word} :
    Answers (Keeps s₀) (execIenaWrite a page v s) :=
  h.devRow (fun _ k => k.rowWrite)

theorem execUndefinedCommand (h : Keeps s₀ s) {a : Agent} {page code : BitVec 8} :
    Answers (Keeps s₀) (execUndefinedCommand a page code s) :=
  h.devRow (fun _ k => k.rowWrite)

theorem execMcQueuePop (h : Keeps s₀ s) {a : Agent} {v : Word} : Answers (Keeps s₀) (execMcQueuePop a v s) :=
  h.devRow (fun _ k => k.rowWrite)

theorem execDbellSet (h : Keeps s₀ s) {a : Agent} {target : TileId} {v : Word} :
    Answers (Keeps s₀) (execDbellSet a target v s) :=
  h.devRow (fun _ k => k.rowWrite)

theorem execIpiSet (h : Keeps s₀ s) {a : Agent} {target : TileId} {v : Word} : Answers (Keeps s₀) (execIpiSet a target v s) :=
  h.devRow (fun _ k => k.rowWrite)

theorem execTimerExpiry (h : Keeps s₀ s) {t : TileId} : Answers (Keeps s₀) (execTimerExpiry t s) := by
  unfold Machine.execTimerExpiry
  exact h.devRow (fun _ k => .ite k.other k)

theorem execInterruptAccept (h : Keeps s₀ s) {t : TileId} : Answers (Keeps s₀) (execInterruptAccept t s) :=
  .next h.acceptInterrupt.stopCheck

theorem execTileCheckstop (h : Keeps s₀ s) {t : TileId} {c : CsCond} : Answers (Keeps s₀) (execTileCheckstop t c s) :=
  .next (h.whenLive (fun _ k => k.checkstopOp))

theorem execIllegalInstruction (h : Keeps s₀ s) {t : TileId} : Answers (Keeps s₀) (execIllegalInstruction t s) :=
  .next (h.tileOp (fun _ k => .ok k))

/-! ## System instructions -/

theorem execMfsys (h : Keeps s₀ s) {t : TileId} {g : Guard} {rd : BitVec 5} {num : BitVec 11} :
    Answers (Keeps s₀) (execMfsys t g rd num s) :=
  .next (h.tileOp (fun _ k => k.mfBody))

theorem execMtsys (h : Keeps s₀ s) {t : TileId} {g : Guard} {num : BitVec 11} {ra : BitVec 5} :
    Answers (Keeps s₀) (execMtsys t g num ra s) :=
  .next (h.tileOp (fun _ k => k.mtBody))

theorem execBwdataAccess (h : Keeps s₀ s) {t : TileId} {g : Guard} {write : Bool} {r : BitVec 5} :
    Answers (Keeps s₀) (execBwdataAccess t g write r s) :=
  .next (h.tileOp (fun _ k => .ite k.mtBody k.mfBody))

theorem execEfdataWrite (h : Keeps s₀ s) {t : TileId} {g : Guard} {ra : BitVec 5} :
    Answers (Keeps s₀) (execEfdataWrite t g ra s) :=
  .next (h.tileOp (fun _ k => k.mtBody))

theorem execSws (h : Keeps s₀ s) {t : TileId} {g : Guard} {pd : BitVec 3} {ra : BitVec 5} :
    Answers (Keeps s₀) (execSws t g pd ra s) :=
  .next (h.tileOp (fun _ k => k.swsBody))

theorem execYield (h : Keeps s₀ s) {t : TileId} {g : Guard} : Answers (Keeps s₀) (execYield t g s) :=
  .next (h.tileOp (fun _ k => k.yieldBody))

theorem execSessionFillDone (h : Keeps s₀ s) {c : CourseId} : Answers (Keeps s₀) (execSessionFillDone c s) :=
  .next (h.whenLive (fun _ k => k.moverStep.settle))

theorem execTrap (h : Keeps s₀ s) {t : TileId} {g : Guard} {n : BitVec 12} : Answers (Keeps s₀) (execTrap t g n s) :=
  .next (h.tileOp (fun _ k => .ite (.exc k) k.trapEntry))

theorem execKcall (h : Keeps s₀ s) {t : TileId} {g : Guard} {n : BitVec 12} : Answers (Keeps s₀) (execKcall t g n s) :=
  .next (h.tileOp (fun _ k => k.trapEntry))

theorem execRete (h : Keeps s₀ s) {t : TileId} {g : Guard} : Answers (Keeps s₀) (execRete t g s) :=
  .next (h.tileOp (fun _ k => k.reteBody))

theorem execIfence (h : Keeps s₀ s) {t : TileId} {g : Guard} : Answers (Keeps s₀) (execIfence t g s) :=
  .next (h.tileOp (fun _ k => .ok k.drainTile))

end Keeps
end Sys2Proof.Machine
end

section
/-! PROOFS. Commands: ticket instructions and the commands of Mason (O59). -/

namespace Sys2Proof.Machine
namespace Keeps

set_option Elab.async false

variable {s₀ s : State}

theorem execIngressEntryRead (h : Keeps s₀ s) {r : Fin 64} : Answers (Keeps s₀) (execIngressEntryRead r s) :=
  h.devRow (fun _ k => k.ingressRead)

theorem execTicketAdmission (h : Keeps s₀ s) {arrival : Nat} : Answers (Keeps s₀) (execTicketAdmission arrival s) :=
  h.devRow (fun _ k => k.admitTicket)

theorem execTake (h : Keeps s₀ s) {t : TileId} {g : Guard} : Answers (Keeps s₀) (execTake t g s) :=
  .next (h.tileOp (fun _ k => k.takeBody))

theorem execCont (h : Keeps s₀ s) {t : TileId} {g : Guard} {pd : BitVec 3} {ra : BitVec 5} :
    Answers (Keeps s₀) (execCont t g pd ra s) :=
  .next (h.tileOp (fun _ k => k.contBody))

theorem execCcntWrite (h : Keeps s₀ s) {a : Agent} {r : Fin 64} {v : Word} : Answers (Keeps s₀) (execCcntWrite a r v s) :=
  h.devRow (fun _ k => k.rowWrite)

theorem execIenWrite (h : Keeps s₀ s) {a : Agent} {r : Fin 64} {v : Word} : Answers (Keeps s₀) (execIenWrite a r v s) :=
  h.devRow (fun _ k => k.rowWrite)

theorem execCenWrite (h : Keeps s₀ s) {a : Agent} {r : Fin 64} {v : Word} : Answers (Keeps s₀) (execCenWrite a r v s) :=
  h.devRow (fun _ k => k.rowWrite)

theorem execContinuationResend (h : Keeps s₀ s) {course : CourseId} {dest : BitVec 9} {seq : BitVec 48} :
    Answers (Keeps s₀) (execContinuationResend course dest seq s) :=
  h.devRow (fun _ k => k.resendCont)

theorem execTombstoneExpiry (h : Keeps s₀ s) {key : Word} : Answers (Keeps s₀) (execTombstoneExpiry key s) :=
  h.devRow (fun _ k => k.endTomb)

theorem execProposalLapse (h : Keeps s₀ s) : Answers (Keeps s₀) (execProposalLapse s) := h.devRow (fun _ k => k.setFld)

theorem execCourseBalanceMove (h : Keeps s₀ s) {key : Word} {course : CourseId} :
    Answers (Keeps s₀) (execCourseBalanceMove key course s) :=
  h.devRow (fun _ k => k.balanceMove)

theorem cmdRow (h : Keeps s₀ s) {a : Agent} {page code : Nat} : Answers (Keeps s₀) (cmdRow s a page code) :=
  h.devRow (fun _ k => k.rowWrite)

theorem execStart (h : Keeps s₀ s) {a : Agent} : Answers (Keeps s₀) (execStart a s) := h.cmdRow

theorem execQuiesce (h : Keeps s₀ s) {a : Agent} : Answers (Keeps s₀) (execQuiesce a s) := h.cmdRow

theorem execResume (h : Keeps s₀ s) {a : Agent} : Answers (Keeps s₀) (execResume a s) := h.cmdRow

theorem execPmap (h : Keeps s₀ s) {a : Agent} : Answers (Keeps s₀) (execPmap a s) := h.cmdRow

theorem execPooldef (h : Keeps s₀ s) {a : Agent} : Answers (Keeps s₀) (execPooldef a s) := h.cmdRow

theorem execPooldel (h : Keeps s₀ s) {a : Agent} : Answers (Keeps s₀) (execPooldel a s) := h.cmdRow

theorem execSessinit (h : Keeps s₀ s) {a : Agent} : Answers (Keeps s₀) (execSessinit a s) := h.cmdRow

theorem execSessfree (h : Keeps s₀ s) {a : Agent} : Answers (Keeps s₀) (execSessfree a s) := h.cmdRow

theorem execSpill (h : Keeps s₀ s) {a : Agent} : Answers (Keeps s₀) (execSpill a s) := h.cmdRow

theorem execPin (h : Keeps s₀ s) {a : Agent} : Answers (Keeps s₀) (execPin a s) := h.cmdRow

theorem execUnpin (h : Keeps s₀ s) {a : Agent} : Answers (Keeps s₀) (execUnpin a s) := h.cmdRow

theorem execHint (h : Keeps s₀ s) {a : Agent} : Answers (Keeps s₀) (execHint a s) := h.cmdRow

theorem execLookup (h : Keeps s₀ s) {a : Agent} : Answers (Keeps s₀) (execLookup a s) := h.cmdRow

theorem execBrickdel (h : Keeps s₀ s) {a : Agent} : Answers (Keeps s₀) (execBrickdel a s) := h.cmdRow

theorem execStaticdef (h : Keeps s₀ s) {a : Agent} : Answers (Keeps s₀) (execStaticdef a s) := h.cmdRow

theorem execDrainc (h : Keeps s₀ s) {a : Agent} : Answers (Keeps s₀) (execDrainc a s) := h.cmdRow

theorem execAdmitc (h : Keeps s₀ s) {a : Agent} : Answers (Keeps s₀) (execAdmitc a s) := h.cmdRow

theorem execMigack (h : Keeps s₀ s) {a : Agent} : Answers (Keeps s₀) (execMigack a s) := h.cmdRow

end Keeps
end Sys2Proof.Machine
end

section
/-! PROOFS. Commands: the board, reset and boot (O59). -/

namespace Sys2Proof.Machine
namespace Keeps

set_option Elab.async false

variable {s₀ s : State}

/-! ## Events of the board -/

theorem execPcieInboundRequest (h : Keeps s₀ s) {port : Fin 2} {rid : BitVec 16} {addr : Word} {req : PcieReq} :
    Answers (Keeps s₀) (execPcieInboundRequest port rid addr req s) :=
  h.devRow (fun _ k => k.inboundOp)

theorem execMsiWrite (h : Keeps s₀ s) {port : Fin 2} {rid : BitVec 16} {addr : Word} {data : List Byte} :
    Answers (Keeps s₀) (execMsiWrite port rid addr data s) :=
  h.devRow (fun _ k => .ite k.inboundOp k)

theorem execPatrolScrubRead (h : Keeps s₀ s) {ctl : Fin 9} {addr : BitVec 48} {found : Ecc} :
    Answers (Keeps s₀) (execPatrolScrubRead ctl addr found s) :=
  h.devRow (fun _ k => k.scrubOp)

theorem execPerstWrite (h : Keeps s₀ s) {a : Agent} {p : Fin 2} {v : Word} : Answers (Keeps s₀) (execPerstWrite a p v s) :=
  h.devRow (fun _ k => k.rowWrite)

theorem execPcieLinkDown (h : Keeps s₀ s) {p : Fin 2} {k : Fin 4} : Answers (Keeps s₀) (execPcieLinkDown p k s) :=
  h.devRow (fun _ k1 => k1.subDown)

theorem execPcieLinkUp (h : Keeps s₀ s) {p : Fin 2} {k : Fin 4} {gen : BitVec 3} {width : BitVec 5} :
    Answers (Keeps s₀) (execPcieLinkUp p k gen width s) :=
  h.devRow (fun _ k1 => k1.subLinkUp)

theorem execSpiGo (h : Keeps s₀ s) {a : Agent} {v : Word} : Answers (Keeps s₀) (execSpiGo a v s) :=
  h.devRow (fun _ k => k.rowWrite)

theorem execSpiDone (h : Keeps s₀ s) {data : List Byte} : Answers (Keeps s₀) (execSpiDone data s) :=
  h.devRow (fun _ k => k.spiDoneOp)

theorem execI2cGo (h : Keeps s₀ s) {a : Agent} {v : Word} : Answers (Keeps s₀) (execI2cGo a v s) :=
  h.devRow (fun _ k => k.rowWrite)

theorem execI2cDone (h : Keeps s₀ s) {nack : Bool} {data : Word} : Answers (Keeps s₀) (execI2cDone nack data s) :=
  h.devRow (fun _ k => k.i2cDoneOp)

theorem execTemperatureSample (h : Keeps s₀ s) {tj : BitVec 16} : Answers (Keeps s₀) (execTemperatureSample tj s) :=
  h.devRow (fun _ k => k.temperatureOp)

theorem execRailWarning (h : Keeps s₀ s) : Answers (Keeps s₀) (execRailWarning s) := h.devRow (fun _ k => k.railWarnOp)

theorem execIdent (h : Keeps s₀ s) : Answers (Keeps s₀) (execIdent s) := .next (h.smbCmd (fun _ k => k.smbReply))

theorem execStatus (h : Keeps s₀ s) : Answers (Keeps s₀) (execStatus s) := .next (h.smbCmd (fun _ k => k.smbReply))

theorem execTemp (h : Keeps s₀ s) : Answers (Keeps s₀) (execTemp s) := .next (h.smbCmd (fun _ k => k.smbReply))

theorem execPoweron (h : Keeps s₀ s) : Answers (Keeps s₀) (execPoweron s) := by
  unfold Machine.execPoweron
  exact .next (h.smbCmd (fun _ k => k.other))

theorem execPoweroff (h : Keeps s₀ s) : Answers (Keeps s₀) (execPoweroff s) := by
  unfold Machine.execPoweroff
  exact .next (h.smbCmd (fun _ k => .other (.ite k k.clearPages)))

theorem execSmbDevreset (h : Keeps s₀ s) : Answers (Keeps s₀) (execSmbDevreset s) := .next (h.smbCmd (fun _ k => k.clearDevice))

theorem execLogread (h : Keeps s₀ s) : Answers (Keeps s₀) (execLogread s) := .next (h.smbCmd (fun _ k => k.smbReply))

/-- The standby store does not grow. -/
theorem shorterStore (h : Keeps s₀ s) {sby : Standby} (hs : sby.store.length ≤ s.sby.store.length) : Keeps s₀ { s with sby } :=
  h.trans ⟨id, id, id, hs.trans, fun _ => .refl _⟩

theorem execLogpop (h : Keeps s₀ s) : Answers (Keeps s₀) (execLogpop s) := .next (h.smbCmd fun _ k => k.shorterStore (by simp))

theorem execSmbUndefinedCommand (h : Keeps s₀ s) {x : SmbTransfer} : Answers (Keeps s₀) (execSmbUndefinedCommand x s) :=
  .next h.smbTransferOp

theorem execExtest (h : Keeps s₀ s) {bsr : List (Signal × Bool)} : Answers (Keeps s₀) (execExtest bsr s) := .next h.tapScan

theorem execIdcode (h : Keeps s₀ s) : Answers (Keeps s₀) (execIdcode s) := by
  unfold Machine.execIdcode
  exact .next h.tapSelect.other

theorem execSamplePreload (h : Keeps s₀ s) {bsr : List (Signal × Bool)} : Answers (Keeps s₀) (execSamplePreload bsr s) :=
  .next h.tapScan

theorem execClamp (h : Keeps s₀ s) : Answers (Keeps s₀) (execClamp s) := .next h.tapSelect

theorem execHighz (h : Keeps s₀ s) : Answers (Keeps s₀) (execHighz s) := .next h.tapSelect

theorem execBypass (h : Keeps s₀ s) : Answers (Keeps s₀) (execBypass s) := .next h.tapSelect

theorem execCpacc (h : Keeps s₀ s) {addr : BitVec 48} {write : Bool} {data : Word} :
    Answers (Keeps s₀) (execCpacc addr write data s) :=
  .next (.ite h.cpaccOp.settle h.tapSelect)

/-! ## Reset and boot events -/

theorem execColdReset (h : Keeps s₀ s) : Answers (Keeps s₀) (execColdReset s) := .next h.coldResetOp

theorem execWarmReset (h : Keeps s₀ s) : Answers (Keeps s₀) (execWarmReset s) := .next (.ite h.clearDevice h)

theorem execPowerLoss (h : Keeps s₀ s) : Answers (Keeps s₀) (execPowerLoss s) := .next h.powerLossOp

theorem execStandbyReset (h : Keeps s₀ s) {addr : StrapPair} : Answers (Keeps s₀) (execStandbyReset addr s) :=
  .next h.standbyResetOp

theorem execCalendarReset (h : Keeps s₀ s) : Answers (Keeps s₀) (execCalendarReset s) := .next h.calendarResetOp

theorem execStandbyLoss (h : Keeps s₀ s) : Answers (Keeps s₀) (execStandbyLoss s) := .next h.standbyLossOp

theorem execBootRom (h : Keeps s₀ s) {density : Option Nat} {flash : List Byte} {readable : FlashReads} :
    Answers (Keeps s₀) (execBootRom density flash readable s) :=
  h.devRow (fun _ k => k.bootRomOp)

theorem execDevStart (h : Keeps s₀ s) {a : Agent} {v : Word} : Answers (Keeps s₀) (execDevStart a v s) :=
  h.devRow (fun _ k => k.rowWrite)

theorem execTimebaseSeed (h : Keeps s₀ s) : Answers (Keeps s₀) (execTimebaseSeed s) := h.devRow (fun _ k => k.seedTb)

theorem execDdrcHbmcTrain (h : Keeps s₀ s) {a : Agent} {ctl : Fin 9} : Answers (Keeps s₀) (execDdrcHbmcTrain a ctl s) :=
  h.cmdRow

theorem execTrainComplete (h : Keeps s₀ s) {ctl : Fin 9} {d : Dimms} : Answers (Keeps s₀) (execTrainComplete ctl d s) :=
  h.devRow (fun _ k => k.trainDone)

theorem execReload (h : Keeps s₀ s) {a : Agent} {c : CourseId} : Answers (Keeps s₀) (execReload a c s) := h.cmdRow

theorem execReloadVerifyDone (h : Keeps s₀ s) {c : CourseId} : Answers (Keeps s₀) (execReloadVerifyDone c s) :=
  h.devRow (fun _ k => k.reloadDone)

theorem execSet (h : Keeps s₀ s) {a : Agent} : Answers (Keeps s₀) (execSet a s) := h.cmdRow

theorem execSeed (h : Keeps s₀ s) {a : Agent} : Answers (Keeps s₀) (execSeed a s) := h.cmdRow

theorem execDevreset (h : Keeps s₀ s) {a : Agent} : Answers (Keeps s₀) (execDevreset a s) := h.cmdRow

theorem execCalendarTick (h : Keeps s₀ s) : Answers (Keeps s₀) (execCalendarTick s) := .next h.calTickOp

theorem execOscStop (h : Keeps s₀ s) : Answers (Keeps s₀) (execOscStop s) := .next h.oscStopOp

theorem execVbatSample (h : Keeps s₀ s) {low : Bool} : Answers (Keeps s₀) (execVbatSample low s) := .next (.ite h.raise h)

theorem execPpsEdge (h : Keeps s₀ s) {falling : Bool} : Answers (Keeps s₀) (execPpsEdge falling s) :=
  h.devRow (fun _ k => k.ppsEdgeOp)

theorem execPpsLost (h : Keeps s₀ s) : Answers (Keeps s₀) (execPpsLost s) := h.devRow (fun _ k => k.ppsLostOp)

theorem execPllUnlock (h : Keeps s₀ s) {p : Pll} {stops : Bool} : Answers (Keeps s₀) (execPllUnlock p stops s) :=
  h.devRow (fun _ k => k.pllUnlockOp)

end Keeps
end Sys2Proof.Machine
end

section
/-! PROOFS. Commands: branch, decimal, floating-point and integer instructions (O59). -/

namespace Sys2Proof.Machine
namespace Keeps

set_option Elab.async false

variable {s₀ s : State}

/-! ## Branches -/

theorem execBr (h : Keeps s₀ s) {t : TileId} {g : Guard} {off : BitVec 18} : Answers (Keeps s₀) (execBr t g off s) :=
  .next (h.tileOp (fun _ k => .ok k))

theorem execBl (h : Keeps s₀ s) {t : TileId} {g : Guard} {off : BitVec 18} : Answers (Keeps s₀) (execBl t g off s) := by
  unfold Machine.execBl
  exact .next (h.tileOp (fun _ k => .ok (k.modTile (fun _ => (TileKeeps.refl _).same.rpush))))

theorem execJmp (h : Keeps s₀ s) {t : TileId} {g : Guard} {ra : BitVec 5} : Answers (Keeps s₀) (execJmp t g ra s) := by
  unfold Machine.execJmp
  exact .next (h.tileOp (fun _ k => k.jumpTo (fun _ k1 => .ite k1.rpop k1)))

theorem execJl (h : Keeps s₀ s) {t : TileId} {g : Guard} {rd ra : BitVec 5} : Answers (Keeps s₀) (execJl t g rd ra s) := by
  unfold Machine.execJl
  exact .next (h.tileOp (fun _ k => k.jumpTo
      (fun _ k1 => k1.modTile (fun _ => .ite ((TileKeeps.refl _).same.rpush) ((TileKeeps.refl _).same)))))

theorem execMfbb (h : Keeps s₀ s) {t : TileId} {g : Guard} {rd : BitVec 5} {k : Fin 4} :
    Answers (Keeps s₀) (execMfbb t g rd k s) :=
  h.tileFn

/-! ## Decimal instructions -/

theorem decReg2 (h : Keeps s₀ s) {t : TileId} {g : Guard} {dd : BitVec 4} {f : Tile → Dec} :
    Answers (Keeps s₀) (decReg2 s t g dd f) :=
  .next (h.tileOp (fun _ k => k.finishD))

theorem execDadd (h : Keeps s₀ s) {t : TileId} {g : Guard} {ft : Bool} {dd da db : BitVec 4} :
    Answers (Keeps s₀) (execDadd t g ft dd da db s) :=
  h.decReg2

theorem execDsub (h : Keeps s₀ s) {t : TileId} {g : Guard} {ft : Bool} {dd da db : BitVec 4} :
    Answers (Keeps s₀) (execDsub t g ft dd da db s) :=
  h.decReg2

theorem execDmul (h : Keeps s₀ s) {t : TileId} {g : Guard} {ft : Bool} {dd da db : BitVec 4} :
    Answers (Keeps s₀) (execDmul t g ft dd da db s) :=
  h.decReg2

theorem execDmulw (h : Keeps s₀ s) {t : TileId} {g : Guard} {ft : Bool} {dp da db : BitVec 4} :
    Answers (Keeps s₀) (execDmulw t g ft dp da db s) := by
  unfold Machine.execDmulw
  exact .next (h.tileOp (fun _ k => k.finishW))

theorem execDaddw (h : Keeps s₀ s) {t : TileId} {g : Guard} {dp dpa dpb : BitVec 4} :
    Answers (Keeps s₀) (execDaddw t g dp dpa dpb s) := by
  unfold Machine.execDaddw
  exact .next (h.tileOp (fun _ k => k.finishW))

theorem execDsubw (h : Keeps s₀ s) {t : TileId} {g : Guard} {dp dpa dpb : BitVec 4} :
    Answers (Keeps s₀) (execDsubw t g dp dpa dpb s) := by
  unfold Machine.execDsubw
  exact .next (h.tileOp (fun _ k => k.finishW))

theorem execDnarw (h : Keeps s₀ s) {t : TileId} {g : Guard} {dd dpa : BitVec 4} : Answers (Keeps s₀) (execDnarw t g dd dpa s) :=
  .next (h.tileOp (fun _ k => k.finishD))

theorem execDmov (h : Keeps s₀ s) {t : TileId} {g : Guard} {dd da : BitVec 4} : Answers (Keeps s₀) (execDmov t g dd da s) :=
  h.decReg2

theorem execDneg (h : Keeps s₀ s) {t : TileId} {g : Guard} {dd da : BitVec 4} : Answers (Keeps s₀) (execDneg t g dd da s) :=
  h.decReg2

theorem execDabs (h : Keeps s₀ s) {t : TileId} {g : Guard} {dd da : BitVec 4} : Answers (Keeps s₀) (execDabs t g dd da s) := by
  unfold Machine.execDabs
  exact h.decReg2

theorem execDdivs (h : Keeps s₀ s) {t : TileId} {g : Guard} {ft : Bool} {dq dp dv : BitVec 4} :
    Answers (Keeps s₀) (execDdivs t g ft dq dp dv s) :=
  .next (h.tileOp (fun _ k => k.ddivsBody))

theorem execDcmp (h : Keeps s₀ s) {t : TileId} {g : Guard} {ft : Bool} {c : DecCond} {pd : BitVec 3} {da db : BitVec 4} :
    Answers (Keeps s₀) (execDcmp t g ft c pd da db s) :=
  h.tileFn (fun _ => .setP (.refl _))

theorem execDshr (h : Keeps s₀ s) {t : TileId} {g : Guard} {ft : Bool} {rm : RndSel} {dd da : BitVec 4} {n : BitVec 5} :
    Answers (Keeps s₀) (execDshr t g ft rm dd da n s) :=
  .next (h.tileOp (fun _ k => k.dshrBody))

theorem execDshl (h : Keeps s₀ s) {t : TileId} {g : Guard} {ft : Bool} {rm : RndSel} {dd da : BitVec 4} {n : BitVec 5} :
    Answers (Keeps s₀) (execDshl t g ft rm dd da n s) := by
  unfold Machine.execDshl
  exact h.decReg2

theorem execCvbd (h : Keeps s₀ s) {t : TileId} {g : Guard} {dd : BitVec 4} {ga n : BitVec 5} :
    Answers (Keeps s₀) (execCvbd t g dd ga n s) := by
  unfold Machine.execCvbd
  exact h.decReg2

theorem execCvdb (h : Keeps s₀ s) {t : TileId} {g : Guard} {gd : BitVec 5} {da : BitVec 4} {n : BitVec 5} :
    Answers (Keeps s₀) (execCvdb t g gd da n s) :=
  .next (h.tileOp (fun _ k => k.cvdbBody))

theorem execDmfr (h : Keeps s₀ s) {t : TileId} {g : Guard} {gd : BitVec 5} {da : BitVec 4} {low : Bool} :
    Answers (Keeps s₀) (execDmfr t g gd da low s) :=
  h.tileFn

theorem execDmtr (h : Keeps s₀ s) {t : TileId} {g : Guard} {dd : BitVec 4} {ga gb : BitVec 5} :
    Answers (Keeps s₀) (execDmtr t g dd ga gb s) :=
  .next (h.tileOp (fun _ k => k.dmtrBody))

theorem execDld (h : Keeps s₀ s) {t : TileId} {g : Guard} {len : BitVec 3} {dd base : BitVec 4} {disp : BitVec 12} :
    Answers (Keeps s₀) (execDld t g len dd base disp s) :=
  .next (h.tileOp (fun _ k => k.packedLoad))

theorem execDst (h : Keeps s₀ s) {t : TileId} {g : Guard} {len : BitVec 3} {ds base : BitVec 4} {disp : BitVec 12} :
    Answers (Keeps s₀) (execDst t g len ds base disp s) :=
  .next (h.tileOp (fun _ k => k.packedStore (fun _ _ _ k1 => k1.writeAll (fun _ _ _ k2 => k2.pushLines))))

theorem execDaddm (h : Keeps s₀ s) {t : TileId} {g : Guard} {len : BitVec 2} {dd base : BitVec 4} {disp : BitVec 12} :
    Answers (Keeps s₀) (execDaddm t g len dd base disp s) :=
  .next (h.tileOp (fun _ k => k.daddmBody))

theorem execDldx (h : Keeps s₀ s) {t : TileId} {g : Guard} {dd : BitVec 4} {ga gb : BitVec 5} :
    Answers (Keeps s₀) (execDldx t g dd ga gb s) :=
  .next (h.tileOp (fun _ k => k.dldxBody))

theorem execDstx (h : Keeps s₀ s) {t : TileId} {g : Guard} {ds : BitVec 4} {ga gb : BitVec 5} :
    Answers (Keeps s₀) (execDstx t g ds ga gb s) :=
  .next (h.tileOp (fun _ k => k.dstxBody))

/-! ## Floating-point instructions -/

theorem fpRow (h : Keeps s₀ s) {t : TileId} {g : Guard} {rd : BitVec 5} {f : Tile → FRes} :
    Answers (Keeps s₀) (fpRow s t g rd f) := by
  unfold Machine.fpRow
  exact .next (h.tileOp (fun _ k => k.finishF))

theorem execFaddFsubFmul (h : Keeps s₀ s) {t : TileId} {g : Guard} {f : FArith} {rd ra rb : BitVec 5} :
    Answers (Keeps s₀) (execFaddFsubFmul t g f rd ra rb s) :=
  h.fpRow

theorem execFminFmax (h : Keeps s₀ s) {t : TileId} {g : Guard} {max : Bool} {rd ra rb : BitVec 5} :
    Answers (Keeps s₀) (execFminFmax t g max rd ra rb s) :=
  h.fpRow

theorem execFnegFabs (h : Keeps s₀ s) {t : TileId} {g : Guard} {abs : Bool} {rd ra : BitVec 5} :
    Answers (Keeps s₀) (execFnegFabs t g abs rd ra s) :=
  h.tileFn

theorem execFcvt (h : Keeps s₀ s) {t : TileId} {g : Guard} {f : FCvtFn} {rd ra : BitVec 5} :
    Answers (Keeps s₀) (execFcvt t g f rd ra s) := by
  unfold Machine.execFcvt
  exact .next (h.tileOp (fun _ k => k.finishF))

theorem execFcmp (h : Keeps s₀ s) {t : TileId} {g : Guard} {f : FCmpFn} {pd : BitVec 3} {ra rb : BitVec 5} :
    Answers (Keeps s₀) (execFcmp t g f pd ra rb s) := by
  unfold Machine.execFcmp
  exact .next (h.tileOp (fun _ k => k.finishF (fun _ => .setP (.refl _))))

theorem execFma (h : Keeps s₀ s) {t : TileId} {g : Guard} {rd ra rb : BitVec 5} : Answers (Keeps s₀) (execFma t g rd ra rb s) :=
  h.fpRow

theorem execFdivs (h : Keeps s₀ s) {t : TileId} {g : Guard} {rd ra rb : BitVec 5} :
    Answers (Keeps s₀) (execFdivs t g rd ra rb s) := by
  unfold Machine.execFdivs
  exact h.tileFn

theorem execFdstep (h : Keeps s₀ s) {t : TileId} {g : Guard} {rd rb : BitVec 5} : Answers (Keeps s₀) (execFdstep t g rd rb s) :=
  .next (h.tileOp (fun _ k => k.fdstepBody))

theorem execFdfin (h : Keeps s₀ s) {t : TileId} {g : Guard} {rd : BitVec 5} : Answers (Keeps s₀) (execFdfin t g rd s) :=
  .next (h.tileOp (fun _ k => k.fdfinBody))

theorem execFsync (h : Keeps s₀ s) {t : TileId} {g : Guard} : Answers (Keeps s₀) (execFsync t g s) :=
  .next (h.tileOp (fun _ k => k.kilnWait (fun _ k1 => .ok k1)))

/-! ## Integer instructions -/

theorem execIntegerOp (h : Keeps s₀ s) {t : TileId} {g : Guard} {f : IntFn} {rd ra rb : BitVec 5} :
    Answers (Keeps s₀) (execIntegerOp t g f rd ra rb s) :=
  h.tileFn

theorem execAddvSubvMulv (h : Keeps s₀ s) {t : TileId} {g : Guard} {f : OvFn} {rd ra rb : BitVec 5} :
    Answers (Keeps s₀) (execAddvSubvMulv t g f rd ra rb s) :=
  .next (h.tileOp (fun _ k => k.ovBody))

theorem execImmediateOp (h : Keeps s₀ s) {t : TileId} {g : Guard} {f : ImmFn} {rd ra : BitVec 5} {imm : BitVec 11} :
    Answers (Keeps s₀) (execImmediateOp t g f rd ra imm s) :=
  h.tileFn

theorem execMovz (h : Keeps s₀ s) {t : TileId} {g : Guard} {k : BitVec 2} {rd : BitVec 5} {imm : BitVec 16} :
    Answers (Keeps s₀) (execMovz t g k rd imm s) :=
  h.tileFn

theorem execMovk (h : Keeps s₀ s) {t : TileId} {g : Guard} {k : BitVec 2} {rd : BitVec 5} {imm : BitVec 16} :
    Answers (Keeps s₀) (execMovk t g k rd imm s) :=
  h.tileFn

theorem execCmp (h : Keeps s₀ s) {t : TileId} {g : Guard} {f : CmpFn} {pd : BitVec 3} {ra rb : BitVec 5} :
    Answers (Keeps s₀) (execCmp t g f pd ra rb s) :=
  h.tileFn (fun _ => .setP (.refl _))

theorem execCmpi (h : Keeps s₀ s) {t : TileId} {g : Guard} {f : CmpiFn} {pd : BitVec 3} {ra : BitVec 5} {imm : BitVec 11} :
    Answers (Keeps s₀) (execCmpi t g f pd ra imm s) :=
  h.tileFn (fun _ => .setP (.refl _))

theorem execPlog (h : Keeps s₀ s) {t : TileId} {g : Guard} {pd pa pb : BitVec 3} {tt : BitVec 4} :
    Answers (Keeps s₀) (execPlog t g pd pa pb tt s) :=
  h.tileFn (fun _ => .setP (.refl _))

theorem execDivsuDivss (h : Keeps s₀ s) {t : TileId} {g : Guard} {sgn : Bool} {rd ra : BitVec 5} :
    Answers (Keeps s₀) (execDivsuDivss t g sgn rd ra s) :=
  h.tileFn

theorem execDstep (h : Keeps s₀ s) {t : TileId} {g : Guard} {sgn : Bool} {rd rb : BitVec 5} :
    Answers (Keeps s₀) (execDstep t g sgn rd rb s) := by
  unfold Machine.execDstep
  exact h.tileFn

theorem execDivfin (h : Keeps s₀ s) {t : TileId} {g : Guard} {sgn : Bool} {rd ra rb : BitVec 5} :
    Answers (Keeps s₀) (execDivfin t g sgn rd ra rb s) :=
  .next (h.tileOp (fun _ k => k.divfinBody))

end Keeps
end Sys2Proof.Machine
end

section
/-! PROOFS. Commands: the journal and the Kiln (O59). -/

namespace Sys2Proof.Machine
namespace Keeps

set_option Elab.async false

variable {s₀ s : State}

/-! ## Journal instructions and commands -/

theorem execPost (h : Keeps s₀ s) {t : TileId} {g : Guard} : Answers (Keeps s₀) (execPost t g s) :=
  .next (h.tileOp (fun _ k => k.postBody2))

theorem execJsync (h : Keeps s₀ s) {t : TileId} {g : Guard} : Answers (Keeps s₀) (execJsync t g s) :=
  .next (h.tileOp (fun _ k => k.jsyncBody))

theorem execRecordDurable (h : Keeps s₀ s) : Answers (Keeps s₀) (execRecordDurable s) := h.devRow (fun _ k => k.durableStep)

theorem execRingFullTimeout (h : Keeps s₀ s) {t : TileId} : Answers (Keeps s₀) (execRingFullTimeout t s) :=
  h.devRow (fun _ k => k.ringFull)

theorem execMirrorTimeout (h : Keeps s₀ s) : Answers (Keeps s₀) (execMirrorTimeout s) := h.devRow (fun _ k => k.mirrorTimeout)

theorem execDrainposWrite (h : Keeps s₀ s) {a : Agent} {v : Word} : Answers (Keeps s₀) (execDrainposWrite a v s) :=
  h.devRow (fun _ k => k.rowWrite)

theorem execSequenceSnapshot (h : Keeps s₀ s) : Answers (Keeps s₀) (execSequenceSnapshot s) :=
  h.devRow (fun _ k => k.snapshotDue)

theorem execHeartbeatInstant (h : Keeps s₀ s) : Answers (Keeps s₀) (execHeartbeatInstant s) := h.devRow (fun _ k => k.heartbeat)

theorem execResyncComplete (h : Keeps s₀ s) : Answers (Keeps s₀) (execResyncComplete s) := h.devRow (fun _ k => k.resyncDone)

theorem execRinginit (h : Keeps s₀ s) {a : Agent} : Answers (Keeps s₀) (execRinginit a s) := h.cmdRow

theorem execRingopen (h : Keeps s₀ s) {a : Agent} : Answers (Keeps s₀) (execRingopen a s) := h.cmdRow

theorem execPair (h : Keeps s₀ s) {a : Agent} : Answers (Keeps s₀) (execPair a s) := h.cmdRow

theorem execUnpair (h : Keeps s₀ s) {a : Agent} : Answers (Keeps s₀) (execUnpair a s) := h.cmdRow

theorem execTakeover (h : Keeps s₀ s) {a : Agent} : Answers (Keeps s₀) (execTakeover a s) := h.cmdRow

theorem execFenceCommand (h : Keeps s₀ s) {a : Agent} : Answers (Keeps s₀) (execFenceCommand a s) := h.cmdRow

theorem execRelease (h : Keeps s₀ s) {a : Agent} : Answers (Keeps s₀) (execRelease a s) := h.cmdRow

/-! ## Kiln instructions -/

theorem execKilnEnqueue (i : Says.Inv s) {t : TileId} {g : Guard} {op : KOp} : Answers Says.Inv (execKilnEnqueue t g op s) :=
  .next (closed_tileOp closed_inv i fun _ i => kilnBody i)

theorem kilnIssue (h : Keeps s₀ s) {t : TileId} {kind : KOp → Bool} : Answers (Keeps s₀) (kilnIssue s t kind) :=
  .next (h.whenLive (fun _ k => k.kilnRow))

theorem execKilnBinaryOp (h : Keeps s₀ s) {t : TileId} {ue : Bool} : Answers (Keeps s₀) (execKilnBinaryOp t ue s) :=
  .next (h.whenLive fun _ k => kilnRow (.ite k.modKiln k))

theorem execKilnDecimalOp (h : Keeps s₀ s) {t : TileId} : Answers (Keeps s₀) (execKilnDecimalOp t s) := h.kilnIssue

theorem execVddot (h : Keeps s₀ s) {t : TileId} : Answers (Keeps s₀) (execVddot t s) := h.kilnIssue

theorem execVdmulw (h : Keeps s₀ s) {t : TileId} : Answers (Keeps s₀) (execVdmulw t s) := h.kilnIssue

theorem execVdsum (h : Keeps s₀ s) {t : TileId} : Answers (Keeps s₀) (execVdsum t s) := h.kilnIssue

theorem execVdwid (h : Keeps s₀ s) {t : TileId} : Answers (Keeps s₀) (execVdwid t s) := h.kilnIssue

theorem execVdnar (h : Keeps s₀ s) {t : TileId} : Answers (Keeps s₀) (execVdnar t s) := h.kilnIssue

theorem execVdcmp (h : Keeps s₀ s) {t : TileId} : Answers (Keeps s₀) (execVdcmp t s) := h.kilnIssue

theorem execVdval (h : Keeps s₀ s) {t : TileId} : Answers (Keeps s₀) (execVdval t s) := h.kilnIssue

theorem execKilnFpOp (h : Keeps s₀ s) {t : TileId} : Answers (Keeps s₀) (execKilnFpOp t s) := h.kilnIssue

theorem execVldVst (h : Keeps s₀ s) {t : TileId} : Answers (Keeps s₀) (execVldVst t s) := h.kilnIssue

theorem execVldkVstk (h : Keeps s₀ s) {t : TileId} : Answers (Keeps s₀) (execVldkVstk t s) := h.kilnIssue

theorem execVldxVstx (h : Keeps s₀ s) {t : TileId} : Answers (Keeps s₀) (execVldxVstx t s) := h.kilnIssue

theorem execVldmVstm (h : Keeps s₀ s) {t : TileId} : Answers (Keeps s₀) (execVldmVstm t s) := h.kilnIssue

theorem execKilnMemoryComplete (h : Keeps s₀ s) {t : TileId} : Answers (Keeps s₀) (execKilnMemoryComplete t s) :=
  .next (h.whenLive (fun _ k => k.kilnComplete))

theorem execVmsetn (h : Keeps s₀ s) {t : TileId} : Answers (Keeps s₀) (execVmsetn t s) := h.kilnIssue

theorem execVbrd (h : Keeps s₀ s) {t : TileId} : Answers (Keeps s₀) (execVbrd t s) := h.kilnIssue

theorem execVmov (h : Keeps s₀ s) {t : TileId} : Answers (Keeps s₀) (execVmov t s) := h.kilnIssue

theorem execVmts (h : Keeps s₀ s) {t : TileId} : Answers (Keeps s₀) (execVmts t s) := h.kilnIssue

theorem execVmtc (h : Keeps s₀ s) {t : TileId} : Answers (Keeps s₀) (execVmtc t s) := h.kilnIssue

theorem execMaskLogic (h : Keeps s₀ s) {t : TileId} : Answers (Keeps s₀) (execMaskLogic t s) := h.kilnIssue

theorem kilnRead (h : Keeps s₀ s) {t : TileId} {g : Guard} {f : Tile → Tile}
    (hf : ∀ x, TileKeeps x (f x) := by exact fun _ => (TileKeeps.refl _).same) : Answers (Keeps s₀) (kilnRead s t g f) :=
  .next (h.tileOp fun _ k => k.kilnWait fun _ k => k.put hf)

theorem kilnReadReg (h : Keeps s₀ s) {t : TileId} {g : Guard} {f : Tile → Tile}
    (hf : ∀ x, TileKeeps x (f x) := by exact fun _ => (TileKeeps.refl _).same) : Answers (Keeps s₀) (kilnReadReg s t g f) :=
  .next (h.tileOp fun _ k => k.kilnWait fun _ k => .ite (.halt k.kilnBad) (k.put hf))

theorem execVsync (h : Keeps s₀ s) {t : TileId} {g : Guard} : Answers (Keeps s₀) (execVsync t g s) := h.kilnRead

theorem execVmpop (h : Keeps s₀ s) {t : TileId} {g : Guard} {gd : BitVec 5} {ma : BitVec 3} :
    Answers (Keeps s₀) (execVmpop t g gd ma s) :=
  .next (h.tileOp (fun _ k => k.kilnWait (fun _ k1 => .ite (.halt k1.kilnBad) k1.put)))

theorem execVmfs (h : Keeps s₀ s) {t : TileId} {g : Guard} {gd : BitVec 5} : Answers (Keeps s₀) (execVmfs t g gd s) :=
  h.kilnReadReg

theorem execVmfc (h : Keeps s₀ s) {t : TileId} {g : Guard} {gd : BitVec 5} : Answers (Keeps s₀) (execVmfc t g gd s) :=
  h.kilnReadReg

end Keeps
end Sys2Proof.Machine
end

section
/-! PROOFS. Commands: loads, stores, atomics, fences and TLB maintenance (O59). -/

namespace Sys2Proof.Machine
namespace Keeps

set_option Elab.async false

variable {s₀ s : State}

/-! ## Loads and stores -/

theorem execLoad (i : Says.Inv s) {t : TileId} {g : Guard} {f : LoadFn} {rt : BitVec 5} {m : MemRef} {hit : Bool} :
    Answers Says.Inv (execLoad t g f rt m hit s) := .next (closed_tileOp closed_inv i fun _ i => loadBody i)

theorem execStore (h : Keeps s₀ s) {t : TileId} {g : Guard} {sz : Size} {rt : BitVec 5} {m : MemRef} :
    Answers (Keeps s₀) (execStore t g sz rt m s) :=
  .next (h.tileOp (fun _ k => k.storeBody))

theorem execLoadMissComplete (h : Keeps s₀ s) {t : TileId} {i : Fin 4} : Answers (Keeps s₀) (execLoadMissComplete t i s) := by
  unfold Machine.execLoadMissComplete
  exact .next (.modTile (.ite h h.tCount) (fun _ => .lrsDeliver (.refl _)))

theorem execStoreBufferDrain (h : Keeps s₀ s) {t : TileId} : Answers (Keeps s₀) (execStoreBufferDrain t s) :=
  .next (h.whenLive (fun _ k => k.drainOne))

theorem execFlds (i : Says.Inv s) {t : TileId} {g : Guard} {rt : BitVec 5} {base : BitVec 4} {disp : BitVec 12} {hit : Bool} :
    Answers Says.Inv (execFlds t g rt base disp hit s) := .next (closed_tileOp closed_inv i fun _ i => loadBody i)

theorem execFsts (h : Keeps s₀ s) {t : TileId} {g : Guard} {rt : BitVec 5} {base : BitVec 4} {disp : BitVec 12} :
    Answers (Keeps s₀) (execFsts t g rt base disp s) :=
  .next (h.tileOp (fun _ k => k.storeBody))

/-! ## Atomics, fences and TLB maintenance -/

theorem execCaswCasd (h : Keeps s₀ s) {t : TileId} {g : Guard} {dbl : Bool} {rd ra rb : BitVec 5} :
    Answers (Keeps s₀) (execCaswCasd t g dbl rd ra rb s) := by
  unfold Machine.execCaswCasd
  exact .next (h.tileOp (fun _ k => k.atomicBody))

theorem execFetaddwFetaddd (h : Keeps s₀ s) {t : TileId} {g : Guard} {dbl : Bool} {rd ra rb : BitVec 5} :
    Answers (Keeps s₀) (execFetaddwFetaddd t g dbl rd ra rb s) := by
  unfold Machine.execFetaddwFetaddd
  exact .next (h.tileOp (fun _ k => k.atomicBody))

theorem execFence (h : Keeps s₀ s) {t : TileId} {g : Guard} : Answers (Keeps s₀) (execFence t g s) :=
  .next (h.tileOp (fun _ k => .ok k.drainTile))

theorem execIcinv (h : Keeps s₀ s) {t : TileId} {g : Guard} {ra : BitVec 5} : Answers (Keeps s₀) (execIcinv t g ra s) :=
  .next (h.tileOp (fun _ k => Keeps.cacheBody (.ite k k.drainTile)))

theorem execDccln (h : Keeps s₀ s) {t : TileId} {g : Guard} {ra : BitVec 5} : Answers (Keeps s₀) (execDccln t g ra s) :=
  .next (h.tileOp (fun _ k => k.cacheBody))

theorem execDcfls (h : Keeps s₀ s) {t : TileId} {g : Guard} {ra : BitVec 5} : Answers (Keeps s₀) (execDcfls t g ra s) :=
  .next (h.tileOp (fun _ k => k.cacheBody))

theorem execDcz (h : Keeps s₀ s) {t : TileId} {g : Guard} {ra : BitVec 5} : Answers (Keeps s₀) (execDcz t g ra s) :=
  .next (h.tileOp (fun _ k => k.dczBody))

theorem tlbRow (h : Keeps s₀ s) {t : TileId} {g : Guard} {m : Tile → Nat → Nat → Bool} :
    Answers (Keeps s₀) (tlbRow s t g m) := by
  unfold Machine.tlbRow
  refine .next (h.tileOp (fun _ k => k.needSteward (fun _ k1 => ?_)))
  split
  · exact .ok (k1.invalidate ‹_›)
  · exact .halt k1

theorem execTlbia (h : Keeps s₀ s) {t : TileId} {g : Guard} {ra rb : BitVec 5} : Answers (Keeps s₀) (execTlbia t g ra rb s) :=
  h.tlbRow

theorem execTlbit (h : Keeps s₀ s) {t : TileId} {g : Guard} {ra : BitVec 5} : Answers (Keeps s₀) (execTlbit t g ra s) :=
  h.tlbRow

theorem execTlbix (h : Keeps s₀ s) {t : TileId} {g : Guard} : Answers (Keeps s₀) (execTlbix t g s) := h.tlbRow

theorem execMtkrr (h : Keeps s₀ s) {t : TileId} {g : Guard} {ra rb : BitVec 5} : Answers (Keeps s₀) (execMtkrr t g ra rb s) :=
  .next (h.tileOp fun _ k => k.needSteward fun _ k => k.put fun x => (TileKeeps.refl x).cleared)

theorem execMfkrr (h : Keeps s₀ s) {t : TileId} {g : Guard} {rd : BitVec 5} {low : Bool} :
    Answers (Keeps s₀) (execMfkrr t g rd low s) :=
  .next (h.tileOp (fun _ k => k.needSteward (fun _ k1 => k1.put)))

end Keeps
end Sys2Proof.Machine
end

section
/-! PROOFS. Commands: links, the fabric and the recorders (O59). -/

namespace Sys2Proof.Machine
namespace Keeps

set_option Elab.async false

variable {s₀ s : State}

/-! ## Link and fabric events -/

theorem execLinkTraining (h : Keeps s₀ s) {k : LinkId} : Answers (Keeps s₀) (execLinkTraining k s) :=
  h.devRow (fun _ k1 => k1.autoTrain)

theorem execTrainingLimit (h : Keeps s₀ s) {k : LinkId} {step : TrainStep} : Answers (Keeps s₀) (execTrainingLimit k step s) :=
  h.devRow (fun _ k1 => k1.trainLimit)

theorem execNosigRetry (h : Keeps s₀ s) {k : LinkId} : Answers (Keeps s₀) (execNosigRetry k s) :=
  h.devRow (fun _ k1 => k1.nosigAgain)

theorem execNego (h : Keeps s₀ s) {k : LinkId} {n : BitVec 128} : Answers (Keeps s₀) (execNego k n s) :=
  h.devRow (fun _ k1 => k1.negoIn)

theorem execFlitReceive (h : Keeps s₀ s) {k : LinkId} {u : RxUnit} : Answers (Keeps s₀) (execFlitReceive k u s) :=
  h.devRow (fun _ k1 => k1.unitIn)

theorem execLaneLockLoss (h : Keeps s₀ s) {k : LinkId} : Answers (Keeps s₀) (execLaneLockLoss k s) :=
  h.devRow (fun _ k1 => k1.enterRetrain)

theorem execLinkUp (h : Keeps s₀ s) {k : LinkId} : Answers (Keeps s₀) (execLinkUp k s) := h.devRow (fun _ k1 => k1.linkUpOp)

theorem execHb (h : Keeps s₀ s) {k : LinkId} {src : BitVec 9} {state : BitVec 3} {tb : Word} {seen : Vector Word 8} :
    Answers (Keeps s₀) (execHb k src state tb seen s) :=
  h.devRow (fun _ k1 => k1.msgIn)

theorem execBreak (h : Keeps s₀ s) {k : LinkId} {src : BitVec 9} : Answers (Keeps s₀) (execBreak k src s) :=
  h.devRow (fun _ k1 => k1.msgIn)

theorem execFenceReceived (h : Keeps s₀ s) {k : LinkId} {src : BitVec 9} : Answers (Keeps s₀) (execFenceReceived k src s) :=
  h.devRow (fun _ k1 => k1.msgIn)

theorem execTkov (h : Keeps s₀ s) {k : LinkId} {src failed by_ : BitVec 9} : Answers (Keeps s₀) (execTkov k src failed by_ s) :=
  h.devRow (fun _ k1 => k1.msgIn)

theorem execTreq (h : Keeps s₀ s) {k : LinkId} {src : BitVec 9} {t1 corr : Word} :
    Answers (Keeps s₀) (execTreq k src t1 corr s) :=
  h.devRow (fun _ k1 => k1.msgIn)

theorem execTrsp (h : Keeps s₀ s) {k : LinkId} {src : BitVec 9} {t1 t2 t3 corrReq corrRsp t4 : Word} :
    Answers (Keeps s₀) (execTrsp k src t1 t2 t3 corrReq corrRsp t4 s) :=
  h.devRow (fun _ k1 => .ite k1.trspIn k1.msgIn)

theorem execTann (h : Keeps s₀ s) {k : LinkId} {num : BitVec 48} {root : BitVec 9} :
    Answers (Keeps s₀) (execTann k num root s) :=
  h.devRow (fun _ k1 => k1.msgIn)

theorem execQuench (h : Keeps s₀ s) {k : LinkId} {src : BitVec 9} {arg : Word} : Answers (Keeps s₀) (execQuench k src arg s) :=
  h.devRow (fun _ k1 => k1.msgIn)

theorem execUnquench (h : Keeps s₀ s) {k : LinkId} {src : BitVec 9} {arg : Word} :
    Answers (Keeps s₀) (execUnquench k src arg s) :=
  h.devRow (fun _ k1 => k1.msgIn)

theorem execTicketMessage (h : Keeps s₀ s) {k : LinkId} {src : BitVec 9} {fwd : BitVec 4} {form : TicketForm} {tk : Ticket} :
    Answers (Keeps s₀) (execTicketMessage k src fwd form tk s) :=
  h.devRow (fun _ k1 => k1.msgIn)

theorem execContMessage (h : Keeps s₀ s) {k : LinkId} {src : BitVec 9} {course : BitVec 4} {seq : BitVec 48} {tk : Ticket} :
    Answers (Keeps s₀) (execContMessage k src course seq tk s) :=
  h.devRow (fun _ k1 => k1.msgIn)

theorem execCack (h : Keeps s₀ s) {k : LinkId} {dest src : BitVec 9} {course : BitVec 4} {seq : BitVec 48} :
    Answers (Keeps s₀) (execCack k dest src course seq s) :=
  h.devRow (fun _ k1 => k1.msgIn)

theorem execVoidn (h : Keeps s₀ s) {k : LinkId} {src : BitVec 9} {course : BitVec 4} {seq : BitVec 48} :
    Answers (Keeps s₀) (execVoidn k src course seq s) :=
  h.devRow (fun _ k1 => k1.msgIn)

theorem execBcmd (h : Keeps s₀ s) {k : LinkId} {src : BitVec 9} {key : Word} {c : BrickCmd} :
    Answers (Keeps s₀) (execBcmd k src key c s) :=
  h.devRow (fun _ k1 => k1.msgIn)

theorem execMigc (h : Keeps s₀ s) {k : LinkId} {src : BitVec 9} {m : MigMsg} : Answers (Keeps s₀) (execMigc k src m s) :=
  h.devRow (fun _ k1 => k1.msgIn)

theorem execEndmk (h : Keeps s₀ s) {k : LinkId} {src : BitVec 9} {key : Word} : Answers (Keeps s₀) (execEndmk k src key s) :=
  h.devRow (fun _ k1 => k1.msgIn)

theorem execMrec (h : Keeps s₀ s) {k : LinkId} {src : BitVec 9} {rec : List Byte} : Answers (Keeps s₀) (execMrec k src rec s) :=
  h.devRow (fun _ k1 => k1.msgIn)

theorem execMack (h : Keeps s₀ s) {k : LinkId} {src : BitVec 9} {pos : Word} : Answers (Keeps s₀) (execMack k src pos s) :=
  h.devRow (fun _ k1 => k1.msgIn)

theorem execDrep (h : Keeps s₀ s) {k : LinkId} {src : BitVec 9} {bucket : BitVec 26} {idx : Fin 8} {entry : BitVec 128} :
    Answers (Keeps s₀) (execDrep k src bucket idx entry s) :=
  h.devRow (fun _ k1 => k1.msgIn)

theorem execDack (h : Keeps s₀ s) {k : LinkId} {src : BitVec 9} {bucket : BitVec 26} {idx : Fin 8} :
    Answers (Keeps s₀) (execDack k src bucket idx s) :=
  h.devRow (fun _ k1 => k1.msgIn)

theorem execBcopy (h : Keeps s₀ s) {k : LinkId} {src : BitVec 9} {key : Word} {data : List Byte} :
    Answers (Keeps s₀) (execBcopy k src key data s) :=
  h.devRow (fun _ k1 => k1.msgIn)

theorem execRsync (h : Keeps s₀ s) {k : LinkId} {src : BitVec 9} {key : Word} {data : List Byte} :
    Answers (Keeps s₀) (execRsync k src key data s) :=
  h.devRow (fun _ k1 => k1.msgIn)

theorem execTannSend (h : Keeps s₀ s) : Answers (Keeps s₀) (execTannSend s) := h.devRow (fun _ k => k.tannOut)

theorem execTreqSend (h : Keeps s₀ s) : Answers (Keeps s₀) (execTreqSend s) := h.devRow (fun _ k => k.treqOut)

theorem execTrspTimeout (h : Keeps s₀ s) : Answers (Keeps s₀) (execTrspTimeout s) := h.devRow (fun _ k => k.trspLost)

theorem execRootLost (h : Keeps s₀ s) : Answers (Keeps s₀) (execRootLost s) := h.devRow (fun _ k => k.rootLost)

theorem execQuenchExpiry (h : Keeps s₀ s) {k : LinkId} {src : Option (BitVec 9)} :
    Answers (Keeps s₀) (execQuenchExpiry k src s) :=
  h.devRow (fun _ k1 => k1.quenchEnd)

theorem execTrain (h : Keeps s₀ s) {a : Agent} {k : LinkId} : Answers (Keeps s₀) (execTrain a k s) := h.cmdRow

theorem execDown (h : Keeps s₀ s) {a : Agent} {k : LinkId} : Answers (Keeps s₀) (execDown a k s) := h.cmdRow

theorem execRetrain (h : Keeps s₀ s) {a : Agent} {k : LinkId} : Answers (Keeps s₀) (execRetrain a k s) := h.cmdRow

theorem execLoop (h : Keeps s₀ s) {a : Agent} {k : LinkId} : Answers (Keeps s₀) (execLoop a k s) := h.cmdRow

theorem execQuenchCommand (h : Keeps s₀ s) {a : Agent} {k : LinkId} : Answers (Keeps s₀) (execQuenchCommand a k s) := h.cmdRow

theorem execUnquenchCommand (h : Keeps s₀ s) {a : Agent} {k : LinkId} : Answers (Keeps s₀) (execUnquenchCommand a k s) :=
  h.cmdRow

/-! ## Commands of the recorders -/

theorem execRecordBufferRoom (h : Keeps s₀ s) {c : CourseId} : Answers (Keeps s₀) (execRecordBufferRoom c s) :=
  h.devRow (fun _ k => k.ringsDrain)

theorem execBrickMapSweepDone (h : Keeps s₀ s) {c : CourseId} : Answers (Keeps s₀) (execBrickMapSweepDone c s) :=
  h.devRow (fun _ k => k.ringsSweepDone)

theorem execStrciWrite (h : Keeps s₀ s) {a : Agent} {c : CourseId} {v : Word} : Answers (Keeps s₀) (execStrciWrite a c v s) :=
  h.devRow (fun _ k => k.rowWrite)

theorem execRingsStart (h : Keeps s₀ s) {a : Agent} {c : CourseId} : Answers (Keeps s₀) (execRingsStart a c s) := h.cmdRow

theorem execCkpt (h : Keeps s₀ s) {a : Agent} {c : CourseId} : Answers (Keeps s₀) (execCkpt a c s) := h.cmdRow

theorem execMark (h : Keeps s₀ s) {a : Agent} {c : CourseId} : Answers (Keeps s₀) (execMark a c s) := h.cmdRow

theorem execStop (h : Keeps s₀ s) {a : Agent} {c : CourseId} : Answers (Keeps s₀) (execStop a c s) := h.cmdRow

theorem execReplay (h : Keeps s₀ s) {a : Agent} {c : CourseId} : Answers (Keeps s₀) (execReplay a c s) := h.cmdRow

end Keeps
end Sys2Proof.Machine
end

section
/-! PROOFS. Commands: string instructions (O59). -/

namespace Sys2Proof.Machine
namespace Keeps

set_option Elab.async false

variable {s₀ s : State}

theorem strRow (h : Keeps s₀ s) {t : TileId} {g : Guard} {i : SIns} {legal : Bool} {ending : Tile → Tile}
    {unit : Tile → CW → UM UOut} (he : ∀ x, TileKeeps x (ending x)) (hu : ∀ x c, UKeeps OutKeeps (unit x c)) :
    Answers (Keeps s₀) (strRow s t g i legal ending unit) := .next (h.tileOp fun _ k => k.strBody he hu)

theorem execMvs (h : Keeps s₀ s) {t : TileId} {g : Guard} {ft : Bool} {ra rb rl : BitVec 5} :
    Answers (Keeps s₀) (execMvs t g ft ra rb rl s) :=
  h.strRow (fun x => .refl x) fun _ _ => .throughUnit fun _ => .copyByte ..

theorem execMvsr (h : Keeps s₀ s) {t : TileId} {g : Guard} {ft : Bool} {ra rb rl : BitVec 5} :
    Answers (Keeps s₀) (execMvsr t g ft ra rb rl s) :=
  h.strRow (fun x => .refl x) fun _ _ => .throughUnit fun _ => .copyByte ..

theorem execCps (h : Keeps s₀ s) {t : TileId} {g : Guard} {ft : Bool} {pd : BitVec 3} {rx ra rb rl : BitVec 5} :
    Answers (Keeps s₀) (execCps t g ft pd rx ra rb rl s) :=
  h.strRow (fun x => (TileKeeps.refl x).cpsEnd)
    fun _ _ => .stopUnit (fun _ => .cmpByte ..) (fun _ x => (TileKeeps.refl x).cpsHit) fun x => (TileKeeps.refl x).cpsEnd

theorem execSrch (h : Keeps s₀ s) {t : TileId} {g : Guard} {ne : Bool} {pd : BitVec 3} {ra rl : BitVec 5} {c : Byte} :
    Answers (Keeps s₀) (execSrch t g ne pd ra rl c s) :=
  h.strRow (fun x => (TileKeeps.refl x).setP)
    fun _ _ => .stopUnit (fun _ => .srchByte ..) (fun _ x => (TileKeeps.refl x).setP) fun x => (TileKeeps.refl x).setP

theorem execTrs (h : Keeps s₀ s) {t : TileId} {g : Guard} {ft : Bool} {ra rb rl : BitVec 5} :
    Answers (Keeps s₀) (execTrs t g ft ra rb rl s) :=
  h.strRow (fun x => .refl x) fun _ _ => .throughUnit fun _ => .trsByte ..

theorem execTts (h : Keeps s₀ s) {t : TileId} {g : Guard} {ft : Bool} {pd : BitVec 3} {rx ra rb rl : BitVec 5} :
    Answers (Keeps s₀) (execTts t g ft pd rx ra rb rl s) :=
  h.strRow (fun x => (TileKeeps.refl x).ttsEnd)
    fun _ _ => .stopUnit (fun _ => .ttsByte ..) (fun _ x => (TileKeeps.refl x).setG.setP) fun x => (TileKeeps.refl x).ttsEnd

theorem execEdt (h : Keeps s₀ s) {t : TileId} {g : Guard} {ft : Bool} {ra rb rl : BitVec 5} :
    Answers (Keeps s₀) (execEdt t g ft ra rb rl s) :=
  h.strRow (fun x => .refl x) fun _ _ => .edUnit ..

theorem execEdtm (h : Keeps s₀ s) {t : TileId} {g : Guard} {ft : Bool} {rx ra rb rl : BitVec 5} :
    Answers (Keeps s₀) (execEdtm t g ft rx ra rb rl s) :=
  h.strRow (fun x => .refl x) fun _ _ => .edUnit ..

theorem execChkdV (h : Keeps s₀ s) {t : TileId} {g : Guard} {ft : Bool} {pd : BitVec 3} {ra rl : BitVec 5} :
    Answers (Keeps s₀) (execChkdV t g ft pd ra rl s) :=
  h.strRow (fun x => .refl x) fun _ _ => .chkdUnit fun _ x => (TileKeeps.refl x).setP

theorem execChkdG (h : Keeps s₀ s) {t : TileId} {g : Guard} {ft : Bool} {rx ra rl : BitVec 5} :
    Answers (Keeps s₀) (execChkdG t g ft rx ra rl s) :=
  h.strRow (fun x => .refl x) fun _ _ => .chkdUnit fun _ x => (TileKeeps.refl x).setG

theorem execBmap (h : Keeps s₀ s) {t : TileId} {g : Guard} {pd : BitVec 3} {rx ra rl : BitVec 5} :
    Answers (Keeps s₀) (execBmap t g pd rx ra rl s) :=
  h.strRow (fun x => .refl x) fun _ _ => .bmapUnit ..

end Keeps
end Sys2Proof.Machine
end

section
/-! PROOFS. Every step keeps the invariant (O59). -/

namespace Sys2Proof.Machine

set_option Elab.async false

theorem Answers.inv {s : State} {o : Host.Outcome State Fault Refusal} (h : Answers (Keeps s) o) (i : Says.Inv s) :
    Answers Says.Inv o := fun s' e => (h s' e).inv i

/-- Every command keeps the invariant: a load and a Kiln instruction that is queued find room, and every other command lets none
of the bounded lists grow. -/
theorem exec_inv {s : State} (i : Says.Inv s) (c : Instr) : Answers Says.Inv (exec c s) := by
  have k := Keeps.refl s
  cases c with
  | registerWrite => exact k.execRegisterWrite.inv i
  | devPlaceWrite => exact k.execDevPlaceWrite.inv i
  | unassignedPageAccess => exact k.execUnassignedPageAccess.inv i
  | unclockedPageAccess => exact k.execUnclockedPageAccess.inv i
  | remoteWriteTakesEffect => exact k.execRemoteWriteTakesEffect.inv i
  | evsnapSnap => exact k.execEvsnapSnap.inv i
  | evsnapHold => exact k.execEvsnapHold.inv i
  | evsnapRelease => exact k.execEvsnapRelease.inv i
  | remoteSnapshotCapture => exact k.execRemoteSnapshotCapture.inv i
  | statSet => exact k.execStatSet.inv i
  | ienaWrite => exact k.execIenaWrite.inv i
  | undefinedCommand => exact k.execUndefinedCommand.inv i
  | mcQueuePop => exact k.execMcQueuePop.inv i
  | timerExpiry => exact k.execTimerExpiry.inv i
  | interruptAccept => exact k.execInterruptAccept.inv i
  | tileCheckstop => exact k.execTileCheckstop.inv i
  | efdataWrite => exact k.execEfdataWrite.inv i
  | dbellSet => exact k.execDbellSet.inv i
  | ipiSet => exact k.execIpiSet.inv i
  | integerOp => exact k.execIntegerOp.inv i
  | addvSubvMulv => exact k.execAddvSubvMulv.inv i
  | immediateOp => exact k.execImmediateOp.inv i
  | movz => exact k.execMovz.inv i
  | movk => exact k.execMovk.inv i
  | cmp => exact k.execCmp.inv i
  | cmpi => exact k.execCmpi.inv i
  | plog => exact k.execPlog.inv i
  | load => exact Keeps.execLoad i
  | store => exact k.execStore.inv i
  | loadMissComplete => exact k.execLoadMissComplete.inv i
  | storeBufferDrain => exact k.execStoreBufferDrain.inv i
  | br => exact k.execBr.inv i
  | bl => exact k.execBl.inv i
  | jmp => exact k.execJmp.inv i
  | jl => exact k.execJl.inv i
  | mfbb => exact k.execMfbb.inv i
  | mfsys => exact k.execMfsys.inv i
  | mtsys => exact k.execMtsys.inv i
  | bwdataAccess => exact k.execBwdataAccess.inv i
  | sws => exact k.execSws.inv i
  | yield => exact k.execYield.inv i
  | sessionFillDone => exact k.execSessionFillDone.inv i
  | trap => exact k.execTrap.inv i
  | kcall => exact k.execKcall.inv i
  | rete => exact k.execRete.inv i
  | ifence => exact k.execIfence.inv i
  | divsuDivss => exact k.execDivsuDivss.inv i
  | dstep => exact k.execDstep.inv i
  | divfin => exact k.execDivfin.inv i
  | dadd _ _ ft => exact (k.execDadd (ft := ft)).inv i
  | dsub _ _ ft => exact (k.execDsub (ft := ft)).inv i
  | dmul _ _ ft => exact (k.execDmul (ft := ft)).inv i
  | dmulw _ _ ft => exact (k.execDmulw (ft := ft)).inv i
  | ddivs _ _ ft => exact (k.execDdivs (ft := ft)).inv i
  | daddw => exact k.execDaddw.inv i
  | dsubw => exact k.execDsubw.inv i
  | dnarw => exact k.execDnarw.inv i
  | dmov => exact k.execDmov.inv i
  | dneg => exact k.execDneg.inv i
  | dabs => exact k.execDabs.inv i
  | dcmp _ _ ft => exact (k.execDcmp (ft := ft)).inv i
  | dshr _ _ ft => exact (k.execDshr (ft := ft)).inv i
  | dshl _ _ ft rm => exact (k.execDshl (ft := ft) (rm := rm)).inv i
  | cvbd => exact k.execCvbd.inv i
  | cvdb => exact k.execCvdb.inv i
  | dmfr => exact k.execDmfr.inv i
  | dmtr => exact k.execDmtr.inv i
  | dld => exact k.execDld.inv i
  | dst => exact k.execDst.inv i
  | daddm => exact k.execDaddm.inv i
  | dldx => exact k.execDldx.inv i
  | dstx => exact k.execDstx.inv i
  | mvs => exact k.execMvs.inv i
  | mvsr => exact k.execMvsr.inv i
  | cps => exact k.execCps.inv i
  | srch => exact k.execSrch.inv i
  | trs => exact k.execTrs.inv i
  | tts => exact k.execTts.inv i
  | edt => exact k.execEdt.inv i
  | edtm => exact k.execEdtm.inv i
  | chkdV => exact k.execChkdV.inv i
  | chkdG => exact k.execChkdG.inv i
  | bmap => exact k.execBmap.inv i
  | kilnEnqueue => exact Keeps.execKilnEnqueue i
  | kilnBinaryOp => exact k.execKilnBinaryOp.inv i
  | kilnDecimalOp => exact k.execKilnDecimalOp.inv i
  | vddot => exact k.execVddot.inv i
  | vdmulw => exact k.execVdmulw.inv i
  | vdsum => exact k.execVdsum.inv i
  | vdwid => exact k.execVdwid.inv i
  | vdnar => exact k.execVdnar.inv i
  | vdcmp => exact k.execVdcmp.inv i
  | vdval => exact k.execVdval.inv i
  | kilnFpOp => exact k.execKilnFpOp.inv i
  | vldVst => exact k.execVldVst.inv i
  | vldkVstk => exact k.execVldkVstk.inv i
  | vldxVstx => exact k.execVldxVstx.inv i
  | vldmVstm => exact k.execVldmVstm.inv i
  | kilnMemoryComplete => exact k.execKilnMemoryComplete.inv i
  | vmsetn => exact k.execVmsetn.inv i
  | vbrd => exact k.execVbrd.inv i
  | vmov => exact k.execVmov.inv i
  | vmts => exact k.execVmts.inv i
  | vmtc => exact k.execVmtc.inv i
  | maskLogic => exact k.execMaskLogic.inv i
  | vsync => exact k.execVsync.inv i
  | vmpop => exact k.execVmpop.inv i
  | vmfs => exact k.execVmfs.inv i
  | vmfc => exact k.execVmfc.inv i
  | faddFsubFmul => exact k.execFaddFsubFmul.inv i
  | fminFmax => exact k.execFminFmax.inv i
  | fnegFabs => exact k.execFnegFabs.inv i
  | fcvt => exact k.execFcvt.inv i
  | fcmp => exact k.execFcmp.inv i
  | fma => exact k.execFma.inv i
  | fdivs => exact k.execFdivs.inv i
  | fdstep => exact k.execFdstep.inv i
  | fdfin => exact k.execFdfin.inv i
  | flds => exact Keeps.execFlds i
  | fsts => exact k.execFsts.inv i
  | fsync => exact k.execFsync.inv i
  | caswCasd => exact k.execCaswCasd.inv i
  | fetaddwFetaddd => exact k.execFetaddwFetaddd.inv i
  | fence => exact k.execFence.inv i
  | icinv => exact k.execIcinv.inv i
  | dccln => exact k.execDccln.inv i
  | dcfls => exact k.execDcfls.inv i
  | dcz => exact k.execDcz.inv i
  | tlbia => exact k.execTlbia.inv i
  | tlbit => exact k.execTlbit.inv i
  | tlbix => exact k.execTlbix.inv i
  | mtkrr => exact k.execMtkrr.inv i
  | mfkrr => exact k.execMfkrr.inv i
  | pcieInboundRequest => exact k.execPcieInboundRequest.inv i
  | msiWrite => exact k.execMsiWrite.inv i
  | patrolScrubRead => exact k.execPatrolScrubRead.inv i
  | ingressEntryRead => exact k.execIngressEntryRead.inv i
  | ticketAdmission => exact k.execTicketAdmission.inv i
  | take => exact k.execTake.inv i
  | cont => exact k.execCont.inv i
  | ccntWrite => exact k.execCcntWrite.inv i
  | ienWrite => exact k.execIenWrite.inv i
  | cenWrite => exact k.execCenWrite.inv i
  | continuationResend => exact k.execContinuationResend.inv i
  | tombstoneExpiry => exact k.execTombstoneExpiry.inv i
  | proposalLapse => exact k.execProposalLapse.inv i
  | start => exact k.execStart.inv i
  | quiesce => exact k.execQuiesce.inv i
  | resume => exact k.execResume.inv i
  | pmap => exact k.execPmap.inv i
  | pooldef => exact k.execPooldef.inv i
  | pooldel => exact k.execPooldel.inv i
  | sessinit => exact k.execSessinit.inv i
  | sessfree => exact k.execSessfree.inv i
  | spill => exact k.execSpill.inv i
  | pin => exact k.execPin.inv i
  | unpin => exact k.execUnpin.inv i
  | hint => exact k.execHint.inv i
  | lookup => exact k.execLookup.inv i
  | brickdel => exact k.execBrickdel.inv i
  | staticdef => exact k.execStaticdef.inv i
  | drainc => exact k.execDrainc.inv i
  | admitc => exact k.execAdmitc.inv i
  | migack => exact k.execMigack.inv i
  | post => exact k.execPost.inv i
  | jsync => exact k.execJsync.inv i
  | recordDurable => exact k.execRecordDurable.inv i
  | ringFullTimeout => exact k.execRingFullTimeout.inv i
  | mirrorTimeout => exact k.execMirrorTimeout.inv i
  | drainposWrite => exact k.execDrainposWrite.inv i
  | sequenceSnapshot => exact k.execSequenceSnapshot.inv i
  | heartbeatInstant => exact k.execHeartbeatInstant.inv i
  | resyncComplete => exact k.execResyncComplete.inv i
  | ringinit => exact k.execRinginit.inv i
  | ringopen => exact k.execRingopen.inv i
  | pair => exact k.execPair.inv i
  | unpair => exact k.execUnpair.inv i
  | takeover => exact k.execTakeover.inv i
  | fenceCommand => exact k.execFenceCommand.inv i
  | release => exact k.execRelease.inv i
  | linkTraining => exact k.execLinkTraining.inv i
  | trainingLimit => exact k.execTrainingLimit.inv i
  | nosigRetry => exact k.execNosigRetry.inv i
  | nego => exact k.execNego.inv i
  | flitReceive => exact k.execFlitReceive.inv i
  | laneLockLoss => exact k.execLaneLockLoss.inv i
  | hb => exact k.execHb.inv i
  | break_ => exact k.execBreak.inv i
  | tkov => exact k.execTkov.inv i
  | treq => exact k.execTreq.inv i
  | trsp => exact k.execTrsp.inv i
  | tann => exact k.execTann.inv i
  | tannSend => exact k.execTannSend.inv i
  | treqSend => exact k.execTreqSend.inv i
  | trspTimeout => exact k.execTrspTimeout.inv i
  | rootLost => exact k.execRootLost.inv i
  | quench => exact k.execQuench.inv i
  | unquench => exact k.execUnquench.inv i
  | quenchExpiry => exact k.execQuenchExpiry.inv i
  | ticketMessage => exact k.execTicketMessage.inv i
  | contMessage => exact k.execContMessage.inv i
  | cack => exact k.execCack.inv i
  | voidn => exact k.execVoidn.inv i
  | bcmd => exact k.execBcmd.inv i
  | migc => exact k.execMigc.inv i
  | endmk => exact k.execEndmk.inv i
  | mrec => exact k.execMrec.inv i
  | mack => exact k.execMack.inv i
  | drep => exact k.execDrep.inv i
  | dack => exact k.execDack.inv i
  | bcopy => exact k.execBcopy.inv i
  | rsync => exact k.execRsync.inv i
  | train => exact k.execTrain.inv i
  | down => exact k.execDown.inv i
  | retrain => exact k.execRetrain.inv i
  | loop => exact k.execLoop.inv i
  | quenchCommand => exact k.execQuenchCommand.inv i
  | unquenchCommand => exact k.execUnquenchCommand.inv i
  | recordBufferRoom => exact k.execRecordBufferRoom.inv i
  | brickMapSweepDone => exact k.execBrickMapSweepDone.inv i
  | strciWrite => exact k.execStrciWrite.inv i
  | ringsStart => exact k.execRingsStart.inv i
  | ckpt => exact k.execCkpt.inv i
  | mark => exact k.execMark.inv i
  | stop => exact k.execStop.inv i
  | replay => exact k.execReplay.inv i
  | coldReset => exact k.execColdReset.inv i
  | warmReset => exact k.execWarmReset.inv i
  | powerLoss => exact k.execPowerLoss.inv i
  | standbyReset => exact k.execStandbyReset.inv i
  | calendarReset => exact k.execCalendarReset.inv i
  | bootRom => exact k.execBootRom.inv i
  | devStart => exact k.execDevStart.inv i
  | timebaseSeed => exact k.execTimebaseSeed.inv i
  | ddrcHbmcTrain => exact k.execDdrcHbmcTrain.inv i
  | trainComplete => exact k.execTrainComplete.inv i
  | reload => exact k.execReload.inv i
  | reloadVerifyDone => exact k.execReloadVerifyDone.inv i
  | set => exact k.execSet.inv i
  | seed => exact k.execSeed.inv i
  | devreset => exact k.execDevreset.inv i
  | calendarTick => exact k.execCalendarTick.inv i
  | oscStop => exact k.execOscStop.inv i
  | vbatSample => exact k.execVbatSample.inv i
  | ppsEdge => exact k.execPpsEdge.inv i
  | ppsLost => exact k.execPpsLost.inv i
  | pllUnlock => exact k.execPllUnlock.inv i
  | perstWrite => exact k.execPerstWrite.inv i
  | pcieLinkDown => exact k.execPcieLinkDown.inv i
  | spiGo => exact k.execSpiGo.inv i
  | spiDone => exact k.execSpiDone.inv i
  | i2cGo => exact k.execI2cGo.inv i
  | i2cDone => exact k.execI2cDone.inv i
  | temperatureSample => exact k.execTemperatureSample.inv i
  | ident => exact k.execIdent.inv i
  | status => exact k.execStatus.inv i
  | temp => exact k.execTemp.inv i
  | poweron => exact k.execPoweron.inv i
  | poweroff => exact k.execPoweroff.inv i
  | smbDevreset => exact k.execSmbDevreset.inv i
  | logread => exact k.execLogread.inv i
  | logpop => exact k.execLogpop.inv i
  | smbUndefinedCommand => exact k.execSmbUndefinedCommand.inv i
  | extest => exact k.execExtest.inv i
  | idcode => exact k.execIdcode.inv i
  | samplePreload => exact k.execSamplePreload.inv i
  | clamp => exact k.execClamp.inv i
  | highz => exact k.execHighz.inv i
  | bypass => exact k.execBypass.inv i
  | cpacc => exact k.execCpacc.inv i
  | illegalInstruction => exact k.execIllegalInstruction.inv i
  | fenceReceived => exact k.execFenceReceived.inv i
  | linkUp => exact k.execLinkUp.inv i
  | pcieLinkUp => exact k.execPcieLinkUp.inv i
  | railWarning => exact k.execRailWarning.inv i
  | standbyLoss => exact k.execStandbyLoss.inv i
  | courseBalanceMove => exact k.execCourseBalanceMove.inv i

/-- Settles O59, by what every operation of the model keeps and, for loads and queued Kiln instructions, the room that
they find. -/
theorem stepKeepsInv : Obligations.StepKeepsInv := by
  intro s s' i e
  unfold step at e
  split at e
  next => cases e; exact i
  next c rest _ => exact exec_inv (s := { s with pending := rest }) i c s' e

end Sys2Proof.Machine
end

section
/-! PROOFS. Packed decimal in numbers: signed sums, rounding, and the nibbles of a value (spec/04 R125, R132, Tables 4-7, 4-8). -/

namespace Sys2Proof.Machine

/-! ## Signs, sums and rounding in numbers -/

theorem Dec.add_eq_sum (a b : Dec) : a.add b = { neg := (Says.sum a b).1, mag := (Says.sum a b).2 } := by
  obtain ⟨an, am⟩ := a
  obtain ⟨bn, bm⟩ := b
  simp only [Dec.add, Says.sum, Dec.int]
  rcases an <;> rcases bn <;> grind

/-- The nearest integer, a tie upwards. -/
theorem half_up_eq (mag : Nat) {p : Nat} (hp : 0 < p) :
    (2 * mag + p) / (2 * p) = mag / p + if p ≤ 2 * (mag % p) then 1 else 0 := by
  have hr : mag % p < p := Nat.mod_lt _ hp
  have e : 2 * mag + p = 2 * (mag % p) + p + 2 * p * (mag / p) := by
    have := Nat.div_add_mod mag p
    grind
  rw [e, Nat.add_mul_div_left _ _ (by omega), Nat.add_comm]
  congr 1
  split
  · rw [Nat.div_eq_iff (by omega)]; omega
  · exact Nat.div_eq_of_lt (by omega)

theorem roundDec_eq_round (m : Rnd) (mag n : Nat) :
    roundDec m mag n = (Says.round m mag n, decide (mag % 10 ^ n ≠ 0)) := by
  have hp : 0 < 10 ^ n := by positivity
  refine Prod.ext ?_ rfl
  cases m with
  | truncate => rfl
  | halfUp =>
    simp only [roundDec, Says.round, half_up_eq mag hp, b2n, decide_eq_true_eq]
    congr 2
    exact propext ⟨And.left, fun h => ⟨h, by omega⟩⟩
  | halfEven =>
    simp only [roundDec, Says.round, half_up_eq mag hp, b2n, Bool.or_eq_true, Bool.and_eq_true, decide_eq_true_eq]
    split_ifs <;> omega

theorem rndOf_eq_rmode (r : RndSel) (dctl : BitVec 8) : rndOf r dctl = Says.rmode r dctl := by
  cases r with
  | dctl =>
    have e : bitsNat dctl 1 0 = dctl.toNat % 4 := by simp [bitsNat]
    simp only [rndOf, Says.rmode, dctlRnd, e]
    split
    next h => rw [if_pos h]
    next h => rw [if_neg (by omega), if_pos h]
    next h1 h2 => rw [if_neg h1, if_neg h2]
  | _ => rfl

/-! ## Nibbles -/

theorem nibblesOf_cons (b : Byte) (bs : List Byte) :
    nibblesOf (b :: bs) = b.toNat / 16 :: b.toNat % 16 :: nibblesOf bs := rfl

/-- The nibbles of a number's bytes are its hexadecimal digits. -/
theorem nibblesOf_beBytes (n v : Nat) :
    nibblesOf (beBytes n v) = (List.range (2 * n)).map (fun i => v / 16 ^ (2 * n - 1 - i) % 16) := by
  induction n with
  | zero => rfl
  | succ n ih =>
    have hp : 16 ^ (2 * n) = 256 ^ n := by rw [Nat.pow_mul]
    have h0 : v / 256 ^ n % 256 / 16 = v / 16 ^ (2 * n + 1) % 16 := by
      rw [show 256 = 16 * 16 from rfl, Nat.mod_mul_right_div_self, Nat.pow_succ, hp, Nat.div_div_eq_div_mul]
    have h1 : v / 256 ^ n % 256 % 16 = v / 16 ^ (2 * n) % 16 := by
      rw [Nat.mod_mod_of_dvd _ (by decide), hp]
    rw [beBytes, nibblesOf_cons, BitVec.toNat_ofNat, ih, h0, h1, Nat.mul_succ, List.range_succ_eq_map, List.range_succ_eq_map]
    simp only [List.map_cons, List.map_map]
    congr 3
    funext i
    simp only [Function.comp_apply, Nat.succ_eq_add_one]
    congr 3
    omega

/-- DMTR's check is that of R125 on its value's nibbles. -/
theorem badNibble_beBytes (v : BitVec 128) : badNibble (beBytes 16 v.toNat) = Says.firstBad v := by
  unfold badNibble Says.firstBad
  rw [nibblesOf_beBytes]
  simp only [List.length_map, List.length_range]
  refine List.find?_congr fun i hi => ?_
  have hi' : i < 32 := List.mem_range.1 hi
  have hd : ((List.range (2 * 16)).map (fun i => v.toNat / 16 ^ (2 * 16 - 1 - i) % 16)).getD i 0 = Says.nibble v i := by
    simp [hi', Says.nibble]
  rw [hd]
  exact if_congr (by omega) rfl rfl

end Sys2Proof.Machine
end

section
/-! PROOFS. Decimal arithmetic: how `finish` ends an instruction, and which value each instruction finishes (spec/04 R131, R138, R142,
R143, R145). -/

namespace Sys2Proof.Machine

/-! ## Sticky bits of DSTAT -/

/-- The tile with bits of DSTAT set where `b`. -/
def Tile.noted (x : Tile) (m : BitVec 8) (b : Bool) : Tile := if b then x.orD m else x

@[simp] theorem Tile.noted_true (x : Tile) (m : BitVec 8) : x.noted m true = x.orD m := rfl
@[simp] theorem Tile.noted_pc (x : Tile) (m : BitVec 8) (b : Bool) : (x.noted m b).pc = x.pc := by cases b <;> rfl

theorem Tile.cur_orD (x : Tile) (m : BitVec 8) : (x.orD m).cur = { x.cur with dstat := x.cur.dstat ||| m } :=
  Tile.cur_modBank _ _

@[simp] theorem Tile.noted_dovt (x : Tile) (m : BitVec 8) (b : Bool) : (x.noted m b).dovt = x.dovt := by
  cases b
  · rfl
  · simp [Tile.dovt, Tile.cur_orD]

/-- DINX is not KEEPZ. -/
@[simp] theorem Tile.noted_dinx_keepz (x : Tile) (b : Bool) : (x.noted dDINX b).keepz = x.keepz := by
  cases b
  · rfl
  · simp [Tile.keepz, Tile.cur_orD, dDINX]

theorem orInx_eq (s : State) (t : TileId) (b : Bool) : orInx s t b = s.modTile t (fun x => x.noted dDINX b) := by
  cases b
  · exact (State.modTile_same rfl).symm
  · rfl

/-! ## Overflow (spec/04 R131) -/

theorem decOver_false (t : TileId) (info : Word) (k : State → R Flow) (s : State) : decOver t false info k s = k s := rfl

/-- A result that overflows where `ov`: DOVF, and the exception where DOVT traps it. -/
theorem decOver_eq (t : TileId) (ov : Bool) (info : Word) (k : State → R Flow) (s : State) :
    decOver t ov info k s = if ov && (s.tile t).dovt then .exc (exc 0x0D 1 info) (s.modTile t (fun x => x.noted dDOVF ov))
      else k (s.modTile t (fun x => x.noted dDOVF ov)) := by
  cases ov with
  | false => exact congrArg k (State.modTile_same rfl).symm
  | true =>
    simp only [decOver, if_true, Bool.true_and, Tile.noted_true, State.tile_modTile_self]
    rw [← Tile.noted_true, Tile.noted_dovt]

/-- An instruction that ends in a result put where `f` puts it, with overflow where `ov`. -/
theorem tileOp_over {s : State} {t : TileId} {g : Guard} {legal ov : Bool} {info : Word} {f : Tile → Tile} {y : Tile}
    {body : State → R Flow} (h : Runs s t) (hg : (s.tile t).guard g = true) (hl : legal = true)
    (hy : y.pc = (s.tile t).pc)
    (hb : body (s.ran t (s.tile t).ready) = decOver t ov info (put t f) (s.ran t y)) :
    let op := tileOp s t { g := g, legal := legal } body
    (ov = false ∨ y.dovt = false →
      TileOnly s op t ((f (y.noted dDOVF ov)).stepped (s.tile t).lvl ((s.tile t).pc + 4))) ∧
    (ov = true → y.dovt = true →
      op = stopCheck (enter (s.ran t (y.noted dDOVF ov)) t (exc 0x0D 1 info) false (s.tile t).pc) t) := by
  rw [decOver_eq, State.tile_ran_self, State.modTile_ran] at hb
  refine ⟨fun ht => tileOp_tile h _ _ _ rfl rfl hl hg rfl rfl ?_, fun ho ht => ?_⟩
  · rw [hb, if_neg (by simpa [or_iff_not_imp_left] using ht), put, State.modTile_ran]
  · rw [tileOp_raises h _ _ (y.noted dDOVF ov) (exc 0x0D 1 info) rfl rfl hl hg rfl (by rw [hb, if_pos (by simp [ho, ht])]),
      Tile.noted_pc, hy]

/-! ## Results that `finish` delivers (spec/04, finish) -/

/-- The limit of a destination. -/
def toLimit : Says.DecTo → Nat
  | .reg _ => decLimit
  | .pair _ => wideLimit

/-- A value put into its destination. -/
def toWrite (d : Says.DecTo) (v : Dec) (x : Tile) : Tile :=
  match d with
  | .reg r => x.setD r (decReg v.neg v.mag)
  | .pair r => x.setPair r (widePack v.neg v.mag)

/-- `finish` into either destination. -/
def finishTo (t : TileId) (d : Says.DecTo) (v : Dec) (s : State) : R Flow :=
  decOver t (decide (toLimit d ≤ v.mag)) 0 (put t (toWrite d (finishDec (s.tile t).keepz v (toLimit d)).1)) s

theorem finishD_eq (t : TileId) (r : BitVec 4) (v : Dec) (s : State) : finishD t r v s = finishTo t (.reg r) v s := rfl

theorem finishW_eq (t : TileId) (r : BitVec 4) (v : Dec) (s : State) : finishW t r v s = finishTo t (.pair r) v s := rfl

/-- DMTR of valid nibbles finishes their value. -/
theorem dmtrBody_valid {t : TileId} {dd : BitVec 4} {ga gb : BitVec 5} {s : State}
    (h : Says.firstBad ((s.tile t).g ga ++ (s.tile t).g gb) = none) :
    dmtrBody t dd ga gb s = finishD t dd (decVal ((s.tile t).g ga ++ (s.tile t).g gb)) s := by
  rw [← badNibble_beBytes] at h
  simp only [dmtrBody, h]

theorem append_eq_ofNat (a b : Word) : a ++ b = BitVec.ofNat 128 (a.toNat * 2 ^ 64 + b.toNat) := by
  refine BitVec.eq_of_toNat_eq ?_
  rw [BitVec.toNat_append, BitVec.toNat_ofNat, ← Nat.shiftLeft_add_eq_or_of_lt b.isLt, Nat.shiftLeft_eq,
    Nat.mod_eq_of_lt (by have := a.isLt; have := b.isLt; omega)]

theorem orInx_false (s : State) (t : TileId) : orInx s t false = s := rfl

/-- A decimal instruction finishes the value that `Says.decimal` gives it, with DINX noted. -/
theorem exec_decimal {c : Instr} {x : Tile} {t : TileId} {g : Guard} {dest : Says.DecTo} {neg inx : Bool} {mag : Nat}
    (h : Says.decimal c x = some (t, g, true, dest, neg, mag, inx)) (s : State) :
    ∃ legal body, exec c s = .next (tileOp s t { g := g, legal := legal } body) ∧ legal = true ∧
      ∀ s0 : State, s0.tile t = x → body s0 = finishTo t dest { neg := neg, mag := mag } (orInx s0 t inx) := by
  unfold Says.decimal at h
  split at h
  case h_15 => cases h
  all_goals
    rw [Option.some.injEq] at h
    simp only [Prod.mk.injEq] at h
    obtain ⟨rfl, rfl, legal, rfl, rfl, rfl, rfl⟩ := h
  case' h_4 | h_5 | h_6 | h_7 => refine ⟨_, _, rfl, legal, ?_⟩
  case' h_1 | h_2 | h_3 | h_8 | h_9 | h_10 | h_11 | h_12 | h_13 | h_14 => refine ⟨true, _, rfl, rfl, ?_⟩
  all_goals rintro s0 rfl
  case h_11 => rw [← rndOf_eq_rmode, ← finishD_eq, dshrBody, roundDec_eq_round]
  all_goals rw [orInx_false]
  case h_1 => rw [← finishD_eq, ← Dec.add_eq_sum]
  case h_2 => rw [← finishD_eq, ← Dec.add_eq_sum]; rfl
  case h_5 | h_6 => rw [← finishW_eq, ← Dec.add_eq_sum]; rfl
  case h_4 => rw [← finishW_eq]; rfl
  case h_14 => rw [← append_eq_ofNat] at legal ⊢; rw [← finishD_eq, ← dmtrBody_valid (by simpa using legal)]
  case h_3 | h_7 | h_9 => rw [← finishD_eq]; rfl
  all_goals rw [← finishD_eq]

/-- Settles O29: the instruction finishes the value that `Says.decimal` gives it (`exec_decimal`), with or without overflow
(`tileOp_over`). -/
theorem decimalArithmetic : Obligations.DecimalArithmetic := by
  intro c s t g dest neg mag inx x hc h hg lim n sticky y z
  obtain ⟨legal, body, he, hl, hb⟩ := exec_decimal hc s
  have hlim : lim = toLimit dest := by cases dest <;> rfl
  have hz : z = toWrite dest (finishDec (x.noted dDINX inx).keepz { neg := neg, mag := mag } (toLimit dest)).1
      ((x.noted dDINX inx).noted dDOVF (decide (toLimit dest ≤ mag))) := by
    rw [Tile.noted_dinx_keepz]
    cases dest <;> rfl
  obtain ⟨done, raised⟩ := tileOp_over (y := x.noted dDINX inx) h hg hl (by simp [x])
    ((hb _ (State.tile_ran_self ..)).trans (by rw [finishTo, orInx_eq, State.modTile_ran, State.tile_ran_self]))
  rw [← hz, Tile.noted_dovt, decide_eq_false_iff_not, Nat.not_le, ← hlim] at done
  rw [Tile.noted_dovt, decide_eq_true_eq, ← hlim] at raised
  exact ⟨fun ht => ⟨_, he, done ht⟩, fun ho ht => he.trans (congrArg _ (raised ho ht))⟩

end Sys2Proof.Machine
end

section
/-! PROOFS. Decimal comparison and conversion hold (`decimalCompareConvert`); where the statement of decimal division fails: a divisor
register with nibbles above 9, which R48 rules out and the statement does not. -/

namespace Sys2Proof.Machine

/-! ## The half that holds: comparison and conversion -/

theorem decHalf_eq_ofNat (v : BitVec 128) (low : Bool) :
    decHalf v low = BitVec.ofNat 64 (if low then v.toNat % 2 ^ 64 else v.toNat / 2 ^ 64) := by
  refine BitVec.eq_of_toNat_eq ?_
  have := v.isLt
  cases low
  · simp [decHalf, Nat.shiftRight_eq_div_pow]
  · simp [decHalf]

theorem dctlRnd_eq_rmode (dctl : BitVec 8) : dctlRnd dctl = Says.rmode .dctl dctl := rndOf_eq_rmode .dctl dctl

/-- CVDB: the rounded value, with DINX noted, ends as overflow ends it. -/
theorem cvdbBody_eq (t : TileId) (gd : BitVec 5) (da : BitVec 4) (n : BitVec 5) (s : State) :
    let x := s.tile t
    let a := decVal (x.d da)
    let e := Dec.int { a with mag := Says.round (Says.rmode .dctl x.cur.dctl) a.mag n.toNat }
    cvdbBody t gd da n s = decOver t (!fits64 e) (BitVec.ofInt 64 e) (put t (fun x => x.setG gd (BitVec.ofInt 64 e)))
      (s.modTile t (fun x => x.noted dDINX (decide (a.mag % 10 ^ n.toNat ≠ 0)))) := by
  intro x a e
  rw [cvdbBody, roundDec_eq_round, dctlRnd_eq_rmode, orInx_eq]

theorem decimalCompareConvert : Says.DecimalCompareConvert := by
  intro t g s h hg x done
  refine ⟨fun ft cd pd da db => ?_, fun gd da low => ?_, fun gd da n => ?_, fun dd ga gb p hp => ?_⟩
  · have hc := tileFn_gives h { g := g } (fun x => x.setP pd (DecCond.holds cd (decVal (x.d da)) (decVal (x.d db))))
      rfl rfl rfl hg rfl rfl
    cases cd <;> exact hc
  · rw [← decHalf_eq_ofNat]
    exact tileFn_gives h { g := g } (fun x => x.setG gd (decHalf (x.d da) low)) rfl rfl rfl hg rfl rfl
  · intro a m e fits flag y
    let inx := decide (a.mag % 10 ^ n.toNat ≠ 0)
    obtain ⟨fit, trap⟩ := tileOp_over (legal := true) (y := x.noted dDINX inx) h hg rfl (by simp [x])
      ((cvdbBody_eq t gd da n _).trans (by rw [State.modTile_ran, State.tile_ran_self]))
    rw [Tile.noted_dovt] at fit trap
    exact ⟨fun hf => ⟨_, rfl, fit (hf.imp_left fun hf => congrArg Bool.not (decide_eq_true hf))⟩,
      fun hf ht => congrArg _ (trap (congrArg Bool.not (decide_eq_false hf)) ht)⟩
  · have hb : dmtrBody t dd ga gb (s.ran t x) = .exc (exc 0x0C (0x40 + p)) (s.ran t x) := by
      rw [← append_eq_ofNat, ← badNibble_beBytes] at hp
      simp only [dmtrBody, State.tile_ran_self, hp]
    exact congrArg _ ((tileOp_raises h { g := g } _ x _ rfl rfl rfl hg rfl hb).trans
      (by rw [show x.pc = (s.tile t).pc by simp [x]]; rfl))

/-! ## The half that fails: division -/

/-- A division whose quotient fits: what DDIVS writes (R139). -/
theorem ddivs_gives {s : State} {t : TileId} {g : Guard} {ft : Bool} {dq dp dv : BitVec 4} (h : Runs s t)
    (hg : (s.tile t).guard g = true) (hp : dp.toNat % 2 = 0) :
    let x := (s.tile t).ready
    let v := decVal (x.d dv)
    v.mag ≠ 0 → (x.pair dp).mag / v.mag < decLimit →
      Gives (.ddivs t g ft dq dp dv) s t
        ((ddivsWrite x.keepz dq dp (x.pair dp) v x).stepped (s.tile t).lvl ((s.tile t).pc + 4)) := by
  intro x v hv hq
  refine ⟨_, rfl, tileOp_tile h _ _ _ rfl rfl (decide_eq_true hp) hg rfl rfl ?_⟩
  rw [ddivsBody, State.tile_ran_self, if_neg hv, decide_eq_false (Nat.not_le.2 hq), decOver_false, if_neg (Nat.not_le.2 hq),
    put, State.modTile_ran]

/-- Tile 0 runs, with −10^31 in d1, its top nibble 10, and 15 × 10^30 in d2, its top nibble 15. -/
def divState : State :=
  State.reset.modTile 0 (fun x => (({ x with run := .running }).setD 1 (BitVec.ofNat 128 (0xA * 16 ^ 31 + 0xD))).setD 2
    (BitVec.ofNat 128 (0xF * 16 ^ 31 + 0xC)))

theorem divState_runs : Runs divState 0 := by unfold Runs; decide +kernel

/-- Refutes O32: its last clause on division gives the remainder its sign where it is not 0, DDIVS where its low 31 digits are not
0. The two differ where the divisor is above 10^31, as a d register with nibbles above 9 may be in a state that no hypothesis
excludes. In `divState`, −10^31 divided by 15 × 10^30 leaves −10^31: the clause has −0 in d1 where DDIVS leaves +0. -/
theorem not_decimalDivideCompareConvert : ¬ Obligations.DecimalDivideCompareConvert := by
  unfold Obligations.DecimalDivideCompareConvert
  rintro ⟨division, -⟩
  obtain ⟨-, -, -, -, fits⟩ := division 0 { inv := false, pred := 0 } false 4 0 2 divState divState_runs rfl rfl
  obtain ⟨s1, e1, o1⟩ := fits (by decide +kernel) (by decide +kernel)
  obtain ⟨s2, e2, o2⟩ := ddivs_gives (g := { inv := false, pred := 0 }) (ft := false) (dq := 4) (dp := 0) (dv := 2)
    divState_runs rfl rfl (by decide +kernel) (by decide +kernel)
  rw [e1, Host.Outcome.next.injEq] at e2
  have d1 := congrArg (fun x => x.d 1) (o1.tile.symm.trans (e2 ▸ o2.tile))
  revert d1
  decide +kernel

end Sys2Proof.Machine
end

section
/-! PROOFS. Packed fields in numbers: what the nibbles of bytes spell, and the bytes of a value (spec/04 R124, Layout 4-1). -/

namespace Sys2Proof.Machine

/-! ## Lists of digits -/

/-- The number that digits of base `b` spell, the most significant first. -/
def spell (b : Nat) (ds : List Nat) : Nat := ds.foldl (fun a d => a * b + d) 0

theorem spell_concat (b : Nat) (ds : List Nat) (d : Nat) : spell b (ds ++ [d]) = spell b ds * b + d := by simp [spell]

theorem spell_lt {b : Nat} {ds : List Nat} (h : ∀ d ∈ ds, d < b) : spell b ds < b ^ ds.length := by
  induction ds using List.reverseRecOn with
  | nil => simp [spell]
  | append_singleton ds d ih =>
    have h1 := ih fun e he => h e (by simp [he])
    have h2 := h d (by simp)
    rw [spell_concat, List.length_append, List.length_singleton, Nat.pow_succ]
    nlinarith

/-- Hexadecimal digits read as decimal ones. -/
theorem bcdVal_spell {ds : List Nat} (h : ∀ d ∈ ds, d < 16) : bcdVal ds.length (spell 16 ds) = spell 10 ds := by
  induction ds using List.reverseRecOn with
  | nil => rfl
  | append_singleton ds d ih =>
    have hd : d < 16 := h d (by simp)
    have e1 : (spell 16 ds * 16 + d) % 16 = d := by omega
    have e2 : (spell 16 ds * 16 + d) / 16 = spell 16 ds := by omega
    rw [List.length_append, List.length_singleton, spell_concat, spell_concat, bcdVal, e1, e2, ih fun e he => h e (by simp [he])]
    ring

/-! ## The value of a field -/

theorem nibblesOf_append (l r : List Byte) : nibblesOf (l ++ r) = nibblesOf l ++ nibblesOf r := by simp [nibblesOf]

theorem nibblesOf_length (bs : List Byte) : (nibblesOf bs).length = 2 * bs.length := by
  induction bs with
  | nil => rfl
  | cons b bs ih => rw [nibblesOf_cons, List.length_cons, List.length_cons, ih, List.length_cons]; ring

theorem nibblesOf_lt {bs : List Byte} : ∀ d ∈ nibblesOf bs, d < 16 := by
  induction bs with
  | nil => simp [nibblesOf]
  | cons b bs ih =>
    have hb := b.isLt
    rw [nibblesOf_cons]
    simp only [List.mem_cons]
    rintro d (rfl | rfl | hd)
    · omega
    · omega
    · exact ih d hd

theorem ofBytes_eq_spell (bs : List Byte) : ofBytes bs = spell 16 (nibblesOf bs) := by
  induction bs using List.reverseRecOn with
  | nil => rfl
  | append_singleton bs b ih =>
    have e : nibblesOf [b] = [b.toNat / 16] ++ [b.toNat % 16] := rfl
    rw [nibblesOf_append, e, ← List.append_assoc, spell_concat, spell_concat, ← ih]
    simp only [ofBytes, List.foldl_append, List.foldl_cons, List.foldl_nil]
    omega

theorem fieldBad_eq (bs : List Byte) : Says.fieldBad bs = badNibble bs := rfl

theorem fieldVal_eq (bs : List Byte) : fieldVal bs = Says.fieldValue bs := by
  obtain rfl | hne := eq_or_ne bs []
  · rfl
  have hns : nibblesOf bs ≠ [] := by
    intro e
    have := nibblesOf_length bs
    rw [e] at this
    exact hne (List.eq_nil_of_length_eq_zero (by simpa using this.symm))
  have split := List.dropLast_append_getLast hns
  have hlast := nibblesOf_lt _ (List.getLast_mem hns)
  have hlen : (nibblesOf bs).dropLast.length = 2 * bs.length - 1 := by rw [List.length_dropLast, nibblesOf_length]
  have hv : ofBytes bs = spell 16 (nibblesOf bs).dropLast * 16 + (nibblesOf bs).getLast hns := by
    rw [ofBytes_eq_spell, ← spell_concat, split]
  have e1 : ofBytes bs % 16 = (nibblesOf bs).getLast hns := by omega
  have e2 : ofBytes bs / 16 = spell 16 (nibblesOf bs).dropLast := by omega
  have e3 := bcdVal_spell fun d hd => nibblesOf_lt (bs := bs) d (List.dropLast_subset _ hd)
  rw [hlen] at e3
  show Dec.mk _ _ = Dec.mk (decide ((nibblesOf bs).getLastD 0 = 0xB ∨ (nibblesOf bs).getLastD 0 = 0xD))
    (spell 10 (nibblesOf bs).dropLast)
  rw [e1, e2, e3, signMinus, List.getLastD_eq_getLast?, List.getLast?_eq_some_getLast hns]
  rfl

/-- A field of valid nibbles has as many digits as it has room for. -/
theorem fieldValue_lt {bs : List Byte} (h : Says.fieldBad bs = none) :
    (Says.fieldValue bs).mag < 10 ^ (2 * bs.length - 1) := by
  have hlen : (nibblesOf bs).dropLast.length = 2 * bs.length - 1 := by rw [List.length_dropLast, nibblesOf_length]
  show spell 10 (nibblesOf bs).dropLast < _
  rw [← hlen]
  refine spell_lt fun d hd => ?_
  obtain ⟨i, hi, rfl⟩ := List.getElem_of_mem hd
  rw [List.length_dropLast] at hi
  have hi' : i < (nibblesOf bs).length := by omega
  have hd := List.find?_eq_none.1 h i (List.mem_range.2 hi')
  change ¬ (if i + 1 = (nibblesOf bs).length then decide ((nibblesOf bs).getD i 0 < 10)
    else decide (9 < (nibblesOf bs).getD i 0)) = true at hd
  rw [if_neg (by omega), decide_eq_true_eq, List.getD_eq_getElem _ _ hi'] at hd
  rw [List.getElem_dropLast]
  omega

/-! ## The bytes of a value -/

theorem bcdOf_div (k j m : Nat) : bcdOf (k + j) m / 16 ^ j = bcdOf k (m / 10 ^ j) := by
  induction j generalizing m with
  | zero => simp
  | succ j ih =>
    have e : (m % 10 + 16 * bcdOf (k + j) (m / 10)) / 16 = bcdOf (k + j) (m / 10) := by
      have : m % 10 < 10 := Nat.mod_lt _ (by decide)
      omega
    rw [← Nat.add_assoc, bcdOf, Nat.pow_succ', ← Nat.div_div_eq_div_mul, e, ih, Nat.div_div_eq_div_mul, Nat.pow_succ']

theorem bcdOf_mod (k m : Nat) : bcdOf (k + 1) m % 16 = m % 10 := by
  rw [bcdOf]; omega

theorem bcdOf_mod_two (k m : Nat) : bcdOf (k + 2) m % 256 = m / 10 % 10 * 16 + m % 10 := by
  rw [bcdOf, bcdOf]; omega

theorem beBytes_eq_map (n v : Nat) : beBytes n v = (List.range n).map (fun i => BitVec.ofNat 8 (v / 256 ^ (n - 1 - i))) := by
  induction n with
  | zero => rfl
  | succ n ih =>
    rw [beBytes, ih, List.range_succ_eq_map]
    simp only [List.map_cons, List.map_map]
    congr 2
    funext i
    simp only [Function.comp_apply, Nat.succ_eq_add_one]
    congr 3
    omega

theorem fieldBytes_length (n : Nat) (neg : Bool) (mag : Nat) : (Says.fieldBytes n neg mag).length = n := by
  simp [Says.fieldBytes]

theorem fieldBytes_eq (n : Nat) (neg : Bool) (mag : Nat) :
    Says.fieldBytes n neg mag = beBytes n (packDec (2 * n - 1) neg mag) := by
  rw [beBytes_eq_map, Says.fieldBytes]
  refine List.map_congr_left fun i hi => ?_
  have hi := List.mem_range.1 hi
  have hs : (if neg = true then 13 else 12) < 16 := by split <;> decide
  obtain ⟨e, rfl⟩ : ∃ e, n = i + 1 + e := ⟨n - (i + 1), by omega⟩
  rw [show i + 1 + e - 1 - i = e by omega, show i + 1 + e - i = e + 1 by omega]
  refine BitVec.eq_of_toNat_eq ?_
  cases e with
  | zero =>
    have h0 := bcdOf_mod (2 * i) mag
    simp only [packDec, Nat.add_zero, if_true, BitVec.toNat_ofNat, Nat.pow_zero, Nat.div_one]
    rw [show 2 * (i + 1) - 1 = 2 * i + 1 by omega]
    omega
  | succ e =>
    have hp : packDec (2 * (i + 1 + (e + 1)) - 1) neg mag / 256 ^ (e + 1) = bcdOf (2 * i + 2) (mag / 10 ^ (2 * e + 1)) := by
      have hb : (bcdOf (2 * i + 2 + (2 * e + 1)) mag * 16 + if neg = true then 13 else 12) / 16 =
        bcdOf (2 * i + 2 + (2 * e + 1)) mag := by omega
      rw [packDec, show 2 * (i + 1 + (e + 1)) - 1 = 2 * i + 2 + (2 * e + 1) by omega,
        show 256 ^ (e + 1) = 16 * 16 ^ (2 * e + 1) by rw [show 256 = 16 ^ 2 from rfl, ← Nat.pow_mul, ← Nat.pow_succ']; congr 1,
        ← Nat.div_div_eq_div_mul, hb, bcdOf_div]
    have hd := bcdOf_mod_two (2 * i) (mag / 10 ^ (2 * e + 1))
    rw [Nat.div_div_eq_div_mul, ← Nat.pow_succ, Nat.succ_eq_add_one] at hd
    dsimp only
    rw [if_neg (by omega), BitVec.toNat_ofNat, BitVec.toNat_ofNat, hp, show 2 * (e + 1 + 1) - 2 = 2 * e + 1 + 1 by omega,
      show 2 * (e + 1 + 1) - 3 = 2 * e + 1 by omega]
    omega

end Sys2Proof.Machine
end

section
/-! PROOFS. What the translation of an access leaves of the tile and of its course's recorder (spec/09 R275–R283), and what an
instruction that has translated an address leaves. -/

namespace Sys2Proof.Machine

/-! ## Translation -/

/-- Translation changes the TLBs of the tile and nothing else of it, and its course replays as before. -/
structure Translates (t : TileId) (s s' : State) : Prop where
  tile : ∃ d i, s'.tile t = { s.tile t with dtlb := d, itlb := i }
  replaying : s'.replaying t = s.replaying t

namespace Translates

variable {t : TileId} {s₀ s : State}

theorem refl : Translates t s s := ⟨⟨_, _, rfl⟩, rfl⟩

theorem trans {s s' s'' : State} (h : Translates t s s') (k : Translates t s' s'') : Translates t s s'' := by
  obtain ⟨d, i, e⟩ := h.tile
  obtain ⟨d', i', e'⟩ := k.tile
  exact ⟨⟨d', i', by rw [e', e]⟩, k.replaying.trans h.replaying⟩

theorem evCount (h : Translates t s₀ s) {p src k : Nat} : Translates t s₀ (s.evCount p src k) := by
  have c := CountsOnly.count s p src k
  refine h.trans ⟨⟨_, _, c.tile t⟩, ?_⟩
  unfold State.replaying
  rw [c.fld (isCounter_of_off _ _ (by decide) (by decide))]

theorem installTlb (h : Translates t s₀ s) {w : TlbOf} {e : TlbEntry} : Translates t s₀ (installTlb s t w e) := by
  refine h.trans ⟨?_, ?_⟩
  · cases w
    · exact ⟨_, _, State.tile_modTile_self ..⟩
    · exact ⟨_, _, State.tile_modTile_self ..⟩
    · exact ⟨_, _, rfl⟩
  · cases w <;> rfl

theorem dropTlb (h : Translates t s₀ s) {e : TlbEntry} : Translates t s₀ (dropTlb s t e) :=
  h.trans ⟨⟨_, _, State.tile_modTile_self ..⟩, rfl⟩

theorem setDword (h : Translates t s₀ s) {a : Nat} {v : Word} : Translates t s₀ (s.setDword a v) := by
  obtain ⟨m, e⟩ : ∃ m, s.setDword a v = { s with mem := m } := ⟨_, State.setBytes_rest ..⟩
  rw [e]
  exact h.trans ⟨⟨(s.tile t).dtlb, (s.tile t).itlb, rfl⟩, rfl⟩

theorem findTlb (h : Translates t s₀ s) {w : TlbOf} {vpn ast : Nat} {r : Option TlbEntry} {s' : State}
    (e : Machine.findTlb s t w vpn ast = (r, s')) : Translates t s₀ s' := by
  obtain rfl : (Machine.findTlb s t w vpn ast).2 = s' := by rw [e]
  fun_cases Machine.findTlb s t w vpn ast
  case case1 => exact h
  all_goals
    dsimp +zetaDelta only
    refine evCount ?_
    split
    exacts [h.evCount, h.evCount, h]

theorem useTlb (h : Translates t s₀ s) {w : TlbOf} {c : Ctx} {k : Acc} {va : Word} {n : Nat} {e : TlbEntry} {nread : Nat}
    {retry : Bool} :
    Sum.elim (R.All (Translates t s₀)) (Translates t s₀) (useTlb s t w c k va n e nread retry) := by
  fun_cases Machine.useTlb s t w c k va n e nread retry
  · exact .exc h
  · exact .exc h
  · exact .exc h
  · exact .ok h.installTlb
  · exact .ok h.dropTlb.setDword.installTlb
  · exact h.dropTlb
  · exact .ok h

/-- The walk, after a miss or a stale entry. -/
theorem fresh (h : Translates t s₀ s) {w : TlbOf} {c : Ctx} {k : Acc} {va : Word} {n : Nat} {r : R Xl}
    (e : r = (match walk s (va.toNat / 0x4000) c.ast with
      | .fault code sub nr idx => .exc { code, sub, faddr := va, finfo := memInfo c k false nr idx } s
      | .hit e nr =>
        match Machine.useTlb (Machine.installTlb s t w e) t w c k va n e nr false with
        | .inl r => r
        | .inr s => .halt s)) : R.All (Translates t s₀) r := by
  subst e
  split
  · exact .exc h
  · split
    next e => exact of_inl h.installTlb.useTlb e
    next e => exact .halt (of_inr h.installTlb.useTlb e)

theorem translate (h : Translates t s₀ s) {w : TlbOf} {c : Ctx} {k : Acc} {va : Word} {n : Nat} :
    R.All (Translates t s₀) (translate s t w c k va n) := by
  fun_cases Machine.translate s t w c k va n
  · exact .exc h
  · exact .exc h
  · exact .exc h
  · exact .ok h
  · exact .exc h
  · exact .exc h
  · exact .ok h
  · exact of_inl (h.findTlb ‹_›).useTlb ‹_›
  next e _ e' => exact (of_inr (h.findTlb e).useTlb e').evCount.fresh rfl
  next e => exact (h.findTlb e).evCount.fresh rfl

theorem brickXl {k : Acc} {slot : Fin 4} {off n : Nat} : R.All (Translates t s) (brickXl s t k slot off n) := by
  unfold Machine.brickXl
  exact .ite (.exc refl) (.ite (.exc refl) (.ite (.exc refl) (.ok refl)))

theorem place {c : Ctx} {k : Acc} {a : Addr} {n : Nat} {x : Xl} {s' : State} (e : place s t c k a n = .ok x s') :
    Translates t s s' := by
  cases a with
  | brick slot off => exact brickXl.of_ok e
  | virt va => exact refl.translate.of_ok e

/-! ## What it leaves of the tile -/

variable (h : Translates t s₀ s)
include h

theorem sbuf : (s.tile t).sbuf = (s₀.tile t).sbuf := by obtain ⟨d, i, e⟩ := h.tile; rw [e]
theorem tk : (s.tile t).tk = (s₀.tile t).tk := by obtain ⟨d, i, e⟩ := h.tile; rw [e]
theorem cur : (s.tile t).cur = (s₀.tile t).cur := by obtain ⟨d, i, e⟩ := h.tile; rw [e]; rfl
theorem d (r : BitVec 4) : (s.tile t).d r = (s₀.tile t).d r := by rw [Tile.d, h.cur, Tile.d]
theorem g (r : BitVec 5) : (s.tile t).g r = (s₀.tile t).g r := by rw [Tile.g, h.cur, Tile.g]
theorem keepz : (s.tile t).keepz = (s₀.tile t).keepz := by rw [Tile.keepz, h.cur, Tile.keepz]
theorem dovt : (s.tile t).dovt = (s₀.tile t).dovt := by rw [Tile.dovt, h.cur, Tile.dovt]

end Translates

/-! ## How an instruction ends -/

/-- What an instruction's own effect leads to: it retires, it raises, or it waits. -/
def opEnds (s : State) (t : TileId) (l : Level) (pc : Word) (i : Insn) : R Flow → State
  | .ok f s' => replayAfter (finish s' t l pc i f) t
  | .exc e s' => if xentWaits s' t then s else raiseAt s' t e
  | .halt s' => s'

theorem tileOp_ends {s : State} {t : TileId} {g : Guard} {body : State → R Flow} (h : Runs s t)
    (hg : (s.tile t).guard g = true) :
    tileOp s t { g := g } body = opEnds s t (s.tile t).lvl (s.tile t).pc { g := g } (body (s.ran t (s.tile t).ready)) := by
  rw [tileOp_run h _ _ rfl rfl rfl hg rfl]
  cases body (s.ran t (s.tile t).ready) <;> rfl

@[simp] theorem Tile.completeLrs_pc (x : Tile) : x.completeLrs.pc = x.pc := x.ready_pc
@[simp] theorem Tile.completeLrs_lvl (x : Tile) : x.completeLrs.lvl = x.lvl := x.ready_lvl
@[simp] theorem Tile.completeLrs_sbuf (x : Tile) : x.completeLrs.sbuf = x.sbuf := x.ready_sbuf
@[simp] theorem Tile.completeLrs_guard (x : Tile) (g : Guard) : x.completeLrs.guard g = x.guard g := x.ready_guard g

theorem completeLoads_eq (s : State) (t : TileId) : completeLoads s t = s.ran t (s.tile t).completeLrs := by
  show (loadsCounted s t).modTile t _ = _
  rw [State.modTile, (loadsCounted_only s t).tile]
  rfl

/-- A long instruction goes on with the progress that its units have made. -/
theorem tileOp_longEnds {s : State} {t : TileId} {g : Guard} {body : State → R Flow} (h : Runs s t)
    (hg : (s.tile t).guard g = true) :
    tileOp s t { g := g, long := true } body =
      opEnds s t (s.tile t).lvl (s.tile t).pc { g := g, long := true } (body (s.ran t (s.tile t).completeLrs)) := by
  unfold tileOp
  rw [if_neg (by simp [h.1, h.2.1]), frameOut_same h]
  simp only [replayRaise_none h.2.2.2.1, completeLoads_eq, State.tile_ran_self, Tile.completeLrs_guard, hg,
    Tile.completeLrs_lvl, Tile.completeLrs_pc, Bool.false_eq_true, if_false, Bool.not_true, Bool.false_and, if_true]
  cases body (s.ran t (s.tile t).completeLrs) <;> rfl

/-- The tile `x` after the end `f` of an instruction's own effect, where that is no branch. -/
def flowTile (l : Level) (pc : Word) (f : Flow) (x : Tile) : Tile :=
  match f with
  | .unit r => { x with long := some r, units := x.units + 1 }
  | _ => x.stepped l (pc + 4)

theorem State.replaying_plainStores (s : State) (es : List StoreEntry) (t : TileId) :
    (s.plainStores es).replaying t = s.replaying t := by rw [State.plainStores_rest]; rfl

/-- What the end of an instruction's own effect changes, where that is no branch. -/
theorem finish_only {s : State} {t : TileId} {l : Level} {pc : Word} {i : Insn} {f : Flow} (hb : i.branch = false)
    (hn : i.len = 4) (hf : f = .next ∨ f = .last ∨ ∃ r, f = .unit r) :
    CountsOnly (tilePage t) (s.setTile t (flowTile l pc f (s.tile t))) (finish s t l pc i f) := by
  have c := CountsOnly.tCount s t l 0x2E 1
  obtain rfl | rfl | ⟨r, rfl⟩ := hf
  · simp only [finish, hb, hn, Bool.false_eq_true, if_false]
    exact retire_only ..
  · simp only [finish, hn]
    have k := retire_only (Machine.tCount s t l 0x2E 1) t l (pc + 4)
    rw [c.tile] at k
    exact (c.setTile t _).trans k
  · simp only [finish, State.modTile]
    rw [c.tile]
    exact c.setTile t _

/-- An instruction that ends with its tile changed, after stores that go to memory. -/
theorem opEnds_ok {s s1 : State} {t : TileId} {l : Level} {pc : Word} {i : Insn} {f : Flow} {y : Tile} (es : List StoreEntry)
    (hb : i.branch = false) (hn : i.len = 4) (hf : f = .next ∨ f = .last ∨ ∃ r, f = .unit r)
    (hr : s1.replaying t = false) :
    CountsOnly (tilePage t) ((s1.setTile t (flowTile l pc f y)).plainStores es)
      (opEnds s t l pc i (.ok f ((s1.setTile t y).plainStores es))) := by
  have c := finish_only (s := (s1.setTile t y).plainStores es) (t := t) (l := l) (pc := pc) hb hn hf
  rw [State.plainStores_tile, State.tile_setTile_self, State.plainStores_setTile, State.setTile_setTile] at c
  have r : (finish ((s1.setTile t y).plainStores es) t l pc i f).replaying t = false :=
    (replaying_counts c).trans ((State.replaying_plainStores ..).trans hr)
  rwa [← replayAfter_same r] at c

/-- An instruction that raises an exception in a state in which its tile runs. -/
theorem opEnds_exc {s s1 : State} {t : TileId} {l : Level} {pc : Word} {i : Insn} {e : Exc} (y : Tile) (h : Runs s1 t) :
    opEnds s t l pc i (.exc e (s1.setTile t y)) = stopCheck (enter (s1.setTile t y) t e false y.pc) t := by
  simp only [opEnds, xentWaits_false h, raiseAt, replayTile_false (s := s1.setTile t y) h.2.2.2.1, State.tile_setTile_self,
    Bool.false_eq_true, if_false]

/-- An instruction that changes its tile and nothing else of `s1`. -/
theorem opEnds_only {s s1 : State} {t : TileId} {l : Level} {pc : Word} {i : Insn} {f : Flow} {y : Tile} (hb : i.branch = false)
    (hn : i.len = 4) (hf : f = .next ∨ f = .last ∨ ∃ r, f = .unit r) (hr : s1.replaying t = false) :
    TileOnly s1 (opEnds s t l pc i (.ok f (s1.setTile t y))) t (flowTile l pc f y) :=
  TileOnly.of_counts (opEnds_ok [] hb hn hf hr)

/-- A store to memory, a change of the tile, and counting. -/
theorem TileStores.of_counts {s s' : State} {t : TileId} {x : Tile} {e : StoreEntry}
    (h : CountsOnly (tilePage t) ((s.setTile t x).plainStore e) s') : TileStores s s' t x e.pa e.bytes := by
  have k := TileStores.of_plainStore s t x e
  have hb : ∀ a, s'.byte a = ((s.setTile t x).plainStore e).byte a := fun a => by rw [h.rest]; rfl
  exact {
    tile := (h.tile t).trans k.tile
    others := fun u hu => (h.tile u).trans (k.others u hu)
    regs := fun a ha => (h.regs a ha).trans (k.regs a ha)
    stored := fun i hi => (hb _).trans (k.stored i hi)
    kept := fun a ha => (hb _).trans (k.kept a ha)
    poison := by rw [h.rest]; exact k.poison
    rest := by rw [h.rest, State.plainStore_rest]; rfl }

/-- An instruction that stores bytes to memory, changes its tile, and nothing else of `s1`. -/
theorem opEnds_stored {s s1 : State} {t : TileId} {l : Level} {pc : Word} {i : Insn} {f : Flow} {y : Tile} {e : StoreEntry}
    (hb : i.branch = false) (hn : i.len = 4) (hf : f = .next ∨ f = .last ∨ ∃ r, f = .unit r) (hr : s1.replaying t = false) :
    TileStores s1 (opEnds s t l pc i (.ok f ((s1.setTile t y).plainStore e))) t (flowTile l pc f y) e.pa e.bytes :=
  TileStores.of_counts (opEnds_ok [e] hb hn hf hr)

/-- No replay starts with the translation of an address. -/
theorem Translates.not_replaying {s s1 : State} {t : TileId} {x : Tile} (k : Translates t (s.ran t x) s1) (h : Runs s t) :
    s1.replaying t = false := by rw [k.replaying, State.replaying_ran, h.2.2.2.1]

end Sys2Proof.Machine
end

section
/-! PROOFS. Packed fields in memory: DLD, DST and DADDM (spec/04 R146–R149). -/

namespace Sys2Proof.Machine

/-! ## Accesses within one page of plain memory, with the store buffer empty -/

section
variable {s s1 : State} {t : TileId} {a : Addr} {n : Nat} {xl : Xl}

theorem drainTile_nil (hb : (s.tile t).sbuf = []) : drainTile s t = s := by rw [drainTile, hb]; rfl

theorem poisonExc_none {pa : Nat} (hp : s.poisoned pa n = false) : poisonExc s pa n = none := by
  have e : (linesOf pa n).find? (fun l => s.poison.contains l) = none := by
    rw [List.find?_eq_none]
    exact List.any_eq_false.1 hp
  rw [poisonExc, e]

theorem readAt_plain (hb : (s.tile t).sbuf = []) (ht : xl.ty = .normal ∨ xl.ty = .brick)
    (hp : s.poisoned xl.pa n = false) : readAt s t a xl n = .ok (s.bytes xl.pa n) s := by
  have e : readNormal s t xl.pa n = .ok (s.bytes xl.pa n) s := by
    simp [readNormal, hb, lastOverlap, poisonExc_none hp]
  unfold readAt
  obtain ht | ht := ht <;> rw [ht] <;> exact e

theorem unitPlace_one {k : Acc} (hn : n ≠ 0) (hpc : pieces a n = [(a, n)])
    (hpl : place s t (dataCtx s t) k a n = .ok xl s1) : unitPlace s t k a n = .ok [(a, xl, n)] s1 := by
  rw [unitPlace, if_neg hn, hpc, placeAll, placePieces, hpl]
  rfl

theorem unitRead_one (hn : n ≠ 0) (hpc : pieces a n = [(a, n)]) (hpl : place s t (dataCtx s t) .unitLoad a n = .ok xl s1)
    (hb : (s1.tile t).sbuf = []) (ht : xl.ty = .normal ∨ xl.ty = .brick) (hp : s1.poisoned xl.pa n = false) :
    unitRead s t a n = .ok (s1.bytes xl.pa n) s1 := by
  rw [unitRead, unitPlace_one hn hpc hpl]
  show readAll s1 t [(a, xl, n)] = _
  rw [readAll, if_pos (by simp), readPieces, readAt_plain hb ht hp]
  simp [R.bind, readPieces]

/-- The store buffer entry of bytes that go to `x`. -/
def entryOf (x : Xl) (bs : List Byte) : StoreEntry :=
  { pa := x.pa, bytes := bs, device := decide (x.ty = .device), brick := decide (x.ty = .brick), via := x.via }

/-- A store performed at once, that joins no write set. -/
theorem storeNow_plain {bs : List Byte} (hb : (s.tile t).sbuf = []) (ht : xl.ty = .normal ∨ (xl.ty = .brick ∧ (s.tile t).tk = none))
    (hp : plainPa s xl.pa = true) : storeNow s t xl bs = s.plainStore (entryOf xl bs) := by
  rw [storeNow, drainTile_nil hb]
  refine storeEffect_plain hp fun hbr => ?_
  obtain ht | ht := ht
  · simp [ht] at hbr
  · exact ht.2

theorem writeAll_one {put_ : State → Xl → List Byte → State} {bs : List Byte} (h : bs.length = n) :
    writeAll put_ [(a, xl, n)] bs s = put_ s xl bs := by
  rw [writeAll, writeAll, List.take_of_length_le h.le]

theorem pushStore_room {bs : List Byte} (h : (s.tile t).sbuf.length < sbufSize) :
    pushStore s t xl bs = s.modTile t (fun y => { y with sbuf := y.sbuf ++ [entryOf xl bs] }) := by
  rw [pushStore, if_neg (Nat.not_le.2 h)]
  rfl

/-- The entries of a store of `n` bytes. -/
theorem lineRuns_entries {bs : List Byte} (h : bs.length = n) :
    (lineRuns xl bs).map (fun r => entryOf r.1 r.2) =
      if n ≤ 128 - xl.pa % 128 then [entryOf xl bs]
      else [entryOf xl (bs.take (128 - xl.pa % 128)),
        entryOf { xl with pa := xl.pa + (128 - xl.pa % 128) } (bs.drop (128 - xl.pa % 128))] := by
  unfold lineRuns
  rw [h]
  dsimp only
  split <;> rfl

/-- A store that enters an empty store buffer, an entry for each line. -/
theorem pushLines_nil {bs : List Byte} (hb : (s.tile t).sbuf = []) :
    pushLines t s xl bs = s.modTile t (fun y => { y with sbuf := (lineRuns xl bs).map (fun r => entryOf r.1 r.2) }) := by
  have h1 : ∀ x b, pushStore s t x b = s.modTile t (fun y => { y with sbuf := [entryOf x b] }) := fun x b => by
    rw [pushStore_room (by rw [hb]; decide)]
    simp only [State.modTile, hb, List.nil_append]
  unfold pushLines lineRuns
  dsimp only
  split
  · exact h1 ..
  · rw [List.foldl_cons, h1, List.foldl_cons, List.foldl_nil, pushStore_room (by simp [sbufSize]), State.modTile_modTile]
    rfl

end

@[simp] theorem Tile.noted_sbuf (x : Tile) (m : BitVec 8) (b : Bool) : (x.noted m b).sbuf = x.sbuf := by cases b <;> rfl

/-! ## Results that fit -/

theorem finishDec_fits {z : Bool} {v : Dec} {lim : Nat} (h : v.mag < lim) :
    finishDec z v lim = ({ neg := v.neg && (z || decide (v.mag ≠ 0)), mag := v.mag }, false) := by
  rw [finishDec, Nat.mod_eq_of_lt h, decide_eq_false (Nat.not_le.2 h)]

theorem finishD_fits {t : TileId} {r : BitVec 4} {v : Dec} {s : State} (h : v.mag < decLimit) :
    finishD t r v s =
      .ok .next (s.modTile t (fun x => x.setD r (decReg (v.neg && ((s.tile t).keepz || decide (v.mag ≠ 0))) v.mag))) := by
  rw [finishD, finishDec_fits h]
  rfl

/-! ## Packed loads and stores -/

section
variable {s s1 : State} {t : TileId} {r : BitVec 4} {a : Addr} {n : Nat} {xl : Xl}

/-- A packed load of a field of at most 16 bytes: its value, or the first bad nibble. -/
theorem packedLoad_one (hn : n ≠ 0) (hn' : n ≤ 16) (hpc : pieces a n = [(a, n)])
    (hpl : place s t (dataCtx s t) .unitLoad a n = .ok xl s1) (hb : (s1.tile t).sbuf = [])
    (ht : xl.ty = .normal ∨ xl.ty = .brick) (hp : s1.poisoned xl.pa n = false) :
    packedLoad t r a n s = match Says.fieldBad (s1.bytes xl.pa n) with
      | some p => .exc (packedFault a p) s1
      | none =>
        let v := Says.fieldValue (s1.bytes xl.pa n)
        .ok .next (s1.modTile t (fun x => x.setD r (decReg (v.neg && ((s1.tile t).keepz || decide (v.mag ≠ 0))) v.mag))) := by
  rw [packedLoad, packedRead, unitRead_one hn hpc hpl hb ht hp, fieldBad_eq, R.bind]
  cases hbad : badNibble (s1.bytes xl.pa n) with
  | some p => rfl
  | none =>
    have hv := fieldValue_lt ((fieldBad_eq _).trans hbad)
    rw [State.bytes_length] at hv
    show finishD t r (fieldVal (s1.bytes xl.pa n)) s1 = _
    rw [fieldVal_eq, finishD_fits (hv.trans_le (Nat.pow_le_pow_right (by decide) (by omega)))]

/-- A packed store: the register's low digits, with DOVF where it has more. -/
theorem packedStore_one {put_ : List (Addr × Xl × Nat) → List Byte → State → State} (hn : n ≠ 0) (hpc : pieces a n = [(a, n)])
    (hpl : place s t (dataCtx s t) .unitStore a n = .ok xl s1) :
    let v := decVal ((s1.tile t).d r)
    let m := v.mag % 10 ^ (2 * n - 1)
    let ov := decide (10 ^ (2 * n - 1) ≤ v.mag)
    ov = false ∨ (s1.tile t).dovt = false →
      packedStore t r a n put_ s = .ok .next (put_ [(a, xl, n)]
        (Says.fieldBytes n (v.neg && ((s1.tile t).keepz || decide (m ≠ 0))) m) (s1.modTile t (fun x => x.noted dDOVF ov))) := by
  intro v m ov hov
  have hno : ¬ (ov && (s1.tile t).dovt) = true := by simpa [or_iff_not_imp_left] using hov
  rw [packedStore, unitPlace_one hn hpc hpl, R.bind, decOver_eq, fieldBytes_eq]
  exact if_neg hno

end

/-! ## DLD, DST and DADDM -/

theorem fieldLen_bounds (len : BitVec 3) : Says.fieldLen len.toNat ≠ 0 ∧ Says.fieldLen len.toNat ≤ 16 := by
  revert len; decide
theorem dldLen_eq (len : BitVec 3) : dldLen len = Says.fieldLen len.toNat := by revert len; decide
theorem addLen_le (len : BitVec 2) : Says.addLen len.toNat ≤ 16 := by revert len; decide
theorem daddmLen_eq (len : BitVec 2) : daddmLen len = Says.addLen len.toNat := by revert len; decide

theorem exec_dld (t : TileId) (g : Guard) (len : BitVec 3) (r base : BitVec 4) (disp : BitVec 12) (s : State) :
    ∃ body, exec (.dld t g len r base disp) s = .next (tileOp s t { g := g } body) ∧
      ∀ s0 : State, body s0 = packedLoad t r (refAddr (s0.tile t) (.mform base disp)) (Says.fieldLen len.toNat) s0 :=
  ⟨_, rfl, fun _ => by rw [dldLen_eq]⟩

theorem exec_dst (t : TileId) (g : Guard) (len : BitVec 3) (r base : BitVec 4) (disp : BitVec 12) (s : State) :
    ∃ body, exec (.dst t g len r base disp) s = .next (tileOp s t { g := g } body) ∧
      ∀ s0 : State, body s0 = packedStore t r (refAddr (s0.tile t) (.mform base disp)) (Says.fieldLen len.toNat)
        (writeAll (pushLines t)) s0 :=
  ⟨_, rfl, fun _ => by rw [dldLen_eq]⟩

theorem exec_daddm (t : TileId) (g : Guard) (len : BitVec 2) (r base : BitVec 4) (disp : BitVec 12) (s : State) :
    ∃ body, exec (.daddm t g len r base disp) s = .next (tileOp s t { g := g } body) ∧
      ∀ s0 : State, body s0 = daddmBody t r (refAddr (s0.tile t) (.mform base disp)) (Says.addLen len.toNat) s0 :=
  ⟨_, rfl, fun _ => by rw [daddmLen_eq]⟩

section
variable {s s1 : State} {t : TileId} {g : Guard} {r base : BitVec 4} {disp : BitVec 12} {xl : Xl} (h : Runs s t)
  (hg : (s.tile t).guard g = true)
include h hg

/-- An instruction that changes its tile once it has translated an address. -/
theorem tileOp_only {y : Tile} {body : State → R Flow} (k : Translates t (s.ran t (s.tile t).ready) s1)
    (hb : body (s.ran t (s.tile t).ready) = .ok .next (s1.setTile t y)) :
    TileOnly s1 (tileOp s t { g := g } body) t (y.stepped (s.tile t).lvl ((s.tile t).pc + 4)) := by
  rw [tileOp_ends h hg, hb]
  exact opEnds_only rfl rfl (.inl rfl) (k.not_replaying h)

/-- An instruction that stores bytes to memory and changes its tile once it has translated an address. -/
theorem tileOp_stored {y : Tile} {body : State → R Flow} {e : StoreEntry}
    (k : Translates t (s.ran t (s.tile t).ready) s1)
    (hb : body (s.ran t (s.tile t).ready) = .ok .next ((s1.setTile t y).plainStore e)) :
    TileStores s1 (tileOp s t { g := g } body) t (y.stepped (s.tile t).lvl ((s.tile t).pc + 4)) e.pa e.bytes := by
  rw [tileOp_ends h hg, hb]
  exact opEnds_stored rfl rfl (.inl rfl) (k.not_replaying h)

/-- An instruction that raises an exception once it has translated an address. -/
theorem tileOp_faults {y : Tile} {body : State → R Flow} {e : Exc} (h1 : Runs s1 t)
    (hb : body (s.ran t (s.tile t).ready) = .exc e (s1.setTile t y)) :
    tileOp s t { g := g } body = stopCheck (enter (s1.setTile t y) t e false y.pc) t := by
  rw [tileOp_ends h hg, hb, opEnds_exc y h1]

end

theorem State.setTile_self (s : State) (t : TileId) : s.setTile t (s.tile t) = s := State.modTile_same (f := id) rfl

/-- The address whose line DADDM looks at (spec/04 R149). -/
def Addr.lineAt (xl : Xl) : Addr → Nat
  | .brick _ _ => xl.pa
  | .virt va => va.toNat

/-- DADDM's checks of its place passed. -/
theorem daddmBody_placed {s s1 : State} {t : TileId} {r : BitVec 4} {a : Addr} {n : Nat} {xl : Xl}
    (hpl : place s t (dataCtx s t) .atomic a n = .ok xl s1) (hl : a.lineAt xl % 128 + n ≤ 128) :
    daddmBody t r a n s = daddmAt t r a n xl s1 := by
  unfold daddmBody
  cases a with
  | brick k off =>
    have e : brickXl s t .atomic k off n = .ok xl s1 := hpl
    simp only [e, R.bind]
    exact if_neg (by simpa [Addr.lineAt] using hl)
  | virt va =>
    have e : translate s t .data (dataCtx s t) .atomic va n = .ok xl s1 := hpl
    simp only [e, R.bind]
    exact if_neg (by simpa [Addr.lineAt] using hl)

/-- The sum that DADDM forms, of a valid field of at most 16 bytes: too long for the field, or stored there. -/
theorem daddmAt_valid {s : State} {t : TileId} {r : BitVec 4} {a : Addr} {n : Nat} {xl : Xl} (hb : (s.tile t).sbuf = [])
    (hp : s.poisoned xl.pa n = false) (hf : Says.fieldBad (s.bytes xl.pa n) = none) (hn : n ≤ 16)
    (ht : xl.ty = .normal ∨ xl.ty = .brick) :
    let v := Says.fieldValue (s.bytes xl.pa n)
    let w := Says.sum v (decVal ((s.tile t).d r))
    let load (x : Tile) : Tile := x.setD r (decReg (v.neg && ((s.tile t).keepz || decide (v.mag ≠ 0))) v.mag)
    (10 ^ (2 * n - 1) ≤ w.2 → daddmAt t r a n xl s =
      decOver t true 0 (fun u => put t load (if xl.ty = .brick then brickWrite u (s.tile t).tk xl.pa n else u)) s) ∧
    (w.2 < 10 ^ (2 * n - 1) → daddmAt t r a n xl s =
      put t load (storeNow s t xl (Says.fieldBytes n (w.1 && ((s.tile t).keepz || decide (w.2 ≠ 0))) w.2))) := by
  intro v w load
  have hv := fieldValue_lt hf
  rw [State.bytes_length] at hv
  have old := finishDec_fits (z := (s.tile t).keepz) (hv.trans_le (Nat.pow_le_pow_right (by decide) (by omega : 2 * n - 1 ≤ 31)))
  have e : daddmAt t r a n xl s =
      let f := finishDec (s.tile t).keepz { neg := w.1, mag := w.2 } (10 ^ (2 * n - 1))
      if f.2 then decOver t true 0 (fun u => put t load (if xl.ty = .brick then brickWrite u (s.tile t).tk xl.pa n else u)) s
      else put t load (storeNow s t xl (beBytes n (packDec (2 * n - 1) f.1.neg f.1.mag))) := by
    rw [daddmAt, drainTile_nil hb, readAt_plain hb ht hp, R.bind, ← fieldBad_eq, hf]
    simp only [fieldVal_eq, Dec.add_eq_sum, decLimit, old]
    rfl
  refine ⟨fun ho => e.trans (if_pos (decide_eq_true ho)), fun hw => e.trans ?_⟩
  rw [finishDec_fits hw, fieldBytes_eq]
  rfl

/-- Settles O30: DLD by `packedLoad_one`, DST by `packedStore_one`, DADDM by `daddmAt_valid`. -/
theorem decimalFields : Obligations.DecimalFields := by
  intro t g r base disp s s1 xl h hg hs x s0 a done keep ovf y
  have clean {k : Acc} {n : Nat} (hpl : place s0 t (dataCtx s0 t) k a n = .ok xl s1) :
      Translates t s0 s1 ∧ (s1.tile t).sbuf = [] ∧ (s1.tile t).keepz = x.keepz ∧ (s1.tile t).dovt = x.dovt ∧
        (s1.tile t).d r = x.d r ∧ (s1.tile t).tk = x.tk := by
    have k := Translates.place hpl
    have hx : s0.tile t = x := State.tile_ran_self ..
    refine ⟨k, ?_, ?_, ?_, ?_, ?_⟩
    · rw [k.sbuf, hx, Tile.ready_sbuf, hs]
    · rw [k.keepz, hx]
    · rw [k.dovt, hx]
    · rw [k.d, hx]
    · rw [k.tk, hx]
  have ha : refAddr (s0.tile t) (.mform base disp) = a := by rw [State.tile_ran_self]
  refine ⟨fun len => ?_, fun len => ?_, fun len => ?_, fun len => ?_⟩
  · intro n hpc hpl ht hp bs v
    obtain ⟨k, hb, hz, -⟩ := clean hpl
    obtain ⟨body, he, hbody⟩ := exec_dld t g len r base disp s
    have e := (hbody s0).trans (by rw [ha, packedLoad_one (fieldLen_bounds len).1 (fieldLen_bounds len).2 hpc hpl hb ht hp, hz])
    refine ⟨fun hf => ⟨_, he, tileOp_only h hg k (e.trans (by rw [hf]; rfl))⟩,
      fun p hf h1 => ⟨packedFault a p, rfl, rfl, rfl, ?_⟩⟩
    rw [he, tileOp_faults (y := y) h hg h1 (e.trans (by rw [hf, State.setTile_self])), State.setTile_self]
  · intro n hpc hpl hno v m bs e k q
    obtain ⟨kt, hb, hz, hd, hr, -⟩ := clean hpl
    obtain ⟨body, he, hbody⟩ := exec_dst t g len r base disp s
    refine ⟨_, he, tileOp_only h hg kt ((hbody s0).trans ?_)⟩
    rw [ha, packedStore_one (fieldLen_bounds len).1 hpc hpl (.inr (hd.trans hno)), writeAll_one (fieldBytes_length ..),
      pushLines_nil (by simp [hb]), State.modTile_modTile, lineRuns_entries (fieldBytes_length ..), hz, hr]
    rfl
  · intro n hpl hl hno ht hpa hp hf v w z
    obtain ⟨k, hb, hz, hd, hr, hk⟩ := clean hpl
    obtain ⟨body, he, hbody⟩ := exec_daddm t g len r base disp s
    obtain ⟨long, fits⟩ := daddmAt_valid (a := a) (r := r) hb hp hf (addLen_le len) (ht.imp_right And.left)
    rw [hr, hz] at long fits
    have e := (hbody s0).trans (by rw [ha, daddmBody_placed hpl hl])
    refine ⟨fun hw => ⟨_, he, ?_⟩, fun hw => ⟨_, he, tileOp_only h hg k (e.trans ?_)⟩⟩
    · refine tileOp_stored h hg (e := entryOf xl (Says.fieldBytes n (keep w.1 w.2) w.2)) k (e.trans ?_)
      rw [fits hw, storeNow_plain hb (by rwa [hk]) hpa]
      exact congrArg (R.ok Flow.next) (State.plainStores_modTile s1 [_] t _)
    · have none_joins : ∀ u, (if xl.ty = .brick then brickWrite u (s1.tile t).tk xl.pa n else u) = u := fun u => by
        obtain ht | ⟨-, ht⟩ := ht
        · rw [ht]; rfl
        · rw [hk, ht]; exact ite_self _
      rw [long hw, decOver_eq, hd, if_neg (by simp [show x.dovt = false from hno])]
      simp only [none_joins, put, State.modTile_modTile]
      rfl
  · intro n hpl hl hyes ht hp hf ho h1
    obtain ⟨k, hb, hz, hd, hr, hk⟩ := clean hpl
    obtain ⟨body, he, hbody⟩ := exec_daddm t g len r base disp s
    obtain ⟨long, -⟩ := daddmAt_valid (a := a) (r := r) hb hp hf (addLen_le len) ht
    rw [hr] at long
    have e := (hbody s0).trans (by rw [ha, daddmBody_placed hpl hl, long ho, decOver_eq, hd,
      if_pos (by simp [show x.dovt = true from hyes])])
    rw [he, tileOp_faults h hg h1 e, Tile.noted_pc]
    rfl

end Sys2Proof.Machine
end

section
/-! PROOFS. Bytes of character and zoned fields: what a unit reads and writes (spec/04 Table 4-15). -/

namespace Sys2Proof.Machine

/-- What a byte reads as: digits and signs, `none` where it is invalid. -/
def XByte.reads : XByte → Option (List Nat × List Bool)
  | .digit n => some ([n], [])
  | .sign m => some ([], [m])
  | .both n m => some ([n], [m])
  | .bad => none

theorem chDigit_reads (b : Nat) :
    (chDigit b).reads = if 0x30 ≤ b ∧ b ≤ 0x39 then some ([b - 0x30], []) else none := by
  simp only [chDigit, inRange, decide_eq_true_eq, apply_ite XByte.reads]
  rfl

theorem chSign_reads (fmt b : Nat) :
    let signs := if fmt = 4 then (0x43, 0x44) else (0x2B, 0x2D)
    (chSign fmt b).reads = if b = signs.1 then some ([], [false]) else if b = signs.2 then some ([], [true]) else none := by
  simp only [chSign, apply_ite XByte.reads]
  rfl

theorem xByte_reads {fmt : Nat} (h0 : fmt ≠ 0) (h5 : fmt ≤ 5) (first last : Bool) (b : Nat) :
    (xByte fmt first last b).reads = Says.zByte fmt first last b := by
  have cases5 : fmt = 1 ∨ fmt = 2 ∨ fmt = 3 ∨ fmt = 4 ∨ fmt = 5 := by omega
  obtain rfl | rfl | rfl | rfl | rfl := cases5
  · exact chDigit_reads b
  · cases first
    · exact chDigit_reads b
    · exact chSign_reads 2 b
  · cases last
    · cases first <;> exact chDigit_reads b
    · cases first <;> exact chSign_reads 3 b
  · cases first
    · exact chDigit_reads b
    · exact chSign_reads 4 b
  · simp only [xByte, Says.zByte, if_true]
    split
    · rfl
    · cases last
      · simp only [Bool.not_false, if_true, Bool.false_eq_true, if_false, List.mem_cons, List.not_mem_nil, or_false]
        split <;> rfl
      · simp only [Bool.not_true, Bool.false_eq_true, if_false, if_true, List.mem_cons, List.not_mem_nil, or_false]
        by_cases minus : b / 16 = 0xB ∨ b / 16 = 0xD
        · rw [if_pos minus, if_neg (by omega), if_pos minus]
          rfl
        · rw [if_neg minus, if_neg minus]
          simp only [apply_ite XByte.reads]
          rfl

theorem xPutByte_eq {fmt : Nat} (h0 : fmt ≠ 0) (h5 : fmt ≤ 5) (first neg : Bool) (mag k : Nat) :
    xPutByte fmt first neg mag k = Says.zPut fmt first neg mag k := by
  have cases5 : fmt = 1 ∨ fmt = 2 ∨ fmt = 3 ∨ fmt = 4 ∨ fmt = 5 := by omega
  obtain rfl | rfl | rfl | rfl | rfl := cases5
  · rfl
  · cases first <;> rfl
  · unfold xPutByte Says.zPut
    cases first <;> by_cases hk : k = 1 <;> simp [hk]
  · cases first <;> rfl
  · unfold xPutByte Says.zPut
    by_cases hk : k = 1 <;> simp [hk]

/-- The digits that bytes give, and the signs. -/
def digitsOf (zs : List (Option (List Nat × List Bool))) : List Nat := zs.flatMap (fun q => (q.getD ([], [])).1)
def signsOf (zs : List (Option (List Nat × List Bool))) : List Bool := zs.flatMap (fun q => (q.getD ([], [])).2)

/-- Byte `j` of those that a scan has before it at place `i` of the field. -/
def scanAt (fmt : Nat) (start : Bool) (len i : Nat) (bs : List Byte) (j : Nat) : Option (List Nat × List Bool) :=
  (xByte fmt (start && decide (i + j = 0)) (decide (i + j + 1 = len)) (bs.getD j 0).toNat).reads

theorem scanAt_zero (fmt : Nat) (start : Bool) (len i : Nat) (b : Byte) (bs : List Byte) :
    scanAt fmt start len i (b :: bs) 0 =
      (xByte fmt (start && decide (i = 0)) (decide (i + 1 = len)) b.toNat).reads := rfl

theorem scanAt_succ (fmt : Nat) (start : Bool) (len i : Nat) (b : Byte) (bs : List Byte) (j : Nat) :
    scanAt fmt start len i (b :: bs) (j + 1) = scanAt fmt start len (i + 1) bs j := by
  unfold scanAt
  rw [List.getD_cons_succ, show i + (j + 1) = i + 1 + j by omega]

/-- A scan of valid bytes: their digits appended, and the last sign. -/
theorem xScan_valid {fmt len : Nat} {start : Bool} {bs : List Byte} : ∀ {i acc : Nat} {neg : Bool},
    (∀ j, j < bs.length → (scanAt fmt start len i bs j).isSome = true) →
    let zs := (List.range bs.length).map (scanAt fmt start len i bs)
    xScan fmt start len i bs acc neg =
      .inr ((digitsOf zs).foldl (fun v k => v * 10 + k) acc, (signsOf zs).getLastD neg) := by
  induction bs with
  | nil => intro i acc neg _; rfl
  | cons b bs ih =>
    intro i acc neg h zs
    have hz : zs = scanAt fmt start len i (b :: bs) 0 :: (List.range bs.length).map (scanAt fmt start len (i + 1) bs) := by
      simp only [zs, List.length_cons, List.range_succ_eq_map, List.map_cons, List.map_map, Function.comp_def,
        Nat.succ_eq_add_one, scanAt_succ]
    have hrest : ∀ j, j < bs.length → (scanAt fmt start len (i + 1) bs j).isSome = true := fun j hj => by
      rw [← scanAt_succ]
      exact h (j + 1) (by simpa using hj)
    have hfirst := h 0 (by simp)
    rw [hz, xScan]
    rw [scanAt_zero] at hfirst ⊢
    cases he : xByte fmt (start && decide (i = 0)) (decide (i + 1 = len)) b.toNat with
    | digit n => exact ih hrest
    | sign m | both n m =>
      simp only [ih hrest]
      exact congrArg (fun q => Sum.inr (Prod.mk _ q)) (List.getLastD_cons ..).symm
    | bad => simp [he, XByte.reads] at hfirst

/-- A scan of bytes of which `k` is the first that is invalid. -/
theorem xScan_invalid {fmt len : Nat} {start : Bool} {bs : List Byte} : ∀ {i k acc : Nat} {neg : Bool}, k < bs.length →
    scanAt fmt start len i bs k = none → (∀ j, j < k → (scanAt fmt start len i bs j).isSome = true) →
    xScan fmt start len i bs acc neg = .inl (i + k) := by
  induction bs with
  | nil => intro i k acc neg hk; exact absurd hk (by simp)
  | cons b bs ih =>
    intro i k acc neg hk bad good
    rw [xScan]
    cases k with
    | zero =>
      rw [scanAt_zero] at bad
      cases he : xByte fmt (start && decide (i = 0)) (decide (i + 1 = len)) b.toNat with
      | bad => rfl
      | _ => simp [he, XByte.reads] at bad
    | succ k =>
      have hfirst := good 0 (by omega)
      rw [scanAt_succ] at bad
      have rest : ∀ acc neg, xScan fmt start len (i + 1) bs acc neg = .inl (i + (k + 1)) := fun acc neg => by
        rw [ih (by simpa using hk) bad fun j hj => by rw [← scanAt_succ]; exact good (j + 1) (by omega)]
        congr 1
        omega
      rw [scanAt_zero] at hfirst
      cases he : xByte fmt (start && decide (i = 0)) (decide (i + 1 = len)) b.toNat with
      | bad => simp [he, XByte.reads] at hfirst
      | _ => exact rest _ _

end Sys2Proof.Machine
end

section
/-! PROOFS. One unit of DLDX and of DSTX (spec/04 R150–R157). -/

namespace Sys2Proof.Machine

/-! ## Registers that a unit does not touch -/

theorem Tile.g_setD (x : Tile) (r : BitVec 4) (v : BitVec 128) (q : BitVec 5) : (x.setD r v).g q = x.g q := by
  simp only [Tile.g, Tile.setD, Tile.cur_modBank]

@[simp] theorem Tile.g_noted (x : Tile) (m : BitVec 8) (b : Bool) (q : BitVec 5) : (x.noted m b).g q = x.g q := by
  cases b
  · rfl
  · simp only [Tile.noted_true, Tile.g, Tile.cur_orD]

@[simp] theorem Tile.noted_tk (x : Tile) (m : BitVec 8) (b : Bool) : (x.noted m b).tk = x.tk := by cases b <;> rfl

/-- The tile of a long instruction as its units find it: a control word that has begun marks it (spec/04 R154). -/
def Tile.begun (x : Tile) (gb : BitVec 5) : Tile := if (x.g gb).getLsbD 63 then { x with long := some gb } else x

theorem Tile.begun_sbuf (x : Tile) (gb : BitVec 5) : (x.begun gb).sbuf = x.sbuf := by unfold Tile.begun; split <;> rfl
theorem Tile.begun_tk (x : Tile) (gb : BitVec 5) : (x.begun gb).tk = x.tk := by unfold Tile.begun; split <;> rfl
theorem Tile.begun_cur (x : Tile) (gb : BitVec 5) : (x.begun gb).cur = x.cur := by unfold Tile.begun; split <;> rfl

theorem brickXl_ok {s s' : State} {t : TileId} {k : Acc} {slot : Fin 4} {off n : Nat} {p : Xl}
    (h : brickXl s t k slot off n = .ok p s') : s' = s := by
  unfold brickXl at h
  dsimp only at h
  split at h
  · cases h
  · split at h
    · cases h
    · split at h <;> cases h
      rfl

theorem longStart_nil {s : State} {t : TileId} {gb : BitVec 5} {k : State → R Flow} (hs : (s.tile t).sbuf = []) :
    longStart s t gb k = k (s.modTile t (fun x => x.begun gb)) := by
  unfold longStart
  rw [drainTile_nil hs, ite_self]
  rfl

/-- The checks of a unit passed: what follows, with the descriptor and the address. -/
theorem xStart_valid {s : State} {t : TileId} {wr : Bool} {ga gb : BitVec 5} {x : Tile} {k : XDesc → Addr → State → R Flow}
    (hs : x.sbuf = []) :
    let d := xDesc (x.g gb)
    let a := baseAddr d.base (x.g ga)
    let s0 := s.ran t (x.begun gb)
    d.invalid ga gb = false →
    (∀ slot off, a = .brick slot off → ∃ p q, brickXl s0 t (if wr then .unitStore else .unitLoad) slot off d.len = .ok p q) →
    xStart t wr ga gb k (s.ran t x) = k d a s0 := by
  intro d a s0 hd hbr
  rw [xStart, State.tile_ran_self, if_neg (by simpa using hd), longStart_nil (by rw [State.tile_ran_self, hs]), State.modTile_ran]
  cases ha : baseAddr (xDesc (x.g gb)).base (x.g ga) with
  | virt va =>
    show k d (.virt va) s0 = _
    rw [← ha]
  | brick slot off =>
    obtain ⟨p, q, e⟩ := hbr slot off ha
    obtain rfl := brickXl_ok e
    show (Machine.brickXl _ _ _ _ _ _).bind _ = _
    rw [e]
    show k d (.brick slot off) s0 = _
    rw [← ha]

theorem XDesc.lenOk_bounds {d : XDesc} (h : d.lenOk = true) : d.len ≠ 0 ∧ (d.fmt = 0 → d.len ≤ 16) := by
  unfold XDesc.lenOk inRange at h
  split at h
  · simp only [decide_eq_true_eq] at h
    omega
  · split at h <;> simp only [decide_eq_true_eq] at h <;> omega

/-- What a valid descriptor says of its format and length (R151). -/
theorem XDesc.valid {d : XDesc} {ga gb : BitVec 5} (h : d.invalid ga gb = false) :
    d.fmt ≤ 5 ∧ d.len ≠ 0 ∧ (d.fmt = 0 → d.prog = false ∧ d.len ≤ 16) := by
  simp only [XDesc.invalid, Bool.or_eq_false_iff, decide_eq_false_iff_not] at h
  obtain ⟨⟨⟨⟨-, hf⟩, first⟩, later⟩, -⟩ := h
  cases hp : d.prog with
  | false =>
    obtain ⟨h0, h16⟩ := XDesc.lenOk_bounds (d := d) (by simpa [hp] using first)
    exact ⟨by omega, h0, fun e => ⟨rfl, h16 e⟩⟩
  | true =>
    have h0 : ¬ (d.len = 0 ∨ d.fmt = 0) := by simpa [hp] using later
    exact ⟨by omega, fun e => h0 (.inl e), fun e => absurd (.inr e) h0⟩

/-! ## A unit's effect -/

section
variable {s s1 : State} {t : TileId} {r : BitVec 4} {ga gb : BitVec 5} {d : XDesc} {a : Addr} {n : Nat} {xl : Xl} {w : Word}

/-- The control registers after a unit. -/
def xAfter (ga gb : BitVec 5) (w : Word) (n left : Nat) (neg : Bool) (y : Tile) : Tile :=
  (y.setG ga (y.g ga + BitVec.ofNat 64 n)).setG gb (Says.xWord w left neg)

theorem xAdvance_eq {left : Nat} {neg : Bool} {y : Tile} (hw : y.g gb = w) :
    xAdvance ga gb n left neg y = xAfter ga gb w n left neg y := by
  rw [xAdvance, hw]
  rfl

/-- A unit's bytes stored at once, to memory that no write set holds, and its tile changed. -/
theorem unitWrite_plain {bs : List Byte} {m : BitVec 8} {ov : Bool} {f : Tile → Tile} (hl : bs.length = n)
    (hb : (s.tile t).sbuf = []) (ht : xl.ty = .normal ∨ (xl.ty = .brick ∧ (s.tile t).tk = none))
    (hpa : plainPa s xl.pa = true) :
    (unitWrite t [(a, xl, n)] bs (s.modTile t (fun y => y.noted m ov))).modTile t f =
      (s.modTile t (fun y => f (y.noted m ov))).plainStore (entryOf xl bs) := by
  rw [unitWrite, writeAll_one hl, storeNow_plain (s := s.modTile t _) (by simp [hb]) (by simpa using ht)
    ((plainPa_congr rfl _).trans hpa)]
  exact (State.plainStores_modTile _ [_] t f).trans (congrArg (State.plainStore · _) (State.modTile_modTile ..))

/-- A packed field loaded as one unit. -/
theorem xPacked_load (hn : n ≠ 0) (hn' : n ≤ 16) (hpc : pieces a n = [(a, n)])
    (hpl : place s t (dataCtx s t) .unitLoad a n = .ok xl s1) (hb : (s1.tile t).sbuf = [])
    (ht : xl.ty = .normal ∨ xl.ty = .brick) (hp : s1.poisoned xl.pa n = false) (hw : (s1.tile t).g gb = w) (hd : d.len = n)
    (hf : Says.fieldBad (s1.bytes xl.pa n) = none) :
    let v := Says.fieldValue (s1.bytes xl.pa n)
    let left := d.len - n
    xPacked t ga gb d (packedLoad t r a d.len s) = .ok (xFlow gb left) (s1.modTile t (fun y => xAfter ga gb w n left false
      (y.setD r (decReg (v.neg && ((s1.tile t).keepz || decide (v.mag ≠ 0))) v.mag)))) := by
  intro v left
  have h0 : left = 0 := by simp [left, hd]
  rw [h0, hd, packedLoad_one hn hn' hpc hpl hb ht hp, hf, xPacked, hd]
  show R.ok _ ((s1.modTile t _).modTile t _) = _
  rw [State.modTile_modTile, State.modTile, State.modTile, xAdvance_eq (by rw [Tile.g_setD, hw])]
  rfl

/-- A packed field stored as one unit, to memory that no write set holds. -/
theorem xPacked_store (hn : n ≠ 0) (hpc : pieces a n = [(a, n)])
    (hpl : place s t (dataCtx s t) .unitStore a n = .ok xl s1) (hb : (s1.tile t).sbuf = [])
    (ht : xl.ty = .normal ∨ (xl.ty = .brick ∧ (s1.tile t).tk = none)) (hpa : plainPa s1 xl.pa = true)
    (hw : (s1.tile t).g gb = w) (hd : d.len = n) :
    let v := decVal ((s1.tile t).d r)
    let m := v.mag % 10 ^ (2 * n - 1)
    let ov := decide (10 ^ (2 * n - 1) ≤ v.mag)
    let left := d.len - n
    ov = false ∨ (s1.tile t).dovt = false →
      xPacked t ga gb d (packedStore t r a d.len (unitWrite t) s) =
        .ok (xFlow gb left) ((s1.modTile t (fun y => xAfter ga gb w n left false (y.noted dDOVF ov))).plainStore
          (entryOf xl (Says.fieldBytes n (v.neg && ((s1.tile t).keepz || decide (m ≠ 0))) m))) := by
  intro v m ov left hov
  have h0 : left = 0 := by simp [left, hd]
  rw [h0, hd, packedStore_one hn hpc hpl hov, xPacked, hd]
  show R.ok _ ((unitWrite t _ _ _).modTile t _) = _
  rw [unitWrite_plain (fieldBytes_length ..) hb ht hpa, State.modTile, State.modTile, xAdvance_eq (by rw [Tile.g_noted, hw])]
  rfl

/-- A unit of a character or zoned field read: its digits appended, with the sign at the field's end (R156, R157). -/
theorem dldxUnit_scanned {m : Nat} {neg : Bool} (hx : xUnit d a = n) (hn : n ≠ 0) (hpc : pieces a n = [(a, n)])
    (hpl : place s t (dataCtx s t) .unitLoad a n = .ok xl s1) (hb : (s1.tile t).sbuf = [])
    (ht : xl.ty = .normal ∨ xl.ty = .brick) (hp : s1.poisoned xl.pa n = false) (hw : (s1.tile t).g gb = w)
    (scan : xScan d.fmt (!d.prog) d.len 0 (s1.bytes xl.pa n) (if d.prog then (decVal ((s1.tile t).d r)).mag else 0)
      (d.prog && d.neg) = .inr (m, neg)) :
    let left := d.len - n
    let ov := decide (decLimit ≤ m)
    let sign := decide (left = 0) && (neg && ((s1.tile t).keepz || decide (m % decLimit ≠ 0)))
    ov = false ∨ (s1.tile t).dovt = false →
      dldxUnit t r ga gb d a s = .ok (xFlow gb left)
        (s1.modTile t (fun y => xAfter ga gb w n left neg ((y.noted dDOVF ov).setD r (decReg sign (m % decLimit))))) := by
  intro left ov sign hov
  have hno : ¬ (ov && (s1.tile t).dovt) = true := by simpa [or_iff_not_imp_left] using hov
  have hv : (if left = 0 then decReg (neg && ((s1.tile t).keepz || decide (m % decLimit ≠ 0))) (m % decLimit)
      else decReg false (m % decLimit)) = decReg sign (m % decLimit) := by
    split <;> simp [sign, *]
  rw [dldxUnit, hx, unitRead_one hn hpc hpl hb ht hp, R.bind]
  dsimp only
  rw [scan, ← hv]
  show decOver t ov 0 _ s1 = _
  rw [decOver_eq, if_neg hno, State.modTile_modTile, State.modTile, State.modTile,
    xAdvance_eq (by rw [Tile.g_setD, Tile.g_noted, hw])]
  rfl

/-- What a unit's scan reads, by Table 4-15. -/
theorem scanAt_eq_zByte (hf0 : d.fmt ≠ 0) (hf5 : d.fmt ≤ 5) (bs : List Byte) :
    scanAt d.fmt (!d.prog) d.len 0 bs =
      fun i => Says.zByte d.fmt (!d.prog && decide (i = 0)) (decide (i + 1 = d.len)) (bs.getD i 0).toNat := by
  funext i
  rw [scanAt, xByte_reads hf0 hf5, Nat.zero_add]

/-- A unit of a character or zoned field of valid bytes, read (R153). -/
theorem dldxUnit_valid (hf0 : d.fmt ≠ 0) (hf5 : d.fmt ≤ 5) (hx : xUnit d a = n) (hn : n ≠ 0) (hpc : pieces a n = [(a, n)])
    (hpl : place s t (dataCtx s t) .unitLoad a n = .ok xl s1) (hb : (s1.tile t).sbuf = [])
    (ht : xl.ty = .normal ∨ xl.ty = .brick) (hp : s1.poisoned xl.pa n = false) (hw : (s1.tile t).g gb = w) :
    let z (i : Nat) := Says.zByte d.fmt (!d.prog && decide (i = 0)) (decide (i + 1 = d.len)) ((s1.bytes xl.pa n).getD i 0).toNat
    let zs := (List.range n).map z
    let m := (digitsOf zs).foldl (fun v k => v * 10 + k) (if d.prog then (decVal ((s1.tile t).d r)).mag else 0)
    let neg := (signsOf zs).getLastD (d.prog && d.neg)
    let left := d.len - n
    let ov := decide (decLimit ≤ m)
    let sign := decide (left = 0) && (neg && ((s1.tile t).keepz || decide (m % decLimit ≠ 0)))
    (∀ i, i < n → (z i).isSome = true) → ov = false ∨ (s1.tile t).dovt = false →
      dldxUnit t r ga gb d a s = .ok (xFlow gb left)
        (s1.modTile t (fun y => xAfter ga gb w n left neg ((y.noted dDOVF ov).setD r (decReg sign (m % decLimit))))) := by
  intro z zs m neg left ov sign hz
  refine dldxUnit_scanned hx hn hpc hpl hb ht hp hw ?_
  rw [xScan_valid (by rwa [State.bytes_length, scanAt_eq_zByte hf0 hf5]), State.bytes_length, scanAt_eq_zByte hf0 hf5]

/-- A unit of a character or zoned field whose byte `i` is the first that is invalid (R155). -/
theorem dldxUnit_invalid {i : Nat} (hf0 : d.fmt ≠ 0) (hf5 : d.fmt ≤ 5) (hx : xUnit d a = n) (hpc : pieces a n = [(a, n)])
    (hpl : place s t (dataCtx s t) .unitLoad a n = .ok xl s1) (hb : (s1.tile t).sbuf = [])
    (ht : xl.ty = .normal ∨ xl.ty = .brick) (hp : s1.poisoned xl.pa n = false) (hi : i < n) :
    let z (i : Nat) := Says.zByte d.fmt (!d.prog && decide (i = 0)) (decide (i + 1 = d.len)) ((s1.bytes xl.pa n).getD i 0).toNat
    z i = none → (∀ j, j < i → (z j).isSome = true) →
      dldxUnit t r ga gb d a s = .exc (decData a (0x80 + i) i) s1 := by
  intro z bad good
  rw [dldxUnit, hx, unitRead_one (by omega) hpc hpl hb ht hp, R.bind]
  dsimp only
  rw [xScan_invalid (k := i) (by rwa [State.bytes_length]) (by rwa [scanAt_eq_zByte hf0 hf5])
    (by rwa [scanAt_eq_zByte hf0 hf5]), Nat.zero_add]

/-- A unit of a character or zoned field, written to memory that no write set holds. -/
theorem dstxUnit_stores (hf0 : d.fmt ≠ 0) (hf5 : d.fmt ≤ 5) (hx : xUnit d a = n) (hn : n ≠ 0) (hpc : pieces a n = [(a, n)])
    (hpl : place s t (dataCtx s t) .unitStore a n = .ok xl s1) (hb : (s1.tile t).sbuf = [])
    (ht : xl.ty = .normal ∨ (xl.ty = .brick ∧ (s1.tile t).tk = none)) (hpa : plainPa s1 xl.pa = true) (hw : (s1.tile t).g gb = w) :
    let v := decVal ((s1.tile t).d r)
    let lim := 10 ^ (if d.fmt ≤ 4 ∧ 2 ≤ d.fmt then d.len - 1 else d.len)
    let big := d.prog = false ∧ (lim ≤ v.mag ∨ (d.fmt = 1 ∧ v.mag ≠ 0 ∧ v.neg = true))
    let m := if d.prog then v.mag else v.mag % lim
    let neg := v.neg && ((s1.tile t).keepz || decide (m ≠ 0))
    let left := d.len - n
    ¬ big ∨ (s1.tile t).dovt = false →
      dstxUnit t r ga gb d a s = .ok (xFlow gb left)
        ((s1.modTile t (fun y => xAfter ga gb w n left false (y.noted dDOVF (decide big)))).plainStore
          (entryOf xl ((List.range n).map (fun i => Says.zPut d.fmt (!d.prog && decide (i = 0)) neg v.mag (d.len - i))))) := by
  intro v lim big m neg left hov
  rw [dstxUnit, hx, unitPlace_one hn hpc hpl, R.bind]
  have hlim : 10 ^ (if d.signed then d.len - 1 else d.len) = lim := by
    simp only [lim, XDesc.signed, decide_eq_true_eq, and_comm]
  have hbig : (!d.prog && (decide (lim ≤ v.mag) || (decide (d.fmt = 1 ∧ v.mag ≠ 0) && v.neg))) = decide big := by
    rw [Bool.eq_iff_iff]
    simp [big, and_assoc]
  have hno : ¬ (decide big && (s1.tile t).dovt) = true := by simpa [or_iff_not_imp_left] using hov
  simp only [hlim, xPutByte_eq hf0 hf5]
  show decOver t (!d.prog && (decide (lim ≤ v.mag) || (decide (d.fmt = 1 ∧ v.mag ≠ 0) && v.neg))) 0 _ s1 = _
  rw [hbig, decOver_eq, if_neg hno, unitWrite_plain (by simp) hb ht hpa, State.modTile, State.modTile,
    xAdvance_eq (by rw [Tile.g_noted, hw])]

end

/-! ## DLDX and DSTX -/

theorem exec_dldx (t : TileId) (g : Guard) (r : BitVec 4) (ga gb : BitVec 5) (s : State) :
    ∃ body, exec (.dldx t g r ga gb) s = .next (tileOp s t { g := g, long := true } body) ∧
      ∀ s0 : State, body s0 = dldxBody t r ga gb s0 := ⟨_, rfl, fun _ => rfl⟩

theorem exec_dstx (t : TileId) (g : Guard) (r : BitVec 4) (ga gb : BitVec 5) (s : State) :
    ∃ body, exec (.dstx t g r ga gb) s = .next (tileOp s t { g := g, long := true } body) ∧
      ∀ s0 : State, body s0 = dstxBody t r ga gb s0 := ⟨_, rfl, fun _ => rfl⟩

theorem flowTile_xFlow (l : Level) (pc : Word) (gb : BitVec 5) (left : Nat) (y : Tile) :
    flowTile l pc (xFlow gb left) y =
      if left = 0 then y.stepped l (pc + 4) else { y with long := some gb, units := y.units + 1 } := by
  rw [xFlow]
  split <;> rfl

theorem xFlow_ends (gb : BitVec 5) (left : Nat) :
    xFlow gb left = .next ∨ xFlow gb left = .last ∨ ∃ r, xFlow gb left = .unit r := by
  rw [xFlow]
  split
  · exact .inr (.inl rfl)
  · exact .inr (.inr ⟨gb, rfl⟩)

section
variable {s s1 : State} {t : TileId} {g : Guard} {gb : BitVec 5} {left : Nat} {x y : Tile} {body : State → R Flow}
  (h : Runs s t) (hg : (s.tile t).guard g = true) (k : Translates t (s.ran t x) s1)
include h hg k

/-- A unit that changes its tile. -/
theorem unit_only (hb : body (s.ran t (s.tile t).completeLrs) = .ok (xFlow gb left) (s1.setTile t y)) :
    TileOnly s1 (tileOp s t { g := g, long := true } body) t
      (flowTile (s.tile t).lvl (s.tile t).pc (xFlow gb left) y) := by
  rw [tileOp_longEnds h hg, hb]
  exact opEnds_only rfl rfl (xFlow_ends ..) (k.not_replaying h)

/-- A unit that stores bytes to memory and changes its tile. -/
theorem unit_stored {e : StoreEntry}
    (hb : body (s.ran t (s.tile t).completeLrs) = .ok (xFlow gb left) ((s1.setTile t y).plainStore e)) :
    TileStores s1 (tileOp s t { g := g, long := true } body) t
      (flowTile (s.tile t).lvl (s.tile t).pc (xFlow gb left) y) e.pa e.bytes := by
  rw [tileOp_longEnds h hg, hb]
  exact opEnds_stored rfl rfl (xFlow_ends ..) (k.not_replaying h)

end

/-- Settles O31: a packed field by `xPacked_load` and `xPacked_store`, a unit of any other format by `dldxUnit_valid`,
`dldxUnit_invalid` and `dstxUnit_stores`. -/
theorem zonedFieldUnits : Obligations.ZonedFieldUnits := by
  intro t g r ga gb s s1 xl h hg hs x s0 d a n left hinv hbr hpc after done keep ovf free y
  obtain ⟨hf5, hlen, hpack⟩ := XDesc.valid hinv
  have hxs : x.sbuf = [] := (Tile.completeLrs_sbuf _).trans hs
  have hn : n ≠ 0 := by
    simp only [n]
    split <;> omega
  have n_packed (hf : d.fmt = 0) : n = d.len := if_pos hf
  have n_unit (hf : d.fmt ≠ 0) : xUnit d a = n := (if_neg hf).symm
  have hdone (z : Tile) : flowTile (s.tile t).lvl (s.tile t).pc (xFlow gb left) z = done z := by
    rw [flowTile_xFlow, ← Tile.completeLrs_lvl, ← Tile.completeLrs_pc]
  have clean {k : Acc} (hpl : place s0 t (dataCtx s0 t) k a n = .ok xl s1) :
      Translates t s0 s1 ∧ y.sbuf = [] ∧ y.keepz = x.keepz ∧ y.dovt = x.dovt ∧ y.d r = x.d r ∧ y.g gb = x.g gb ∧
        y.tk = x.tk := by
    have k := Translates.place hpl
    have hx : s0.tile t = x.begun gb := State.tile_ran_self ..
    refine ⟨k, ?_, ?_, ?_, ?_, ?_, ?_⟩
    · rw [k.sbuf, hx, Tile.begun_sbuf, hxs]
    · rw [k.keepz, hx, Tile.keepz, Tile.begun_cur, Tile.keepz]
    · rw [k.dovt, hx, Tile.dovt, Tile.begun_cur, Tile.dovt]
    · rw [k.d, hx, Tile.d, Tile.begun_cur, Tile.d]
    · rw [k.g, hx, Tile.g, Tile.begun_cur, Tile.g]
    · rw [k.tk, hx, Tile.begun_tk]
  constructor
  · intro hpl ht hp bs v
    obtain ⟨k, hb, hz, hd, hr, hw, -⟩ := clean hpl
    obtain ⟨body, he, hbody⟩ := exec_dldx t g r ga gb s
    have e := (hbody (s.ran t x)).trans (xStart_valid hxs hinv (fun slot off e => hbr slot off e false))
    constructor
    · intro hf good
      refine ⟨_, he, ?_⟩
      have u := xPacked_load (r := r) (ga := ga) hn ((n_packed hf).trans_le (hpack hf).2) hpc hpl hb ht hp hw
        (n_packed hf).symm good
      rw [← hdone]
      rw [hz] at u
      exact unit_only h hg k (e.trans ((if_pos hf).trans u))
    intro z zs
    constructor
    · intro hf good m neg w hov
      refine ⟨_, he, ?_⟩
      have u := dldxUnit_valid (r := r) (ga := ga) hf hf5 (n_unit hf) hn hpc hpl hb ht hp hw good
      rw [hr, hz, hd] at u
      rw [← hdone]
      exact unit_only h hg k (e.trans ((if_neg hf).trans (u (hov.imp_left (fun q => decide_eq_false (Nat.not_le.2 q))))))
    · intro hf h1 i hi bad good
      refine ⟨decData a (0x80 + i) i, rfl, rfl, rfl, ?_⟩
      have u := dldxUnit_invalid (r := r) (ga := ga) (gb := gb) hf hf5 (n_unit hf) hpc hpl hb ht hp hi bad good
      have q := opEnds_exc (s := s) (l := (s.tile t).lvl) (pc := (s.tile t).pc) (i := { g := g, long := true })
        (e := decData a (0x80 + i) i) (s1.tile t) h1
      rw [State.setTile_self] at q
      rw [he, tileOp_longEnds h hg, e.trans ((if_neg hf).trans u), q]
  · intro hpl ht hpa v lim big hov m
    obtain ⟨k, hb, hz, hd, hr, hw, hk⟩ := clean hpl
    obtain ⟨body, he, hbody⟩ := exec_dstx t g r ga gb s
    have e := (hbody (s.ran t x)).trans (xStart_valid hxs hinv (fun slot off e => hbr slot off e true))
    refine ⟨_, he, ?_⟩
    rw [← hdone]
    by_cases hf : d.fmt = 0
    · have u := xPacked_store (r := r) (ga := ga) hn hpc hpl hb (by rwa [hk]) hpa hw (n_packed hf).symm
      rw [hr, hz, hd] at u
      have hlim : lim = 10 ^ (2 * n - 1) := by simp only [lim, if_pos hf, n_packed hf]
      have hbig : decide (10 ^ (2 * n - 1) ≤ v.mag) = decide big := by simp [big, hlim, (hpack hf).1, hf]
      have hm : v.mag % 10 ^ (2 * n - 1) = m := by simp [m, hlim, (hpack hf).1]
      rw [if_pos hf, ← hbig, ← hm]
      exact unit_stored h hg k (e.trans ((if_pos hf).trans (u (hov.imp_left fun q => hbig.trans (decide_eq_false q)))))
    · have u := dstxUnit_stores (r := r) (ga := ga) hf hf5 (n_unit hf) hn hpc hpl hb (by rwa [hk]) hpa hw
      rw [hr, hz, hd] at u
      have hlim : 10 ^ (if d.fmt ≤ 4 ∧ 2 ≤ d.fmt then d.len - 1 else d.len) = lim := by simp only [lim, if_neg hf]
      rw [if_neg hf]
      rw [hlim] at u
      exact unit_stored h hg k (e.trans ((if_neg hf).trans (u hov)))

end Sys2Proof.Machine
end
